-- ==== Sys2Proof/Word.lean ====
section
/-!
DEFINITION. The words of the BDX9100 and the one shape in which the model keeps sparse data: a list of key and value
pairs with rising keys. Everything is little-endian (R5).
-/

namespace Sys2Proof

/-- A byte (R5). -/
abbrev Byte := BitVec 8

/-- A 32-bit word: an instruction unit, a token, a lane (R7). -/
abbrev U32 := BitVec 32

/-- A 64-bit word: a scalar register, an address, most CSRs. -/
abbrev U64 := BitVec 64

/-- Sparse data by key, with rising keys. -/
abbrev Store (α : Type) := List (Nat × α)

/-- Which of `n` bits of `x` at `lo` stand there, as a number (R5: x[lo+n-1:lo]). -/
abbrev bitsAt (x lo n : Nat) : Nat := x / 2 ^ lo % 2 ^ n

end Sys2Proof
end

