-- ==== Sys2Proof/Machine/Store.lean ====
section
/-!
DEFINITION. Sparse tables in one canonical form (rising keys, no entry equal to what an unlisted key reads as), byte
memories as such tables, and little-endian bytes (R5).
-/

namespace Sys2Proof

/-- The value at key `k`; `dflt` where nothing is listed. -/
def Store.get (dflt : α) : Store α → Nat → α
  | [], _ => dflt
  | (k', v) :: m, k => if k' = k then v else Store.get dflt m k

/-- The value listed at key `k`. -/
def Store.find : Store α → Nat → Option α
  | [], _ => none
  | (k', v) :: m, k => if k' = k then some v else Store.find m k

/-- No entry at key `k`. -/
def Store.erase : Store α → Nat → Store α
  | [], _ => []
  | (k', v) :: m, k => if k' = k then Store.erase m k else (k', v) :: Store.erase m k

/-- An entry placed before the first larger key. -/
def Store.place : Store α → Nat → α → Store α
  | [], k, v => [(k, v)]
  | (k', v') :: m, k, v => if k < k' then (k, v) :: (k', v') :: m else (k', v') :: Store.place m k v

/-- The entry at `k` replaced or added. -/
def Store.put (m : Store α) (k : Nat) (v : α) : Store α := (m.erase k).place k v

/-- The value at `k` set, where an unlisted key reads as `dflt`. -/
def Store.set [DecidableEq α] (dflt : α) (m : Store α) (k : Nat) (v : α) : Store α :=
  if v = dflt then m.erase k else m.put k v

/-- Every key of `m` is above `k`. -/
def Store.above (k : Nat) (m : Store α) : Bool := m.all (fun e => k < e.1)

/-- The canonical form: keys rise strictly, and no entry equals `dflt`. -/
def Store.wf [DecidableEq α] (dflt : α) : Store α → Bool
  | [] => true
  | (k, v) :: m => Store.above k m && decide (v ≠ dflt) && Store.wf dflt m

/-- A byte memory; an unlisted byte reads zero (notes/assumptions 1). -/
abbrev Memory := List Host.Cell

/-- The byte at address `a`. -/
def Memory.byte (m : Memory) (a : Nat) : Byte := Store.get 0 m a

/-- The byte at `a` written. -/
def Memory.setByte (m : Memory) (a : Nat) (b : Byte) : Memory := Store.set 0 m a b

/-- The canonical form of a byte memory. -/
def Memory.wf (m : Memory) : Bool := Store.wf (0 : Byte) m

/-- `n` bytes from address `a` upward. -/
def Memory.bytes (m : Memory) (a : Nat) : Nat → List Byte
  | 0 => []
  | n + 1 => Memory.byte m a :: Memory.bytes m (a + 1) n

/-- Bytes written from address `a` upward. -/
def Memory.setBytes (m : Memory) (a : Nat) : List Byte → Memory
  | [] => m
  | b :: bs => Memory.setBytes (Memory.setByte m a b) (a + 1) bs

/-- The number that bytes make, the first the lowest (R5). -/
def leNat : List Byte → Nat
  | [] => 0
  | b :: bs => b.toNat + 256 * leNat bs

/-- The low `n` bytes of a number, the lowest first (R5). -/
def leBytes : Nat → Nat → List Byte
  | 0, _ => []
  | n + 1, v => BitVec.ofNat 8 v :: leBytes n (v / 256)

/-- The number that `n` bytes at `a` make. -/
def Memory.num (m : Memory) (a n : Nat) : Nat := leNat (Memory.bytes m a n)

/-- Bit `i` of a number. -/
def bit (v i : Nat) : Nat := bitsAt v i 1

/-- An `n`-bit number read as two's complement. -/
def signed (n v : Nat) : Int := if v % 2 ^ n < 2 ^ (n - 1) then (v % 2 ^ n : Nat) else ((v % 2 ^ n : Nat) : Int) - (2 ^ n : Nat)

/-- The low `n` bits of an integer, as a number. -/
def wrapTo (n : Nat) (v : Int) : Nat := (v % (2 ^ n : Nat)).toNat

end Sys2Proof
end

