-- ==== Sys2Proof/Syntax.lean ====
section
/-!
DEFINITION. The syntax of the BDX9100's instruction set: one constructor of `Instr` per row of the opcode table. They
are the S-format words (R24), the V-format, M-format and engine words (R25, R26, R28), and
the part's indivisible steps (95), whose arguments say which tile, core, FIFO, context or value they concern. Register
and code fields hold the field's bits as the word carries them; what a field's value may be is checked by
`Sys2Proof.legal` and by the meanings.
-/

namespace Sys2Proof

/-- The three cores of a tile (R15). -/
inductive CoreId
  | L
  | X
  | S
  deriving DecidableEq, Repr

/-- The two command FIFOs of a tile: the L-core's and the S-core's (R188). -/
inductive Fifo
  | load
  | store
  deriving DecidableEq, Repr

/-- Where an uncorrectable error stands (R378). -/
inductive ErrPlace
  /-- Tile SRAM of tile `g`; `bad` lists the accumulators of other owners that hold an uncorrectable word. -/
  | tileSram (g : Nat) (bad : List Nat)
  /-- A clean line of a die cache. -/
  | cacheClean (die : Nat)
  /-- Modified lines of a die cache, with the physical sectors of HBM or the lines of host memory that they covered. -/
  | cacheModified (die : Nat) (sectors hostLines : List Nat)
  /-- The shadow pool entry of the saved task `uid`. -/
  | shadowEntry (uid : Nat)
  /-- HBM, met by the global word that core `c` of tile `g` has in flight. -/
  | hbmWord (g : Nat) (c : CoreId) (stack frame : Nat)
  /-- HBM, met by the command at the head of FIFO `f` of tile `g`. -/
  | hbmCommand (g : Nat) (f : Fifo) (stack frame : Nat)
  /-- The HBM frame, or an accumulator image, of the saved task `uid`. -/
  | savedFrame (uid : Nat)
  /-- A physical HBM sector, found by the patrol scrub. -/
  | hbmScrub (sector : Nat)
  deriving DecidableEq, Repr

/-- Where an access of the host begins (R348 to R351, R265): physical HBM at an offset of the HDM range; the host's own memory,
at a physical address of it; a device register through BAR0. `refuse` is the host's answering lines of its memory with an
error or poison from then on, or no more (R350). -/
inductive HostPlace
  | hdm (h : Nat)
  | own (h : Nat)
  | bar0 (h : Nat)
  | refuse (h : Nat)
  deriving DecidableEq, Repr

/-- What the self-test of a bring-up finds faulty (R387): tiles, and unused spares (die and index). -/
structure SelfTest where
  tiles  : List Nat
  spares : List (Nat × Nat)
  deriving DecidableEq, Repr

/-- What fails in the training stages of a bring-up (R387): dies whose HBM training fails, ports left down (0 to 127 Ustik Link,
128 and 129 Ethernet, 130 CXL). -/
structure Training where
  dies  : List Nat
  ports : List Nat
  deriving DecidableEq, Repr

/-- What the stages of a bring-up find (R387). -/
structure BringUp extends SelfTest, Training where
  deriving DecidableEq, Repr

/-- What a patrol scrub read checks (R376), and whether it corrected an error there (R377). -/
inductive ScrubPlace
  | tile (g : Nat) (corrected : Bool)
  | dieCache (die : Nat) (corrected : Bool)
  | stack (n : Nat) (corrected passEnd : Bool)
  deriving DecidableEq, Repr

/-- The head fields of a V-format word, its stamp and its literals (R25, R27). -/
structure VHead where
  etype  : BitVec 4
  rnd    : BitVec 3
  sat    : BitVec 1
  nowb   : BitVec 1
  mask   : BitVec 3
  capN   : BitVec 3
  capEn  : BitVec 1
  x3     : BitVec 3
  stamp  : Option (BitVec 30)
  lits   : List U32
  deriving DecidableEq, Repr

/-- A vector word: head and the three 20-bit operand fields (R25, R33). -/
structure VWord where
  h : VHead
  d : BitVec 20
  a : BitVec 20
  b : BitVec 20
  deriving DecidableEq, Repr

/-- An engine word: head and the E-overlay (R26). -/
structure EWord where
  h        : VHead
  ed       : BitVec 5
  es       : BitVec 5
  eh       : BitVec 5
  eb       : BitVec 5
  inc      : BitVec 10
  cvtType  : BitVec 4
  cvtRnd   : BitVec 3
  cvtSat   : BitVec 1
  had      : BitVec 2
  donePort : BitVec 3
  doneEn   : BitVec 1
  xpEn     : BitVec 1
  xp       : BitVec 2
  twin     : BitVec 1
  count    : BitVec 12
  deriving DecidableEq, Repr

/-- A matrix word: the fields of the first three units, and the 30 bits below the class of units 4 to 6 (R28). -/
structure MWord where
  tA : BitVec 4
  tB : BitVec 4
  tC : BitVec 2
  acc : BitVec 6
  init : BitVec 2
  ksteps : BitVec 4
  ringA : BitVec 3
  popA : BitVec 1
  trA : BitVec 1
  scA : BitVec 2
  ringB : BitVec 3
  popB : BitVec 1
  trB : BitVec 1
  scB : BitVec 2
  neg : BitVec 1
  spec : BitVec 1
  dport : BitVec 3
  den : BitVec 1
  sv : BitVec 1
  resv : BitVec 9
  stamp : BitVec 30
  p4 : BitVec 30
  p5 : BitVec 30
  p6 : BitVec 30
  deriving DecidableEq, Repr

/-- One constructor per row of the opcode table: words with operands, the steps that the part queues of itself, the others,
and last what has no operands (compiled code can build only the first 245 constructors with arguments). -/
inductive Instr
  | add (d : BitVec 5) (a : BitVec 5) (b : BitVec 5)
  | sub (d : BitVec 5) (a : BitVec 5) (b : BitVec 5)
  | and (d : BitVec 5) (a : BitVec 5) (b : BitVec 5)
  | or (d : BitVec 5) (a : BitVec 5) (b : BitVec 5)
  | xor (d : BitVec 5) (a : BitVec 5) (b : BitVec 5)
  | andn (d : BitVec 5) (a : BitVec 5) (b : BitVec 5)
  | orn (d : BitVec 5) (a : BitVec 5) (b : BitVec 5)
  | xnor (d : BitVec 5) (a : BitVec 5) (b : BitVec 5)
  | shl (d : BitVec 5) (a : BitVec 5) (b : BitVec 5)
  | shr (d : BitVec 5) (a : BitVec 5) (b : BitVec 5)
  | sra (d : BitVec 5) (a : BitVec 5) (b : BitVec 5)
  | rotr (d : BitVec 5) (a : BitVec 5) (b : BitVec 5)
  | rotl (d : BitVec 5) (a : BitVec 5) (b : BitVec 5)
  | mul (d : BitVec 5) (a : BitVec 5) (b : BitVec 5)
  | mulh (d : BitVec 5) (a : BitVec 5) (b : BitVec 5)
  | mulhu (d : BitVec 5) (a : BitVec 5) (b : BitVec 5)
  | div (d : BitVec 5) (a : BitVec 5) (b : BitVec 5)
  | divu (d : BitVec 5) (a : BitVec 5) (b : BitVec 5)
  | rem (d : BitVec 5) (a : BitVec 5) (b : BitVec 5)
  | remu (d : BitVec 5) (a : BitVec 5) (b : BitVec 5)
  | min (d : BitVec 5) (a : BitVec 5) (b : BitVec 5)
  | max (d : BitVec 5) (a : BitVec 5) (b : BitVec 5)
  | minu (d : BitVec 5) (a : BitVec 5) (b : BitVec 5)
  | maxu (d : BitVec 5) (a : BitVec 5) (b : BitVec 5)
  | slt (d : BitVec 5) (a : BitVec 5) (b : BitVec 5)
  | sltu (d : BitVec 5) (a : BitVec 5) (b : BitVec 5)
  | seq (d : BitVec 5) (a : BitVec 5) (b : BitVec 5)
  | sne (d : BitVec 5) (a : BitVec 5) (b : BitVec 5)
  | clz (d : BitVec 5) (a : BitVec 5)
  | ctz (d : BitVec 5) (a : BitVec 5)
  | popc (d : BitVec 5) (a : BitVec 5)
  | brev (d : BitVec 5) (a : BitVec 5)
  | sextb (d : BitVec 5) (a : BitVec 5)
  | sexth (d : BitVec 5) (a : BitVec 5)
  | sextw (d : BitVec 5) (a : BitVec 5)
  | addw (d : BitVec 5) (a : BitVec 5) (b : BitVec 5)
  | subw (d : BitVec 5) (a : BitVec 5) (b : BitVec 5)
  | sel (d : BitVec 5) (a : BitVec 5) (b : BitVec 5)
  | addi (d : BitVec 5) (a : BitVec 5) (i : BitVec 14)
  | andi (d : BitVec 5) (a : BitVec 5) (i : BitVec 14)
  | ori (d : BitVec 5) (a : BitVec 5) (i : BitVec 14)
  | xori (d : BitVec 5) (a : BitVec 5) (i : BitVec 14)
  | shli (d : BitVec 5) (a : BitVec 5) (k : BitVec 6)
  | shri (d : BitVec 5) (a : BitVec 5) (k : BitVec 6)
  | srai (d : BitVec 5) (a : BitVec 5) (k : BitVec 6)
  | slti (d : BitVec 5) (a : BitVec 5) (i : BitVec 14)
  | sltui (d : BitVec 5) (a : BitVec 5) (i : BitVec 14)
  | muli (d : BitVec 5) (a : BitVec 5) (i : BitVec 14)
  | lih (d : BitVec 5) (i : BitVec 19)
  | extr (d : BitVec 5) (a : BitVec 5) (l : BitVec 6) (p : BitVec 6)
  | extru (d : BitVec 5) (a : BitVec 5) (l : BitVec 6) (p : BitVec 6)
  | insr (d : BitVec 5) (a : BitVec 5) (l : BitVec 6) (p : BitVec 6)
  | br (a : BitVec 5) (b : BitVec 5) (c : BitVec 3) (o : BitVec 11)
  | loop (a : BitVec 5) (o : BitVec 11)
  | j (o : BitVec 24)
  | call (o : BitVec 24)
  | jr (a : BitVec 5) (i : BitVec 14)
  | callr (a : BitVec 5) (i : BitVec 14)
  | ldsB (d : BitVec 5) (a : BitVec 5) (i : BitVec 14)
  | ldsBu (d : BitVec 5) (a : BitVec 5) (i : BitVec 14)
  | ldsH (d : BitVec 5) (a : BitVec 5) (i : BitVec 14)
  | ldsHu (d : BitVec 5) (a : BitVec 5) (i : BitVec 14)
  | ldsW (d : BitVec 5) (a : BitVec 5) (i : BitVec 14)
  | ldsWu (d : BitVec 5) (a : BitVec 5) (i : BitVec 14)
  | ldsD (d : BitVec 5) (a : BitVec 5) (i : BitVec 14)
  | stsB (d : BitVec 5) (a : BitVec 5) (i : BitVec 14)
  | stsH (d : BitVec 5) (a : BitVec 5) (i : BitVec 14)
  | stsW (d : BitVec 5) (a : BitVec 5) (i : BitVec 14)
  | stsD (d : BitVec 5) (a : BitVec 5) (i : BitVec 14)
  | ldgW (d : BitVec 5) (a : BitVec 5) (i : BitVec 14)
  | ldgWu (d : BitVec 5) (a : BitVec 5) (i : BitVec 14)
  | ldgD (d : BitVec 5) (a : BitVec 5) (i : BitVec 14)
  | stgW (d : BitVec 5) (a : BitVec 5) (i : BitVec 14)
  | stgD (d : BitVec 5) (a : BitVec 5) (i : BitVec 14)
  | csrrd (d : BitVec 5) (c : BitVec 14)
  | csrwr (d : BitVec 5) (a : BitVec 5) (c : BitVec 14)
  | csrset (d : BitVec 5) (a : BitVec 5) (c : BitVec 14)
  | csrclr (d : BitVec 5) (a : BitVec 5) (c : BitVec 14)
  | qpop (d : BitVec 5) (y : BitVec 1) (k : BitVec 2) (t : BitVec 4)
  | qpush (a : BitVec 5) (r : BitVec 1) (k : BitVec 2) (t : BitVec 4)
  | qpeek (d : BitVec 5) (k : BitVec 2)
  | qcnt (d : BitVec 5) (o : BitVec 1) (k : BitVec 2)
  | fork (d : BitVec 5) (a : BitVec 5) (e : BitVec 2)
  | waitb (d : BitVec 5) (a : BitVec 5) (i : BitVec 14)
  | arrive (a : BitVec 5) (n : BitVec 14)
  | barinit (d : BitVec 5) (a : BitVec 5)
  | join (d : BitVec 5) (g : BitVec 4)
  | leave (d : BitVec 5) (g : BitVec 4)
  | gbar (g : BitVec 4)
  | putf (d : BitVec 5) (a : BitVec 5) (i : BitVec 14)
  | getf (d : BitVec 5) (a : BitVec 5) (i : BitVec 14)
  | ringset (a : BitVec 5) (n : BitVec 3)
  | ringopTail (d : BitVec 5) (n : BitVec 3)
  | ringopFill (n : BitVec 3)
  | ringopHead (d : BitVec 5) (n : BitVec 3)
  | ringopFree (n : BitVec 3)
  | ringopCount (d : BitVec 5) (n : BitVec 3)
  | ringopReset (n : BitVec 3)
  | illegal (d : BitVec 5) (a : BitVec 5) (b : BitVec 5)
  | trap (a : BitVec 5)
  | exit (a : BitVec 5)
  | fence (k : BitVec 2) (s : BitVec 2)
  | mark (n : BitVec 5)
  | sstep (a : BitVec 5)
  | frame (a : BitVec 5)
  | waitt (a : BitVec 5)
  | waitd (a : BitVec 5)
  | abortg (a : BitVec 5)
  | launch (d : BitVec 5) (a : BitVec 5)
  | vmov (w : VWord)
  | vadd (w : VWord)
  | vsub (w : VWord)
  | vmul (w : VWord)
  | vfma (w : VWord)
  | vfms (w : VWord)
  | vfnma (w : VWord)
  | vmin (w : VWord)
  | vmax (w : VWord)
  | vabs (w : VWord)
  | vneg (w : VWord)
  | vrcp (w : VWord)
  | vrsq (w : VWord)
  | vsqrt (w : VWord)
  | vdiv (w : VWord)
  | vfexp2 (w : VWord)
  | vflog2 (w : VWord)
  | vrndi (w : VWord)
  | vscalb (w : VWord)
  | vgetexp (w : VWord)
  | vgetmant (w : VWord)
  | vclass (w : VWord)
  | vcmp (w : VWord)
  | vsel (w : VWord)
  | vmaskop (w : VWord)
  | viadd (w : VWord)
  | visub (w : VWord)
  | vimul (w : VWord)
  | vimin (w : VWord)
  | vimax (w : VWord)
  | vand (w : VWord)
  | vor (w : VWord)
  | vxor (w : VWord)
  | vshl (w : VWord)
  | vshr (w : VWord)
  | vsra (w : VWord)
  | viminu (w : VWord)
  | vimaxu (w : VWord)
  | vcmul (w : VWord)
  | vcmac (w : VWord)
  | vradd (w : VWord)
  | vrmax (w : VWord)
  | vrmin (w : VWord)
  | vramax (w : VWord)
  | vscan (w : VWord)
  | vlfsrRead (w : VWord)
  | vlfsrWrite (w : VWord)
  | vlfsrAdvance (w : VWord)
  | vlfsrReseed (w : VWord)
  | vcvt (w : VWord)
  | vamaxb (w : VWord)
  | vqnt (w : VWord)
  | vdqnt (w : VWord)
  | vlqdec (w : VWord)
  | vhad (w : VWord)
  | vpack (w : VWord)
  | vunpk (w : VWord)
  | vperm (w : VWord)
  | vshuf (w : VWord)
  | vslide (w : VWord)
  | vbcast (w : VWord)
  | vgath (w : VWord)
  | vscat (w : VWord)
  | vcomp (w : VWord)
  | vexpd (w : VWord)
  | vtos (w : VWord)
  | cbldConst (w : VWord)
  | cbldCodebook (w : VWord)
  | mma (w : MWord)
  | mmaq (w : MWord)
  | mmal (w : MWord)
  | mmas (w : MWord)
  | mzero (w : MWord)
  | mlda (w : MWord)
  | msta (w : MWord)
  | mcopy (w : MWord)
  | mtrn (w : MWord)
  | mscal (w : MWord)
  | madd (w : MWord)
  | mred (w : MWord)
  | mspill (w : MWord)
  | mfill (w : MWord)
  | mownClaim (w : MWord)
  | mownRelease (w : MWord)
  | cpy (w : EWord)
  | cpyo (w : EWord)
  | cpyg (w : EWord)
  | cpys (w : EWord)
  | cpyr (w : EWord)
  | cpyq (w : EWord)
  | cpydq (w : EWord)
  | pref (w : EWord)
  | cflush (w : EWord)
  | xfft (w : EWord)
  | xifft (w : EWord)
  | xhad (w : EWord)
  | xexp (w : EWord)
  | xtrl (w : EWord)
  | sacc (w : EWord)
  | amo (w : EWord)
  | publ (w : EWord)
  | disc (w : EWord)
  | lxfer (w : EWord)
  | nxtx (w : EWord)
  | nxarm (w : EWord)
  | transformUnitWork (g : Nat) (f : Fifo)
  | wordCompletion (g : Nat) (c : CoreId)
  | globalAccessCompletion (g : Nat) (c : CoreId)
  | engineSectorPerformed (g : Nat) (f : Fifo)
  | engineCommandCompletion (g : Nat) (f : Fifo)
  | engineFault (g : Nat) (f : Fifo)
  | mWordCompletion (g : Nat)
  | accumulatorSpillEnd (g n : Nat)
  | accumulatorFillEnd (g n : Nat)
  | remoteScratchRequest (k : Nat)
  | frameOrigin (p : Nat)
  | groupBarrierRelease (p k : Nat)
  | groupAbortMarking (p k : Nat)
  | sstepRelease (p : Nat)
  | preemption (p : Nat)
  | quantumExpiry (g : Nat)
  | stopTaken (g : Nat) (c : CoreId)
  | coreHalt (g : Nat) (c : CoreId)
  | taskSave (g : Nat)
  | taskResumption (g k : Nat)
  | cardAcceptance (x : Nat)
  | dealRequest (g : Nat)
  | taskStart (g : Nat)
  | roundDeal (p : Nat)
  | roundOrigin (p : Nat)
  | dxuUpdateAck (x : Nat)
  | migrationComplete (x page : Nat)
  | twinSettlement (x grp : Nat)
  | ingestSlotFill (g n : Nat)
  | frameTransmit (port : Nat)
  | stampedIssue (g : Nat) (c : CoreId)
  | waitConditionMet (g : Nat) (c : CoreId)
  | barrierReread (g : Nat) (c : CoreId)
  | futureCellRetry (g : Nat) (c : CoreId)
  | closure (g : Nat)
  | timedWaitRelease (g : Nat) (c : CoreId)
  | sstepDeadline (g : Nat) (c : CoreId)
  | tailDoorbell (x : Nat) (v : U32)
  | appendDoorbell (x : Nat) (va : U64)
  | createContext (v : U64)
  | updateContext (v : U64)
  | destroyContext (v : U64)
  | definePartition (v : U64)
  | grant (v : U64)
  | revoke (v : U64)
  | partitionReset (v : U64)
  | saveTile (v : U64)
  | savePartition (v : U64)
  | dxuUpdate (x : Nat) (w : U64)
  | ptpcommit (v : U64)
  | shadow (n : Nat) (v : U64)
  | nqstat (v : U64)
  | htxtail (v : U64)
  | registerWrite (off : Nat) (v : U64)
  | hostMemoryAccess (place : HostPlace) (len : Nat) (wr : Option (List Byte))
  | peerWrite (port src tag a : Nat) (data : List Byte)
  | peerRead (port src tag a len : Nat)
  | peerReply (port tag kind : Nat) (data : List Byte)
  | linkReplay (port tag : Nat)
  | frameReceive (port : Nat) (fcsOk : Bool) (bytes : List Byte)
  | patrolScrub (p : ScrubPlace)
  | refresh (stack : Nat)
  | retraining (stack : Nat)
  | recalibration (lane : Nat)
  | uncorrectableError (p : ErrPlace)
  | thermalTrip (trip : Nat × BringUp)
  | packageReset (test : SelfTest) (train : Training)
  | controlFlit (port : Nat) (hdr : U64)
  | hubcmd (v : U64)
  | rendz
  | nop
  | eret
  | halt
  | brk
  | retire
  | abchk
  | datumTick
  | hubCommandDone
  | ptpTripleEffect
  | apportionerPeriod
  | telemetryWrite
  | monumentFlashComplete
  | powerLoss
  | hostAcknowledge
  deriving DecidableEq, Repr

end Sys2Proof
end

