-- ==== Sys2Proof/WellFormed.lean ====
section
/-!
DEFINITION. Which terms of the syntax stand for a word that the units can hold, or for a step of a place the part has.
-/

namespace Sys2Proof

/-- A head with at most two literals (R25, R22). -/
def VHead.wf (h : VHead) : Bool := decide (h.lits.length ≤ 2)

/-- The `mo` field of MOWN (R170). -/
def MWord.mo (w : MWord) : Nat := bitsAt w.p4.toNat 28 2

/-- A term that a word, or a step of the part, has. -/
def Instr.wf : Instr → Bool
  | .add _ _ _ => true
  | .sub _ _ _ => true
  | .and _ _ _ => true
  | .or _ _ _ => true
  | .xor _ _ _ => true
  | .andn _ _ _ => true
  | .orn _ _ _ => true
  | .xnor _ _ _ => true
  | .shl _ _ _ => true
  | .shr _ _ _ => true
  | .sra _ _ _ => true
  | .rotr _ _ _ => true
  | .rotl _ _ _ => true
  | .mul _ _ _ => true
  | .mulh _ _ _ => true
  | .mulhu _ _ _ => true
  | .div _ _ _ => true
  | .divu _ _ _ => true
  | .rem _ _ _ => true
  | .remu _ _ _ => true
  | .min _ _ _ => true
  | .max _ _ _ => true
  | .minu _ _ _ => true
  | .maxu _ _ _ => true
  | .slt _ _ _ => true
  | .sltu _ _ _ => true
  | .seq _ _ _ => true
  | .sne _ _ _ => true
  | .clz _ _ => true
  | .ctz _ _ => true
  | .popc _ _ => true
  | .brev _ _ => true
  | .sextb _ _ => true
  | .sexth _ _ => true
  | .sextw _ _ => true
  | .addw _ _ _ => true
  | .subw _ _ _ => true
  | .sel _ _ _ => true
  | .addi _ _ _ => true
  | .andi _ _ _ => true
  | .ori _ _ _ => true
  | .xori _ _ _ => true
  | .shli _ _ _ => true
  | .shri _ _ _ => true
  | .srai _ _ _ => true
  | .slti _ _ _ => true
  | .sltui _ _ _ => true
  | .muli _ _ _ => true
  | .lih _ _ => true
  | .extr _ _ _ _ => true
  | .extru _ _ _ _ => true
  | .insr _ _ _ _ => true
  | .br _ _ _ _ => true
  | .loop _ _ => true
  | .j _ => true
  | .call _ => true
  | .jr _ _ => true
  | .callr _ _ => true
  | .ldsB _ _ _ => true
  | .ldsBu _ _ _ => true
  | .ldsH _ _ _ => true
  | .ldsHu _ _ _ => true
  | .ldsW _ _ _ => true
  | .ldsWu _ _ _ => true
  | .ldsD _ _ _ => true
  | .stsB _ _ _ => true
  | .stsH _ _ _ => true
  | .stsW _ _ _ => true
  | .stsD _ _ _ => true
  | .ldgW _ _ _ => true
  | .ldgWu _ _ _ => true
  | .ldgD _ _ _ => true
  | .stgW _ _ _ => true
  | .stgD _ _ _ => true
  | .csrrd _ _ => true
  | .csrwr _ _ _ => true
  | .csrset _ _ _ => true
  | .csrclr _ _ _ => true
  | .qpop _ _ _ _ => true
  | .qpush _ _ _ _ => true
  | .qpeek _ _ => true
  | .qcnt _ _ _ => true
  | .fork _ _ _ => true
  | .rendz => true
  | .waitb _ _ _ => true
  | .arrive _ _ => true
  | .barinit _ _ => true
  | .join _ _ => true
  | .leave _ _ => true
  | .gbar _ => true
  | .putf _ _ _ => true
  | .getf _ _ _ => true
  | .ringset _ _ => true
  | .ringopTail _ _ => true
  | .ringopFill _ => true
  | .ringopHead _ _ => true
  | .ringopFree _ => true
  | .ringopCount _ _ => true
  | .ringopReset _ => true
  | .illegal _ _ _ => true
  | .nop => true
  | .trap _ => true
  | .eret => true
  | .halt => true
  | .exit _ => true
  | .fence _ _ => true
  | .mark _ => true
  | .brk => true
  | .retire => true
  | .sstep _ => true
  | .frame _ => true
  | .waitt _ => true
  | .waitd _ => true
  | .abortg _ => true
  | .abchk => true
  | .launch _ _ => true
  | .vmov w => w.h.wf
  | .vadd w => w.h.wf
  | .vsub w => w.h.wf
  | .vmul w => w.h.wf
  | .vfma w => w.h.wf
  | .vfms w => w.h.wf
  | .vfnma w => w.h.wf
  | .vmin w => w.h.wf
  | .vmax w => w.h.wf
  | .vabs w => w.h.wf
  | .vneg w => w.h.wf
  | .vrcp w => w.h.wf
  | .vrsq w => w.h.wf
  | .vsqrt w => w.h.wf
  | .vdiv w => w.h.wf
  | .vfexp2 w => w.h.wf
  | .vflog2 w => w.h.wf
  | .vrndi w => w.h.wf
  | .vscalb w => w.h.wf
  | .vgetexp w => w.h.wf
  | .vgetmant w => w.h.wf
  | .vclass w => w.h.wf
  | .vcmp w => w.h.wf
  | .vsel w => w.h.wf
  | .vmaskop w => w.h.wf
  | .viadd w => w.h.wf
  | .visub w => w.h.wf
  | .vimul w => w.h.wf
  | .vimin w => w.h.wf
  | .vimax w => w.h.wf
  | .vand w => w.h.wf
  | .vor w => w.h.wf
  | .vxor w => w.h.wf
  | .vshl w => w.h.wf
  | .vshr w => w.h.wf
  | .vsra w => w.h.wf
  | .viminu w => w.h.wf
  | .vimaxu w => w.h.wf
  | .vcmul w => w.h.wf
  | .vcmac w => w.h.wf
  | .vradd w => w.h.wf
  | .vrmax w => w.h.wf
  | .vrmin w => w.h.wf
  | .vramax w => w.h.wf
  | .vscan w => w.h.wf
  | .vlfsrRead w => w.h.wf && decide (w.h.x3.toNat = 0)
  | .vlfsrWrite w => w.h.wf && decide (w.h.x3.toNat = 1)
  | .vlfsrAdvance w => w.h.wf && decide (w.h.x3.toNat = 2)
  | .vlfsrReseed w => w.h.wf && decide (w.h.x3.toNat = 3)
  | .vcvt w => w.h.wf
  | .vamaxb w => w.h.wf
  | .vqnt w => w.h.wf
  | .vdqnt w => w.h.wf
  | .vlqdec w => w.h.wf
  | .vhad w => w.h.wf
  | .vpack w => w.h.wf
  | .vunpk w => w.h.wf
  | .vperm w => w.h.wf
  | .vshuf w => w.h.wf
  | .vslide w => w.h.wf
  | .vbcast w => w.h.wf
  | .vgath w => w.h.wf
  | .vscat w => w.h.wf
  | .vcomp w => w.h.wf
  | .vexpd w => w.h.wf
  | .vtos w => w.h.wf
  | .cbldConst w => w.h.wf && decide (w.h.x3.toNat = 0)
  | .cbldCodebook w => w.h.wf && decide (1 ≤ w.h.x3.toNat ∧ w.h.x3.toNat ≤ 4)
  | .mma _ => true
  | .mmaq _ => true
  | .mmal _ => true
  | .mmas _ => true
  | .mzero _ => true
  | .mlda _ => true
  | .msta _ => true
  | .mcopy _ => true
  | .mtrn _ => true
  | .mscal _ => true
  | .madd _ => true
  | .mred _ => true
  | .mspill _ => true
  | .mfill _ => true
  | .mownClaim w => decide (w.mo = 0)
  | .mownRelease w => decide (w.mo = 1)
  | .cpy w => w.h.wf
  | .cpyo w => w.h.wf
  | .cpyg w => w.h.wf
  | .cpys w => w.h.wf
  | .cpyr w => w.h.wf
  | .cpyq w => w.h.wf
  | .cpydq w => w.h.wf
  | .pref w => w.h.wf
  | .cflush w => w.h.wf
  | .xfft w => w.h.wf
  | .xifft w => w.h.wf
  | .xhad w => w.h.wf
  | .xexp w => w.h.wf
  | .xtrl w => w.h.wf
  | .sacc w => w.h.wf
  | .amo w => w.h.wf
  | .publ w => w.h.wf
  | .disc w => w.h.wf
  | .lxfer w => w.h.wf
  | .nxtx w => w.h.wf
  | .nxarm w => w.h.wf
  | .transformUnitWork g _ => decide (g < 640)
  | .stampedIssue g _ => decide (g < 640)
  | .waitConditionMet g _ => decide (g < 640)
  | .wordCompletion g _ => decide (g < 640)
  | .globalAccessCompletion g _ => decide (g < 640)
  | .engineSectorPerformed g _ => decide (g < 640)
  | .engineCommandCompletion g _ => decide (g < 640)
  | .engineFault g _ => decide (g < 640)
  | .mWordCompletion g => decide (g < 640)
  | .accumulatorSpillEnd g n => decide (g < 640) && decide (n < 48)
  | .accumulatorFillEnd g n => decide (g < 640) && decide (n < 48)
  | .remoteScratchRequest _ => true
  | .barrierReread g _ => decide (g < 640)
  | .futureCellRetry g _ => decide (g < 640)
  | .datumTick => true
  | .closure g => decide (g < 640)
  | .timedWaitRelease g _ => decide (g < 640)
  | .frameOrigin p => decide (p < 256)
  | .groupBarrierRelease p k => decide (p < 256) && decide (k < 16)
  | .groupAbortMarking p k => decide (p < 256) && decide (k < 16)
  | .sstepRelease p => decide (p < 256)
  | .sstepDeadline g _ => decide (g < 640)
  | .preemption p => decide (p < 256)
  | .quantumExpiry g => decide (g < 640)
  | .stopTaken g _ => decide (g < 640)
  | .coreHalt g _ => decide (g < 640)
  | .taskSave g => decide (g < 640)
  | .taskResumption g _ => decide (g < 640)
  | .tailDoorbell x _ => decide (x < 4096)
  | .appendDoorbell x _ => decide (x < 4096)
  | .cardAcceptance x => decide (x < 4096)
  | .dealRequest g => decide (g < 640)
  | .taskStart g => decide (g < 640)
  | .roundDeal p => decide (p < 256)
  | .roundOrigin p => decide (p < 256)
  | .createContext _ => true
  | .updateContext _ => true
  | .destroyContext _ => true
  | .definePartition _ => true
  | .grant _ => true
  | .revoke _ => true
  | .partitionReset _ => true
  | .saveTile _ => true
  | .savePartition _ => true
  | .hubCommandDone => true
  | .dxuUpdate x _ => decide (x < 4096)
  | .dxuUpdateAck x => decide (x < 4096)
  | .migrationComplete x _ => decide (x < 4096)
  | .twinSettlement x grp => decide (x < 4096) && decide (grp < 256)
  | .ptpcommit _ => true
  | .ptpTripleEffect => true
  | .shadow n _ => decide (n < 4)
  | .nqstat _ => true
  | .htxtail _ => true
  | .registerWrite _ _ => true
  | .hostMemoryAccess _ _ _ => true
  | .peerWrite port _ _ _ _ => decide (port < 128)
  | .peerRead port _ _ _ _ => decide (port < 128)
  | .peerReply port _ _ _ => decide (port < 128)
  | .linkReplay _ _ => true
  | .frameReceive port _ _ => decide (port < 2)
  | .ingestSlotFill g n => decide (g < 640) && decide (n < 512)
  | .frameTransmit port => decide (port < 2)
  | .apportionerPeriod => true
  | .telemetryWrite => true
  | .patrolScrub _ => true
  | .refresh stack => decide (stack < 16)
  | .retraining stack => decide (stack < 16)
  | .recalibration _ => true
  | .uncorrectableError _ => true
  | .monumentFlashComplete => true
  | .thermalTrip trip => decide (trip.1 < 4)
  | .powerLoss => true
  | .packageReset _ _ => true
  | .hostAcknowledge => true
  | .controlFlit port _ => decide (port < 128)
  | .hubcmd _ => true

end Sys2Proof
end

