-- ==== Sys2Proof/Decode.lean ====
section
/-!
DEFINITION. Decoding and encoding (R20 to R28, R44 to R57). `decode` reads a word's units; `encode` writes them from the
same tables. What R23 checks on a decoded word's fields at check 5 beyond its opcode is `legal`.
-/

namespace Sys2Proof

/-- The `n`-bit field of unit `u` at bit `lo`. -/
def fld (n u lo : Nat) : BitVec n := BitVec.ofNat n (u / 2 ^ lo)

/-- The SYS group (R47, R224). -/
def decodeSys (u : Nat) : Option Instr :=
  match bitsAt u 0 9 with
  | 0x000 => some (.illegal (fld 5 u 19) (fld 5 u 14) (fld 5 u 9))
  | 0x001 => if bitsAt u 9 15 = 0 then some (.nop) else none
  | 0x002 => if bitsAt u 9 5 = 0 ∧ bitsAt u 19 5 = 0 then some (.trap (fld 5 u 14)) else none
  | 0x003 => if bitsAt u 9 15 = 0 then some (.eret) else none
  | 0x004 => if bitsAt u 9 15 = 0 then some (.halt) else none
  | 0x005 => if bitsAt u 9 5 = 0 ∧ bitsAt u 19 5 = 0 then some (.exit (fld 5 u 14)) else none
  | 0x006 => if bitsAt u 9 5 = 0 ∧ bitsAt u 18 6 = 0 then some (.fence (fld 2 u 16) (fld 2 u 14)) else none
  | 0x007 => if bitsAt u 9 5 = 0 ∧ bitsAt u 19 5 = 0 then some (.mark (fld 5 u 14)) else none
  | 0x008 => if bitsAt u 9 15 = 0 then some (.brk) else none
  | 0x009 => if bitsAt u 9 15 = 0 then some (.retire) else none
  | 0x00a => if bitsAt u 9 5 = 0 ∧ bitsAt u 19 5 = 0 then some (.sstep (fld 5 u 14)) else none
  | 0x00b => if bitsAt u 9 5 = 0 ∧ bitsAt u 19 5 = 0 then some (.frame (fld 5 u 14)) else none
  | 0x00c => if bitsAt u 9 5 = 0 ∧ bitsAt u 19 5 = 0 then some (.waitt (fld 5 u 14)) else none
  | 0x00d => if bitsAt u 9 5 = 0 ∧ bitsAt u 19 5 = 0 then some (.waitd (fld 5 u 14)) else none
  | 0x00e => if bitsAt u 9 5 = 0 ∧ bitsAt u 19 5 = 0 then some (.abortg (fld 5 u 14)) else none
  | 0x00f => if bitsAt u 9 15 = 0 then some (.abchk) else none
  | 0x010 => if bitsAt u 9 5 = 0 then some (.launch (fld 5 u 19) (fld 5 u 14)) else none
  | _ => none

/-- The ALU-R group (R46, R105). -/
def decodeAlu (u : Nat) : Option Instr :=
  match bitsAt u 0 9 with
  | 0x000 => some (.add (fld 5 u 19) (fld 5 u 14) (fld 5 u 9))
  | 0x001 => some (.sub (fld 5 u 19) (fld 5 u 14) (fld 5 u 9))
  | 0x002 => some (.and (fld 5 u 19) (fld 5 u 14) (fld 5 u 9))
  | 0x003 => some (.or (fld 5 u 19) (fld 5 u 14) (fld 5 u 9))
  | 0x004 => some (.xor (fld 5 u 19) (fld 5 u 14) (fld 5 u 9))
  | 0x005 => some (.andn (fld 5 u 19) (fld 5 u 14) (fld 5 u 9))
  | 0x006 => some (.orn (fld 5 u 19) (fld 5 u 14) (fld 5 u 9))
  | 0x007 => some (.xnor (fld 5 u 19) (fld 5 u 14) (fld 5 u 9))
  | 0x008 => some (.shl (fld 5 u 19) (fld 5 u 14) (fld 5 u 9))
  | 0x009 => some (.shr (fld 5 u 19) (fld 5 u 14) (fld 5 u 9))
  | 0x00a => some (.sra (fld 5 u 19) (fld 5 u 14) (fld 5 u 9))
  | 0x00b => some (.rotr (fld 5 u 19) (fld 5 u 14) (fld 5 u 9))
  | 0x00c => some (.rotl (fld 5 u 19) (fld 5 u 14) (fld 5 u 9))
  | 0x00d => some (.mul (fld 5 u 19) (fld 5 u 14) (fld 5 u 9))
  | 0x00e => some (.mulh (fld 5 u 19) (fld 5 u 14) (fld 5 u 9))
  | 0x00f => some (.mulhu (fld 5 u 19) (fld 5 u 14) (fld 5 u 9))
  | 0x010 => some (.div (fld 5 u 19) (fld 5 u 14) (fld 5 u 9))
  | 0x011 => some (.divu (fld 5 u 19) (fld 5 u 14) (fld 5 u 9))
  | 0x012 => some (.rem (fld 5 u 19) (fld 5 u 14) (fld 5 u 9))
  | 0x013 => some (.remu (fld 5 u 19) (fld 5 u 14) (fld 5 u 9))
  | 0x014 => some (.min (fld 5 u 19) (fld 5 u 14) (fld 5 u 9))
  | 0x015 => some (.max (fld 5 u 19) (fld 5 u 14) (fld 5 u 9))
  | 0x016 => some (.minu (fld 5 u 19) (fld 5 u 14) (fld 5 u 9))
  | 0x017 => some (.maxu (fld 5 u 19) (fld 5 u 14) (fld 5 u 9))
  | 0x018 => some (.slt (fld 5 u 19) (fld 5 u 14) (fld 5 u 9))
  | 0x019 => some (.sltu (fld 5 u 19) (fld 5 u 14) (fld 5 u 9))
  | 0x01a => some (.seq (fld 5 u 19) (fld 5 u 14) (fld 5 u 9))
  | 0x01b => some (.sne (fld 5 u 19) (fld 5 u 14) (fld 5 u 9))
  | 0x01c => if bitsAt u 9 5 = 0 then some (.clz (fld 5 u 19) (fld 5 u 14)) else none
  | 0x01d => if bitsAt u 9 5 = 0 then some (.ctz (fld 5 u 19) (fld 5 u 14)) else none
  | 0x01e => if bitsAt u 9 5 = 0 then some (.popc (fld 5 u 19) (fld 5 u 14)) else none
  | 0x01f => if bitsAt u 9 5 = 0 then some (.brev (fld 5 u 19) (fld 5 u 14)) else none
  | 0x020 => if bitsAt u 9 5 = 0 then some (.sextb (fld 5 u 19) (fld 5 u 14)) else none
  | 0x021 => if bitsAt u 9 5 = 0 then some (.sexth (fld 5 u 19) (fld 5 u 14)) else none
  | 0x022 => if bitsAt u 9 5 = 0 then some (.sextw (fld 5 u 19) (fld 5 u 14)) else none
  | 0x023 => some (.addw (fld 5 u 19) (fld 5 u 14) (fld 5 u 9))
  | 0x024 => some (.subw (fld 5 u 19) (fld 5 u 14) (fld 5 u 9))
  | 0x025 => some (.sel (fld 5 u 19) (fld 5 u 14) (fld 5 u 9))
  | _ => none

/-- RINGOP's operations (R223). -/
def decodeRingop (u : Nat) : Option Instr :=
  match bitsAt u 0 4 with
  | 0x0 => if bitsAt u 7 12 = 0 then some (.ringopTail (fld 5 u 19) (fld 3 u 4)) else none
  | 0x1 => if bitsAt u 7 17 = 0 then some (.ringopFill (fld 3 u 4)) else none
  | 0x2 => if bitsAt u 7 12 = 0 then some (.ringopHead (fld 5 u 19) (fld 3 u 4)) else none
  | 0x3 => if bitsAt u 7 17 = 0 then some (.ringopFree (fld 3 u 4)) else none
  | 0x4 => if bitsAt u 7 12 = 0 then some (.ringopCount (fld 5 u 19) (fld 3 u 4)) else none
  | 0x5 => if bitsAt u 7 17 = 0 then some (.ringopReset (fld 3 u 4)) else none
  | _ => none

/-- A scalar word (R24, R45). -/
def decodeScalar (u : Nat) : Option Instr :=
  match bitsAt u 24 6 with
  | 0x00 => decodeSys u
  | 0x01 => decodeAlu u
  | 0x02 => some (.addi (fld 5 u 19) (fld 5 u 14) (fld 14 u 0))
  | 0x03 => some (.andi (fld 5 u 19) (fld 5 u 14) (fld 14 u 0))
  | 0x04 => some (.ori (fld 5 u 19) (fld 5 u 14) (fld 14 u 0))
  | 0x05 => some (.xori (fld 5 u 19) (fld 5 u 14) (fld 14 u 0))
  | 0x06 => if bitsAt u 6 8 = 0 then some (.shli (fld 5 u 19) (fld 5 u 14) (fld 6 u 0)) else none
  | 0x07 => if bitsAt u 6 8 = 0 then some (.shri (fld 5 u 19) (fld 5 u 14) (fld 6 u 0)) else none
  | 0x08 => if bitsAt u 6 8 = 0 then some (.srai (fld 5 u 19) (fld 5 u 14) (fld 6 u 0)) else none
  | 0x09 => some (.slti (fld 5 u 19) (fld 5 u 14) (fld 14 u 0))
  | 0x0a => some (.sltui (fld 5 u 19) (fld 5 u 14) (fld 14 u 0))
  | 0x0b => some (.muli (fld 5 u 19) (fld 5 u 14) (fld 14 u 0))
  | 0x0c => some (.lih (fld 5 u 19) (fld 19 u 0))
  | 0x0d => if bitsAt u 12 2 = 0 then some (.extr (fld 5 u 19) (fld 5 u 14) (fld 6 u 6) (fld 6 u 0)) else none
  | 0x0e => if bitsAt u 12 2 = 0 then some (.extru (fld 5 u 19) (fld 5 u 14) (fld 6 u 6) (fld 6 u 0)) else none
  | 0x0f => if bitsAt u 12 2 = 0 then some (.insr (fld 5 u 19) (fld 5 u 14) (fld 6 u 6) (fld 6 u 0)) else none
  | 0x10 => some (.br (fld 5 u 19) (fld 5 u 14) (fld 3 u 11) (fld 11 u 0))
  | 0x11 => if bitsAt u 11 8 = 0 then some (.loop (fld 5 u 19) (fld 11 u 0)) else none
  | 0x12 => some (.j (fld 24 u 0))
  | 0x13 => some (.call (fld 24 u 0))
  | 0x14 => if bitsAt u 19 5 = 0 then some (.jr (fld 5 u 14) (fld 14 u 0)) else none
  | 0x15 => if bitsAt u 19 5 = 0 then some (.callr (fld 5 u 14) (fld 14 u 0)) else none
  | 0x18 => some (.ldsB (fld 5 u 19) (fld 5 u 14) (fld 14 u 0))
  | 0x19 => some (.ldsBu (fld 5 u 19) (fld 5 u 14) (fld 14 u 0))
  | 0x1a => some (.ldsH (fld 5 u 19) (fld 5 u 14) (fld 14 u 0))
  | 0x1b => some (.ldsHu (fld 5 u 19) (fld 5 u 14) (fld 14 u 0))
  | 0x1c => some (.ldsW (fld 5 u 19) (fld 5 u 14) (fld 14 u 0))
  | 0x1d => some (.ldsWu (fld 5 u 19) (fld 5 u 14) (fld 14 u 0))
  | 0x1e => some (.ldsD (fld 5 u 19) (fld 5 u 14) (fld 14 u 0))
  | 0x20 => some (.stsB (fld 5 u 19) (fld 5 u 14) (fld 14 u 0))
  | 0x21 => some (.stsH (fld 5 u 19) (fld 5 u 14) (fld 14 u 0))
  | 0x22 => some (.stsW (fld 5 u 19) (fld 5 u 14) (fld 14 u 0))
  | 0x23 => some (.stsD (fld 5 u 19) (fld 5 u 14) (fld 14 u 0))
  | 0x24 => some (.ldgW (fld 5 u 19) (fld 5 u 14) (fld 14 u 0))
  | 0x25 => some (.ldgWu (fld 5 u 19) (fld 5 u 14) (fld 14 u 0))
  | 0x26 => some (.ldgD (fld 5 u 19) (fld 5 u 14) (fld 14 u 0))
  | 0x27 => some (.stgW (fld 5 u 19) (fld 5 u 14) (fld 14 u 0))
  | 0x28 => some (.stgD (fld 5 u 19) (fld 5 u 14) (fld 14 u 0))
  | 0x2c => if bitsAt u 14 5 = 0 then some (.csrrd (fld 5 u 19) (fld 14 u 0)) else none
  | 0x2d => some (.csrwr (fld 5 u 19) (fld 5 u 14) (fld 14 u 0))
  | 0x2e => some (.csrset (fld 5 u 19) (fld 5 u 14) (fld 14 u 0))
  | 0x2f => some (.csrclr (fld 5 u 19) (fld 5 u 14) (fld 14 u 0))
  | 0x30 => if bitsAt u 7 12 = 0 then some (.qpop (fld 5 u 19) (fld 1 u 6) (fld 2 u 4) (fld 4 u 0)) else none
  | 0x31 => if bitsAt u 7 7 = 0 ∧ bitsAt u 19 5 = 0 then some (.qpush (fld 5 u 14) (fld 1 u 6) (fld 2 u 4) (fld 4 u 0)) else none
  | 0x32 => if bitsAt u 0 4 = 0 ∧ bitsAt u 6 13 = 0 then some (.qpeek (fld 5 u 19) (fld 2 u 4)) else none
  | 0x33 => if bitsAt u 0 4 = 0 ∧ bitsAt u 7 12 = 0 then some (.qcnt (fld 5 u 19) (fld 1 u 6) (fld 2 u 4)) else none
  | 0x34 => if bitsAt u 2 12 = 0 then some (.fork (fld 5 u 19) (fld 5 u 14) (fld 2 u 0)) else none
  | 0x35 => if bitsAt u 0 24 = 0 then some (.rendz) else none
  | 0x36 => some (.waitb (fld 5 u 19) (fld 5 u 14) (fld 14 u 0))
  | 0x37 => if bitsAt u 19 5 = 0 then some (.arrive (fld 5 u 14) (fld 14 u 0)) else none
  | 0x38 => if bitsAt u 0 14 = 0 then some (.barinit (fld 5 u 19) (fld 5 u 14)) else none
  | 0x39 => if bitsAt u 4 15 = 0 then some (.join (fld 5 u 19) (fld 4 u 0)) else none
  | 0x3a => if bitsAt u 4 15 = 0 then some (.leave (fld 5 u 19) (fld 4 u 0)) else none
  | 0x3b => if bitsAt u 4 20 = 0 then some (.gbar (fld 4 u 0)) else none
  | 0x3c => some (.putf (fld 5 u 19) (fld 5 u 14) (fld 14 u 0))
  | 0x3d => some (.getf (fld 5 u 19) (fld 5 u 14) (fld 14 u 0))
  | 0x3e => if bitsAt u 3 11 = 0 ∧ bitsAt u 19 5 = 0 then some (.ringset (fld 5 u 14) (fld 3 u 0)) else none
  | 0x3f => decodeRingop u
  | _ => none

/-- The head fields of a V-format first unit, with its stamp and literals (R25). -/
def decodeHead (u : Nat) (stamp : Option (BitVec 30)) (lits : List U32) : VHead :=
  { etype := fld 4 u 18, rnd := fld 3 u 15, sat := fld 1 u 14, nowb := fld 1 u 13, mask := fld 3 u 10,
    capN := fld 3 u 4, capEn := fld 1 u 3, x3 := fld 3 u 0, stamp := stamp, lits := lits }

/-- Operand fields D, A and B of the two tails (R25). -/
def decodeVWord (h : VHead) (u2 u3 : Nat) : VWord :=
  { h := h, d := fld 20 u2 10, a := BitVec.ofNat 20 (bitsAt u2 0 10 * 2 ^ 10 + bitsAt u3 20 10), b := fld 20 u3 0 }

/-- The E-overlay (R26, R182). -/
def decodeEWord (h : VHead) (u2 u3 : Nat) : EWord :=
  { h := h, ed := fld 5 u2 25, es := fld 5 u2 20, eh := fld 5 u2 15, eb := fld 5 u2 10, inc := fld 10 u2 0,
    cvtType := fld 4 u3 26, cvtRnd := fld 3 u3 23, cvtSat := fld 1 u3 22, had := fld 2 u3 20, donePort := fld 3 u3 17,
    doneEn := fld 1 u3 16, xpEn := fld 1 u3 15, xp := fld 2 u3 13, twin := fld 1 u3 12, count := fld 12 u3 0 }

/-- The constructor of a vector word by op8 and sub-code (R49, R51). -/
def vectorOp (op x3 : Nat) (w : VWord) : Option Instr :=
  match op with
  | 0x00 => some (.vmov w)
  | 0x01 => some (.vadd w)
  | 0x02 => some (.vsub w)
  | 0x03 => some (.vmul w)
  | 0x04 => some (.vfma w)
  | 0x05 => some (.vfms w)
  | 0x06 => some (.vfnma w)
  | 0x07 => some (.vmin w)
  | 0x08 => some (.vmax w)
  | 0x09 => some (.vabs w)
  | 0x0a => some (.vneg w)
  | 0x0b => some (.vrcp w)
  | 0x0c => some (.vrsq w)
  | 0x0d => some (.vsqrt w)
  | 0x0e => some (.vdiv w)
  | 0x0f => some (.vfexp2 w)
  | 0x10 => some (.vflog2 w)
  | 0x11 => some (.vrndi w)
  | 0x12 => some (.vscalb w)
  | 0x13 => some (.vgetexp w)
  | 0x14 => some (.vgetmant w)
  | 0x15 => some (.vclass w)
  | 0x16 => some (.vcmp w)
  | 0x17 => some (.vsel w)
  | 0x18 => some (.vmaskop w)
  | 0x20 => some (.viadd w)
  | 0x21 => some (.visub w)
  | 0x22 => some (.vimul w)
  | 0x23 => some (.vimin w)
  | 0x24 => some (.vimax w)
  | 0x25 => some (.vand w)
  | 0x26 => some (.vor w)
  | 0x27 => some (.vxor w)
  | 0x28 => some (.vshl w)
  | 0x29 => some (.vshr w)
  | 0x2a => some (.vsra w)
  | 0x2b => some (.viminu w)
  | 0x2c => some (.vimaxu w)
  | 0x30 => some (.vcmul w)
  | 0x31 => some (.vcmac w)
  | 0x38 => some (.vradd w)
  | 0x39 => some (.vrmax w)
  | 0x3a => some (.vrmin w)
  | 0x3b => some (.vramax w)
  | 0x3c => some (.vscan w)
  | 0x40 =>
    match x3 with
    | 0 => some (.vlfsrRead w)
    | 1 => some (.vlfsrWrite w)
    | 2 => some (.vlfsrAdvance w)
    | 3 => some (.vlfsrReseed w)
    | _ => none
  | 0x60 => some (.vcvt w)
  | 0x61 => some (.vamaxb w)
  | 0x62 => some (.vqnt w)
  | 0x63 => some (.vdqnt w)
  | 0x64 => some (.vlqdec w)
  | 0x65 => some (.vhad w)
  | 0x66 => some (.vpack w)
  | 0x67 => some (.vunpk w)
  | 0x68 => some (.vperm w)
  | 0x69 => some (.vshuf w)
  | 0x6a => some (.vslide w)
  | 0x6b => some (.vbcast w)
  | 0x6c => some (.vgath w)
  | 0x6d => some (.vscat w)
  | 0x6e => some (.vcomp w)
  | 0x6f => some (.vexpd w)
  | 0x70 => some (.vtos w)
  | 0x71 => if x3 = 0 then some (.cbldConst w) else if x3 ≤ 4 then some (.cbldCodebook w) else none
  | _ => none

/-- The constructor of an engine word by op8 (R49). -/
def engineOp (op : Nat) (w : EWord) : Option Instr :=
  match op with
  | 0xc0 => some (.cpy w)
  | 0xc1 => some (.cpyo w)
  | 0xc2 => some (.cpyg w)
  | 0xc3 => some (.cpys w)
  | 0xc4 => some (.cpyr w)
  | 0xc5 => some (.cpyq w)
  | 0xc6 => some (.cpydq w)
  | 0xc7 => some (.pref w)
  | 0xc8 => some (.cflush w)
  | 0xc9 => some (.xfft w)
  | 0xca => some (.xifft w)
  | 0xcb => some (.xhad w)
  | 0xcc => some (.xexp w)
  | 0xcd => some (.xtrl w)
  | 0xce => some (.sacc w)
  | 0xcf => some (.amo w)
  | 0xd0 => some (.publ w)
  | 0xd1 => some (.disc w)
  | 0xd2 => some (.lxfer w)
  | 0xd3 => some (.nxtx w)
  | 0xd4 => some (.nxarm w)
  | _ => none

/-- The constructor of a matrix word by op8 and, for MOWN, its `mo` field (R52, R170). -/
def matrixOp (op : Nat) (w : MWord) : Option Instr :=
  match op with
  | 0x00 => some (.mma w)
  | 0x01 => some (.mmaq w)
  | 0x02 => some (.mmal w)
  | 0x03 => some (.mmas w)
  | 0x04 => some (.mzero w)
  | 0x05 => some (.mlda w)
  | 0x06 => some (.msta w)
  | 0x07 => some (.mcopy w)
  | 0x08 => some (.mtrn w)
  | 0x09 => some (.mscal w)
  | 0x0a => some (.madd w)
  | 0x0b => some (.mred w)
  | 0x0c => some (.mspill w)
  | 0x0d => some (.mfill w)
  | 0x0e => if w.mo = 0 then some (.mownClaim w) else if w.mo = 1 then some (.mownRelease w) else none
  | _ => none

/-- The fields of a matrix word's six units (R28). -/
def decodeMWord (u1 u2 u3 u4 u5 u6 : Nat) : MWord :=
  { tA := fld 4 u1 18, tB := fld 4 u1 14, tC := fld 2 u1 12, acc := fld 6 u1 6, init := fld 2 u1 4, ksteps := fld 4 u1 0,
    ringA := fld 3 u2 27, popA := fld 1 u2 26, trA := fld 1 u2 25, scA := fld 2 u2 23, ringB := fld 3 u2 20,
    popB := fld 1 u2 19, trB := fld 1 u2 18, scB := fld 2 u2 16, neg := fld 1 u2 15, spec := fld 1 u2 14,
    dport := fld 3 u2 11, den := fld 1 u2 10, sv := fld 1 u2 9, resv := fld 9 u2 0, stamp := fld 30 u3 0,
    p4 := fld 30 u4 0, p5 := fld 30 u5 0, p6 := fld 30 u6 0 }

/-- The class of a unit (R20). -/
def unitClass (u : U32) : Nat := bitsAt u.toNat 30 2

/-- How many units a word has by its first unit (R20, R21): a literal count of 3 counts none (R23). -/
def wordUnits (u : U32) : Nat :=
  match unitClass u with
  | 1 => 3 + bitsAt u.toNat 9 1 + bitsAt u.toNat 7 2 % 3
  | 2 => 6
  | _ => 1

/-- The stamp unit and the literals after the two tails (R25, R27): every tail of class 3. -/
def decodeRest (u1 : Nat) (rest : List U32) : Option (Option (BitVec 30) × List U32) :=
  let n := bitsAt u1 7 2
  if bitsAt u1 9 1 = 1 then
    match rest with
    | st :: lits => if unitClass st = 3 ∧ n ≤ 2 ∧ lits.length = n then some (some (fld 30 st.toNat 0), lits) else none
    | [] => none
  else if n ≤ 2 ∧ rest.length = n then some (none, rest) else none

/-- A vector or engine word from its units (R25, R26). -/
def decodeLong (u1 u2 u3 : U32) (rest : List U32) : Option Instr :=
  if unitClass u2 = 3 ∧ unitClass u3 = 3 then
    match decodeRest u1.toNat rest with
    | none => none
    | some (stamp, lits) =>
      let h := decodeHead u1.toNat stamp lits
      let op := bitsAt u1.toNat 22 8
      if op < 0xC0 then vectorOp op (bitsAt u1.toNat 0 3) (decodeVWord h u2.toNat u3.toNat)
      else engineOp op (decodeEWord h u2.toNat u3.toNat)
  else none

/-- The instruction that exactly these units are, if they are one. -/
def decode : List U32 → Option Instr
  | [] => none
  | u :: us =>
    match unitClass u, us with
    | 0, [] => decodeScalar u.toNat
    | 1, u2 :: u3 :: rest => decodeLong u u2 u3 rest
    | 2, [u2, u3, u4, u5, u6] =>
      if unitClass u2 = 3 ∧ unitClass u3 = 3 ∧ unitClass u4 = 3 ∧ unitClass u5 = 3 ∧ unitClass u6 = 3 then
        matrixOp (bitsAt u.toNat 22 8)
          (decodeMWord u.toNat u2.toNat u3.toNat u4.toNat u5.toNat u6.toNat)
      else none
    | _, _ => none

/-- Units from bytes, each little-endian (R20); a rest of fewer than four bytes is dropped. -/
def unitsOf : List Byte → List U32
  | b0 :: b1 :: b2 :: b3 :: bs => BitVec.ofNat 32 (leNat [b0, b1, b2, b3]) :: unitsOf bs
  | _ => []

/-- The first word of some bytes and the units after it; none where no instruction begins. -/
def decodeBytes (bs : List Byte) : Option (Instr × List U32) :=
  match unitsOf bs with
  | [] => none
  | u :: us =>
    match decode ((u :: us).take (wordUnits u)) with
    | none => none
    | some i => some (i, (u :: us).drop (wordUnits u))

/-- An S-format unit in the SR form (R24). -/
def encSR (op d a b fn : Nat) : List U32 :=
  [BitVec.ofNat 32 (op * 2 ^ 24 + d * 2 ^ 19 + a * 2 ^ 14 + b * 2 ^ 9 + fn)]

/-- An S-format unit in the SI form (R24). -/
def encSI (op d a imm : Nat) : List U32 := [BitVec.ofNat 32 (op * 2 ^ 24 + d * 2 ^ 19 + a * 2 ^ 14 + imm)]

/-- An S-format unit in the SB form (R24). -/
def encSB (op a b cond off : Nat) : List U32 :=
  [BitVec.ofNat 32 (op * 2 ^ 24 + a * 2 ^ 19 + b * 2 ^ 14 + cond * 2 ^ 11 + off)]

/-- An S-format unit in the SJ form (R24). -/
def encSJ (op off : Nat) : List U32 := [BitVec.ofNat 32 (op * 2 ^ 24 + off)]

/-- An S-format unit in the SU form (R24). -/
def encSU (op d imm : Nat) : List U32 := [BitVec.ofNat 32 (op * 2 ^ 24 + d * 2 ^ 19 + imm)]

/-- The units of a V-format word with this op8, head and two tails (R25). -/
def encodeLong (op : Nat) (h : VHead) (t2 t3 : Nat) : List U32 :=
  BitVec.ofNat 32 (1 * 2 ^ 30 + op * 2 ^ 22 + h.etype.toNat * 2 ^ 18 + h.rnd.toNat * 2 ^ 15 + h.sat.toNat * 2 ^ 14
      + h.nowb.toNat * 2 ^ 13 + h.mask.toNat * 2 ^ 10 + (if h.stamp.isSome then 1 else 0) * 2 ^ 9
      + h.lits.length * 2 ^ 7 + h.capN.toNat * 2 ^ 4 + h.capEn.toNat * 2 ^ 3 + h.x3.toNat)
    :: BitVec.ofNat 32 (3 * 2 ^ 30 + t2) :: BitVec.ofNat 32 (3 * 2 ^ 30 + t3)
    :: (match h.stamp with
        | some s => BitVec.ofNat 32 (3 * 2 ^ 30 + s.toNat) :: h.lits
        | none => h.lits)

/-- A vector word's units (R25). -/
def encodeV (op : Nat) (w : VWord) : List U32 :=
  encodeLong op w.h (w.d.toNat * 2 ^ 10 + w.a.toNat / 2 ^ 10) (w.a.toNat % 2 ^ 10 * 2 ^ 20 + w.b.toNat)

/-- An engine word's units (R26). -/
def encodeE (op : Nat) (w : EWord) : List U32 :=
  encodeLong op w.h
    (w.ed.toNat * 2 ^ 25 + w.es.toNat * 2 ^ 20 + w.eh.toNat * 2 ^ 15 + w.eb.toNat * 2 ^ 10 + w.inc.toNat)
    (w.cvtType.toNat * 2 ^ 26 + w.cvtRnd.toNat * 2 ^ 23 + w.cvtSat.toNat * 2 ^ 22 + w.had.toNat * 2 ^ 20
      + w.donePort.toNat * 2 ^ 17 + w.doneEn.toNat * 2 ^ 16 + w.xpEn.toNat * 2 ^ 15 + w.xp.toNat * 2 ^ 13
      + w.twin.toNat * 2 ^ 12 + w.count.toNat)

/-- A matrix word's units (R28). -/
def encodeM (op : Nat) (w : MWord) : List U32 :=
  [BitVec.ofNat 32 (2 * 2 ^ 30 + op * 2 ^ 22 + w.tA.toNat * 2 ^ 18 + w.tB.toNat * 2 ^ 14 + w.tC.toNat * 2 ^ 12
      + w.acc.toNat * 2 ^ 6 + w.init.toNat * 2 ^ 4 + w.ksteps.toNat),
   BitVec.ofNat 32 (3 * 2 ^ 30 + w.ringA.toNat * 2 ^ 27 + w.popA.toNat * 2 ^ 26 + w.trA.toNat * 2 ^ 25
      + w.scA.toNat * 2 ^ 23 + w.ringB.toNat * 2 ^ 20 + w.popB.toNat * 2 ^ 19 + w.trB.toNat * 2 ^ 18
      + w.scB.toNat * 2 ^ 16 + w.neg.toNat * 2 ^ 15 + w.spec.toNat * 2 ^ 14 + w.dport.toNat * 2 ^ 11
      + w.den.toNat * 2 ^ 10 + w.sv.toNat * 2 ^ 9 + w.resv.toNat),
   BitVec.ofNat 32 (3 * 2 ^ 30 + w.stamp.toNat), BitVec.ofNat 32 (3 * 2 ^ 30 + w.p4.toNat),
   BitVec.ofNat 32 (3 * 2 ^ 30 + w.p5.toNat), BitVec.ofNat 32 (3 * 2 ^ 30 + w.p6.toNat)]

/-- The units of a word; a step that is no word has none. -/
def encode : Instr → List U32
  | .add d a b => encSR 0x01 d.toNat a.toNat b.toNat 0x000
  | .sub d a b => encSR 0x01 d.toNat a.toNat b.toNat 0x001
  | .and d a b => encSR 0x01 d.toNat a.toNat b.toNat 0x002
  | .or d a b => encSR 0x01 d.toNat a.toNat b.toNat 0x003
  | .xor d a b => encSR 0x01 d.toNat a.toNat b.toNat 0x004
  | .andn d a b => encSR 0x01 d.toNat a.toNat b.toNat 0x005
  | .orn d a b => encSR 0x01 d.toNat a.toNat b.toNat 0x006
  | .xnor d a b => encSR 0x01 d.toNat a.toNat b.toNat 0x007
  | .shl d a b => encSR 0x01 d.toNat a.toNat b.toNat 0x008
  | .shr d a b => encSR 0x01 d.toNat a.toNat b.toNat 0x009
  | .sra d a b => encSR 0x01 d.toNat a.toNat b.toNat 0x00a
  | .rotr d a b => encSR 0x01 d.toNat a.toNat b.toNat 0x00b
  | .rotl d a b => encSR 0x01 d.toNat a.toNat b.toNat 0x00c
  | .mul d a b => encSR 0x01 d.toNat a.toNat b.toNat 0x00d
  | .mulh d a b => encSR 0x01 d.toNat a.toNat b.toNat 0x00e
  | .mulhu d a b => encSR 0x01 d.toNat a.toNat b.toNat 0x00f
  | .div d a b => encSR 0x01 d.toNat a.toNat b.toNat 0x010
  | .divu d a b => encSR 0x01 d.toNat a.toNat b.toNat 0x011
  | .rem d a b => encSR 0x01 d.toNat a.toNat b.toNat 0x012
  | .remu d a b => encSR 0x01 d.toNat a.toNat b.toNat 0x013
  | .min d a b => encSR 0x01 d.toNat a.toNat b.toNat 0x014
  | .max d a b => encSR 0x01 d.toNat a.toNat b.toNat 0x015
  | .minu d a b => encSR 0x01 d.toNat a.toNat b.toNat 0x016
  | .maxu d a b => encSR 0x01 d.toNat a.toNat b.toNat 0x017
  | .slt d a b => encSR 0x01 d.toNat a.toNat b.toNat 0x018
  | .sltu d a b => encSR 0x01 d.toNat a.toNat b.toNat 0x019
  | .seq d a b => encSR 0x01 d.toNat a.toNat b.toNat 0x01a
  | .sne d a b => encSR 0x01 d.toNat a.toNat b.toNat 0x01b
  | .clz d a => encSR 0x01 d.toNat a.toNat 0 0x01c
  | .ctz d a => encSR 0x01 d.toNat a.toNat 0 0x01d
  | .popc d a => encSR 0x01 d.toNat a.toNat 0 0x01e
  | .brev d a => encSR 0x01 d.toNat a.toNat 0 0x01f
  | .sextb d a => encSR 0x01 d.toNat a.toNat 0 0x020
  | .sexth d a => encSR 0x01 d.toNat a.toNat 0 0x021
  | .sextw d a => encSR 0x01 d.toNat a.toNat 0 0x022
  | .addw d a b => encSR 0x01 d.toNat a.toNat b.toNat 0x023
  | .subw d a b => encSR 0x01 d.toNat a.toNat b.toNat 0x024
  | .sel d a b => encSR 0x01 d.toNat a.toNat b.toNat 0x025
  | .addi d a i => encSI 0x02 d.toNat a.toNat i.toNat
  | .andi d a i => encSI 0x03 d.toNat a.toNat i.toNat
  | .ori d a i => encSI 0x04 d.toNat a.toNat i.toNat
  | .xori d a i => encSI 0x05 d.toNat a.toNat i.toNat
  | .shli d a k => encSI 0x06 d.toNat a.toNat k.toNat
  | .shri d a k => encSI 0x07 d.toNat a.toNat k.toNat
  | .srai d a k => encSI 0x08 d.toNat a.toNat k.toNat
  | .slti d a i => encSI 0x09 d.toNat a.toNat i.toNat
  | .sltui d a i => encSI 0x0a d.toNat a.toNat i.toNat
  | .muli d a i => encSI 0x0b d.toNat a.toNat i.toNat
  | .lih d i => encSU 0x0c d.toNat i.toNat
  | .extr d a l p => encSI 0x0d d.toNat a.toNat (l.toNat * 2 ^ 6 + p.toNat)
  | .extru d a l p => encSI 0x0e d.toNat a.toNat (l.toNat * 2 ^ 6 + p.toNat)
  | .insr d a l p => encSI 0x0f d.toNat a.toNat (l.toNat * 2 ^ 6 + p.toNat)
  | .br a b c o => encSB 0x10 a.toNat b.toNat c.toNat o.toNat
  | .loop a o => encSB 0x11 a.toNat 0 0 o.toNat
  | .j o => encSJ 0x12 o.toNat
  | .call o => encSJ 0x13 o.toNat
  | .jr a i => encSI 0x14 0 a.toNat i.toNat
  | .callr a i => encSI 0x15 0 a.toNat i.toNat
  | .ldsB d a i => encSI 0x18 d.toNat a.toNat i.toNat
  | .ldsBu d a i => encSI 0x19 d.toNat a.toNat i.toNat
  | .ldsH d a i => encSI 0x1a d.toNat a.toNat i.toNat
  | .ldsHu d a i => encSI 0x1b d.toNat a.toNat i.toNat
  | .ldsW d a i => encSI 0x1c d.toNat a.toNat i.toNat
  | .ldsWu d a i => encSI 0x1d d.toNat a.toNat i.toNat
  | .ldsD d a i => encSI 0x1e d.toNat a.toNat i.toNat
  | .stsB d a i => encSI 0x20 d.toNat a.toNat i.toNat
  | .stsH d a i => encSI 0x21 d.toNat a.toNat i.toNat
  | .stsW d a i => encSI 0x22 d.toNat a.toNat i.toNat
  | .stsD d a i => encSI 0x23 d.toNat a.toNat i.toNat
  | .ldgW d a i => encSI 0x24 d.toNat a.toNat i.toNat
  | .ldgWu d a i => encSI 0x25 d.toNat a.toNat i.toNat
  | .ldgD d a i => encSI 0x26 d.toNat a.toNat i.toNat
  | .stgW d a i => encSI 0x27 d.toNat a.toNat i.toNat
  | .stgD d a i => encSI 0x28 d.toNat a.toNat i.toNat
  | .csrrd d c => encSI 0x2c d.toNat 0 c.toNat
  | .csrwr d a c => encSI 0x2d d.toNat a.toNat c.toNat
  | .csrset d a c => encSI 0x2e d.toNat a.toNat c.toNat
  | .csrclr d a c => encSI 0x2f d.toNat a.toNat c.toNat
  | .qpop d y k t => encSI 0x30 d.toNat 0 (y.toNat * 2 ^ 6 + k.toNat * 2 ^ 4 + t.toNat)
  | .qpush a r k t => encSI 0x31 0 a.toNat (r.toNat * 2 ^ 6 + k.toNat * 2 ^ 4 + t.toNat)
  | .qpeek d k => encSI 0x32 d.toNat 0 (k.toNat * 2 ^ 4)
  | .qcnt d o k => encSI 0x33 d.toNat 0 (o.toNat * 2 ^ 6 + k.toNat * 2 ^ 4)
  | .fork d a e => encSI 0x34 d.toNat a.toNat e.toNat
  | .rendz => encSI 0x35 0 0 0
  | .waitb d a i => encSI 0x36 d.toNat a.toNat i.toNat
  | .arrive a n => encSI 0x37 0 a.toNat n.toNat
  | .barinit d a => encSI 0x38 d.toNat a.toNat 0
  | .join d g => encSI 0x39 d.toNat 0 g.toNat
  | .leave d g => encSI 0x3a d.toNat 0 g.toNat
  | .gbar g => encSI 0x3b 0 0 g.toNat
  | .putf d a i => encSI 0x3c d.toNat a.toNat i.toNat
  | .getf d a i => encSI 0x3d d.toNat a.toNat i.toNat
  | .ringset a n => encSI 0x3e 0 a.toNat n.toNat
  | .ringopTail d n => encSI 0x3f d.toNat 0 (n.toNat * 2 ^ 4)
  | .ringopFill n => encSI 0x3f 0 0 (n.toNat * 2 ^ 4 + 1)
  | .ringopHead d n => encSI 0x3f d.toNat 0 (n.toNat * 2 ^ 4 + 2)
  | .ringopFree n => encSI 0x3f 0 0 (n.toNat * 2 ^ 4 + 3)
  | .ringopCount d n => encSI 0x3f d.toNat 0 (n.toNat * 2 ^ 4 + 4)
  | .ringopReset n => encSI 0x3f 0 0 (n.toNat * 2 ^ 4 + 5)
  | .illegal d a b => encSR 0x00 d.toNat a.toNat b.toNat 0x000
  | .nop => encSR 0x00 0 0 0 0x001
  | .trap a => encSR 0x00 0 a.toNat 0 0x002
  | .eret => encSR 0x00 0 0 0 0x003
  | .halt => encSR 0x00 0 0 0 0x004
  | .exit a => encSR 0x00 0 a.toNat 0 0x005
  | .fence k s => encSR 0x00 0 (k.toNat * 4 + s.toNat) 0 0x006
  | .mark n => encSR 0x00 0 n.toNat 0 0x007
  | .brk => encSR 0x00 0 0 0 0x008
  | .retire => encSR 0x00 0 0 0 0x009
  | .sstep a => encSR 0x00 0 a.toNat 0 0x00a
  | .frame a => encSR 0x00 0 a.toNat 0 0x00b
  | .waitt a => encSR 0x00 0 a.toNat 0 0x00c
  | .waitd a => encSR 0x00 0 a.toNat 0 0x00d
  | .abortg a => encSR 0x00 0 a.toNat 0 0x00e
  | .abchk => encSR 0x00 0 0 0 0x00f
  | .launch d a => encSR 0x00 d.toNat a.toNat 0 0x010
  | .vmov w => encodeV 0x00 w
  | .vadd w => encodeV 0x01 w
  | .vsub w => encodeV 0x02 w
  | .vmul w => encodeV 0x03 w
  | .vfma w => encodeV 0x04 w
  | .vfms w => encodeV 0x05 w
  | .vfnma w => encodeV 0x06 w
  | .vmin w => encodeV 0x07 w
  | .vmax w => encodeV 0x08 w
  | .vabs w => encodeV 0x09 w
  | .vneg w => encodeV 0x0a w
  | .vrcp w => encodeV 0x0b w
  | .vrsq w => encodeV 0x0c w
  | .vsqrt w => encodeV 0x0d w
  | .vdiv w => encodeV 0x0e w
  | .vfexp2 w => encodeV 0x0f w
  | .vflog2 w => encodeV 0x10 w
  | .vrndi w => encodeV 0x11 w
  | .vscalb w => encodeV 0x12 w
  | .vgetexp w => encodeV 0x13 w
  | .vgetmant w => encodeV 0x14 w
  | .vclass w => encodeV 0x15 w
  | .vcmp w => encodeV 0x16 w
  | .vsel w => encodeV 0x17 w
  | .vmaskop w => encodeV 0x18 w
  | .viadd w => encodeV 0x20 w
  | .visub w => encodeV 0x21 w
  | .vimul w => encodeV 0x22 w
  | .vimin w => encodeV 0x23 w
  | .vimax w => encodeV 0x24 w
  | .vand w => encodeV 0x25 w
  | .vor w => encodeV 0x26 w
  | .vxor w => encodeV 0x27 w
  | .vshl w => encodeV 0x28 w
  | .vshr w => encodeV 0x29 w
  | .vsra w => encodeV 0x2a w
  | .viminu w => encodeV 0x2b w
  | .vimaxu w => encodeV 0x2c w
  | .vcmul w => encodeV 0x30 w
  | .vcmac w => encodeV 0x31 w
  | .vradd w => encodeV 0x38 w
  | .vrmax w => encodeV 0x39 w
  | .vrmin w => encodeV 0x3a w
  | .vramax w => encodeV 0x3b w
  | .vscan w => encodeV 0x3c w
  | .vlfsrRead w => encodeV 0x40 w
  | .vlfsrWrite w => encodeV 0x40 w
  | .vlfsrAdvance w => encodeV 0x40 w
  | .vlfsrReseed w => encodeV 0x40 w
  | .vcvt w => encodeV 0x60 w
  | .vamaxb w => encodeV 0x61 w
  | .vqnt w => encodeV 0x62 w
  | .vdqnt w => encodeV 0x63 w
  | .vlqdec w => encodeV 0x64 w
  | .vhad w => encodeV 0x65 w
  | .vpack w => encodeV 0x66 w
  | .vunpk w => encodeV 0x67 w
  | .vperm w => encodeV 0x68 w
  | .vshuf w => encodeV 0x69 w
  | .vslide w => encodeV 0x6a w
  | .vbcast w => encodeV 0x6b w
  | .vgath w => encodeV 0x6c w
  | .vscat w => encodeV 0x6d w
  | .vcomp w => encodeV 0x6e w
  | .vexpd w => encodeV 0x6f w
  | .vtos w => encodeV 0x70 w
  | .cbldConst w => encodeV 0x71 w
  | .cbldCodebook w => encodeV 0x71 w
  | .mma w => encodeM 0x00 w
  | .mmaq w => encodeM 0x01 w
  | .mmal w => encodeM 0x02 w
  | .mmas w => encodeM 0x03 w
  | .mzero w => encodeM 0x04 w
  | .mlda w => encodeM 0x05 w
  | .msta w => encodeM 0x06 w
  | .mcopy w => encodeM 0x07 w
  | .mtrn w => encodeM 0x08 w
  | .mscal w => encodeM 0x09 w
  | .madd w => encodeM 0x0a w
  | .mred w => encodeM 0x0b w
  | .mspill w => encodeM 0x0c w
  | .mfill w => encodeM 0x0d w
  | .mownClaim w => encodeM 0x0e w
  | .mownRelease w => encodeM 0x0e w
  | .cpy w => encodeE 0xc0 w
  | .cpyo w => encodeE 0xc1 w
  | .cpyg w => encodeE 0xc2 w
  | .cpys w => encodeE 0xc3 w
  | .cpyr w => encodeE 0xc4 w
  | .cpyq w => encodeE 0xc5 w
  | .cpydq w => encodeE 0xc6 w
  | .pref w => encodeE 0xc7 w
  | .cflush w => encodeE 0xc8 w
  | .xfft w => encodeE 0xc9 w
  | .xifft w => encodeE 0xca w
  | .xhad w => encodeE 0xcb w
  | .xexp w => encodeE 0xcc w
  | .xtrl w => encodeE 0xcd w
  | .sacc w => encodeE 0xce w
  | .amo w => encodeE 0xcf w
  | .publ w => encodeE 0xd0 w
  | .disc w => encodeE 0xd1 w
  | .lxfer w => encodeE 0xd2 w
  | .nxtx w => encodeE 0xd3 w
  | .nxarm w => encodeE 0xd4 w
  | .transformUnitWork _ _ => []
  | .stampedIssue _ _ => []
  | .waitConditionMet _ _ => []
  | .wordCompletion _ _ => []
  | .globalAccessCompletion _ _ => []
  | .engineSectorPerformed _ _ => []
  | .engineCommandCompletion _ _ => []
  | .engineFault _ _ => []
  | .mWordCompletion _ => []
  | .accumulatorSpillEnd _ _ => []
  | .accumulatorFillEnd _ _ => []
  | .remoteScratchRequest _ => []
  | .barrierReread _ _ => []
  | .futureCellRetry _ _ => []
  | .datumTick => []
  | .closure _ => []
  | .timedWaitRelease _ _ => []
  | .frameOrigin _ => []
  | .groupBarrierRelease _ _ => []
  | .groupAbortMarking _ _ => []
  | .sstepRelease _ => []
  | .sstepDeadline _ _ => []
  | .preemption _ => []
  | .quantumExpiry _ => []
  | .stopTaken _ _ => []
  | .coreHalt _ _ => []
  | .taskSave _ => []
  | .taskResumption _ _ => []
  | .tailDoorbell _ _ => []
  | .appendDoorbell _ _ => []
  | .cardAcceptance _ => []
  | .dealRequest _ => []
  | .taskStart _ => []
  | .roundDeal _ => []
  | .roundOrigin _ => []
  | .createContext _ => []
  | .updateContext _ => []
  | .destroyContext _ => []
  | .definePartition _ => []
  | .grant _ => []
  | .revoke _ => []
  | .partitionReset _ => []
  | .saveTile _ => []
  | .savePartition _ => []
  | .hubCommandDone => []
  | .dxuUpdate _ _ => []
  | .dxuUpdateAck _ => []
  | .migrationComplete _ _ => []
  | .twinSettlement _ _ => []
  | .ptpcommit _ => []
  | .ptpTripleEffect => []
  | .shadow _ _ => []
  | .nqstat _ => []
  | .htxtail _ => []
  | .registerWrite _ _ => []
  | .hostMemoryAccess _ _ _ => []
  | .peerWrite _ _ _ _ _ => []
  | .peerRead _ _ _ _ _ => []
  | .peerReply _ _ _ _ => []
  | .linkReplay _ _ => []
  | .frameReceive _ _ _ => []
  | .ingestSlotFill _ _ => []
  | .frameTransmit _ => []
  | .apportionerPeriod => []
  | .telemetryWrite => []
  | .patrolScrub _ => []
  | .refresh _ => []
  | .retraining _ => []
  | .recalibration _ => []
  | .uncorrectableError _ => []
  | .monumentFlashComplete => []
  | .thermalTrip _ => []
  | .powerLoss => []
  | .packageReset _ _ => []
  | .hostAcknowledge => []
  | .controlFlit _ _ => []
  | .hubcmd _ => []

/-- The first unit of a word, which decode and privilege faults record in TVAL (R22, R40, R56). -/
def headUnit (i : Instr) : U64 :=
  match encode i with
  | u :: _ => BitVec.ofNat 64 u.toNat
  | [] => 0

/-- The instruction that an opcode-table row's `nbits` bits `w` begin, every later bit zero. The hardware stores each
unit little-endian, the first at the lowest address (R20). -/
def decodeTableWord (nbits w : Nat) : Option Instr :=
  match decodeBytes (leBytes (nbits / 8) w ++ List.replicate 20 0) with
  | some (i, _) => some i
  | none => none

end Sys2Proof
end

