-- ==== Sys2Proof/Config.lean ====
section
/-!
DEFINITION. What the spec leaves to the implementation or leaves open, as constants without a body: nothing can be proved
of their values. An argument that is a counter comes from `State.fresh`. Each is named in notes/assumptions.
-/

namespace Sys2Proof.Config

/-- Clocks, beyond the first, that an access, a command or a piece of background work takes in free mode (R17, R103,
R122, R236, R325, R328; notes/assumptions 4). -/
opaque freeLatency : Nat → Nat

/-- The value the hub gives to TASK_ID (R311: unique among live tasks; notes/assumptions 7). -/
opaque taskId : Nat → BitVec 32

/-- Whether a request is answered by a die cache and so reaches no DXU (R324; notes/assumptions 8). -/
opaque cacheHit : Nat → Bool

/-- A tile's static power and its demand of the previous period, in mW (R385; notes/assumptions 9). -/
opaque staticPower : Nat → Nat
opaque demandPower : Nat → Nat

/-- What the sensors give for telemetry: temperatures in 0.125 °C, powers in 0.1 W (R386; notes/assumptions 9). -/
opaque sensor : Nat → Nat

/-- A die's supply guardband and a lane's calibration, drawn afresh (R375, R376; notes/assumptions 9). -/
opaque guardband : Nat → Nat
opaque calibration : Nat → Nat

/-- The unit at an address of a peer package, as it stood at the start of a task, by the task's number and the address (R20,
R319; notes/assumptions 14). -/
opaque peerUnit : Nat → Nat → BitVec 32

/-- A value that the spec does not state for an instruction's operands, drawn afresh (notes/assumptions 11). -/
opaque freeValue : Nat → BitVec 64

end Sys2Proof.Config
end

