-- ==== Sys2Proof/Machine/State.lean ====
section
/-!
DEFINITION. The state of the BDX9100 package (R17, R18), as plain data. Sparse tables are `Store`s. Addresses, clocks
and indices are natural numbers; register contents are bit vectors. The fields named under "the model's own" are not the
spec's: INVENTORY.md lists them and notes/assumptions says what they stand for.
-/

namespace Sys2Proof.Machine

/-- Why a step stops with a fault. Every fault of the spec is a trap entry or a task end, hence a next state; the only
stop is a machine without power. -/
inductive Fault
  /-- Raised by `step` when the package has no power and nothing arrives from outside (R382, R387). Safe: the part does
  nothing either. -/
  | powerOff
  deriving DecidableEq, Repr

/-- Why an instruction has no meaning in the model. -/
inductive Refusal
  /-- Raised by an arm of `exec` whose instruction has no meaning yet. Safe: nothing is claimed of it. -/
  | notModelled (mnemonic : String)
  deriving DecidableEq, Repr

/-- A resource that an issued word writes and that later words wait for (R91). -/
inductive Res
  | s (n : Nat)
  | v (n : Nat)
  | m (n : Nat)
  | byp (n : Nat)
  | lfsr
  | consts
  | book (t : Nat)
  | ring (n : Nat)
  | fflags
  /-- The constant bank, or a codebook table, which a word still reads (R162). -/
  | readConsts
  | readBook (t : Nat)
  deriving DecidableEq, Repr

/-- What a core waits for (R91, R208). -/
inductive Wait
  /-- A source or destination whose earlier writer has not reached its latency (R91). -/
  | res
  /-- Tokens of queue `q` (R30, R211). -/
  | pop (q : Nat)
  /-- A place of queue `q` (R30, R212), or a done-token place (R91). -/
  | push (q : Nat)
  /-- The head slot of ring `n` full (R223, R244). -/
  | full (n : Nat)
  /-- The tail slot of ring `n` empty (R223, R244). -/
  | empty (n : Nat)
  /-- More than one of these: tokens of some queues, places of others, full head slots and empty tail slots of rings. -/
  | several (pops pushes full empty : List Nat)
  /-- Issued words that name ring `n` (R222, R223). -/
  | ringWords (n : Nat)
  /-- Accumulator `n` busy (R91, R169). -/
  | acc (n : Nat)
  /-- A spill or fill of accumulator `n` in progress (R168). -/
  | accMove (n : Nat)
  /-- A free task frame of the context (R342). -/
  | frameFree
  /-- The array's occupancy (R91, R180). -/
  | array
  /-- A place of the core's FIFO (R188, R229). -/
  | fifo
  /-- A line under a range lock (R96, R189). -/
  | lock (line : Nat)
  /-- The grant of the bank of line `line`, for a request that reached it in clock `since`; `writes` says whether it writes
  the line (R97, R216 to R218). -/
  | bank (line since : Nat) (writes : Bool)
  /-- The phase of the barrier at `ba`, which was found not ready (R216). -/
  | barrier (ba : Nat)
  /-- The full bit of the future cell at `ca`, which was found not ready (R218). -/
  | cell (ca : Nat)
  /-- The end of the started cores and of the open words, for RENDZ or RETIRE on the X-core (R215, R227). -/
  | meet (retire : Bool)
  /-- In a handler that the X-core has entered: the completion of its open M-format words (R181, R334). -/
  | opened
  /-- What a FENCE waits for (R228). -/
  | fence
  /-- The release of generation `gen` of group `k` (R220). -/
  | gbar (k gen : Nat)
  /-- The release of the superstep (R232); register `a` gave the deadline, 0 for none. -/
  | sstep (deadline a : Nat)
  /-- A message tag of a port, for a request to a peer (R353). -/
  | credit
  /-- The hub's answer to JOIN, LEAVE or LAUNCH, which comes in clock `c` (R219, R233). -/
  | hub (c : Nat)
  /-- The reply to a global word (R121). -/
  | global
  /-- The STOP of a park that an engine command of this core caused; `running` says whether the core ran (R340, R344). -/
  | parked (running : Bool)
  /-- DATUM at least `n`, which register `a` gave (R231). -/
  | datum (n a : Nat)
  /-- TAI time at least `n`, which register `a` gave (R231). -/
  | tai (n a : Nat)
  /-- The pending frame origin, which register `a` gave (R230). -/
  | origin (o a : Nat)
  /-- The stamp of the word the core holds (R100). -/
  | stamp (clock : Nat)
  deriving DecidableEq, Repr

/-- The states of R237 that a halted core returns to. -/
inductive Kept
  | idle
  | running
  | waiting
  | draining
  deriving DecidableEq, Repr

/-- The states of a core (R237). -/
inductive Run
  | idle
  | running
  | waiting (w : Wait)
  | draining
  | halted (k : Kept)
  deriving DecidableEq, Repr

/-- A word issued and not complete (R18, R91, R92). -/
structure Pend where
  /-- The resources it writes. -/
  res   : List Res
  /-- The first clock in which a later word may read its result (R92). -/
  due   : Nat
  /-- The flags it raises, ORed into FFLAGS at completion (R79). -/
  flags : BitVec 5
  /-- The latch it captures into, and the value (R93). -/
  cap   : Option (Nat × List U32)
  /-- The energy weight it charges and how often (R346). -/
  ew    : Nat × Nat
  /-- For a word with line requests: the clock of its issue, and the clocks from its last line's grant to its result (R91,
  R92). -/
  asks  : Option (Nat × Nat) := none
  deriving DecidableEq, Repr

/-- What a request does at its bank when it is granted (R95, R97, R267). -/
inductive BankAct
  /-- Nothing that the model has not done already: the request only takes its turn. -/
  | look
  /-- LDS: `n` bytes at `ea` into register or out-port `d`. -/
  | load (ea n : Nat) (sgn : Bool) (d : Nat)
  /-- STS, and what VSCAT writes in one line: bytes at addresses. -/
  | put (bytes : List (Nat × List Byte))
  /-- Line `k` of operand `op` (0 D, 1 A, 2 B) read for the vector word that issued when the request arrived. -/
  | take (op k : Nat)
  /-- Line `k` of that word's destination may be written. -/
  | give (k : Nat)
  /-- ARRIVE: the pending arrivals of the barrier at `ba` lowered. -/
  | lower (ba n : Nat)
  /-- BARINIT: the barrier at `ba` written. -/
  | init (ba bytes : Nat)
  /-- PUTF: the cell at `ca` filled. -/
  | fill (ca bytes : Nat)
  /-- LDG or STG of a core of another tile: `n` bytes read for it, or bytes written (R253). -/
  | far (who : Nat) (core : CoreId) (ea n : Nat) (data : List Byte)
  /-- RINGSET of ring `n` by its register `a`: the ring is set from the image in the line (R222). -/
  | ring (n a : Nat)
  /-- A step of the command of a FIFO of tile `who` that issued in clock `issued`, which is performed once all its requests are
  granted (R95, R267). -/
  | eng (who : Nat) (f : Fifo) (issued : Nat)
  deriving DecidableEq, Repr

/-- A line request at a bank that has not been granted: the clock of its arrival, its place in the same-clock order, its
line (R96, R97), its place among the requests made (two operands may reach one line), what it does, the clock by which
datum mode has served it (R102; notes/assumptions 5), and the address of the word that makes it. -/
structure Ask where
  since : Nat
  rank  : Nat
  line  : Nat
  place : Nat := 0
  act   : BankAct := .look
  by_   : Nat := 0
  pc    : U64 := 0
  deriving DecidableEq, Repr

/-- What a vector word computes with: the active lanes, the elements of its operands, the full values of a scalar or
control field, the rounding code, sat, and the LFSRs. -/
structure VIn where
  act  : List Bool
  a    : List Nat
  b    : List Nat
  d    : List Nat
  bx   : U64
  rm   : Nat
  sat  : Bool
  lfsr : List U32
  deriving DecidableEq, Repr

/-- A vector word that reaches scratch lines, from its issue until its lines are written (R125, R127). -/
structure VJob where
  /-- The clock of its issue, which names it: the X-core issues one word a clock. -/
  issued : Nat
  word   : Instr
  /-- What it computes with; the elements of strided operands come from the lines. -/
  vin    : VIn
  /-- The lines of D, A and B that it reads, by operand (0 D, 1 A, 2 B). -/
  reads  : List (Nat × List Int)
  /-- The lines of its destination. -/
  writes : List Int
  /-- Lines read so far: operand, place and contents. -/
  got    : List (Nat × Nat × Nat)
  /-- Places of destination lines granted, and of those not written. -/
  given  : List Nat
  todo   : List Nat
  /-- Clocks from its last read to its result. -/
  lat    : Nat
  /-- Its result, once its lines are read: the first clock that sees it, the elements, and which of them it writes. -/
  out    : Option (Nat × List Nat × List Bool)
  /-- Walk registers that it has advanced, before and after, and the LFSRs after it, where it has stepped them: what a word that
  cannot keep its declared clock gives back (R103, R128). -/
  walks  : List (Nat × U64 × U64) := []
  steps  : Option (List U32) := none
  deriving DecidableEq, Repr

/-- How a global access stands (R121). -/
inductive Reply
  /-- The reply has not come. -/
  | pending
  /-- The access is performed; for a load, with the data read. -/
  | done (data : U64)
  /-- The access met this fault (R121). -/
  | fault (code : Nat)
  deriving DecidableEq, Repr

/-- The global word that blocks a core (R121). -/
structure Glob where
  /-- 0 LDG.W, 1 LDG.WU, 2 LDG.D, 3 STG.W, 4 STG.D. -/
  kind  : Nat
  d     : Nat
  va    : U64
  reply : Reply
  /-- The clock of completion (R122; in free mode a free value). -/
  due   : Nat
  /-- The clock of issue (R323). -/
  since : Nat
  /-- Tokens popped at issue, put back if the word faults (R9): queue and token. -/
  undo  : List (Nat × U32)
  /-- A store of datum mode to HBM, which is performed at its declared clock (R102, R103): its address, whether it counts for
  migration, and its bytes. -/
  write : Option (Nat × Bool × List Byte) := none
  deriving DecidableEq, Repr

/-- A scalar core (R15). -/
structure Core where
  run     : Run
  pc      : U64
  regs    : Store U64
  fflags  : BitVec 5
  frm     : BitVec 3
  priv    : BitVec 2
  tpc     : U64
  tcause  : BitVec 8
  tval    : U64
  tstatus : U64
  codeLo  : U64
  codeHi  : U64
  tvec    : U64
  pend    : List Pend
  glob    : Option Glob
  /-- The clock a stamped word is held for (R100). -/
  held    : Option Nat
  /-- The earliest clock of the next word (R116, R209). -/
  nextAt  : Nat
  /-- A STOP stands at in0 (R337). -/
  stopIn  : Bool
  /-- The held resume point of an engine fault (R205). -/
  resume  : Option U64
  /-- MARKs issued since task start (R229). -/
  marks   : Nat
  /-- GBARs per group (R220). -/
  gbars   : Store Nat
  /-- A handler runs on a core that was draining when its engine faulted (R205, R237). -/
  drain   : Bool
  /-- This core has issued SSTEP in the superstep now open (R232). -/
  arrived : Bool
  /-- The clock of the FORK that started it: its words follow what the X-core accessed before that (R214, R275). -/
  forked  : Option Nat := none
  deriving DecidableEq, Repr

/-- The resources of the X-core (R15). -/
structure XRes where
  /-- v0 to v383: lane `l` of register `n` at key `64 n + l`. -/
  v        : Store U32
  /-- m1 to m7. -/
  m        : Store U64
  /-- w0 to w15 (R35). -/
  w        : Store U64
  /-- byp0 to byp7: lane `l` of latch `n` at key `64 n + l`. -/
  byp      : Store U32
  /-- The valid bits of the latches (R93): the latches that are valid. -/
  bypValid : List Nat
  /-- c0 to c255. -/
  c        : Store U32
  /-- Codebook tables: row `r` of table `t` at key `256 t + r` (R73). -/
  cb       : Store U32
  /-- The lane LFSRs (R80). -/
  lfsr     : List U32
  deriving DecidableEq, Repr

/-- A token, reserved place or freed place of a queue (R31, R210). -/
structure Token where
  tok  : U32
  /-- The clock of the push. -/
  pushAt : Nat
  /-- The order of pushes of one clock: 0 M-format done, 1 engine done, 2 ingest, 3 core (R210, R238). -/
  rank : Nat
  /-- For a core's push: the clock of the word's issue. What the core did before is performed before a pop (R239). -/
  issued : Nat := 0
  deriving DecidableEq, Repr

/-- A token queue (R31). -/
structure Queue where
  toks  : List Token
  /-- Places reserved for tokens whose clock is not known yet (R91, R210). -/
  resv  : Nat
  /-- Clocks in which places were freed by pops: fillable from the next clock (R210). -/
  freed : List Nat
  deriving DecidableEq, Repr

/-- The states of a slot (R244). -/
inductive Slot
  | empty
  | writing
  | full
  | reading
  deriving DecidableEq, Repr

/-- An operand ring (R241, R244). -/
structure Ring where
  isSet  : Bool
  base   : Nat
  nslots : Nat
  lps    : Nat
  shape  : Nat
  h      : Nat
  t      : Nat
  slots  : Store Slot
  /-- For a slot that a RINGOP changed: the core, and the clock of issue. What the core did before is performed before anyone
  sees the change (R245). -/
  held   : Store (CoreId × Nat) := []
  deriving DecidableEq, Repr

/-- One write that an engine command still has to perform (R191, R207). -/
inductive Act
  /-- Bytes of one line of the tile's own scratch, from a byte address. -/
  | own (addr : Int) (bytes : List Byte)
  /-- Bytes of a global destination that lie in one block of it: virtual address, bytes; `twin` for a twin write (R196). -/
  | glob (va : Nat) (bytes : List Byte) (twin : Bool)
  /-- SACC: the element at an index, with the values of one window that name it (R201, R261). -/
  | elem (idx : Nat) (vals : List Nat)
  /-- A line sent to a peer: region-3 intermediate address and its bytes (R204). -/
  | peer (ia : Nat) (bytes : List Byte)
  /-- The rest of the source is read, as far as locks let it be (R189). -/
  | more
  deriving DecidableEq, Repr

/-- A queued engine command, or a MARK (R188, R229, R340). -/
structure Cmd where
  /-- op8, or 256 for a MARK. -/
  op      : Nat
  w       : EWord
  pc      : U64
  /-- The registers read at issue. -/
  ed      : U64
  es      : U64
  eh      : U64
  eb      : U64
  /-- The shape record read at issue (R184), as a number. -/
  shape   : Nat
  /-- Index rows read at issue (CPYG, CPYS; R318). -/
  rows    : List Nat
  /-- The rounding code in force at issue (R76). -/
  rnd     : Nat
  /-- PRIV of the core at issue (R344). -/
  priv    : Nat
  /-- Line ranges (first line, count) locked against writes, and against everything (R189). -/
  srcLock : List (Nat × Nat)
  dstLock : List (Nat × Nat)
  /-- The number of a MARK, and whether its pair is complete (R229, R273). -/
  mark    : Nat
  paired  : Bool
  /-- The clock of issue. -/
  issued  : Nat
  /-- The clock from which its line clocks count: issue, or the start of a replay (R206, R207). -/
  base    : Nat
  /-- Clocks from there to its first access: declared in datum mode, a free value in free mode. -/
  lead    : Nat
  /-- Its sources have been read. -/
  started : Bool
  /-- Writes not performed yet, with their line clocks; units of work done, or the index of a MARK; the fault met after the
  writes (R205). -/
  plan    : List (Nat × Act)
  next    : Nat
  trouble : Option (Nat × U64)
  flags   : BitVec 5
  /-- The command LFSR (R80). -/
  lfsr    : U32
  /-- Source lines fetched from peers, by address. -/
  fetched : List (Nat × List Byte)
  /-- The queue whose place is reserved for the done token (R192). -/
  doneQ   : Option Nat
  /-- The clock of its next access or of its completion (R207; free mode: a free value). -/
  due     : Nat
  /-- An NXTX has left, and late (R204, R361). -/
  sent    : Bool
  late    : Bool
  /-- Faulted after issue (R205). -/
  faulted : Bool
  /-- The requests of its next step have been made (R95). -/
  asked   : Bool := false
  /-- Lines that it has read for that step and for those after it: tile, line, contents as its bank granted them (R267). -/
  got     : List (Nat × Nat × Nat) := []
  deriving DecidableEq, Repr

/-- An M-format word in flight (R180, R181). -/
structure MOpen where
  op    : Nat
  w     : MWord
  due   : Nat
  flags : BitVec 5
  /-- Accumulators it reads and writes (R169). -/
  accs  : List Nat
  writes : List Nat
  /-- Rings it names (R222). -/
  names : List Nat
  /-- Slots to release and to fill at completion: (ring, slot); the lines written then, from the slot's first. -/
  release : List (Nat × Nat)
  fill  : List (Nat × Nat)
  slot  : List (Int × List Byte) := []
  doneQ : Option Nat
  ew    : Nat × Nat
  issued : Nat := 0
  /-- The word, its address, its rounding code, and the rings as it found them. -/
  word  : Instr
  pc    : U64
  rm    : Nat := 0
  rings : Store Ring := []
  /-- Lines that it reads, while an access that comes before its own holds one of them (R189, R270): it computes once none
  does. -/
  held  : List Int := []
  /-- Its per-row scale lines as it read them at issue (R165). -/
  sa    : Nat := 0
  sb    : Nat := 0
  /-- The clock in which its epilogue requests were made (R177). -/
  put   : Option Nat := none
  deriving DecidableEq, Repr

/-- The owner of an accumulator: a task or a handler activation of it (R263). -/
inductive Owner
  | nobody
  | task (uid : Nat)
  | handler (uid level : Nat)
  deriving DecidableEq, Repr

/-- What a task's fetch sees (R20): memory as it stood at task start, with the translation and the twin groups of that
clock, and the scratch of the tiles for code in region 1. -/
structure Snapshot where
  hbm    : List Host.Cell
  poison : List Nat
  host   : List Host.Cell
  pages  : Store U64
  groups : Store (Bool × Bool)
  tiles  : Store (List Host.Cell)
  deriving DecidableEq, Repr

/-- A task on a tile (R235, R311). -/
structure Task where
  live      : Bool
  /-- The model's own number of the task, unique for ever. -/
  uid       : Nat
  ctx       : Nat
  card      : Nat
  taskId    : U32
  recIndex  : U64
  groupMask : BitVec 16
  frameLen  : U32
  abortMark : Bool
  /-- Windows loaded (R317). -/
  windows   : Store (BitVec 128)
  /-- Parcel descriptors (R254). -/
  pds       : Store U64
  keep      : Nat
  prio      : Nat
  /-- The clock of start or resumption (R336). -/
  since     : Nat
  /-- Resident for the context's quantum (R336). -/
  expired   : Bool
  snap      : Snapshot
  /-- Twin groups written since the last flip (R121, R327). -/
  twins     : List Nat
  /-- The task frame held (R341, R342). -/
  frame     : Option Nat
  /-- The frame was held when the task resumed, and goes back once no image stands in it (R341). -/
  resumed   : Bool
  /-- Accumulator images that stand in the frame (R263). -/
  images    : List (Owner × Nat)
  /-- The task is ending and drains: 0 retired, 1 exit, 2 lost, 3 to be dealt again, the code, and the clock before which
  it has not ended (R227, R312). -/
  ending    : Option (Nat × Nat × Nat)
  deriving DecidableEq, Repr

/-- The updates one barrier has received in a clock, which form a single one (R278): the barrier before and after them,
and their sums. -/
structure BarUpd where
  clock : Nat
  pre   : Nat
  post  : Nat
  da    : Nat
  ds    : Nat
  fl    : Nat
  deriving DecidableEq, Repr

/-- A spill or fill of an accumulator in progress (R168): the clock of its end, whether it is a fill, and the owner that it
brings the accumulator to. -/
structure AccMove where
  acc  : Nat
  at_  : Nat
  fill : Bool
  who  : Owner
  deriving DecidableEq, Repr

/-- A tile (R15). -/
structure Tile where
  l            : Core
  x            : Core
  s            : Core
  xr           : XRes
  /-- Bytes of lines 0 to 5114. -/
  scratch      : List Host.Cell
  /-- Element (r, c) of acc `n` at key `4096 n + 64 r + c` (R262). -/
  acc          : Store U32
  accTag       : Store Nat
  accOwner     : Store Owner
  /-- Spills and fills in progress. -/
  accMoves     : List AccMove
  queues       : Store Queue
  rings        : Store Ring
  loadQ        : List Cmd
  storeQ       : List Cmd
  mopen        : List MOpen
  /-- The first clock in which the array accepts a word (R180). -/
  arrayFree    : Nat
  task         : Task
  oorFlag      : Bool
  oorAddr      : U64
  /-- The model's own: the clock and the place in the same-clock order of the access latched (R252). -/
  oorWhen      : Nat × Nat
  /-- The model's own: the last updates of barriers, by address (R278). -/
  barUpds      : Store BarUpd
  /-- Line requests not granted, and the banks that have served a barrier or a future cell in this clock (R95 to R97). -/
  asks         : List Ask
  served       : List Nat
  /-- The model's own: vector words that reach scratch, in program order (R127). -/
  vjobs        : List VJob
  /-- The model's own: 16-byte cells written in this clock, and whether that changed a byte, for the words that wait for one
  (R216, R218). -/
  stirred      : List (Nat × Bool)
  ageLimit     : BitVec 11
  closureWin   : BitVec 32
  energy       : U64
  /-- The charges of this clock, which one update adds to ENERGY (R346, R347). -/
  charges      : Nat
  closureCount : Nat
  /-- A STOP is in progress (R19, R337): the faulting VA where a task parks (R344). -/
  stop         : Option (Option U64)
  /-- The card that a STOP of the hub makes way for (R336). -/
  stopFor      : Option Nat
  /-- Bindings made by NXARM: (flow, ring) (R359). -/
  armed        : List (Nat × Nat)
  /-- Claimed slots: (ring, slot, clock of the fill) (R360). -/
  claims       : List (Nat × Nat × Nat)
  /-- Records of the chunk not started, each with its card (R309). -/
  chunk        : List (Nat × Nat)
  inService    : Bool
  /-- Throttle level (R385). -/
  throttle     : Nat
  /-- The model's own: the last clock in which a core of the tile took a fault or STOP (R345). -/
  struck       : Option Nat
  deriving DecidableEq, Repr

/-- A group of a partition (R219). -/
structure Group where
  members  : List Nat
  /-- Completed barriers. -/
  done     : Nat
  /-- Arrivals for generations not completed: (member, generation). -/
  arrived  : List (Nat × Nat)
  /-- The generation each member's counting starts from (R220). -/
  base     : Store Nat
  /-- The clocks in which the complete generations that are not released, from the next one on, are released (R220). -/
  release  : List Nat
  deriving DecidableEq, Repr

/-- A partition (R332). -/
structure Part where
  tiles    : List Nat
  datum    : Bool
  enw      : Store U32
  grants   : List Nat
  frameOrg : U64
  pendOrg  : Option Nat
  groups   : Store Group
  /-- The clock of the superstep's release, once every tile has arrived (R232). -/
  sstepAt  : Option Nat
  /-- The accepted datum card: its number, tiles at acceptance, round, origin, and tasks of the round not ended. -/
  round    : Option (Nat × List Nat × Nat × Nat × List Nat)
  /-- Origins of dealt rounds that have not come (R314). -/
  origins  : List Nat
  /-- Requests to save that the hub has not acted on (R336). -/
  wanted   : List Nat
  deriving DecidableEq, Repr

/-- A context record in force (R333). -/
structure CtxRec where
  ebase   : Nat
  fbase   : Nat
  closure : Nat
  quantum : Nat
  nframes : Nat
  qlog    : Nat
  mig     : Nat
  age     : Nat
  qbase   : Nat
  cbase   : Nat
  tbase   : Nat
  /-- TVEC, CODE_HI and CODE_LO of S, X and L. -/
  tvec    : U64 × U64 × U64
  codeHi  : U64 × U64 × U64
  codeLo  : U64 × U64 × U64
  vw      : Store (BitVec 128)
  deriving DecidableEq, Repr

/-- A context (R333). -/
structure Ctx where
  recAddr : Nat
  cfg     : CtxRec
  qHead   : U32
  qTail   : U32
  refused : U32
  dxuPage : Nat
  dxuAck  : U64
  /-- What APPDB and DXUWORD were last written with (R351). -/
  appDb   : U64
  dxuWord : U64
  /-- Clocks of the updates applied and not acknowledged, oldest first (R323). -/
  acks    : List Nat
  /-- Addresses of the cards copied into slots of the queue, by slot (R304, R340). -/
  slotVa  : Store U64
  /-- Translation words in force (R321, R323). -/
  pages   : Store U64
  /-- Twin groups: epoch bit and whether the last flip published (R327). -/
  twins   : Store (Bool × Bool)
  /-- Flips whose settlement is not complete: the group, and the clock by which it is (R328, R329). -/
  settle  : Store Nat
  /-- Task frames in use (R341). -/
  frames  : List Nat
  deriving DecidableEq, Repr

/-- A record whose task could not start because a page was absent (R311): the faulting address, its page, whether an update
has named the page, and the model's own number that orders parks and saves. -/
structure Parked where
  record : Nat
  va     : U64
  page   : Nat
  ready  : Bool
  seq    : Nat
  deriving DecidableEq, Repr

/-- An accepted card (R301, R305). -/
structure Card where
  ctx      : Nat
  /-- The 1,024-bit image read at acceptance. -/
  img      : Nat
  /-- The card's virtual address, where it was appended by one (R304, R340). -/
  va       : Option U64
  /-- The TASK_ID that each record had last (R311). -/
  ids      : Store U32
  /-- The first record never dealt, and the lists of R309, R310 and R311. -/
  fresh    : Nat
  returned : List Nat
  redeal   : List Nat
  /-- Unstarted parked records, oldest first. -/
  parked   : List Parked
  discards : Store Nat
  retired  : Nat
  exited   : Nat
  lost     : Nat
  redeals  : Nat
  akind    : Nat
  acode    : Nat
  arec     : Nat
  tend     : Nat
  tlaunch  : Nat
  state    : Nat
  cause    : Nat
  /-- Status writes held at the hub, oldest first (R306). -/
  heldWr   : List (List Byte)
  deriving DecidableEq, Repr

/-- A saved task (R340, R343). -/
structure Saved where
  tile  : Tile
  kind  : Nat
  fault : U64
  /-- The tile it left, the frame it holds and the die whose shadow pool holds its lines. -/
  home  : Nat
  frame : Nat
  pool  : Option Nat
  ready : Bool
  /-- The tile it has been dealt to and resumes on (R343), and the model's own number that orders parks and saves. -/
  dealt : Option Nat
  seq   : Nat
  deriving DecidableEq, Repr

/-- A region-1 request in flight (R253). -/
structure Remote where
  who   : Nat × CoreId
  ia    : Nat
  bytes : Nat
  /-- Data of a store; none for a load. -/
  data  : Option (List Byte)
  deriving DecidableEq, Repr

/-- A peer request outstanding at a port (R353, R356): who sent it, and how often it was replayed (R355). -/
structure PeerReq where
  port  : Nat
  tag   : Nat
  tile  : Nat
  /-- None: a core's global word; some FIFO: the command at its head. -/
  core  : CoreId
  fifo  : Option Fifo
  /-- For a command: the sectors its acknowledge counts, or the address that it reads. -/
  sect  : Nat
  va    : Nat
  replays : Nat
  /-- For a command: the clock of its issue, which names it in its FIFO. -/
  issued  : Nat := 0
  /-- The clock in which it was sent (R323). -/
  since   : Nat := 0
  deriving DecidableEq, Repr

/-- A pending Ethernet send (R361). -/
structure TxFrame where
  launch : Nat
  order  : Nat
  late   : Bool
  bytes  : List Byte
  /-- The tile and FIFO of the NXTX, and the number of its send; none for the host's ring. -/
  src    : Option (Nat × Fifo × Nat)
  deriving DecidableEq, Repr

/-- A migration in progress (R325). -/
structure Mig where
  ctx   : Nat
  page  : Nat
  old   : U64
  die   : Nat
  stack : Nat
  frame : Nat
  /-- The clock in which the copy ends: a free value (R325). -/
  due   : Nat
  deriving DecidableEq, Repr

/-- Who wrote to host memory: a core's word, or its command, of a task; the hub; or a peer, whose request with this tag at a
port awaits its acknowledge (R228, R268, R356). -/
inductive HostWriter
  | task (uid : Nat) (core : CoreId) (engine : Bool)
  | hub
  | peer (port src tag : Nat)
  deriving DecidableEq, Repr

/-- What leaves the package (R348, R353, R361). -/
inductive Out
  | msix (vector : Nat)
  | hostRead (data : List Byte) (poison : Bool)
  | hostError
  | peer (port : Nat) (hdr : U64) (payload : List Byte)
  | frame (port : Nat) (bytes : List Byte)
  | control (port : Nat) (hdr : U64)
  deriving DecidableEq, Repr

/-- The end of a record that the hub has not recorded: its tile and card, the record, how it ended (0 retired, 1 exit, 2 lost,
3 to be dealt again), and the code (R306, R307, R312). -/
structure TaskEnd where
  tile : Nat
  card : Nat
  rec_ : Nat
  kind : Nat
  code : Nat
  /-- The task was saved: it belongs to no round. -/
  away : Bool := false
  deriving DecidableEq, Repr

/-- The core whose word is being issued. -/
structure Who where
  tile : Nat
  core : CoreId
  deriving DecidableEq, Repr

/-- The package (R13, R17). -/
structure State where
  powered  : Bool
  /-- DATUM (R98). -/
  now      : Nat
  /-- The triple in force: ANCH_D, ANCH_T, RATE (R362). -/
  ptp      : Nat × Nat × Nat
  /-- A committed triple that has not taken effect. -/
  ptpPend  : Option (Nat × Nat × Nat)
  tiles    : Store Tile
  hbm      : List Host.Cell
  /-- Poisoned physical sectors (R378). -/
  poison   : List Nat
  host     : List Host.Cell
  /-- Lines of host memory that the host answers with an error or poison (R350). -/
  hostBad  : List Nat
  /-- Sectors of host memory written poisoned, whose modified line a die cache has lost (R378). -/
  hostPoison : List Nat
  parts    : Store Part
  ctxs     : Store Ctx
  /-- Accepted cards by their own number. -/
  cards    : Store Card
  saved    : Store Saved
  /-- Tiles that have asked for work and been given none, in the order of their requests (R308). -/
  asking   : List Nat
  /-- The next task number and card number, and the context last dealt at each priority (R308). -/
  nextUid  : Nat
  nextCard : Nat
  lastCtx  : Store Nat
  /-- ABORTG performed at the hub at a clock to come: (clock, partition, group) (R221). -/
  aborts   : List (Nat × Nat × Nat)
  /-- Device registers that hold a value of their own, by offset (R351). -/
  dev      : Store U64
  /-- The hub command in progress: its status once known (R352). -/
  hubBusy  : Option Nat
  flowSeq  : Store Nat
  txq      : Store (List TxFrame)
  /-- The clock until which each Ethernet port sends (R361). -/
  txFree   : Store Nat
  /-- Entries of the host transmit ring taken (R351). -/
  htxHead  : Nat
  migs     : List Mig
  /-- Counters that crossed the threshold in this clock: context, page, die (R325). -/
  crossed  : List (Nat × Nat × Nat)
  remote   : List Remote
  peers    : List PeerReq
  /-- Writes to host memory not acknowledged by the host, oldest first (R268). -/
  hostAcks : List HostWriter
  out      : List Out
  /-- Error counts (R377, R386) by place. -/
  counts   : Store Nat
  telSeq   : Nat
  /-- Power limit in force and demands of the previous period are the hub's own (R383). -/
  plim     : Nat
  /-- Entries of the monument record, oldest first (R381). -/
  monument : List (BitVec 128)
  /-- Appends not yet complete in flash, oldest first, each with the clock by which it is (R382). -/
  flashing : List Nat
  /-- Spares in use or found faulty: die and index (R380, R387). -/
  spares   : List (Nat × Nat)
  /-- The tiles in which a machine check has found the part faulty, each as often as it did: self-test finds them again
  (R379, R382). -/
  broken   : List Nat
  /-- Ports left down at bring-up: 0 to 127 Ustik Link, 128 and 129 Ethernet, 130 CXL (R387). -/
  downPorts : List Nat
  /-- Frames retired while the record was full (R381): stack and frame. -/
  badFrames : List (Nat × Nat)
  /-- Supply guardbands by die, and calibration by lane (R18, R375): the implementation's own values. -/
  guardband : Store Nat
  calib    : Store Nat
  /-- A package reset's bring-up has not ended (R387). -/
  rising   : Bool
  /-- Dies out of service since bring-up (R387). -/
  deadDies : List Nat
  /-- The model's own: inputs and events that are due, oldest first. -/
  agenda   : List Instr
  /-- The model's own: cores that may still issue in this clock. -/
  turn     : List Who
  /-- The model's own: cores whose word ends the task or delivers an abort, and waits in this clock for the other cores of its
  tile (R345), once for each time that it was put off. -/
  later    : List Who
  /-- The model's own: ends of records in this clock (R306). -/
  ends     : List TaskEnd
  /-- The model's own: the core whose word is issued. -/
  cur      : Who
  /-- The model's own: a counter for free values. -/
  fresh    : Nat
  deriving DecidableEq, Repr

/-- A core with no task: the values of task start and of context creation (R39, R235). -/
def Core.idle : Core :=
  { run := .idle, pc := 0, regs := [], fflags := 0, frm := 0, priv := 0, tpc := 0, tcause := 0, tval := 0, tstatus := 0,
    codeLo := 0, codeHi := 0, tvec := 0, pend := [], glob := none, held := none, nextAt := 0, stopIn := false,
    resume := none, marks := 0, gbars := [], drain := false, arrived := false }

/-- The X-core's resources with no task. The lane LFSRs stand at 1, the value of seed 0 and record 0 (notes/assumptions
2: DESIGN CHOICE, the spec gives no value outside a task). -/
def XRes.idle : XRes :=
  { v := [], m := [], w := [], byp := [], bypValid := [], c := [], cb := [], lfsr := List.replicate 64 1 }

/-- No task (notes/assumptions 2: the numbers of a task that is not there are zero, DESIGN CHOICE). -/
def Task.absent : Task :=
  { live := false, uid := 0, ctx := 0, card := 0, taskId := 0, recIndex := 0, groupMask := 0, frameLen := 0,
    abortMark := false, windows := [], pds := [(0, 0x4000BA000#64)], keep := 0, prio := 0, since := 0, expired := false,
    snap := ⟨[], [], [], [], [], []⟩, twins := [], frame := .none, resumed := false,
    images := [], ending := .none }

/-- A tile that holds no task. -/
def Tile.idle : Tile :=
  { l := Core.idle, x := Core.idle, s := Core.idle, xr := XRes.idle, scratch := [], acc := [], accTag := [],
    accOwner := [], accMoves := [], queues := [], rings := [], loadQ := [], storeQ := [], mopen := [], arrayFree := 0,
    task := Task.absent, oorFlag := false, oorAddr := 0, oorWhen := (0, 0), barUpds := [],
    asks := [], served := [], vjobs := [], stirred := [], ageLimit := 64,
    closureWin := 65536, energy := 0, charges := 0, closureCount := 0, stop := none, stopFor := none, armed := [],
      claims := [], chunk := [], inService := true, throttle := 0,
    struck := none }

/-- The guardbands that a bring-up sets (R387): the implementation's own. -/
def bringUpBands (fresh : Nat) : Store Nat := (List.range 4).map (fun d => (d, Config.guardband (fresh + d)))

/-- The machine right after package reset (R387): DATUM 0, the PTP triple and the registers at their reset values, no
context, partition, card or task. What memory holds then is not given, but for the service frame of stack 0, where the hub
writes the power control word 3,600 at bring-up (R384, R387) and the telemetry block stands at its reset values (R386):
nothing else is listed (notes/assumptions 1). -/
def State.reset : State :=
  { powered := true, now := 0, ptp := (0, 0, 407226528806), ptpPend := none, tiles := [],
    hbm := [(0xEE6810000, 0x10), (0xEE6810001, 0x0E), (0xEE6811010, 0x10), (0xEE6811011, 0x0E), (0xEE6811052, 0x10),
      (0xEE6811092, 0x10), (0xEE68110D2, 0x10), (0xEE6811112, 0x10)], poison := [], host := [], hostBad := [], hostPoison := [],
    parts := [], ctxs := [], cards := [], saved := [], asking := [], nextUid := 1, nextCard := 1, lastCtx := [], aborts := [],
    dev := [], hubBusy := none, flowSeq := [], txq := [], txFree := [], htxHead := 0, migs := [], crossed := [],
    remote := [], peers := [], hostAcks := [], out := [], counts := [], telSeq := 0, plim := 3600, monument := [],
    flashing := [], spares := [], broken := [], downPorts := [], badFrames := [], guardband := bringUpBands 0, calib := [],
      rising := false,
    deadDies := [], agenda := [], turn := [], later := [], ends := [], cur := ⟨0, .X⟩, fresh := 0 }

end Sys2Proof.Machine
end

