-- ==== Sys2Proof/Machine/Access.lean ====
section
/-!
DEFINITION. Reaching tiles, cores, partitions and contexts in the state; the scratchpad of a tile with the out-of-range
rule; range locks; TAI time.
-/

namespace Sys2Proof.Machine

/-- The tile with id `g` (R14); an unlisted tile holds no task. -/
def State.tile (s : State) (g : Nat) : Tile := Store.get Tile.idle s.tiles g

/-- The tile with id `g` replaced. -/
def State.setTile (s : State) (g : Nat) (t : Tile) : State := { s with tiles := Store.put s.tiles g t }

/-- A core of a tile (R15). -/
def Tile.core (t : Tile) : CoreId → Core
  | .L => t.l
  | .X => t.x
  | .S => t.s

/-- A core of a tile replaced. -/
def Tile.setCore (t : Tile) (c : CoreId) (k : Core) : Tile :=
  match c with
  | .L => { t with l := k }
  | .X => { t with x := k }
  | .S => { t with s := k }

/-- The core `w` names. -/
def State.core (s : State) (w : Who) : Core := (s.tile w.tile).core w.core

/-- The core `w` names replaced. -/
def State.setCore (s : State) (w : Who) (k : Core) : State :=
  s.setTile w.tile ((s.tile w.tile).setCore w.core k)

/-- The core whose word is issued. -/
def State.me (s : State) : Core := s.core s.cur

/-- Its tile. -/
def State.myTile (s : State) : Tile := s.tile s.cur.tile

/-- The issuing core replaced. -/
def State.setMe (s : State) (k : Core) : State := s.setCore s.cur k

/-- The issuing core's tile replaced. -/
def State.setMyTile (s : State) (t : Tile) : State := s.setTile s.cur.tile t

/-- The partition that holds tile `g` (R332). -/
def State.partOf (s : State) (g : Nat) : Option (Nat × Part) := s.parts.find? (fun p => p.2.tiles.contains g)

/-- Tile `g` belongs to a datum-mode partition (R2, R332). -/
def State.datumTile (s : State) (g : Nat) : Bool :=
  match s.partOf g with
  | some (_, p) => p.datum
  | none => false

/-- Two tiles belong to one partition. A tile of no partition shares one with itself alone (R253). -/
def State.samePart (s : State) (g h : Nat) : Bool :=
  match s.partOf g with
  | some (_, p) => p.tiles.contains h
  | none => g == h

/-- FRAME_ORG as tile `g` reads it (R99). -/
def State.frameOrg (s : State) (g : Nat) : U64 :=
  match s.partOf g with
  | some (_, p) => p.frameOrg
  | none => 0

/-- The context numbered `x`, if it exists (R333). -/
def State.ctx (s : State) (x : Nat) : Option Ctx := Store.find s.ctxs x

/-- A context replaced. -/
def State.setCtx (s : State) (x : Nat) (c : Ctx) : State := { s with ctxs := Store.put s.ctxs x c }

/-- The card with the hub's number `n`. -/
def State.card (s : State) (n : Nat) : Option Card := Store.find s.cards n

/-- A card replaced. -/
def State.setCard (s : State) (n : Nat) (c : Card) : State := { s with cards := Store.put s.cards n c }

/-- The die of tile `g` (R14). -/
def dieOf (g : Nat) : Nat := g / 160

/-- Hops between two tiles of one die (R103). -/
def hops (g h : Nat) : Nat :=
  let dx := (g % 16 : Nat) - (h % 16 : Int)
  let dy := (g % 160 / 16 : Nat) - (h % 160 / 16 : Int)
  dx.natAbs + dy.natAbs

/-- The declared figure of a remote scratch access (R103, R122). -/
def remoteFigure (g h : Nat) : Nat := if dieOf g = dieOf h then 24 + 2 * hops g h else 160

/-- TAI nanoseconds of DATUM `d` under a triple (R362). -/
def taiOf (t : Nat × Nat × Nat) (d : Nat) : Nat :=
  wrapTo 64 ((t.2.1 : Int) + ((d : Int) - (t.1 : Int)) * (t.2.2 : Int) / (2 ^ 40 : Nat))

/-- TAI nanoseconds of the current clock (R39 PTP_NOW, R362). -/
def State.tai (s : State) : Nat := taiOf s.ptp s.now

/-- Something leaves the package. -/
def State.emit (s : State) (o : Out) : State := { s with out := s.out ++ [o] }

/-- An event falls due (the model's own order: notes/assumptions 3). -/
def State.due (s : State) (i : Instr) : State := { s with agenda := s.agenda ++ [i] }

/-- An event falls due unless it already is. -/
def State.dueOnce (s : State) (i : Instr) : State := if s.agenda.contains i then s else s.due i

/-- A free value's argument is used up (notes/assumptions 4). -/
def State.tick (s : State) : State := { s with fresh := s.fresh + 1 }

/-- A line that a program reaches (R250). -/
def inRange (line : Int) : Bool := decide (0 ≤ line ∧ line ≤ 5114)

/-- Places in the same-clock order of scratch requests (R97, R252). A word's request to its own tile's region-1 window is a remote
one (R253) that keeps its core's order and its locks (R189, R270; notes/assumptions 112). -/
def rankCopyIn : Nat := 0
def rankTransform : Nat := 1
def rankRemote : Nat := 2
def rankHome : CoreId → Nat
  | .L => 3
  | .X => 4
  | .S => 5
def rankArray : Nat := 6
def rankVector : Nat := 7
def rankScalar : CoreId → Nat
  | .L => 8
  | .X => 9
  | .S => 10
def rankCopyOut : Nat := 11
def rankEpilogue : Nat := 12

/-- The out-of-range latch (R252): the first access of a clock by the order of R97 is the one recorded. -/
def Tile.latch (t : Tile) (now rank : Nat) (addr : U64) : Tile :=
  if t.oorFlag then
    if t.oorWhen.1 = now ∧ rank < t.oorWhen.2 then { t with oorAddr := addr, oorWhen := (now, rank) } else t
  else { t with oorFlag := true, oorAddr := addr, oorWhen := (now, rank) }

/-- The address that an out-of-range line latches (R252). -/
def lineAddr (line : Int) : U64 := BitVec.ofNat 64 (wrapTo 64 (line * 64))

/-- The 64 bytes of a line; zero where it is out of range (R251). -/
def Tile.line (t : Tile) (line : Int) : List Byte :=
  if inRange line then Memory.bytes t.scratch (line.toNat * 64) 64 else List.replicate 64 0

/-- The 16-byte cells of some bytes (R277, R218). -/
def cellsOf (a n : Nat) : List Nat := if n = 0 then [] else (List.range ((a % 16 + n + 15) / 16)).map (fun k => a / 16 + k)

/-- Bytes of scratch written in range; the cells are known to have been written, or changed, in this clock (R216, R218). -/
def Tile.store (t : Tile) (a : Nat) (bs : List Byte) : Tile :=
  let m := Memory.setBytes t.scratch a bs
  { t with scratch := m,
           stirred := (cellsOf a bs.length).map (fun c => (c, Memory.num m (16 * c) 16 != Memory.num t.scratch (16 * c) 16)) ++
             t.stirred }

/-- A line written from its first byte; dropped where it is out of range (R251). -/
def Tile.setLine (t : Tile) (line : Int) (bs : List Byte) : Tile :=
  if inRange line then t.store (line.toNat * 64) bs else t

/-- A line access latched where it is out of range. -/
def Tile.touch (t : Tile) (now rank : Nat) (line : Int) : Tile :=
  if inRange line then t else t.latch now rank (lineAddr line)

/-- `n` bytes at a byte address, within one line; zero where it is out of range (R118, R251). -/
def Tile.readAt (t : Tile) (ea : Int) (n : Nat) : Nat :=
  if inRange (ea / 64) then Memory.num t.scratch ea.toNat n else 0

/-- Bytes written at a byte address, within one line; dropped where it is out of range. -/
def Tile.writeAt (t : Tile) (ea : Int) (bs : List Byte) : Tile :=
  if inRange (ea / 64) then t.store ea.toNat bs else t

/-- A byte-address access latched where it is out of range (R118, R252). -/
def Tile.touchAt (t : Tile) (now rank : Nat) (ea : Int) : Tile :=
  if inRange (ea / 64) then t else t.latch now rank (BitVec.ofNat 64 (wrapTo 64 ea))

/-- A line lies in one of some ranges. -/
def inRanges (rs : List (Nat × Nat)) (line : Int) : Bool :=
  rs.any (fun r => decide ((r.1 : Int) ≤ line ∧ line < r.1 + r.2))

/-- Every queued command of a tile. -/
def Tile.cmds (t : Tile) : List Cmd := t.loadQ ++ t.storeQ

/-- A core may not read the line: it is a destination of a command under a range lock (R189). -/
def Tile.readLocked (t : Tile) (line : Int) : Bool := t.cmds.any (fun c => inRanges c.dstLock line)

/-- A core may not write the line: it is a source or destination of a command under a range lock (R189). -/
def Tile.writeLocked (t : Tile) (line : Int) : Bool :=
  t.cmds.any (fun c => inRanges c.dstLock line || inRanges c.srcLock line)

/-- A ring not set (R242). -/
def Ring.unset : Ring := { isSet := false, base := 0, nslots := 0, lps := 0, shape := 0, h := 0, t := 0, slots := [] }

/-- A ring of a tile. -/
def Tile.ring (t : Tile) (n : Nat) : Ring := Store.get Ring.unset t.rings n

/-- A ring of a tile replaced. -/
def Tile.setRing (t : Tile) (n : Nat) (r : Ring) : Tile := { t with rings := Store.put t.rings n r }

/-- The ring a descriptor image describes; none where the image is invalid (R241). -/
def ringOfImage (v : Nat) : Option Ring :=
  let base := bitsAt v 0 13
  let nslots := bitsAt v 32 7
  let lps := bitsAt v 64 13
  let shape := bitsAt v 112 13
  if bitsAt v 125 387 ≠ 0 ∨ bitsAt v 77 35 ≠ 0 ∨ bitsAt v 39 25 ≠ 0 ∨ bitsAt v 13 19 ≠ 0 then none
  else if nslots = 0 ∨ 64 < nslots ∨ lps = 0 ∨ 5115 < lps then none
  else if 5115 ≤ shape ∧ shape ≤ 8190 then none
  else if 5115 < base + nslots * lps then none
  else some { isSet := true, base := base, nslots := nslots, lps := lps, shape := shape, h := 0, t := 0, slots := [] }

/-- The FIFO of a core (R188). -/
def Tile.fifo (t : Tile) : Fifo → List Cmd
  | .load => t.loadQ
  | .store => t.storeQ

/-- A FIFO replaced. -/
def Tile.setFifo (t : Tile) (f : Fifo) (q : List Cmd) : Tile :=
  match f with
  | .load => { t with loadQ := q }
  | .store => { t with storeQ := q }

/-- The core that issues into a FIFO. -/
def fifoCore : Fifo → CoreId
  | .load => .L
  | .store => .S

/-- The parcel that holds a line (R254, R256). -/
def Task.parcelOf (k : Task) (line : Int) : Option U64 :=
  (k.pds.map (fun e => e.2)).find? (fun d =>
    bit d.toNat 34 = 1 &&
      decide ((bitsAt d.toNat 0 13 : Int) ≤ line ∧ line < bitsAt d.toNat 0 13 + bitsAt d.toNat 13 13))

/-- The recorded type of a line, if it has one (R256). -/
def Task.lineType (k : Task) (line : Int) : Option Nat :=
  match k.parcelOf line with
  | some d => if bit d.toNat 32 = 1 then some (bitsAt d.toNat 26 4) else none
  | none => none

/-- A line is spectral (R256): its recorded type is CB16 or CF32. -/
def Task.lineSpectral (k : Task) (line : Int) : Bool :=
  match k.lineType line with
  | some ty => ty == 7 || ty == 8
  | none => false

end Sys2Proof.Machine
end

