-- ==== Sys2Proof/Machine/Banks.lean ====
section
/-!
DEFINITION. The banks of a tile's scratch (R94 to R97, R102): requests, which of them a bank may grant and in what order, what
they do when they are granted, and what waiting does to a word's result.
-/

namespace Sys2Proof.Machine

/-- The bank of a line (R94). -/
def bankOf (line : Nat) : Nat := line % 31

/-- The role of a place in the same-clock order: 0 L-side, 1 X-side, 2 S-side (R96, R97). -/
def sideOf (rank : Nat) : Nat := if rank ≤ rankHome .S then 0 else if rank ≤ rankScalar .S then 1 else 2

/-- The core whose word makes requests at a place of the order; none for engines and other tiles. -/
def askCore (rank : Nat) : Option CoreId :=
  if rank = rankVector then some .X
  else if rank = rankScalar .L then some .L
  else if rank = rankScalar .X then some .X
  else if rank = rankScalar .S then some .S
  else if rank = rankHome .L then some .L
  else if rank = rankHome .X then some .X
  else if rank = rankHome .S then some .S
  else none

/-- Lexicographic order on equally long lists. -/
def lexLess : List Nat → List Nat → Bool
  | a :: as, b :: bs => decide (a < b) || (a == b && lexLess as bs)
  | _, _ => false

/-- What a bank orders its requests by (R97): aged ones first, by arrival; then by role, and by arrival within a role; those
of one clock by the order of R97, those of one word by line, and those of one line by place. -/
def Ask.key (x : Ask) (limit now : Nat) : List Nat :=
  if limit ≤ now - x.since then [0, x.since, sideOf x.rank, x.rank, x.line, x.place]
  else [1, sideOf x.rank, x.since, x.rank, x.line, x.place]

/-- Every request at the tile's banks: those of words and engines, and those of words that wait for a bank. -/
def Tile.atBanks (t : Tile) : List Ask :=
  t.asks ++ [CoreId.L, .X, .S].filterMap (fun c =>
    match (t.core c).run with
    | .waiting (.bank l since wr) => some { since := since, rank := rankScalar c, line := l, act := if wr then .put [] else .look }
    | _ => none)

/-- A request writes its line. -/
def Ask.writes (x : Ask) : Bool :=
  match x.act with
  | .look => false
  | .load _ _ _ _ => false
  | .take _ _ => false
  | .put _ => true
  | .give _ => true
  | .lower _ _ => true
  | .init _ _ => true
  | .fill _ _ => true
  | .far _ _ _ _ bs => !bs.isEmpty
  | .ring _ _ => false
  | .eng _ _ _ => false

/-- A request comes from a word or a command of another tile. -/
def Ask.isFar (x : Ask) : Bool :=
  match x.act with
  | .far _ _ _ _ _ => true
  | .eng _ _ _ => x.rank == rankRemote
  | _ => false

/-- A request is one of tile `g` at another's banks, or at its own through region 1. -/
def Ask.isOf (x : Ask) (g : Nat) : Bool :=
  match x.act with
  | .far who _ _ _ _ => who == g
  | .eng who _ _ => who == g
  | _ => false

/-- A request asks for a line of a vector word's destination. -/
def Ask.isGive (x : Ask) : Bool := match x.act with | .give _ => true | _ => false

/-- A line of the slot that an M-format word fills, which it has not written. -/
def MOpen.fills (m : MOpen) (line : Int) : Bool := m.slot.any (fun e => e.1 == line)

/-- A line of its destination that a vector word has not written. -/
def VJob.owes (j : VJob) (line : Int) : Bool := j.todo.any (fun k => j.writes.getD k (-1) == line)

/-- A line that a vector or M-format word of the X-core, issued before clock `before`, has yet to write (R119, R127). -/
def Tile.unwritten (t : Tile) (before : Nat) (line : Int) : Bool :=
  t.vjobs.any (fun j => decide (j.issued < before) && j.owes line) ||
    t.mopen.any (fun m => decide (m.issued < before) && m.fills line)

/-- The lines that a core's words issued before clock `before` write are written: those of its vector words, and the slots
that its M-format words fill (R239, R245). -/
def Tile.linesWritten (t : Tile) (c : CoreId) (before : Nat) : Bool :=
  c != .X || (t.vjobs.all (fun j => j.todo.isEmpty || decide (before ≤ j.issued)) &&
    t.mopen.all (fun m => m.fill.isEmpty || decide (before ≤ m.issued)))

/-- The lines that its M-format words issued before clock `before` read are read (R239, R245). -/
def Tile.linesRead (t : Tile) (c : CoreId) (before : Nat) : Bool :=
  c != .X || t.mopen.all (fun m => m.held.isEmpty || decide (before ≤ m.issued))

/-- A core has yet to write a line, by a word issued before clock `before` (R119, R127). -/
def Tile.writeLeft (t : Tile) (c : CoreId) (before : Nat) (line : Int) : Bool :=
  t.asks.any (fun a => askCore a.rank == some c && decide (a.since < before) && a.writes && decide ((a.line : Int) = line)) ||
    (c == .X && t.unwritten before line)

/-- The accesses to scratch that a core's words issued before clock `before` made are performed: the banks have served its
requests, and its lines are written (R239, R245, R267). -/
def Tile.performed (t : Tile) (c : CoreId) (before : Nat) : Bool :=
  t.asks.all (fun a => askCore a.rank != some c || decide (before ≤ a.since)) && t.linesWritten c before &&
    t.linesRead c before

/-- A request is held at the range lock of a command (R96, R189): one of the tile's own cores that arrived no earlier than
the lock was taken, for a line of the command's destination, or to write a line of its source. -/
def Tile.lockHeld (t : Tile) (x : Ask) : Bool :=
  (askCore x.rank).isSome && t.cmds.any (fun d => decide (d.issued ≤ x.since) &&
    (inRanges d.dstLock x.line || (x.writes && inRanges d.srcLock x.line)))

/-- A request of a core waits for the accesses of its core that it must follow (R119, R127, R270): scalar ones keep their
order, ones to a line follow earlier ones that write it or that it writes, ARRIVE and BARINIT follow all (R217), and PUTF
follows all that write (R218). -/
def Tile.orderHeld (t : Tile) (x : Ask) : Bool :=
  match askCore x.rank with
  | none => false
  | some c =>
    t.asks.any (fun y => askCore y.rank == some c && decide (y.since < x.since) &&
      ((x.rank != rankVector && y.rank == x.rank) ||
        (y.line == x.line && (x.writes || y.writes) && !(x.isGive && y.isGive)))) ||
    (c == .X && !x.isGive && t.unwritten x.since x.line) ||
    match x.act with
    | .lower _ _ => !t.performed c x.since
    | .init _ _ => !t.performed c x.since
    | .fill _ _ => t.asks.any (fun y => askCore y.rank == some c && decide (y.since < x.since) && y.writes) ||
        !t.linesWritten c x.since
    | _ => false

/-- A request may be granted (R96). -/
def Tile.eligible (t : Tile) (x : Ask) : Bool := !t.lockHeld x && !t.orderHeld x

/-- The role that the slot wheel of datum mode serves at the bank of a line: 0 L-side, 1 X-side, 2 S-side (R102). -/
def wheelRole (line now : Nat) : Nat := [1, 1, 0, 1, 1, 2, 1, 0].getD ((now + bankOf line) % 8) 1

/-- What a bank of datum mode orders the requests of one role by (R97, R102). -/
def Ask.turn (x : Ask) : List Nat := [x.since, x.rank, x.line, x.place]

/-- The bank of a request may grant it in clock `now` of free mode: it has served none in the clock, and no other request
there that may be granted comes first (R97). -/
def Tile.grants (t : Tile) (now : Nat) (x : Ask) : Bool :=
  t.eligible x && !t.served.contains (bankOf x.line) &&
    t.atBanks.all (fun y => bankOf y.line != bankOf x.line || y == x || !t.eligible y ||
      lexLess (x.key t.ageLimit.toNat now) (y.key t.ageLimit.toNat now))

/-- A request stores bytes of its own, which datum mode holds to their declared clock (R102). -/
def Ask.isPut (x : Ask) : Bool :=
  match x.act with
  | .put _ => true
  | .far _ _ _ _ bs => !bs.isEmpty
  | _ => false

/-- The bank of a request grants it in clock `now` of datum mode (R102): in a slot of its role, first of those of the role
there; or, so that its declared figure holds, in the last clock that leaves room for it. What it stores is seen from its declared
clock on (notes/assumptions 5). -/
def Tile.wheelGrants (t : Tile) (now : Nat) (x : Ask) : Bool :=
  t.eligible x && (decide (x.by_ ≤ now) || (!x.isPut && wheelRole x.line now == sideOf x.rank &&
    t.asks.all (fun y => bankOf y.line != bankOf x.line || y == x || sideOf y.rank != sideOf x.rank || !t.eligible y ||
      lexLess x.turn y.turn)))

/-- Requests of one clock for some lines, one for each, with what each does; a line out of range makes none (R94, R95).
Datum mode has served them within `within` clocks. -/
def Tile.ask (t : Tile) (now rank within : Nat) (ls : List (Int × BankAct)) (pc : U64 := 0) : Tile :=
  { t with asks := t.asks ++ (ls.filter (fun l => inRange l.1)).mapIdx (fun k l =>
      { since := now, rank := rank, line := l.1.toNat, place := t.asks.length + k, act := l.2, by_ := now + within, pc := pc }) }

/-- The clocks after its arrival in which datum mode serves a request of one line, with the result four clocks after the
arrival (R102, R103). -/
def lineSlack : Nat := 3

/-- The clock in which a word is complete that would be complete in clock `due`, where some of its requests are left at the end
of clock `now` (R91, R92, R95): its result follows the last line that it reads by `lag` clocks, and it completes no earlier than
its last line is written; in datum mode it keeps its clock (R102), unless an access of its core that one of them follows takes
longer (R119). -/
def slipTo (due now lag : Nat) (datum : Bool) (mine : List Ask) : Nat :=
  let late := mine.filter (fun a => !(datum && decide (now < a.by_)))
  let due := if late.any Ask.isGive then max due (now + 2) else due
  if late.all Ask.isGive then due else max due (now + 1 + lag)

/-- A core's words whose requests are among those left at the end of a clock: their results come that much later (R91). -/
def Core.slip (k : Core) (c : CoreId) (now : Nat) (datum : Bool) (left : List Ask) : Core :=
  { k with pend := k.pend.map (fun p =>
      match p.asks with
      | some (since, lag) =>
        { p with due := slipTo p.due now lag datum (left.filter (fun a => a.since == since && askCore a.rank == some c)) }
      | none => p) }

/-- Every access to scratch that a core has made is performed (R217, R228, R268, R275). -/
def Tile.accessesDone (t : Tile) (c : CoreId) (now : Nat) : Bool := t.performed c (now + 1)

/-- Every write to scratch that a core has made is performed (R218). -/
def Tile.writesDone (t : Tile) (c : CoreId) (now : Nat) : Bool :=
  t.asks.all (fun a => askCore a.rank != some c || !a.writes) && t.linesWritten c (now + 1)

/-- The core that pushes a queue's tokens, ingest hardware and done tokens aside (R31). -/
def pusher (q : Nat) : CoreId := if q = 4 ∨ q = 7 then .S else if q = 2 ∨ q = 3 ∨ q = 5 then .X else .L

/-- A token entered at its place in the order of clocks and of one clock's pushes (R210). -/
def insertToken (k : Token) : List Token → List Token
  | [] => [k]
  | h :: ks =>
    if k.pushAt < h.pushAt ∨ (k.pushAt = h.pushAt ∧ k.rank < h.rank) then k :: h :: ks else h :: insertToken k ks

/-- A token whose value comes later than its word's latency gives enters its queue that much later (R30, R91). -/
def Token.slip (k : Token) (c : Core) : Token :=
  if k.rank = 3 then
    { k with pushAt := (c.pend.filter (fun p => p.asks.any (fun a => a.1 == k.issued))).foldl (fun n p => max n (p.due - 1)) k.pushAt }
  else k

/-- The queues after results have slipped: tokens in the order of the clocks that they enter in (R210). -/
def Tile.slipQueues (t : Tile) : Tile :=
  { t with queues := t.queues.map (fun (e : Nat × Queue) =>
      (e.1, { e.2 with toks := (e.2.toks.map (Token.slip · (t.core (pusher e.1)))).foldl (fun ks k => insertToken k ks) [] })) }

/-- A barrier's 16 bytes (R277); an out-of-range barrier reads zero. -/
def Tile.barrier (t : Tile) (ba : Int) : Nat := t.readAt ba 16

/-- A barrier's phase (R277). -/
def barrierPhase (b : Nat) : Nat := bitsAt b 124 4

/-- barrier_update of R278: arrivals, sectors and flags of one clock taken from a barrier. -/
def barrierUpdate (b da ds fl : Nat) : Nat :=
  let arr := bitsAt b 76 24
  let sec := bitsAt b 44 32
  let fl := (bitsAt b 0 8 ||| fl) ||| (if arr < da ∨ sec < ds then 64 else 0)
  let arr := arr - da
  let sec := sec - ds
  let adv := arr = 0 ∧ sec = 0
  let phase := if adv then (barrierPhase b + 1) % 16 else barrierPhase b
  let arr := if adv then bitsAt b 100 24 else arr
  let sec := if adv then bitsAt b 12 32 else sec
  phase * 2 ^ 124 + bitsAt b 100 24 * 2 ^ 100 + arr * 2 ^ 76 + sec * 2 ^ 44 + bitsAt b 12 32 * 2 ^ 12 + fl

/-- Decrements reach a barrier (R278): those of one clock form a single update of what it held before them. -/
def Tile.updateBarrier (t : Tile) (now rank : Nat) (ba : Int) (da ds fl : Nat) : Tile :=
  let t := t.touchAt now rank ba
  if inRange (ba / 64) = false then t
  else
    let cur := t.barrier ba
    let u : BarUpd :=
      match Store.find t.barUpds ba.toNat with
      | some u => if u.clock = now ∧ u.post = cur then u else ⟨now, cur, cur, 0, 0, 0⟩
      | none => ⟨now, cur, cur, 0, 0, 0⟩
    let post := barrierUpdate u.pre (u.da + da) (u.ds + ds) (u.fl ||| fl)
    let t := t.writeAt ba (leBytes 16 post)
    { t with barUpds := Store.put t.barUpds ba.toNat ⟨now, u.pre, post, u.da + da, u.ds + ds, u.fl ||| fl⟩ }

/-- A token type that a program may not push: 5 to 0xF (R32). -/
def forbiddenToken (tok : U32) : Bool := decide (5 ≤ bitsAt tok.toNat 28 4)

/-- The value that a load delivers: into its register, or into the token that stands for it at its out-port; a forbidden one
leaves its place and is not pushed (R30, R32, R117). -/
def Tile.deliver (t : Tile) (c : CoreId) (issued d : Nat) (v : U64) : Tile :=
  let tok := BitVec.ofNat 32 v.toNat
  let mine := fun (q : Nat) (k : Token) => k.rank == 3 && k.issued == issued && pusher q == c
  if 28 ≤ d then
    { t with queues := t.queues.map (fun (e : Nat × Queue) =>
        (e.1, { e.2 with toks := (e.2.toks.filter (fun k => !(mine e.1 k && forbiddenToken tok))).map (fun k =>
          if mine e.1 k then { k with tok := tok } else k) })) }
  else if d = 0 then t
  else t.setCore c { t.core c with regs := Store.set 0 (t.core c).regs d v }

/-- A loaded value of `n` bytes, sign- or zero-extended (R117). -/
def extendLoad (v n : Nat) (sgn : Bool) : U64 :=
  if sgn then BitVec.ofInt 64 (signed (8 * n) v) else BitVec.ofNat 64 v

/-- A vector word of the X-core changed. -/
def Tile.mapJob (t : Tile) (issued : Nat) (f : VJob → VJob) : Tile :=
  { t with vjobs := t.vjobs.map (fun j => if j.issued = issued then f j else j) }

/-- What a granted request does (R117, R127, R217, R218, R267). -/
def Tile.serveAsk (t : Tile) (now : Nat) (x : Ask) : Tile :=
  match x.act with
  | .look => t
  | .load ea n sgn d => t.deliver ((askCore x.rank).getD .X) x.since d (extendLoad (t.readAt (ea : Int) n) n sgn)
  | .put ws => ws.foldl (fun t e => t.writeAt (e.1 : Int) e.2) t
  | .take op k => t.mapJob x.since (fun j => { j with got := (op, k, leNat (t.line (x.line : Int))) :: j.got })
  | .give k => t.mapJob x.since (fun j => { j with given := k :: j.given })
  | .lower ba n => t.updateBarrier now x.rank (ba : Int) n 0 0
  | .init ba b => t.writeAt (ba : Int) (leBytes 16 b)
  | .fill ca b => t.writeAt (ca : Int) (leBytes 16 b)
  | .far _ _ ea _ bs => t.writeAt (ea : Int) bs
  | .ring n _ =>
    match ringOfImage (leNat (t.line (x.line : Int))) with
    | some r => t.setRing n r
    | none => t
  | .eng _ _ _ => t

/-- A request stores into its line what is known now: a store, a barrier's or a cell's update. -/
def Ask.stores (x : Ask) : Bool :=
  match x.act with
  | .put _ => true
  | .lower _ _ => true
  | .init _ _ => true
  | .fill _ _ => true
  | _ => false

/-- The tile as a bank will leave it that serves the stores standing there for a line, in the order of their arrival (R97, R119):
what a word of datum mode finds that is served behind them without waiting (R234). -/
def Tile.ahead (t : Tile) (now : Nat) (line : Int) : Tile :=
  (t.asks.filter (fun a => a.stores && (askCore a.rank).isSome &&
    decide ((a.line : Int) = line))).foldl (fun u a => u.serveAsk now a) t

/-- A request is served in clock `now`: one that its bank grants, and a decrement of a barrier that its bank serves with
another decrement of it (R217, R278). -/
def Tile.serves (t : Tile) (now : Nat) (datum : Bool) (x : Ask) : Bool :=
  let grants := if datum then t.wheelGrants now else t.grants now
  match x.act with
  | .lower ba _ => grants x || (t.eligible x && ((match Store.find t.barUpds ba with
      | some u => u.clock == now && u.post == t.barrier (ba : Int)
      | none => false) ||
      t.asks.any (fun y => (match y.act with | .lower b _ => b == ba | _ => false) && grants y)))
  | _ => grants x

/-- The grants of a clock, at its end (R97, R102). -/
def Tile.arbitrate (t : Tile) (now : Nat) (datum : Bool) : Tile :=
  let left := t.asks.filter (fun a => !t.serves now datum a)
  let u := { t with l := t.l.slip .L now datum left, x := t.x.slip .X now datum left, s := t.s.slip .S now datum left,
                    asks := left, served := [] }
  let u := (t.asks.filter (t.serves now datum)).foldl (fun u a => u.serveAsk now a) u
  if left.isEmpty then u else u.slipQueues

/-- The fault that a granted request meets, with its TVAL: a load whose out-port refuses the token (R32), a RINGSET that finds an
invalid image (R222). -/
def Tile.refusal (t : Tile) (x : Ask) : Option (Nat × U64) :=
  match x.act with
  | .load ea n sgn d =>
    let v := BitVec.ofNat 32 (extendLoad (t.readAt (ea : Int) n) n sgn).toNat
    if 28 ≤ d ∧ forbiddenToken v then some (0x08, BitVec.ofNat 64 v.toNat) else none
  | .ring _ a => if (ringOfImage (leNat (t.line (x.line : Int)))).isNone then some (0x04, BitVec.ofNat 64 (2 ^ 20 + a)) else none
  | _ => none

/-- The tile whose task a grant of tile `g` is charged to, where the request is a word's or an engine's (R346). -/
def Ask.payer (x : Ask) (g : Nat) : Option Nat :=
  match x.act with
  | .far who _ _ _ _ => some who
  | .eng who _ _ => if x.rank = rankRemote then none else some who
  | _ => if (askCore x.rank).isSome then some g else none

/-- The clock in which the request of the issuing core's word reached its bank: this one, unless it waits there already. -/
def Core.asked (k : Core) (now : Nat) : Nat :=
  match k.run with
  | .waiting (.bank _ since _) => since
  | _ => now

/-- The request of a word that its core waits for (R216, R218). -/
def State.coreAsk (s : State) (ea : Int) (writes : Bool) : Ask :=
  { since := s.me.asked s.now, rank := rankScalar s.cur.core, line := (ea / 64).toNat, act := if writes then .put [] else .look }

/-- Why a word that is served at one bank has to wait there (R97, R189, R216 to R218): a lock, an earlier access of its core,
or another request that comes first. -/
def State.bankWait (s : State) (ea : Int) (writes : Bool) : Option Wait :=
  if inRange (ea / 64) = false then none
  else
    let x := s.coreAsk ea writes
    if s.myTile.grants s.now x then none else some (.bank x.line x.since writes)

/-- A bank serves a barrier or a future cell in this clock. -/
def Tile.serve (t : Tile) (ea : Int) : Tile :=
  if inRange (ea / 64) then { t with served := bankOf (ea / 64).toNat :: t.served } else t

end Sys2Proof.Machine
end

