-- ==== Sys2Proof/Machine/Pages.lean ====
section
/-!
DEFINITION. From a virtual address to bytes: windows (R316 to R318), regions (R319), pages, counters, migration and
notices (R320 to R326), twin pages (R327, R328), physical memory with poison (R349, R373, R378) and device registers as
they read (R351).
-/

namespace Sys2Proof.Machine

/-- What an access needs of its window (R318). -/
inductive Need
  | read
  | write
  | fetch
  deriving DecidableEq, Repr

/-- A window that exists: valid, no reserved bit, some permission (R316). -/
def windowValid (w : Nat) : Bool :=
  decide (bit w 127 = 1) && decide (bitsAt w 114 10 = 0) && decide (bitsAt w 124 3 ≠ 0)

/-- A window that covers a virtual address (R316). -/
def windowCovers (w va : Nat) : Bool :=
  windowValid w && decide (bitsAt w 0 38 ≤ va / 2 ^ 16) && decide (va / 2 ^ 16 ≤ bitsAt w 38 38)

/-- The permission bit of a window. -/
def windowAllows (w : Nat) : Need → Bool
  | .read => decide (bit w 124 = 1)
  | .write => decide (bit w 125 = 1)
  | .fetch => decide (bit w 126 = 1)

/-- The lowest-numbered window in force that covers an address (R318). -/
def windowFor (ws : Store (BitVec 128)) (va : Nat) : Option Nat :=
  (ws.map (fun e => e.2.toNat)).find? (fun w => windowCovers w va)

/-- Where a window maps an address: modulo 2^52 (R318). -/
def windowMap (w va : Nat) : Nat := (va - bitsAt w 0 38 * 2 ^ 16 + bitsAt w 76 36 * 2 ^ 16) % 2 ^ 52

/-- The region of an intermediate address (R319). -/
def regionOf (ia : Nat) : Nat := bitsAt ia 48 4

/-- The device registers a task may read: ID, PTPERR and REFUSED of a context (R351). -/
def taskReadable (off : Nat) : Bool :=
  off == 0 || off == 0x3020 ||
    (decide (0x1000000 ≤ off ∧ off < 0x1000000 + 0x1000 * 4096) && decide ((off - 0x1000000) % 0x1000 = 0x18))

/-- An intermediate address that its region refuses to a task of tile `g` (R319, R253, R351). -/
def State.refuses (s : State) (g : Nat) (need : Need) (ia : Nat) : Bool :=
  match regionOf ia with
  | 0 => decide (bitsAt ia 40 8 ≠ 0)
  | 1 => decide (640 ≤ bitsAt ia 19 29) || !s.samePart g (bitsAt ia 19 29)
  | 2 => false
  | 3 => false
  | 15 => !(taskReadable (bitsAt ia 0 48)) || need == .write
  | _ => true

/-- window_translate of R318 for a task of tile `g`: the intermediate address and `nc`, or the fault code. What datum mode
refuses beyond it concerns global words and commands, not fetches (R122, R187). -/
def State.translate (s : State) (g : Nat) (ws : Store (BitVec 128)) (va : Nat) (need : Need) :
    Except Nat (Nat × Bool) :=
  match windowFor ws va with
  | none => .error 0x05
  | some w =>
    let ia := windowMap w va
    if windowAllows w need = false then .error 0x06
    else if s.refuses g need ia then .error 0x06
    else if regionOf ia = 15 ∧ bit w 113 = 0 then .error 0x06
    else if need ≠ .fetch ∧ s.datumTile g ∧ (regionOf ia = 2 ∨ regionOf ia = 3 ∨ regionOf ia = 15) then .error 0x06
    else .ok (ia, decide (bit w 112 = 1))

/-- An intermediate address that the hub reaches on a card's behalf: regions 0 and 2 only (R301, R319). -/
def hubReach (ia : Nat) : Except Nat Nat :=
  if regionOf ia = 0 ∧ bitsAt ia 40 8 ≠ 0 then .error 0x06
  else if regionOf ia = 0 ∨ regionOf ia = 2 then .ok ia
  else .error 0x05

/-- An address translated as the hub does on a card's behalf (R301, R318); the fault of a task-start read (R311). -/
def hubTranslate (ws : Store (BitVec 128)) (va : Nat) (need : Need) : Except Nat Nat :=
  match windowFor ws va with
  | none => .error 0x05
  | some w => if windowAllows w need = false then .error 0x06 else hubReach (windowMap w va)

/-- An entry that the DXU takes as absent (R321). -/
def pageAbsent (e : Nat) : Bool :=
  decide (bitsAt e 62 2 = 0) || decide (bitsAt e 24 11 ≠ 0) || decide (bitsAt e 0 7 ≠ 0) ||
    (decide (bit e 15 = 1) && (decide (bitsAt e 62 2 ≠ 1) || decide (bit e 43 = 1))) ||
    (decide (bitsAt e 62 2 = 1) && decide (bitsAt e 35 8 ≠ 0))

/-- The stack of a local page (R321). -/
def pageStack (e : Nat) : Nat := bitsAt e 60 2 * 4 + bitsAt e 58 2

/-- The frame field of a local page (R321). -/
def pageFrame (e : Nat) : Nat := bitsAt e 43 15

/-- The selector of the published frame (R327); `grp` is the group's epoch bit and whether its last flip published. -/
def publishedSel (e : Nat) (grp : Bool × Bool) : Nat :=
  if bit e 13 = 1 ∧ bit e 12 ≠ (if grp.1 then 1 else 0) ∧ grp.2 then (bit e 14 + 1) % 2 else bit e 14

/-- The page holds a shadow of the epoch in force (R327). -/
def hasShadow (e : Nat) (grp : Bool × Bool) : Bool :=
  decide (bit e 13 = 1) && decide (bit e 12 = (if grp.1 then 1 else 0))

/-- Where an intermediate address leads. -/
inductive Reach
  | hbm (addr : Nat)
  | host (addr : Nat)
  | tile (g off : Nat)
  | peer (ia : Nat)
  | dev (off : Nat)
  | absent
  | broken
  deriving DecidableEq, Repr

/-- The physical HBM address of a frame's byte (R333); a frame that does not exist raises 0x14 (R373). -/
def frameReach (stack frame off : Nat) : Reach :=
  if frame < 30516 then .hbm (stack * 2 ^ 36 + frame * 2 ^ 21 + off) else .broken

/-- The group of a twin page in its context (R327); before any flip, epoch 0 and no publication (notes/assumptions 2). -/
def Ctx.twin (c : Ctx) (n : Nat) : Bool × Bool := Store.get (false, false) c.twins n

/-- The page a region-0 address lies in (R320). -/
def pageOf (ia : Nat) : Nat := bitsAt ia 21 19

/-- Where a context's page table leads a region-0 address (R320, R321, R327): for the task that has twin-written the
groups `twins` since their last flip, the shadow frames of those; for every other reader the published frames. -/
def Ctx.place (c : Ctx) (twins : List Nat) (ia : Nat) : Reach :=
  let e := (Store.get 0 c.pages (pageOf ia)).toNat
  let off := bitsAt ia 0 21
  if pageAbsent e then .absent
  else
    match bitsAt e 62 2 with
    | 1 =>
      if bit e 15 = 1 then
        let grp := c.twin (bitsAt e 16 8)
        let sel := publishedSel e grp
        let sel := if twins.contains (bitsAt e 16 8) && hasShadow e grp then (sel + 1) % 2 else sel
        frameReach (pageStack e) (pageFrame e + sel) off
      else frameReach (pageStack e) (pageFrame e) off
    | 2 => .host (bitsAt e 35 27 * 2 ^ 21 + off)
    | _ => .peer (3 * 2 ^ 48 + bitsAt e 54 8 * 2 ^ 40 + bitsAt e 35 19 * 2 ^ 21 + off)

/-- Where an intermediate address leads in a context (R319). -/
def State.reach (s : State) (x : Nat) (twins : List Nat) (ia : Nat) : Reach :=
  match regionOf ia with
  | 0 =>
    match s.ctx x with
    | some c => c.place twins ia
    | none => .absent
  | 1 => .tile (bitsAt ia 19 29) (bitsAt ia 0 19)
  | 2 => .host (bitsAt ia 0 48)
  | 3 => .peer ia
  | _ => .dev (bitsAt ia 0 48)

/-- A device register's value where nothing else is stored (R351): the Reset column. -/
def devReset (off : Nat) : U64 :=
  if off = 0 then 0x91000001 else if off = 0x1010 then 0x8000000000000000 else if off = 0x2008 then 6
  else if off = 0x3010 then 407226528806 else if off = 0x3020 then 0xFFFFFFFF else 0

/-- A device register that holds its own value. -/
def State.devGet (s : State) (off : Nat) : U64 := Store.get (devReset off) s.dev off

/-- A device register's value set. -/
def State.devSet (s : State) (off : Nat) (v : U64) : State := { s with dev := Store.set (devReset off) s.dev off v }

/-- A device register as it reads (R351): per-context registers come from the context, zero where it does not exist. -/
def State.devRead (s : State) (off : Nat) : U64 :=
  if 0x1000000 ≤ off ∧ off < 0x1000000 + 0x1000 * 4096 then
    match s.ctx ((off - 0x1000000) / 0x1000) with
    | none => 0
    | some c =>
      match (off - 0x1000000) % 0x1000 with
      | 0x10 => BitVec.ofNat 64 c.qHead.toNat
      | 0x00 => BitVec.ofNat 64 c.qTail.toNat
      | 0x08 => c.appDb
      | 0x18 => BitVec.ofNat 64 c.refused.toNat
      | 0x20 => BitVec.ofNat 64 c.dxuPage
      | 0x28 => c.dxuWord
      | 0x30 => c.dxuAck
      | _ => 0
  else s.devGet off

/-- Some byte of a physical range lies in a poisoned sector (R378). -/
def State.poisoned (s : State) (addr n : Nat) : Bool :=
  s.poison.any (fun p => decide (p * 32 < addr + n ∧ addr < p * 32 + 32))

/-- Physical bytes read; none where the range meets poison (R378). -/
def State.readPhys (s : State) (addr n : Nat) : Option (List Byte) :=
  if s.poisoned addr n then none else some (Memory.bytes s.hbm addr n)

/-- Physical bytes written: a sector written whole loses its poison (R378). -/
def State.writePhys (s : State) (addr : Nat) (bs : List Byte) : State :=
  { s with hbm := Memory.setBytes s.hbm addr bs,
           poison := s.poison.filter (fun p => !decide (addr ≤ p * 32 ∧ p * 32 + 32 ≤ addr + bs.length)) }

/-- A line of host memory that answers with an error lies in the range (R350); without the CXL port every line does (R387;
notes/assumptions 113). -/
def State.hostBroken (s : State) (addr n : Nat) : Bool :=
  s.downPorts.contains 130 || s.hostBad.any (fun l => decide (l * 64 < addr + n ∧ addr < l * 64 + 64))

/-- Some byte of a range of host memory lies in a poisoned sector (R378), or in a line that answers with an error: reads of it
fault. -/
def State.hostLost (s : State) (addr n : Nat) : Bool :=
  s.hostBroken addr n || s.hostPoison.any (fun p => decide (p * 32 < addr + n ∧ addr < p * 32 + 32))

/-- Memory read at a place; none for an uncorrectable error (R121, R350, R378). Tile scratch and peers are reached by
requests of their own. -/
def State.readReach (s : State) (r : Reach) (n : Nat) : Option (List Byte) :=
  match r with
  | .hbm a => s.readPhys a n
  | .host a => if s.hostLost a n then none else some (Memory.bytes s.host a n)
  | .dev off => some (leBytes n (s.devRead off).toNat)
  | _ => none

/-- Host memory written: a sector written whole loses its poison (R378). -/
def State.writeHost (s : State) (addr : Nat) (bs : List Byte) : State :=
  { s with host := Memory.setBytes s.host addr bs,
           hostPoison := s.hostPoison.filter (fun p => !decide (addr ≤ p * 32 ∧ p * 32 + 32 ≤ addr + bs.length)) }

/-- Memory written at a place. A write to host memory awaits the host's acknowledge (R268). -/
def State.writeReach (s : State) (by_ : HostWriter) (r : Reach) (bs : List Byte) : State :=
  match r with
  | .hbm a => s.writePhys a bs
  | .host a => { s.writeHost a bs with hostAcks := s.hostAcks ++ [by_] }
  | _ => s

/-- What a peer package holds at an address is no state of this one: free bytes (notes/assumptions 14). -/
def State.peerBytes (s : State) (va n : Nat) : List Byte :=
  (List.range n).map (fun i => BitVec.ofNat 8 (Config.freeValue (s.fresh + va + i)).toNat)

/-- `n` bytes of a memory copied from `src` to `dst`. -/
def Memory.copyRange (m : Memory) (src dst n : Nat) : Memory :=
  (m.filter (fun c => decide (src ≤ c.1 ∧ c.1 < src + n))).foldl (fun acc c => Memory.setByte acc (c.1 - src + dst) c.2)
    (m.filter (fun c => !decide (dst ≤ c.1 ∧ c.1 < dst + n)))

/-- A physical range copied, its poison with it (R378). -/
def State.copyPhys (s : State) (src dst n : Nat) : State :=
  let moved := (s.poison.filter (fun p => decide (src ≤ p * 32 ∧ p * 32 < src + n))).map (fun p => p - src / 32 + dst / 32)
  { s with hbm := Memory.copyRange s.hbm src dst n,
           poison := s.poison.filter (fun p => !decide (dst ≤ p * 32 ∧ p * 32 < dst + n)) ++ moved }

/-- Bits `n` at `lo` of a 64-bit word replaced. -/
def putBits (w : U64) (lo n v : Nat) : U64 :=
  BitVec.ofNat 64 (w.toNat - bitsAt w.toNat lo n * 2 ^ lo + v % 2 ^ n * 2 ^ lo)

/-- A translation word in force replaced; it also stands in the table (R320). -/
def State.setPage (s : State) (x p : Nat) (w : U64) : State :=
  match s.ctx x with
  | some c => (s.setCtx x { c with pages := Store.set 0 c.pages p w }).writePhys (c.cfg.tbase + 8 * p) (leBytes 8 w.toNat)
  | none => s

/-- A page's pending flip settled (R327, R328): psel becomes the published selector and dirty 0. In a datum context the
shadow is made equal to the published frame (R329). -/
def State.settlePage (s : State) (x p : Nat) (datum : Bool) : State :=
  match s.ctx x with
  | none => s
  | some c =>
    let w := Store.get 0 c.pages p
    let sel := publishedSel w.toNat (c.twin (bitsAt w.toNat 16 8))
    let s := s.setPage x p (putBits (putBits w 14 1 sel) 13 1 0)
    if datum then
      let base := pageStack w.toNat * 2 ^ 36 + pageFrame w.toNat * 2 ^ 21
      s.copyPhys (base + sel * 2 ^ 21) (base + (1 - sel) * 2 ^ 21) (2 ^ 21)
    else s

/-- What a twin write to a page does before its bytes are written (R327, R280): without a shadow of the epoch in force,
the page is settled and the published frame copied into the shadow frame. -/
def State.makeShadow (s : State) (x p : Nat) : State :=
  match s.ctx x with
  | none => s
  | some c =>
    let w := Store.get 0 c.pages p
    let grp := c.twin (bitsAt w.toNat 16 8)
    if hasShadow w.toNat grp then s
    else
      let sel := publishedSel w.toNat grp
      let base := pageStack w.toNat * 2 ^ 36 + pageFrame w.toNat * 2 ^ 21
      let s := s.setPage x p (putBits (putBits (putBits w 14 1 sel) 13 1 1) 12 1 (if grp.1 then 1 else 0))
      s.copyPhys (base + sel * 2 ^ 21) (base + (1 - sel) * 2 ^ 21) (2 ^ 21)

/-- Physical address of frame 30,516 of a stack: its service frame (R373). -/
def serviceFrame (stack : Nat) : Nat := stack * 2 ^ 36 + 0xEE6800000

/-- A frame that is retired: by the monument record, or while that was full (R374, R381). -/
def State.frameRetired (s : State) (stack f : Nat) : Bool :=
  s.badFrames.contains (stack, f) ||
    s.monument.any (fun e => decide (bitsAt e.toNat 120 8 = 3 ∧ bitsAt e.toNat 76 4 = stack ∧ bitsAt e.toNat 80 15 = f))

/-- A frame is free in its stack's bitmap and not retired (R373, R374). -/
def State.frameFree (s : State) (stack f : Nat) : Bool :=
  decide (f < 30516) && decide (bit (Memory.byte s.hbm (serviceFrame stack + f / 8)).toNat (f % 8) = 1) &&
    !s.frameRetired stack f

/-- The free frames of a stack, ascending: only bytes listed in memory can have a bit set. -/
def State.freeFrames (s : State) (stack : Nat) : List Nat :=
  ((s.hbm.filter (fun c => decide (serviceFrame stack ≤ c.1 ∧ c.1 < serviceFrame stack + 0x1000))).map
    (fun c => (List.range 8).map (fun i => (c.1 - serviceFrame stack) * 8 + i))).flatten.filter (s.frameFree stack)

/-- A frame's bit in the bitmap set or cleared (R374). -/
def State.setFree (s : State) (stack f : Nat) (v : Bool) : State :=
  let a := serviceFrame stack + f / 8
  let b := (Memory.byte s.hbm a).toNat
  let b' := b - bit b (f % 8) * 2 ^ (f % 8) + (if v then 2 ^ (f % 8) else 0)
  s.writePhys a [BitVec.ofNat 8 b']

/-- The frame a migration to a stack would take: the lowest free one, for a twin page the lowest even pair (R374). -/
def State.takeable (s : State) (stack : Nat) (twin : Bool) : Option Nat :=
  (s.freeFrames stack).find? (fun f => !twin || (decide (f % 2 = 0) && s.frameFree stack (f + 1)))

/-- The stack of a die that a migration goes to: the most free frames, the lowest number on a tie (R325). -/
def State.targetStack (s : State) (die : Nat) (twin : Bool) : Option (Nat × Nat) :=
  [4 * die, 4 * die + 1, 4 * die + 2, 4 * die + 3].foldl (fun best st =>
    match s.takeable st twin, best with
    | none, _ => best
    | some f, none => some (st, f)
    | some f, some (b, bf) =>
      if (s.freeFrames b).length < (s.freeFrames st).length then some (st, f) else some (b, bf)) none

/-- A notice posted, or counted lost when the queue is full (R326). -/
def State.postNotice (s : State) (x p die kind : Nat) : State :=
  match s.ctx x with
  | none => s
  | some c =>
    let w := Store.get 0 c.pages p
    if bit w.toNat 10 = 1 then s
    else
      let size := 2 ^ (s.devGet 0x2008).toNat
      let head := (s.devGet 0x2010).toNat
      let tail := (s.devGet 0x2018).toNat
      if (tail + 2 ^ 32 - head) % 2 ^ 32 < size then
        let n := x * 2 ^ 104 + p * 2 ^ 64 + s.now % 2 ^ 54 * 2 ^ 10 + die * 2 ^ 8 + kind
        let s := s.setPage x p (putBits w 10 1 1)
        let s := s.writePhys ((s.devGet 0x2000).toNat + tail % size * 16) (leBytes 16 n)
        (s.devSet 0x2018 (BitVec.ofNat 64 ((tail + 1) % 2 ^ 32))).emit (.msix 0)
      else
        let lost := bitsAt (s.devGet 0x2020).toNat 0 32
        s.devSet 0x2020 (BitVec.ofNat 64 (2 ^ 63 + min (lost + 1) (2 ^ 32 - 1)))

/-- The frames that a translation word names: a twin page owns a pair (R327). -/
def framesOf (w : Nat) : List Nat := if bit w 15 = 1 then [pageFrame w, pageFrame w + 1] else [pageFrame w]

/-- Some other translation word names a frame of this one (R330). -/
def State.aliased (s : State) (x p : Nat) (w : Nat) : Bool :=
  s.ctxs.any (fun c => c.2.pages.any (fun e =>
    !(c.1 == x && e.1 == p) && decide (bitsAt e.2.toNat 62 2 = 1) && pageStack e.2.toNat == pageStack w &&
      (framesOf w).any (framesOf e.2.toNat).contains))

/-- A crossing of the threshold (R325, R326, R330): a local page migrates to the requester's die, or a notice is
posted. -/
def State.crossing (s : State) (x p die : Nat) (w : Nat) : State :=
  if bitsAt w 62 2 ≠ 1 then s.postNotice x p die 0
  else if s.migs.any (fun m => m.ctx == x && m.page == p) then s
  else if s.aliased x p w then s.postNotice x p die 1
  else
    match s.targetStack die (bit w 15 = 1) with
    | none => s.postNotice x p die 1
    | some (st, f) =>
      let s := s.setFree st f false
      let s := if bit w 15 = 1 then s.setFree st (f + 1) false else s
      { s with migs := s.migs ++ [⟨x, p, BitVec.ofNat 64 w, die, st, f, s.now + 1 + Config.freeLatency s.fresh⟩],
               fresh := s.fresh + 1 }

/-- A request of die `die` counted, where it reaches a DXU and the page is counted (R322, R324); a counter that rises from the
threshold has crossed it (R325). -/
def State.countFrom (s : State) (die x : Nat) (ia : Nat) (nc : Bool) : State :=
  match s.ctx x with
  | none => s
  | some c =>
    let p := pageOf ia
    let w := (Store.get 0 c.pages p).toNat
    if pageAbsent w || decide (bit w 11 = 1) then s
    else if bitsAt w 62 2 = 1 ∧ bitsAt w 60 2 = die then s
    else if nc = false ∧ Config.cacheHit s.fresh then s.tick
    else
      let s := s.tick
      let a := c.cfg.cbase + 8 * p + 2 * die
      let n := Memory.num s.hbm a 2
      if 65535 ≤ n then s
      else
        let s := s.writePhys a (leBytes 2 (n + 1))
        if c.cfg.mig ≠ 0 ∧ n = c.cfg.mig then { s with crossed := s.crossed ++ [(x, p, die)] } else s

/-- What the counters that crossed in a clock do at its end, for the lowest-numbered dies first: of a local page one counts
(R325, R326). -/
def State.settleCrossings (s : State) : State :=
  let order := ([0, 1, 2, 3].map (fun d => s.crossed.filter (fun e => e.2.2 == d))).flatten
  (order.foldl (fun (acc : State × List (Nat × Nat)) e =>
    match acc.1.ctx e.1 with
    | none => acc
    | some c =>
      let w := (Store.get 0 c.pages e.2.1).toNat
      if bitsAt w 62 2 = 1 ∧ acc.2.contains (e.1, e.2.1) then acc
      else (acc.1.crossing e.1 e.2.1 e.2.2 w, (e.1, e.2.1) :: acc.2)) ({ s with crossed := [] }, [])).1

/-- A request of tile `g` counted; those of datum-mode partitions are not (R324). -/
def State.countRequest (s : State) (g x : Nat) (ia : Nat) (nc : Bool) : State :=
  if s.datumTile g then s else s.countFrom (dieOf g) x ia nc

/-- The charge of events to the resident context (R346), by a weight and how often. -/
def State.charge (s : State) (g : Nat) (cls n : Nat) : State :=
  let t := s.tile g
  match s.partOf g with
  | none => s
  | some (_, p) => if t.task.live = false then s else s.setTile g { t with charges := t.charges + n * (Store.get 0 p.enw cls).toNat }

/-- What ENERGY holds of a value written or loaded into it: its reserved bits [62:48] are zero (R6, R39). -/
def energyWord (v : Nat) : U64 := BitVec.ofNat 64 (bit v 63 * 2 ^ 63 + bitsAt v 0 48)

/-- What CODE_LO and CODE_HI hold of a value: bits [1:0] read as zero (R20). -/
def codeBound (v : Nat) : U64 := BitVec.ofNat 64 (v % 2 ^ 64 / 4 * 4)

/-- ENERGY with some charges more: a count that would pass 2^48 - 1 stops there and sets bit 63 (R347). -/
def energyPlus (e : U64) (n : Nat) : U64 :=
  let sum := bitsAt e.toNat 0 48 + n
  BitVec.ofNat 64 ((if bit e.toNat 63 = 1 ∨ 2 ^ 48 ≤ sum then 2 ^ 63 else 0) + min sum (2 ^ 48 - 1))

/-- The charges of a clock added to ENERGY in one update (R346). -/
def Tile.payCharges (t : Tile) : Tile :=
  if t.charges = 0 then t else { t with energy := energyPlus t.energy t.charges, charges := 0 }

/-- The line of a scalar scratch access charged where it is in range (R346). -/
def State.chargeAt (s : State) (ea : Int) : State := if inRange (ea / 64) then s.charge s.cur.tile 10 1 else s

end Sys2Proof.Machine
end

