-- ==== Sys2Proof/Machine/Ends.lean ====
section
/-!
DEFINITION. How a task leaves a tile for good and what the hub records of it: cards and their status records (R301, R306,
R307), record ends (R310, R312), leaving groups (R219), twin-group flips (R328), and the tile left behind (R18, R347).
-/

namespace Sys2Proof.Machine

/-- Fields of a card's image (R301). -/
def Card.entry (c : Card) : Nat := bitsAt c.img 0 64
def Card.records (c : Card) : Nat := bitsAt c.img 64 64
def Card.count (c : Card) : Nat := bitsAt c.img 128 32
def Card.size (c : Card) : Nat := bitsAt c.img 160 6 + 1
def Card.status (c : Card) : Nat := bitsAt c.img 192 64
def Card.parcels (c : Card) : Nat := bitsAt c.img 256 64
def Card.consts (c : Card) : Nat := bitsAt c.img 320 64
def Card.codebook (c : Card) : Nat := bitsAt c.img 384 64
def Card.seed (c : Card) : Nat := bitsAt c.img 448 32
def Card.frame (c : Card) : Nat := bitsAt c.img 480 32
def Card.prio (c : Card) : Nat := bitsAt c.img 512 3
def Card.datum (c : Card) : Bool := decide (bit c.img 515 = 1)
def Card.divisor (c : Card) : Nat := bitsAt c.img 516 3 + 1
def Card.windows (c : Card) : Nat := bitsAt c.img 520 8
def Card.keep (c : Card) : Nat := bitsAt c.img 528 16
def Card.minchunk (c : Card) : Nat := bitsAt c.img 544 16
def Card.partition (c : Card) : Nat := bitsAt c.img 560 8
def Card.start (c : Card) : Nat := bitsAt c.img 576 64
def Card.tag (c : Card) : Nat := bitsAt c.img 640 64

/-- The windows of a context that a set of enable bits leaves in force (R317). -/
def enabledWindows (vw : Store (BitVec 128)) (mask : Nat) : Store (BitVec 128) :=
  vw.filter (fun e => decide (bit mask e.1 = 1))

/-- The status record's 64 bytes (R306). -/
def Card.statusBytes (c : Card) : List Byte :=
  leBytes 64 (c.state + c.cause * 2 ^ 8 + c.tlaunch * 2 ^ 64 + c.tend * 2 ^ 128 + c.retired * 2 ^ 192
    + c.exited * 2 ^ 224 + c.lost * 2 ^ 256 + c.redeals * 2 ^ 288 + c.acode * 2 ^ 320 + c.akind * 2 ^ 336
    + c.arec * 2 ^ 352 + c.tag * 2 ^ 384)

/-- The refused-card count of a context raised; it saturates (R303, R351). -/
def State.countRefused (s : State) (x : Nat) : State :=
  match s.ctx x with
  | none => s
  | some c => s.setCtx x { c with refused := BitVec.ofNat 32 (min (c.refused.toNat + 1) (2 ^ 32 - 1)) }

/-- Where a card's status record stands (R301): translated as a tile of its partition would; where that fails now, as behind an
uncorrectable error (notes/assumptions 59). -/
def State.statusReach (s : State) (c : Card) : Reach :=
  match s.ctx c.ctx with
  | none => .broken
  | some x =>
    match hubTranslate (enabledWindows x.cfg.vw c.windows) c.status .write with
    | .ok ia => s.reach c.ctx [] ia
    | .error _ => .broken

/-- One status write performed, held or dropped (R306). -/
def State.putStatus (s : State) (n : Nat) (c : Card) (bs : List Byte) : State :=
  match s.statusReach c with
  | .absent => s.setCard n { c with heldWr := c.heldWr ++ [bs] }
  | .broken => ((s.setCard n c).countRefused c.ctx).emit (.msix 3)
  | .host a =>
    if s.hostBroken a 64 then ((s.setCard n c).countRefused c.ctx).emit (.msix 3)
    else (s.setCard n c).writeReach .hub (.host a) bs
  | r => (s.setCard n c).writeReach .hub r bs

/-- The hub writes a card's status record (R306, R307), behind any write it still holds. -/
def State.writeStatus (s : State) (n : Nat) (c : Card) : State :=
  if c.heldWr.isEmpty then s.putStatus n c c.statusBytes
  else s.setCard n { c with heldWr := c.heldWr ++ [c.statusBytes] }

/-- A card's counts after one of its records has ended (R307, R310, R312): `kind` 0 RETIRE, 1 EXIT, 2 lost, 3 dealt
again. A record discarded for the sixteenth time is lost. -/
def Card.ended (c : Card) (now rec kind code : Nat) : Card :=
  let times := Store.get 0 c.discards rec + 1
  let lost := kind = 2 ∨ (kind = 3 ∧ 16 ≤ times)
  let redo := kind = 3 ∧ ¬ 16 ≤ times
  let ak := if kind = 1 ∧ code ≠ 0 then 1 else if lost then 2 else if redo then 3 else 0
  let c := if kind = 3 then { c with discards := Store.put c.discards rec times } else c
  let c := if redo then { c with redeal := c.redeal ++ [rec], redeals := c.redeals + 1 } else c
  let c := if c.akind = 0 ∧ ak ≠ 0 then { c with akind := ak, acode := code % 2 ^ 16, arec := rec } else c
  let c := { c with tend := now, retired := c.retired + (if kind = 0 then 1 else 0),
                    exited := c.exited + (if kind = 1 then 1 else 0), lost := c.lost + (if lost then 1 else 0) }
  if c.retired + c.exited + c.lost = c.count then { c with state := 3 } else c

/-- The hub records a record's end (R307); a complete card writes nothing more. -/
def State.recordEnd (s : State) (n rec kind code : Nat) : State :=
  match s.card n with
  | none => s
  | some c => if c.state = 3 then s else s.writeStatus n (c.ended s.tai rec kind code)

/-- The origin of a datum card's next round: the first FRAME_ORG + m F, m at least 1, at or after `c` + 4,096 (R314). -/
def nextOrigin (org frame c : Nat) : Nat :=
  org + max 1 ((c + 4096 - org + (frame - 1)) / frame) * frame

/-- A task of a datum round has ended: after the round's last, the next round's origin stands (R314). -/
def State.roundEnd (s : State) (g : Nat) : State :=
  match s.partOf g with
  | none => s
  | some (p, pt) =>
    match pt.round with
    | none => s
    | some (card, tiles, k, o, open_) =>
      let rest := open_.erase g
      if rest.isEmpty ∧ open_.contains g then
        match s.card card with
        | none => s
        | some c =>
          let round :=
            if (k + 1) * tiles.length < c.count then
              some (card, tiles, k + 1, nextOrigin pt.frameOrg.toNat c.frame s.now, [])
            else none
          { s with parts := Store.put s.parts p { pt with round := round, pendOrg := none } }
      else { s with parts := Store.put s.parts p { pt with round := some (card, tiles, k, o, rest) } }

/-- The end of a record, which the hub records with the others of the clock (R306). -/
def State.noteEnd (s : State) (e : TaskEnd) : State := { s with ends := s.ends ++ [e] }

/-- The ends of a clock ordered by tile (R306). -/
def insertEnd (e : TaskEnd) : List TaskEnd → List TaskEnd
  | [] => [e]
  | a :: as => if e.tile < a.tile then e :: a :: as else a :: insertEnd e as

/-- The hub records the ends of a clock by ascending tile, and the rounds of which they are the last end (R306, R307, R314). -/
def State.recordEnds (s : State) : State :=
  (s.ends.foldl (fun l e => insertEnd e l) []).foldl
    (fun s e => let s := s.recordEnd e.card e.rec_ e.kind e.code; if e.away then s else s.roundEnd e.tile) { s with ends := [] }

/-- Every member counted for generation `gen` has arrived for it (R220): those whose counting starts before it. -/
def Group.full (gr : Group) (gen : Nat) : Bool :=
  gr.members.all (fun u => decide (gen ≤ Store.get 0 gr.base u) || gr.arrived.contains (u, gen))

/-- A generation whose set is complete is released 96 clocks on (R220). -/
def Group.settleOne (gr : Group) (now : Nat) : Group :=
  if gr.full (gr.done + gr.release.length + 1) then { gr with release := gr.release ++ [now + 96] } else gr

/-- Every generation whose set is complete is released 96 clocks on (R220): a member counts from one generation after the
next at the latest, so that two can be complete at once, when the last of those who counted from before has left. -/
def Group.settle (gr : Group) (now : Nat) : Group := (gr.settleOne now).settleOne now

/-- A member leaves a group (R219, R220): the last dissolves it; the others may now be complete. -/
def Group.leave (gr : Group) (now uid : Nat) : Option Group :=
  if (gr.members.erase uid).isEmpty then none
  else
    some ({ gr with members := gr.members.erase uid, arrived := gr.arrived.filter (fun a => a.1 != uid),
                    base := gr.base.erase uid }.settle now)

/-- A task leaves a group of a partition (R219). -/
def Part.leave (pt : Part) (now k uid : Nat) : Part :=
  match Store.find pt.groups k with
  | none => pt
  | some gr =>
    match gr.leave now uid with
    | none => { pt with groups := pt.groups.erase k }
    | some gr => { pt with groups := Store.put pt.groups k gr }

/-- A task leaves every group of its partition (R219). -/
def State.leaveAll (s : State) (g uid : Nat) : State :=
  match s.partOf g with
  | none => s
  | some (p, pt) =>
    { s with parts := Store.put s.parts p ((List.range 16).foldl (fun q k => Part.leave q s.now k uid) pt) }

/-- A task's arrival for a generation of group `k` taken back, unless the generation's set is complete (R208, R220). -/
def Part.unarrive (pt : Part) (k uid gen : Nat) : Part :=
  match Store.find pt.groups k with
  | none => pt
  | some gr =>
    if gen ≤ gr.done + gr.release.length then pt
    else { pt with groups := Store.put pt.groups k { gr with arrived := gr.arrived.erase (uid, gen) } }

/-- The cores of a tile other than `c` that wait as `p` tells. -/
def Tile.othersWait (t : Tile) (c : CoreId) (p : Wait → Bool) : Bool :=
  [CoreId.L, .X, .S].any (fun d => d != c && (match (t.core d).run with | .waiting w => p w | _ => false))

/-- A STOP or a trap that reaches a waiting core abandons its wait, and its word has no effect (R208): an arrival at a group
barrier or a superstep is taken back, and a pending origin, unless another core's word stands for it. -/
def State.abandon (s : State) (w : Who) : State :=
  let t := s.tile w.tile
  match s.partOf w.tile, (t.core w.core).run with
  | some (p, pt), .waiting (.gbar k gen) =>
    if t.othersWait w.core (fun v => v == .gbar k gen) then s
    else { s with parts := Store.put s.parts p (pt.unarrive k t.task.uid gen) }
  | some (p, pt), .waiting (.origin o _) =>
    let other := pt.tiles.any (fun g => g != w.tile && (match (s.tile g).x.run with | .waiting (.origin q _) => q == o | _ => false))
    if pt.pendOrg = some o ∧ other = false then { s with parts := Store.put s.parts p { pt with pendOrg := none } } else s
  | _, .waiting (.sstep _ _) => s.setCore w { s.core w with arrived := false }
  | _, _ => s

/-- The pages of a twin group (R327). -/
def Ctx.groupPages (c : Ctx) (grp : Nat) : List Nat :=
  (c.pages.filter (fun e => decide (bit e.2.toNat 15 = 1 ∧ bitsAt e.2.toNat 16 8 = grp))).map (fun e => e.1)

/-- Settlement of a group's last flip carried out (R328). -/
def State.settleGroup (s : State) (x grp : Nat) (datum : Bool) : State :=
  match s.ctx x with
  | none => s
  | some c =>
    let s := (c.groupPages grp).foldl (fun s p =>
      let w := Store.get 0 c.pages p
      if bit w.toNat 13 = 1 ∧ hasShadow w.toNat (c.twin grp) = false then s.settlePage x p datum else s) s
    match s.ctx x with
    | none => s
    | some c => s.setCtx x { c with settle := c.settle.erase grp }

/-- A twin group flipped at once for every observer (R328): an earlier flip's settlement is complete first, and no task has
written the group since, saved ones neither (R327). In a datum context the new settlement ends by 652 + 4,608 n clocks after
the flip's stamp, n pages (R329). -/
def State.flip (s : State) (x grp : Nat) (publish datum : Bool) (stamp : Nat) : State :=
  let s := s.settleGroup x grp datum
  match s.ctx x with
  | none => s
  | some c =>
    let forget := fun (t : Tile) =>
      if t.task.ctx = x then { t with task := { t.task with twins := t.task.twins.erase grp } } else t
    let s := { s with tiles := s.tiles.map (fun (e : Nat × Tile) => (e.1, forget e.2)),
                      saved := s.saved.map (fun (e : Nat × Saved) => (e.1, { e.2 with tile := forget e.2.tile })) }
    let until_ := if datum then stamp + 652 + 4608 * (c.groupPages grp).length
      else s.now + 1 + Config.freeLatency s.fresh
    (s.setCtx x { c with twins := Store.put c.twins grp (!(c.twin grp).1, publish),
                         settle := Store.put c.settle grp until_ }).tick

/-- The accumulators that one of some owners holds lose their contents and their owner (R263, R168). -/
def Tile.dropOwners (t : Tile) (gone : Owner → Bool) : Tile :=
  let drop := (t.accOwner.filter (fun e => gone e.2)).map (fun e => e.1)
  { t with acc := t.acc.filter (fun e => !drop.contains (e.1 / 4096)),
           accTag := t.accTag.filter (fun e => !drop.contains e.1),
           accOwner := t.accOwner.filter (fun e => !drop.contains e.1) }

/-- An owner is the task `uid` or one of its handler activations. -/
def Owner.isOf (uid : Nat) : Owner → Bool
  | .nobody => false
  | .task u => u == uid
  | .handler u _ => u == uid

/-- The context's per-tile entry written from the tile (R347). -/
def State.storeEntry (s : State) (g : Nat) : State :=
  let t := (s.tile g).payCharges
  match s.ctx t.task.ctx with
  | none => s
  | some c =>
    s.writePhys (c.cfg.ebase + 32 * g)
      (leBytes 8 t.energy.toNat ++ leBytes 8 t.oorAddr.toNat ++ leBytes 16 (if t.oorFlag then 1 else 0))

/-- The tile after its task has gone: idle, with accumulators of other owners in place, its chunk, its service state, its
throttle, and requests of other tiles at its banks (R18, R253, R264, R309). -/
def Tile.vacated (t : Tile) : Tile :=
  { Tile.idle with acc := t.acc, accTag := t.accTag, accOwner := t.accOwner, accMoves := [], chunk := t.chunk,
                   inService := t.inService, throttle := t.throttle, served := t.served,
                   asks := t.asks.filter Ask.isFar }

/-- A frame of a context returned (R341). -/
def State.freeFrame (s : State) (x : Nat) (f : Option Nat) : State :=
  match f, s.ctx x with
  | some f, some c => s.setCtx x { c with frames := c.frames.erase f }
  | _, _ => s

/-- A task resumed earlier returns its frame once it has no image left (R341). -/
def State.returnFrame (s : State) (g : Nat) : State :=
  let t := s.tile g
  if t.task.resumed ∧ t.task.images.isEmpty then
    (s.freeFrame t.task.ctx t.task.frame).setTile g { t with task := { t.task with frame := none, resumed := false } }
  else s

/-- The task of tile `g` ends (R227, R312): its twin groups are published by RETIRE and dropped otherwise, its frame and
accumulators are free, it leaves its groups, the context's entry is stored, the tile is left empty, and the hub is to
record the record's end. -/
def State.endTask (s : State) (g kind code : Nat) : State :=
  let k := (s.tile g).task
  let datum := s.datumTile g
  let stamp := if datum ∧ kind = 0 then s.now - 652 else s.now
  let s := k.twins.foldl (fun s grp => s.flip k.ctx grp (kind = 0) datum stamp) s
  let s := (s.storeEntry g).freeFrame k.ctx k.frame
  let s := s.leaveAll g k.uid
  let s := s.setTile g (((s.tile g).dropOwners (Owner.isOf k.uid)).vacated)
  let s := { s with peers := s.peers.filter (fun r => r.tile != g), turn := s.turn.filter (fun w => w.tile != g),
                    remote := s.remote.filter (fun r => r.who.1 != g),
                    tiles := s.tiles.map (fun (e : Nat × Tile) =>
                      (e.1, { e.2 with asks := e.2.asks.filter (fun a => !a.isOf g) })) }
  s.noteEnd ⟨g, k.card, k.recIndex.toNat, if datum ∧ kind = 3 then 2 else kind, code, false⟩

/-- A task that is ending has drained (R227): no word in flight or not performed, and no command; MARKs left over count for
nothing. -/
def Tile.drained (t : Tile) : Bool :=
  [t.l, t.x, t.s].all (fun k => k.pend.isEmpty && k.glob.isNone) && t.mopen.isEmpty && t.vjobs.isEmpty &&
    t.asks.all (fun a => (askCore a.rank).isNone) && t.cmds.all (fun c => c.op == 256)

/-- The task of tile `g` begins to end (R227): its cores issue nothing more; it ends with the clock in which its words and
commands have completed, stores of its cores that are not acknowledged among them (R281); a fault after issue is dropped, with no
replay. -/
def State.beginEnd (s : State) (g kind code at_ : Nat) : State :=
  let t := s.tile g
  let halt := fun (k : Core) => { k with run := .idle, glob := k.glob.filter (fun gl => decide (2 < gl.kind)), stopIn := false }
  let live := fun (c : Cmd) => !c.faulted
  let t := { t with loadQ := t.loadQ.filter live, storeQ := t.storeQ.filter live, l := halt t.l, x := halt t.x, s := halt t.s,
                    task := { t.task with ending := some (kind, code, at_) } }
  { s.setTile g t with turn := s.turn.filter (fun w => w.tile != g), later := s.later.filter (fun w => w.tile != g) }

/-- The host has acknowledged every write of a task to its memory (R268, R281). -/
def State.hostDone (s : State) (uid : Nat) : Bool :=
  s.hostAcks.all (fun h => match h with | .task u _ _ => u != uid | _ => true)

/-- The tiles whose ending tasks have drained in this clock, with how they end; what they wrote is performed at .sys
(R281). -/
def State.endings (s : State) : List (Nat × Nat × Nat) :=
  s.tiles.filterMap (fun (e : Nat × Tile) =>
    match e.2.task.ending with
    | some (kind, code, at_) =>
      if e.2.drained ∧ at_ ≤ s.now ∧ s.hostDone e.2.task.uid then some (e.1, kind, code) else none
    | none => none)

/-- A twin group whose last flip is not settled yet (R328, R329). -/
def State.unsettled (s : State) (x grp : Nat) : Bool := (s.ctx x).any (fun c => (Store.find c.settle grp).any (s.now < ·))

/-- The tile of a task that parks injects STOP, unless one is under way, whose save then is that of a park (R344). -/
def Tile.stopToPark (t : Tile) (va : U64) : Tile :=
  match t.stop with
  | none => { t with stop := some (some va), l := { t.l with stopIn := true } }
  | some none => { t with stop := some (some va) }
  | some (some _) => t

/-- The end of the tasks that have drained (R227): what else ends or discards a task in the clock has come before
(R345, R379). -/
def State.endTasks (s : State) : State := (s.endings.foldl (fun s e => s.endTask e.1 e.2.1 e.2.2) s).recordEnds

end Sys2Proof.Machine
end

