-- ==== Sys2Proof/Machine/Ops.lean ====
section
/-!
DEFINITION. The operations that instructions share: taking a trap and returning from one (R226, R334, R335), waiting and
issuing (R91, R92), scalar registers and queue ports (R30 to R32), token queues (R210), and the ready test of registers.
-/

namespace Sys2Proof.Machine

open Host (Outcome)

/-- Exchanging the issuing core's record. -/
def State.mapMe (s : State) (f : Core → Core) : State := s.setMe (f s.me)

/-- TSTATUS as trap entry writes it (R335). -/
def tstatusWord (priv : BitVec 2) (eng held abm : Bool) : U64 :=
  BitVec.ofNat 64 (priv.toNat + (if eng then 4 else 0) + (if held then 8 else 0) + (if abm then 16 else 0))

/-- Trap entry on a core: steps 2 and 3 of R334. `tpc` is what the fault's rule puts into TPC. -/
def Core.enter (k : Core) (now code : Nat) (tval tpc : U64) (eng abm : Bool) : Core :=
  { k with tpc := tpc, tcause := BitVec.ofNat 8 code, tval := tval, tstatus := tstatusWord k.priv eng k.stopIn abm,
           priv := k.priv + 1, pc := k.tvec, run := .running, glob := none, held := none, nextAt := now + 1 }

/-- A resource is a latch. -/
def Res.isLatch : Res → Bool
  | .byp _ => true
  | _ => false

/-- The latches are lost (R93), those that a word in flight would have captured among them. -/
def Tile.loseLatches (t : Tile) : Tile :=
  { t with xr := { t.xr with bypValid := [] },
           x := { t.x with pend := t.x.pend.map (fun p => { p with cap := none, res := p.res.filter (fun r => !r.isLatch) }) } }

/-- A handler activation of the X-core ends: its accumulators and their images are gone, with the fills of them in progress; a
spill that made way for it goes on for nobody (R168). -/
def Tile.endActivation (t : Tile) (level : Nat) : Tile :=
  let o := Owner.handler t.task.uid level
  let t := t.dropOwners (· == o)
  let moves := (t.accMoves.filter (fun (m : AccMove) => !(m.fill && m.who == o))).map
    (fun (m : AccMove) => if m.who = o then { m with who := .nobody } else m)
  let t := { t with accMoves := moves }
  { t with task := { t.task with images := t.task.images.filter (fun e => e.1 != o) } }

/-- Taking an exception (R334): at PRIV 0 or 1 the core enters its handler, on the X-core once the open M-format words
have completed; there the latches are lost (R93), and the closure count is reset; at PRIV 2 the task ends as EXIT with code
0xDF00 plus the fault code. -/
def State.trap (s : State) (w : Who) (code : Nat) (tval tpc : U64) (eng : Bool) : State :=
  let t := s.tile w.tile
  let k := t.core w.core
  if 2 ≤ k.priv.toNat then s.beginEnd w.tile 1 (0xDF00 + code) s.now
  else
    let k := k.enter s.now code tval tpc eng t.task.abortMark
    let t := t.setCore w.core (if w.core = .X ∧ t.mopen ≠ [] then { k with run := .waiting .opened } else k)
    let t := if w.core = .X then t.loseLatches else t
    s.setTile w.tile { t with closureCount := 0, struck := some s.now }

/-- A synchronous fault of the word the core issues: TPC holds its address (R22, R334). -/
def State.fault (s : State) (code : Nat) (tval : U64) : Outcome State Fault Refusal :=
  .next (s.trap s.cur code tval s.me.pc false)

/-- Illegal instruction: TVAL holds the word's first unit (R22, R56). -/
def State.illegal (s : State) (i : Instr) : Outcome State Fault Refusal := s.fault 0x01 (headUnit i)

/-- TVAL of illegal operand: the field and the offending bits (R23). -/
def operandTval (field bits : Nat) : U64 := BitVec.ofNat 64 (field * 2 ^ 20 + bits % 2 ^ 20)

/-- Illegal operand (R23). -/
def State.badOperand (s : State) (field bits : Nat) : Outcome State Fault Refusal :=
  s.fault 0x04 (operandTval field bits)

/-- The core waits; the word takes nothing and starts again when its condition is met (R91, R208). -/
def State.wait (s : State) (w : Wait) : Outcome State Fault Refusal :=
  .next (s.mapMe (fun k => { k with run := .waiting w }))

/-- PRIV restored from TSTATUS (R226). The levels are 0 to 2 (R39); what a field value of 3 restores is not stated: one of
the levels, freely (notes/assumptions 12). -/
def restorePriv (tstatus : U64) (fresh : Nat) : BitVec 2 :=
  if bitsAt tstatus.toNat 0 2 = 3 then BitVec.ofNat 2 ((Config.freeValue fresh).toNat % 3)
  else BitVec.ofNat 2 (bitsAt tstatus.toNat 0 2)

/-- The state that a command's LFSR starts from: its record's seed (R80). A command without a record starts at 1
(notes/assumptions 34: DESIGN CHOICE). -/
def seedOf (shape : Nat) : U32 := BitVec.ofNat 32 (max 1 (bitsAt shape 288 32))

/-- Clocks from a command's start to its first step: to its first access in free mode, where that clock is free; in datum
mode an LXFER sends at once (R204), a transform reads at 12 and a SACC updates from 16 on (R207). -/
def Cmd.firstStep (c : Cmd) (datum : Bool) : Nat :=
  if datum = false then c.lead
  else if c.op = 0xD2 then 0
  else if 0xC9 ≤ c.op ∧ c.op ≤ 0xCD then 12
  else if c.op = 0xCE then 16
  else c.lead

/-- The commands of a FIFO made ready to replay, each from its start and its seed (R80, R206). The first counts its clocks from
now, the others from as much later as they were issued after it. -/
def replayed (now : Nat) (datum : Bool) (q : List Cmd) : List Cmd :=
  let first := (q.head?).elim 0 (fun c => c.issued)
  q.map (fun c => if c.op = 256 then c else
    let base := now + (c.issued - first)
    { c with base := base, started := false, plan := [], next := 0, trouble := none, flags := 0, fetched := [],
             asked := false, got := [],
             due := base + c.firstStep datum, sent := false, late := false, faulted := false, lfsr := seedOf c.shape })

/-- Return from an exception (R226): PRIV from TSTATUS, a STOP that was held being taken now (R337); the latches are lost (R93:
by ERET of any core; notes/assumptions 36), and on the X-core the activation's accumulators end; the core resumes at TPC, or
after an engine fault replays its FIFO and resumes at its held resume point (R206). A core that was draining returns to draining
(R237). -/
def State.eret (s : State) : State :=
  let t := s.myTile
  let eng := bit s.me.tstatus.toNat 2 = 1
  let t := (if s.cur.core = .X then t.endActivation s.me.priv.toNat else t).loseLatches
  let t := if eng then
      match s.cur.core with
      | .L => { t with loadQ := replayed s.now (s.datumTile s.cur.tile) t.loadQ }
      | .S => { t with storeQ := replayed s.now (s.datumTile s.cur.tile) t.storeQ }
      | .X => t
    else t
  let k := t.core s.cur.core
  let pc := if eng then k.resume.getD k.tpc else k.tpc
  let k := { k with priv := restorePriv k.tstatus s.fresh, pc := pc, nextAt := s.now + 2,
                    pend := k.pend ++ [{ res := [], due := s.now + 1, flags := 0, cap := none, ew := (1, 1) }],
                    run := if eng && k.drain then .draining else .running,
                    resume := if eng then none else k.resume, drain := if eng then false else k.drain }
  let s := ((s.setMyTile (t.setCore s.cur.core k)).returnFrame s.cur.tile).tick
  if k.stopIn && k.priv == 0 then s.due (.stopTaken s.cur.tile s.cur.core) else s

/-- An issued word that is complete at clock `due` and writes `res`. -/
def plainPend (due : Nat) (res : List Res) : Pend := { res := res, due := due, flags := 0, cap := none, ew := (1, 1) }

/-- The word issues: the core goes on at `npc`, its next word no earlier than `next`, and `p` is in flight (R91, R92). -/
def State.issue (s : State) (npc : U64) (next : Nat) (p : Pend) : State :=
  s.mapMe (fun k => { k with pc := npc, run := .running, held := none, nextAt := next, pend := k.pend ++ [p] })

/-- A scalar word that writes no register and takes one clock issues. -/
def State.stepOn (s : State) : State := s.issue (s.me.pc + 4) (s.now + 1) (plainPend (s.now + 1) [])

/-- A resource some issued word of the core still has to deliver (R91). -/
def Core.pending (k : Core) (now : Nat) (r : Res) : Bool := k.pend.any (fun p => p.res.contains r && decide (now < p.due))

/-- A scalar register as read: s0 reads zero (R30). -/
def Core.reg (k : Core) (n : Nat) : U64 := if n = 0 then 0 else Store.get 0 k.regs n

/-- A scalar register written: a write to s0 is discarded (R30). -/
def Core.setReg (k : Core) (n : Nat) (v : U64) : Core := if n = 0 then k else { k with regs := Store.set 0 k.regs n v }

/-- The queue behind in-port `p` of a core (R31). -/
def inQueue : CoreId → Nat → Option Nat
  | .L, 0 => some 4
  | .L, 1 => some 5
  | .X, 0 => some 0
  | .X, 1 => some 1
  | .X, 2 => some 7
  | .S, 0 => some 2
  | .S, 1 => some 3
  | .S, 2 => some 6
  | _, _ => none

/-- The queue behind out-port `p` of a core (R31). -/
def outQueue : CoreId → Nat → Option Nat
  | .L, 0 => some 0
  | .L, 1 => some 1
  | .L, 2 => some 6
  | .X, 0 => some 2
  | .X, 1 => some 3
  | .X, 2 => some 5
  | .S, 0 => some 4
  | .S, 1 => some 7
  | _, _ => none

/-- An empty queue. -/
def Queue.fresh : Queue := { toks := [], resv := 0, freed := [] }

/-- A queue of a tile. -/
def Tile.queue (t : Tile) (q : Nat) : Queue := Store.get Queue.fresh t.queues q

/-- A queue of a tile replaced. -/
def Tile.setQueue (t : Tile) (q : Nat) (u : Queue) : Tile := { t with queues := Store.put t.queues q u }

/-- A token that a pop in clock `now` may take (R210): a core's push from the clock after, a done token from its own. -/
def Token.ready (k : Token) (now : Nat) : Bool := if k.rank = 3 then decide (k.pushAt < now) else decide (k.pushAt ≤ now)

/-- How many tokens a pop in clock `now` may take, from the head of queue `q`: those that are ready and before whose push
the pushing core's accesses are performed (R210, R239). -/
def Tile.poppable (t : Tile) (q now : Nat) : Nat :=
  ((t.queue q).toks.takeWhile (fun k => k.ready now && (k.rank != 3 || t.performed (pusher q) k.issued))).length

/-- Free places that a push in clock `now` may fill: 16, less tokens, reserved places and places freed in this clock
(R31, R210). -/
def Queue.places (u : Queue) (now : Nat) : Nat :=
  16 - (u.toks.length + u.resv + (u.freed.filter (· == now)).length)

/-- The head token popped (R210). -/
def Queue.pop (u : Queue) (now : Nat) : Queue :=
  { u with toks := u.toks.tail, freed := now :: u.freed.filter (· == now) }

/-- A token pushed in clock `clk`; a core's by a word that issued in clock `issued`. -/
def Queue.push (u : Queue) (tok : U32) (clk rank issued : Nat) : Queue :=
  { u with toks := insertToken ⟨tok, clk, rank, issued⟩ u.toks }

/-- The head token. -/
def Queue.head (u : Queue) : U32 :=
  match u.toks with
  | k :: _ => k.tok
  | [] => 0

/-- A register number that names a queue port (R30). -/
def isPort (n : Nat) : Bool := decide (28 ≤ n)

/-- The first unconnected port a word names, its uses in the order a, b, d; a use is a register and whether it is
written (R30). -/
def deadPort (c : CoreId) : List (Nat × Bool) → Option Nat
  | [] => none
  | (n, w) :: us =>
    if isPort n && (if w then outQueue c (n - 28) else inQueue c (n - 28)).isNone then some (n - 28)
    else deadPort c us

/-- Uses of a port among a word's uses: how many tokens it takes, or how many places. -/
def countUse (us : List (Nat × Bool)) (n : Nat) (w : Bool) : Nat := (us.filter (fun u => u.1 == n && u.2 == w)).length

/-- The wait for what a word lacks of tokens, places, full head slots and empty tail slots (R91). -/
def lackWait : List Nat → List Nat → List Nat → List Nat → Option Wait
  | [], [], [], [] => none
  | [q], [], [], [] => some (.pop q)
  | [], [q], [], [] => some (.push q)
  | [], [], [n], [] => some (.full n)
  | [], [], [], [n] => some (.empty n)
  | pops, pushes, full, empty => some (.several pops pushes full empty)

/-- The queues from which a word's registers lack tokens, and those in which they lack places. -/
def portLacks (t : Tile) (c : CoreId) (now : Nat) (us : List (Nat × Bool)) : List Nat × List Nat :=
  ((us.filterMap (fun u => if isPort u.1 && !u.2 then
      (inQueue c (u.1 - 28)).filter (fun q => decide (t.poppable q now < countUse us u.1 false)) else none)).eraseDups,
   (us.filterMap (fun u => if isPort u.1 && u.2 then
      (outQueue c (u.1 - 28)).filter (fun q => decide ((t.queue q).places now < countUse us u.1 true)) else none)).eraseDups)

/-- What a word's scalar registers make it wait for (R91): a register whose writer is not done, or tokens and places. -/
def usesWait (t : Tile) (c : CoreId) (now : Nat) (us : List (Nat × Bool)) : Option Wait :=
  if us.any (fun u => !isPort u.1 && (t.core c).pending now (.s u.1)) then some .res
  else lackWait (portLacks t c now us).1 (portLacks t c now us).2 [] []

/-- The values of the registers a word reads, popped in order (R30): the tile after the pops, and the values. -/
def takeUses (c : CoreId) (now : Nat) : Tile → List (Nat × Bool) → Tile × List U64
  | t, [] => (t, [])
  | t, (_, true) :: us => takeUses c now t us
  | t, (n, false) :: us =>
    if isPort n then
      match inQueue c (n - 28) with
      | some q =>
        let u := t.queue q
        let r := takeUses c now (t.setQueue q (u.pop now)) us
        (r.1, BitVec.ofNat 64 u.head.toNat :: r.2)
      | none => takeUses c now t us
    else
      let r := takeUses c now t us
      (r.1, (t.core c).reg n :: r.2)

/-- Where reading a word's registers ends. -/
inductive Taken
  | dead (port : Nat)
  | waits (w : Wait)
  | ok (s : State) (vals : List U64)

/-- A word's scalar registers read (R30, R91): an unconnected port faults, what is not ready makes the word wait, else
all pops are taken. `us` lists the uses in the order a, b, d. -/
def State.take (s : State) (us : List (Nat × Bool)) : Taken :=
  match deadPort s.cur.core us with
  | some p => .dead p
  | none =>
    match usesWait s.myTile s.cur.core s.now us with
    | some w => .waits w
    | none =>
      let r := takeUses s.cur.core s.now s.myTile us
      .ok (s.setMyTile r.1) r.2

/-- A word whose registers are read first: the fault of an unconnected port (R30), the wait, or what follows from the
state after the pops and the values. -/
def State.withRegs (s : State) (us : List (Nat × Bool)) (k : State → List U64 → Outcome State Fault Refusal) :
    Outcome State Fault Refusal :=
  match s.take us with
  | .dead p => s.fault 0x08 (BitVec.ofNat 64 p)
  | .waits w => s.wait w
  | .ok s' vs => k s' vs

/-- A result written to register `d`, or pushed through a port in the clock before it is visible (R30). -/
def State.putReg (s : State) (d : Nat) (v : U64) (lat : Nat) : State :=
  if isPort d then
    match outQueue s.cur.core (d - 28) with
    | some q =>
      let t := s.myTile
      s.setMyTile (t.setQueue q ((t.queue q).push (BitVec.ofNat 32 v.toNat) (s.now + lat - 1) 3 s.now))
    | none => s
  else s.mapMe (fun k => k.setReg d v)

/-- The resources a register destination holds until it is visible. -/
def regRes (d : Nat) : List Res := if d = 0 ∨ 28 ≤ d then [] else [.s d]

/-- A scalar word ends with a result: `s0` is the state it issued in, to which a forbidden token (R32) leaves it, `s` the
state after its pops and its own effect; `p` is what stands in flight; the core goes on at `npc`. -/
def State.finishWith (s0 s : State) (d : Nat) (v : U64) (lat : Nat) (p : Pend) (npc : U64) (next : Nat) :
    Outcome State Fault Refusal :=
  if isPort d && forbiddenToken (BitVec.ofNat 32 v.toNat) then s0.fault 0x08 (BitVec.ofNat 64 (v.toNat % 2 ^ 32))
  else .next ((s.putReg d v lat).issue npc next p)

/-- A scalar word ends with a result and reaches no scratch. -/
def State.finish (s0 s : State) (d : Nat) (v : U64) (lat : Nat) (npc : U64) (next : Nat) : Outcome State Fault Refusal :=
  s0.finishWith s d v lat (plainPend (s.now + lat) (regRes d)) npc next

/-- Value `n` of a list of values read. -/
def val (vs : List U64) (n : Nat) : U64 := vs.getD n 0

/-- A sign-extended immediate (R104). -/
def sext64 {n : Nat} (i : BitVec n) : U64 := i.signExtend 64

/-- The forbidden token that a word with sources `us` would push through port `d`, where its sources are there: it faults
before it waits for a place (R23, R32, R212). -/
def State.badToken (s : State) (us : List (Nat × Bool)) (d : Nat) (f : List U64 → U64) : Option U64 :=
  if isPort d = false then none
  else
    match deadPort s.cur.core (us ++ [(d, true)]), s.take us with
    | none, .ok _ vs =>
      if forbiddenToken (BitVec.ofNat 32 (f vs).toNat) then some (BitVec.ofNat 64 ((f vs).toNat % 2 ^ 32)) else none
    | _, _ => none

/-- A word that computes `f` of its sources into `d`, which its pops and the result alone change (R104 to R110). -/
def State.compute (s : State) (srcs : List Nat) (d lat : Nat) (f : List U64 → U64) : Outcome State Fault Refusal :=
  match s.badToken (srcs.map (·, false)) d f with
  | some tok => s.fault 0x08 tok
  | none =>
    s.withRegs (srcs.map (·, false) ++ [(d, true)]) fun s' vs => s.finish s' d (f vs) lat (s.me.pc + 4) (s.now + 1)

end Sys2Proof.Machine
end

