-- ==== Sys2Proof/Machine/Alu.lean ====
section
/-!
DEFINITION. The ALU-R words (R105 to R108).
-/

namespace Sys2Proof.Machine

open Host (Outcome)

/-- A word of two sources (R105). -/
def State.alu2 (s : State) (d a b : BitVec 5) (lat : Nat) (f : U64 → U64 → U64) : Outcome State Fault Refusal :=
  s.compute [a.toNat, b.toNat] d.toNat lat (fun v => f (val v 0) (val v 1))

/-- A unary word (R105). -/
def State.alu1 (s : State) (d a : BitVec 5) (f : U64 → U64) : Outcome State Fault Refusal :=
  s.compute [a.toNat] d.toNat 1 (fun v => f (val v 0))

/-- Shift and rotate counts use y[5:0] (R106). -/
def shiftCount (y : U64) : Nat := y.toNat % 64

/-- 1 for true, 0 for false. -/
def flag (b : Bool) : U64 := if b then 1 else 0

/-- Bits [127:64] of the signed product (R106). -/
def mulHigh (x y : U64) : U64 := BitVec.ofInt 64 (x.toInt * y.toInt / 2 ^ 64)

/-- Bits [127:64] of the unsigned product (R106). -/
def mulHighU (x y : U64) : U64 := BitVec.ofNat 64 (x.toNat * y.toNat / 2 ^ 64)

/-- The signed quotient with its corners (R107). -/
def divSigned (x y : U64) : U64 := if y = 0 then -1 else BitVec.ofInt 64 (x.toInt.tdiv y.toInt)

/-- The unsigned quotient with its corner (R107). -/
def divUnsigned (x y : U64) : U64 := if y = 0 then -1 else BitVec.ofNat 64 (x.toNat / y.toNat)

/-- The signed remainder, with the sign of x, and its corners (R107). -/
def remSigned (x y : U64) : U64 := if y = 0 then x else BitVec.ofInt 64 (x.toInt.tmod y.toInt)

/-- The unsigned remainder with its corner (R107). -/
def remUnsigned (x y : U64) : U64 := if y = 0 then x else BitVec.ofNat 64 (x.toNat % y.toNat)

/-- Leading zero bits; 64 for zero (R106). -/
def leadingZeros (x : U64) : Nat := ((List.range 64).takeWhile (fun i => !x.getLsbD (63 - i))).length

/-- Trailing zero bits; 64 for zero (R106). -/
def trailingZeros (x : U64) : Nat := ((List.range 64).takeWhile (fun i => !x.getLsbD i)).length

/-- One bits (R106). -/
def onesIn (x : U64) : Nat := ((List.range 64).filter (fun i => x.getLsbD i)).length

def execAdd (d a b : BitVec 5) (s : State) : Outcome State Fault Refusal := s.alu2 d a b 1 fun x y => x + y

def execSub (d a b : BitVec 5) (s : State) : Outcome State Fault Refusal := s.alu2 d a b 1 fun x y => x - y

def execAnd (d a b : BitVec 5) (s : State) : Outcome State Fault Refusal := s.alu2 d a b 1 fun x y => x &&& y

def execOr (d a b : BitVec 5) (s : State) : Outcome State Fault Refusal := s.alu2 d a b 1 fun x y => x ||| y

def execXor (d a b : BitVec 5) (s : State) : Outcome State Fault Refusal := s.alu2 d a b 1 fun x y => x ^^^ y

def execAndn (d a b : BitVec 5) (s : State) : Outcome State Fault Refusal := s.alu2 d a b 1 fun x y => x &&& ~~~y

def execOrn (d a b : BitVec 5) (s : State) : Outcome State Fault Refusal := s.alu2 d a b 1 fun x y => x ||| ~~~y

def execXnor (d a b : BitVec 5) (s : State) : Outcome State Fault Refusal := s.alu2 d a b 1 fun x y => ~~~(x ^^^ y)

def execShl (d a b : BitVec 5) (s : State) : Outcome State Fault Refusal := s.alu2 d a b 1 fun x y => x <<< shiftCount y

def execShr (d a b : BitVec 5) (s : State) : Outcome State Fault Refusal := s.alu2 d a b 1 fun x y => x >>> shiftCount y

def execSra (d a b : BitVec 5) (s : State) : Outcome State Fault Refusal := s.alu2 d a b 1 fun x y => x.sshiftRight (shiftCount y)

def execRotr (d a b : BitVec 5) (s : State) : Outcome State Fault Refusal := s.alu2 d a b 1 fun x y => x.rotateRight (shiftCount y)

def execRotl (d a b : BitVec 5) (s : State) : Outcome State Fault Refusal := s.alu2 d a b 1 fun x y => x.rotateLeft (shiftCount y)

def execMul (d a b : BitVec 5) (s : State) : Outcome State Fault Refusal := s.alu2 d a b 3 fun x y => x * y

def execMulh (d a b : BitVec 5) (s : State) : Outcome State Fault Refusal := s.alu2 d a b 3 fun x y => mulHigh x y

def execMulhu (d a b : BitVec 5) (s : State) : Outcome State Fault Refusal := s.alu2 d a b 3 fun x y => mulHighU x y

def execDiv (d a b : BitVec 5) (s : State) : Outcome State Fault Refusal := s.alu2 d a b 20 fun x y => divSigned x y

def execDivu (d a b : BitVec 5) (s : State) : Outcome State Fault Refusal := s.alu2 d a b 20 fun x y => divUnsigned x y

def execRem (d a b : BitVec 5) (s : State) : Outcome State Fault Refusal := s.alu2 d a b 20 fun x y => remSigned x y

def execRemu (d a b : BitVec 5) (s : State) : Outcome State Fault Refusal := s.alu2 d a b 20 fun x y => remUnsigned x y

def execMin (d a b : BitVec 5) (s : State) : Outcome State Fault Refusal := s.alu2 d a b 1 fun x y => if x.slt y then x else y

def execMax (d a b : BitVec 5) (s : State) : Outcome State Fault Refusal := s.alu2 d a b 1 fun x y => if x.slt y then y else x

def execMinu (d a b : BitVec 5) (s : State) : Outcome State Fault Refusal := s.alu2 d a b 1 fun x y => if x.ult y then x else y

def execMaxu (d a b : BitVec 5) (s : State) : Outcome State Fault Refusal := s.alu2 d a b 1 fun x y => if x.ult y then y else x

def execSlt (d a b : BitVec 5) (s : State) : Outcome State Fault Refusal := s.alu2 d a b 1 fun x y => flag (x.slt y)

def execSltu (d a b : BitVec 5) (s : State) : Outcome State Fault Refusal := s.alu2 d a b 1 fun x y => flag (x.ult y)

def execSeq (d a b : BitVec 5) (s : State) : Outcome State Fault Refusal := s.alu2 d a b 1 fun x y => flag (x == y)

def execSne (d a b : BitVec 5) (s : State) : Outcome State Fault Refusal := s.alu2 d a b 1 fun x y => flag (x != y)

def execAddw (d a b : BitVec 5) (s : State) : Outcome State Fault Refusal := s.alu2 d a b 1 fun x y => ((x + y).truncate 32).signExtend 64

def execSubw (d a b : BitVec 5) (s : State) : Outcome State Fault Refusal := s.alu2 d a b 1 fun x y => ((x - y).truncate 32).signExtend 64

def execClz (d a : BitVec 5) (s : State) : Outcome State Fault Refusal := s.alu1 d a fun x => BitVec.ofNat 64 (leadingZeros x)

def execCtz (d a : BitVec 5) (s : State) : Outcome State Fault Refusal := s.alu1 d a fun x => BitVec.ofNat 64 (trailingZeros x)

def execPopc (d a : BitVec 5) (s : State) : Outcome State Fault Refusal := s.alu1 d a fun x => BitVec.ofNat 64 (onesIn x)

def execBrev (d a : BitVec 5) (s : State) : Outcome State Fault Refusal := s.alu1 d a fun x => x.reverse

def execSextb (d a : BitVec 5) (s : State) : Outcome State Fault Refusal := s.alu1 d a fun x => (x.truncate 8).signExtend 64

def execSexth (d a : BitVec 5) (s : State) : Outcome State Fault Refusal := s.alu1 d a fun x => (x.truncate 16).signExtend 64

def execSextw (d a : BitVec 5) (s : State) : Outcome State Fault Refusal := s.alu1 d a fun x => (x.truncate 32).signExtend 64

/-- SEL reads d as its condition; d may not name a port (R104, R108). -/
def execSel (d a b : BitVec 5) (s : State) : Outcome State Fault Refusal :=
  if isPort d.toNat then s.illegal (.sel d a b)
  else s.compute [a.toNat, b.toNat, d.toNat] d.toNat 1 fun v => if val v 2 ≠ 0 then val v 0 else val v 1

end Sys2Proof.Machine
end

