-- ==== Sys2Proof/Machine/AluImm.lean ====
section
/-!
DEFINITION. The immediate forms, LIH and the bit-field words (R109 to R111).
-/

namespace Sys2Proof.Machine

open Host (Outcome)

/-- A word of one source and a sign-extended immediate (R109). -/
def State.aluImm (s : State) (d a : BitVec 5) (i : BitVec 14) (lat : Nat) (f : U64 → U64 → U64) :
    Outcome State Fault Refusal :=
  s.compute [a.toNat] d.toNat lat (fun v => f (val v 0) (sext64 i))

/-- A shift by an immediate count (R109). -/
def State.shiftImm (s : State) (d a : BitVec 5) (k : BitVec 6) (f : U64 → Nat → U64) : Outcome State Fault Refusal :=
  s.compute [a.toNat] d.toNat 1 (fun v => f (val v 0) k.toNat)

def execAddi (d a : BitVec 5) (i : BitVec 14) (s : State) : Outcome State Fault Refusal :=
  s.aluImm d a i 1 fun x m => x + m

def execAndi (d a : BitVec 5) (i : BitVec 14) (s : State) : Outcome State Fault Refusal :=
  s.aluImm d a i 1 fun x m => x &&& m

def execOri (d a : BitVec 5) (i : BitVec 14) (s : State) : Outcome State Fault Refusal :=
  s.aluImm d a i 1 fun x m => x ||| m

def execXori (d a : BitVec 5) (i : BitVec 14) (s : State) : Outcome State Fault Refusal :=
  s.aluImm d a i 1 fun x m => x ^^^ m

def execSlti (d a : BitVec 5) (i : BitVec 14) (s : State) : Outcome State Fault Refusal :=
  s.aluImm d a i 1 fun x m => flag (x.slt m)

def execSltui (d a : BitVec 5) (i : BitVec 14) (s : State) : Outcome State Fault Refusal :=
  s.aluImm d a i 1 fun x m => flag (x.ult m)

def execMuli (d a : BitVec 5) (i : BitVec 14) (s : State) : Outcome State Fault Refusal :=
  s.aluImm d a i 3 fun x m => x * m

def execShli (d a : BitVec 5) (k : BitVec 6) (s : State) : Outcome State Fault Refusal :=
  s.shiftImm d a k fun x k => x <<< k

def execShri (d a : BitVec 5) (k : BitVec 6) (s : State) : Outcome State Fault Refusal :=
  s.shiftImm d a k fun x k => x >>> k

def execSrai (d a : BitVec 5) (k : BitVec 6) (s : State) : Outcome State Fault Refusal :=
  s.shiftImm d a k fun x k => x.sshiftRight k

/-- LIH: the immediate, sign-extended, times 2^13 (R110). -/
def execLih (d : BitVec 5) (i : BitVec 19) (s : State) : Outcome State Fault Refusal :=
  s.compute [] d.toNat 1 fun _ => sext64 i <<< 13

/-- A bit-field that runs past bit 63 (R111). -/
def fieldTooLong (l p : BitVec 6) : Bool := decide (64 < p.toNat + (l.toNat + 1))

/-- Bits [pos+len-1:pos] of a value, sign-extended (R111). -/
def extractSigned (x : U64) (pos len : Nat) : U64 := BitVec.ofInt 64 (signed len (bitsAt x.toNat pos len))

/-- Bits [pos+len-1:pos] of a value, zero-extended (R111). -/
def extractZero (x : U64) (pos len : Nat) : U64 := BitVec.ofNat 64 (bitsAt x.toNat pos len)

/-- Bits [pos+len-1:pos] of `old` replaced by the low bits of `x` (R111). -/
def insertField (old x : U64) (pos len : Nat) : U64 := putBits old pos len x.toNat

def execExtr (d a : BitVec 5) (l p : BitVec 6) (s : State) : Outcome State Fault Refusal :=
  if fieldTooLong l p then s.illegal (.extr d a l p)
  else s.compute [a.toNat] d.toNat 1 fun v => extractSigned (val v 0) p.toNat (l.toNat + 1)

def execExtru (d a : BitVec 5) (l p : BitVec 6) (s : State) : Outcome State Fault Refusal :=
  if fieldTooLong l p then s.illegal (.extru d a l p)
  else s.compute [a.toNat] d.toNat 1 fun v => extractZero (val v 0) p.toNat (l.toNat + 1)

/-- INSR reads and writes d, which may not name a port (R104, R111). -/
def execInsr (d a : BitVec 5) (l p : BitVec 6) (s : State) : Outcome State Fault Refusal :=
  if fieldTooLong l p || isPort d.toNat then s.illegal (.insr d a l p)
  else s.compute [a.toNat, d.toNat] d.toNat 1 fun v => insertField (val v 1) (val v 0) p.toNat (l.toNat + 1)

end Sys2Proof.Machine
end

