-- ==== Sys2Proof/Machine/Branch.lean ====
section
/-!
DEFINITION. Branches, loops, jumps and calls (R112 to R116). A transfer delays the target word to the second clock after
(R116).
-/

namespace Sys2Proof.Machine

open Host (Outcome)

/-- A target `off` units from the branch word (R21). -/
def target {n : Nat} (pc : U64) (off : BitVec n) : U64 := pc + sext64 off * 4

/-- The comparison a branch makes (R48); 6 and 7 are illegal. -/
def branchTaken (c : BitVec 3) (x y : U64) : Option Bool :=
  match c.toNat with
  | 0 => some (x == y)
  | 1 => some (x != y)
  | 2 => some (x.slt y)
  | 3 => some (!(x.slt y))
  | 4 => some (x.ult y)
  | 5 => some (!(x.ult y))
  | _ => none

/-- The word of a transfer decided: to `t` with the delay of R116 when taken, else on to the next word. -/
def State.jump (s : State) (taken : Bool) (t : U64) (pc : U64) (res : List Res) : State :=
  if taken then s.issue t (s.now + 2) (plainPend (s.now + 1) res)
  else s.issue (pc + 4) (s.now + 1) (plainPend (s.now + 1) res)

def execBr (a b : BitVec 5) (c : BitVec 3) (o : BitVec 11) (s : State) : Outcome State Fault Refusal :=
  if (branchTaken c 0 0).isNone then s.illegal (.br a b c o)
  else
    s.withRegs [(a.toNat, false), (b.toNat, false)] fun s' v =>
      .next (s'.jump ((branchTaken c (val v 0) (val v 1)).getD false) (target s.me.pc o) s.me.pc [])

/-- LOOP counts a register down and branches while it is not zero; s0 and the ports are illegal (R112). -/
def execLoop (a : BitVec 5) (o : BitVec 11) (s : State) : Outcome State Fault Refusal :=
  if a.toNat = 0 ∨ isPort a.toNat then s.illegal (.loop a o)
  else
    s.withRegs [(a.toNat, false)] fun s' v =>
      .next ((s'.putReg a.toNat (val v 0 - 1) 1).jump (val v 0 - 1 != 0) (target s.me.pc o) s.me.pc [.s a.toNat])

def execJ (o : BitVec 24) (s : State) : Outcome State Fault Refusal := .next (s.jump true (target s.me.pc o) s.me.pc [])

/-- CALL writes the return address to s27 (R30, R113). -/
def execCall (o : BitVec 24) (s : State) : Outcome State Fault Refusal :=
  s.withRegs [(27, true)] fun s' _ =>
    .next ((s'.putReg 27 (s.me.pc + 4) 1).jump true (target s.me.pc o) s.me.pc [.s 27])

/-- The target of JR and CALLR (R114). -/
def regTarget (x : U64) (i : BitVec 14) : U64 := x + sext64 i * 4

def execJr (a : BitVec 5) (i : BitVec 14) (s : State) : Outcome State Fault Refusal :=
  s.withRegs [(a.toNat, false)] fun s' v =>
    if (regTarget (val v 0) i).toNat % 4 ≠ 0 then s.fault 0x0E (regTarget (val v 0) i)
    else .next (s'.jump true (regTarget (val v 0) i) s.me.pc [])

/-- CALLR reads its register before it writes the link (R8, R114). -/
def execCallr (a : BitVec 5) (i : BitVec 14) (s : State) : Outcome State Fault Refusal :=
  s.withRegs [(a.toNat, false), (27, true)] fun s' v =>
    if (regTarget (val v 0) i).toNat % 4 ≠ 0 then s.fault 0x0E (regTarget (val v 0) i)
    else .next ((s'.putReg 27 (s.me.pc + 4) 1).jump true (regTarget (val v 0) i) s.me.pc [.s 27])

end Sys2Proof.Machine
end

