-- ==== Sys2Proof/Machine/Flags.lean ====
section
/-!
DEFINITION. Element types, exact values, the flags of FFLAGS and the one rounding of R76: R54, R58 to R64, R76 to R81.
-/

namespace Sys2Proof.Machine

/-- The flag bits of FFLAGS (R39, R79). -/
abbrev Flags := BitVec 5

/-- Invalid. -/
def flNV : Flags := 16
/-- Division by zero. -/
def flDZ : Flags := 8
/-- Overflow. -/
def flOF : Flags := 4
/-- Underflow. -/
def flUF : Flags := 2
/-- Inexact. -/
def flNX : Flags := 1

/-- The exact value of an operation: a real number `± (m + θ) 2^e`, where θ is 0, or strictly between 0 and 1 when
`sticky` holds; an infinity; or NaN (R59, R76). -/
inductive FVal
  | nan
  | inf (neg : Bool)
  | fin (neg : Bool) (m : Nat) (e : Int) (sticky : Bool)
  deriving DecidableEq, Repr

/-- The element type of the slots of a packed line: CB16 holds BF16 and CF32 holds FP32 (R74). -/
def slotType (t : Nat) : Nat := if t = 7 then 1 else if t = 8 then 0 else t

/-- Bits per element (R54); LQ8 codewords have 16. -/
def typeBits (t : Nat) : Nat :=
  match t with
  | 0 | 8 | 12 | 13 => 32
  | 1 | 2 | 6 | 7 | 11 => 16
  | 5 => 4
  | _ => 8

/-- The type is a floating-point type of R58, or holds one in its slots. -/
def typeFloat (t : Nat) : Bool := decide (t ≤ 5) || t == 7 || t == 8

/-- The type is an integer type of R63. -/
def typeInt (t : Nat) : Bool := decide (9 ≤ t ∧ t ≤ 13)

/-- The integer type is signed (R63). -/
def typeSigned (t : Nat) : Bool := t == 9 || t == 11 || t == 12

/-- Fraction bits (R58). -/
def fracBits (t : Nat) : Nat :=
  match slotType t with
  | 0 => 23
  | 1 => 7
  | 2 => 10
  | 3 => 3
  | 4 => 2
  | _ => 1

/-- Exponent bits (R58). -/
def expBits (t : Nat) : Nat :=
  match slotType t with
  | 0 => 8
  | 1 => 8
  | 2 => 5
  | 3 => 4
  | 4 => 5
  | _ => 2

/-- The exponent bias (R58). -/
def biasOf (t : Nat) : Nat := 2 ^ (expBits t - 1) - 1

/-- The code of the largest finite value, without its sign (R58). -/
def maxCode (t : Nat) : Nat :=
  match slotType t with
  | 0 => 0x7F7FFFFF
  | 1 => 0x7F7F
  | 2 => 0x7BFF
  | 3 => 0x7E
  | 4 => 0x7B
  | _ => 0x7

/-- The canonical NaN (R58, R62): E2M1 and the integers have none, and 0 stands in its place; E8M0 has 0xFF (R64). -/
def nanCode (t : Nat) : Nat :=
  match slotType t with
  | 0 => 0x7FC00000
  | 1 => 0x7FC0
  | 2 => 0x7E00
  | 3 => 0x7F
  | 4 => 0x7E
  | 14 => 0xFF
  | _ => 0

/-- The type has infinities (R58). -/
def hasInf (t : Nat) : Bool := slotType t == 0 || slotType t == 1 || slotType t == 2 || slotType t == 4

/-- A code with its sign bit. -/
def withSign (t : Nat) (neg : Bool) (code : Nat) : Nat := if neg then code + 2 ^ (typeBits t - 1) else code

/-- The value of a floating-point encoding (R59). -/
def decodeFloat (t bits : Nat) : FVal :=
  let wf := fracBits t
  let we := expBits t
  let neg := decide (bit bits (we + wf) = 1)
  let e := bitsAt bits wf we
  let f := bitsAt bits 0 wf
  if slotType t = 3 ∧ bitsAt bits 0 7 = 0x7F then .nan
  else if hasInf t ∧ e = 2 ^ we - 1 then (if f = 0 then .inf neg else .nan)
  else if e = 0 then .fin neg f (1 - (biasOf t : Int) - wf) false
  else .fin neg (2 ^ wf + f) ((e : Int) - biasOf t - wf) false

/-- The value of an integer element (R63). -/
def decodeInt (t bits : Nat) : Int := if typeSigned t then signed (typeBits t) bits else ((bits % 2 ^ typeBits t : Nat) : Int)

/-- An integer as an exact value. -/
def FVal.ofInt (i : Int) : FVal := .fin (decide (i < 0)) i.natAbs 0 false

/-- The value of an E8M0 byte (R64). -/
def decodeScale (e : Nat) : FVal := if e % 256 = 255 then .nan else .fin false 1 ((e % 256 : Nat) - (127 : Int)) false

/-- The value of an element of any type but LQ8 (R59, R63, R64). -/
def decodeElement (t bits : Nat) : FVal :=
  if typeInt t then .ofInt (decodeInt t bits) else if t = 14 then decodeScale bits else decodeFloat t bits

/-- One step of an LFSR (R80). -/
def lfsrStep (s : U32) : U32 := if s.getLsbD 31 then (s <<< 1) ^^^ 0x00400007 else s <<< 1

/-- A zero seed or written value is replaced by 1 (R80). -/
def nonZero (s : U32) : U32 := if s = 0 then 1 else s

/-- round_up_decision of R76 for the magnitude `count + f` in units of the quantum, where `f = (rem + θ) / 2^sh`: `sr` is
the LFSR state after this element's step. The carry of R81 over the first d places of f, d at most 32, is the carry over 32
places, since the places of an exact f beyond d are zero. -/
def roundUp (neg : Bool) (count rem sh : Nat) (sticky : Bool) (rnd : Nat) (sr : U32) : Bool :=
  match rnd with
  | 0 => decide (2 ^ sh < 2 * rem) || (decide (2 * rem = 2 ^ sh) && (sticky || decide (count % 2 = 1)))
  | 1 => false
  | 2 => (decide (rem ≠ 0) || sticky) && !neg
  | 3 => (decide (rem ≠ 0) || sticky) && neg
  | 4 => decide (2 ^ sh ≤ 2 * rem)
  | _ => decide (2 ^ 32 ≤ rem * 2 ^ 32 / 2 ^ sh + sr.toNat)

/-- A magnitude `(m + θ) 2^e` on the grid of quantum `2^x`: the kept count, the rounded count, and whether a fraction was
dropped (R76). -/
def onGrid (neg : Bool) (m : Nat) (e : Int) (sticky : Bool) (x : Int) (rnd : Nat) (sr : U32) : Nat × Nat × Bool :=
  if x ≤ e then (m * 2 ^ (e - x).toNat, m * 2 ^ (e - x).toNat, sticky)
  else
    let sh := (x - e).toNat
    let lo := m / 2 ^ sh
    let rem := m % 2 ^ sh
    let up := roundUp neg lo rem sh sticky rnd sr
    (lo, if up then lo + 1 else lo, decide (rem ≠ 0) || sticky)

/-- The range of an integer type (R63). -/
def intMin (t : Nat) : Int := if typeSigned t then -(2 ^ (typeBits t - 1) : Nat) else 0
def intMax (t : Nat) : Int := if typeSigned t then (2 ^ (typeBits t - 1) : Nat) - 1 else (2 ^ typeBits t : Nat) - 1

/-- An integer's element bits (R63). -/
def intBits (t : Nat) (i : Int) : Nat := wrapTo (typeBits t) i

/-- An integer held to its type's range. -/
def clampInt (t : Nat) (i : Int) : Int := min (max i (intMin t)) (intMax t)

/-- special_narrow of R62 for an infinity. -/
def narrowInf (t : Nat) (neg sat : Bool) : Nat × Flags :=
  if typeInt t then (intBits t (if neg then intMin t else intMax t), flNV)
  else if slotType t = 5 then (withSign t neg (maxCode t), flNX)
  else if sat then (withSign t neg (maxCode t), 0)
  else if hasInf t then (withSign t neg (maxCode t + 1), 0)
  else (nanCode t, flNV)

/-- The result of a finite overflow (R77). -/
def narrowOver (t : Nat) (neg sat : Bool) : Nat × Flags :=
  let fl := flOF ||| flNX
  if sat ∨ slotType t = 5 then (withSign t neg (maxCode t), fl)
  else if hasInf t then (withSign t neg (maxCode t + 1), fl)
  else (nanCode t, fl)

/-- round_to of R76 with its flags: `rnd` is a code 0 to 5, and `sr` the LFSR state after this element's step. -/
def roundTo (x : FVal) (t : Nat) (rnd : Nat) (sat : Bool) (sr : U32) : Nat × Flags :=
  match x with
  | .nan => (nanCode t, flNV)
  | .inf neg => narrowInf t neg sat
  | .fin neg m e sticky =>
    if m = 0 ∧ sticky = false then ((if typeInt t then 0 else withSign t neg 0), 0)
    else if typeInt t then
      let r := onGrid neg m e sticky 0 rnd sr
      let n : Int := if neg then -(r.2.1 : Int) else r.2.1
      if n < intMin t ∨ intMax t < n then (intBits t (clampInt t n), flNV)
      else (intBits t n, if r.2.2 then flNX else 0)
    else
      let wf := fracBits t
      let low : Int := 1 - (biasOf t : Int)
      let ex := max ((Nat.log2 m : Int) + e) low
      let r := onGrid neg m e sticky (ex - wf) rnd sr
      let code := (ex - low).toNat * 2 ^ wf + r.2.1
      if maxCode t < code then narrowOver t neg sat
      else
        (withSign t neg code,
          if r.2.2 then (if ex = low ∧ r.1 < 2 ^ wf then flNX ||| flUF else flNX) else 0)

/-- Rounding to FP32 in RNE, as a value: one intermediate step of R86 to R88. -/
def FVal.fp32 (x : FVal) : FVal := decodeFloat 0 (roundTo x 0 0 false 0).1

/-- The exact value with its sign changed. -/
def FVal.neg : FVal → FVal
  | .nan => .nan
  | .inf n => .inf (!n)
  | .fin n m e s => .fin (!n) m e s

/-- Its magnitude. -/
def FVal.abs : FVal → FVal
  | .nan => .nan
  | .inf _ => .inf false
  | .fin _ m e s => .fin false m e s

/-- The value is NaN. -/
def FVal.isNan : FVal → Bool
  | .nan => true
  | _ => false

/-- The value is an infinity. -/
def FVal.isInf : FVal → Bool
  | .inf _ => true
  | _ => false

/-- The value is a zero. -/
def FVal.isZero : FVal → Bool
  | .fin _ m _ s => decide (m = 0) && !s
  | _ => false

/-- The sign of a value. -/
def FVal.sign : FVal → Bool
  | .nan => false
  | .inf n => n
  | .fin n _ _ _ => n

/-- The value times a power of two, carried into the exact value (R82). -/
def FVal.scale (x : FVal) (k : Int) : FVal :=
  match x with
  | .fin n m e s => .fin n m (e + k) s
  | y => y

/-- The exact product: 0 × ∞ is invalid (R78, R79). -/
def FVal.mul (a b : FVal) : FVal × Flags :=
  match a, b with
  | .nan, _ => (.nan, flNV)
  | _, .nan => (.nan, flNV)
  | .inf x, y => if y.isZero then (.nan, flNV) else (.inf (x ^^ y.sign), 0)
  | y, .inf x => if y.isZero then (.nan, flNV) else (.inf (x ^^ y.sign), 0)
  | .fin x m e _, .fin y n f _ => (.fin (x ^^ y) (m * n) (e + f) false, 0)

/-- The least exponent of the finite non-zero terms. -/
def minExp : List FVal → Option Int
  | [] => none
  | .fin _ m e _ :: ts =>
    match minExp ts with
    | none => if m = 0 then none else some e
    | some f => if m = 0 then some f else some (min e f)
  | _ :: ts => minExp ts

/-- The terms summed in units of `2^e`, none of which has a smaller exponent. -/
def sumAt (e : Int) : List FVal → Int
  | [] => 0
  | .fin n m f _ :: ts =>
    let v : Int := (m * 2 ^ (f - e).toNat : Nat)
    (if n then -v else v) + sumAt e ts
  | _ :: ts => sumAt e ts

/-- The exact sum of some terms (R78, R83): NaN, or infinities of both signs, are invalid; an exact zero of terms whose
signs differ is +0, in RDN −0; zeros of one sign keep it. -/
def exactSum (ts : List FVal) (rnd : Nat) : FVal × Flags :=
  if ts.any FVal.isNan then (.nan, flNV)
  else
    let infs := ts.filter FVal.isInf
    match infs with
    | x :: _ => if infs.any (fun y => y.sign != x.sign) then (.nan, flNV) else (.inf x.sign, 0)
    | [] =>
      match minExp ts with
      | none =>
        if ts.all FVal.sign && !ts.isEmpty then (.fin true 0 0 false, 0)
        else if ts.all (fun y => !y.sign) then (.fin false 0 0 false, 0)
        else (.fin (rnd == 3) 0 0 false, 0)
      | some e =>
        let v := sumAt e ts
        if v = 0 then (.fin (rnd == 3) 0 0 false, 0) else (.fin (decide (v < 0)) v.natAbs e false, 0)

/-- The exact quotient to 96 bits and a sticky bit (R130). -/
def FVal.div (a b : FVal) : FVal × Flags :=
  match a, b with
  | .nan, _ => (.nan, flNV)
  | _, .nan => (.nan, flNV)
  | .inf _, .inf _ => (.nan, flNV)
  | .inf x, .fin y _ _ _ => (.inf (x ^^ y), 0)
  | .fin x _ _ _, .inf y => (.fin (x ^^ y) 0 0 false, 0)
  | .fin x m e _, .fin y n f _ =>
    if n = 0 then (if m = 0 then (.nan, flNV) else (.inf (x ^^ y), flDZ))
    else if m = 0 then (.fin (x ^^ y) 0 0 false, 0)
    else
      let k := 97 + Nat.log2 n
      (.fin (x ^^ y) (m * 2 ^ k / n) (e - f - k) (decide (m * 2 ^ k % n ≠ 0)), 0)

/-- The integer square root of `n`, found from bit `k - 1` down, above `r`. -/
def isqrtFrom (n : Nat) : Nat → Nat → Nat
  | 0, r => r
  | k + 1, r => if (r + 2 ^ k) * (r + 2 ^ k) ≤ n then isqrtFrom n k (r + 2 ^ k) else isqrtFrom n k r

/-- The exact square root to at least 96 bits and a sticky bit (R130). -/
def FVal.sqrt (a : FVal) : FVal × Flags :=
  match a with
  | .nan => (.nan, flNV)
  | .inf true => (.nan, flNV)
  | .inf false => (.inf false, 0)
  | .fin n m e _ =>
    if m = 0 then (.fin n 0 0 false, 0)
    else if n then (.nan, flNV)
    else
      let m := if e % 2 = 0 then m else 2 * m
      let e := if e % 2 = 0 then e else e - 1
      let k : Nat := 100
      let v := m * 2 ^ (2 * k)
      let r := isqrtFrom v 128 0
      (.fin false r (e / 2 - k) (decide (r * r ≠ v)), 0)

/-- Whether `x < y`, both not NaN; −0 lies below +0 when `zeros` holds and equals it otherwise (R131, R135). -/
def FVal.below (zeros : Bool) (x y : FVal) : Bool :=
  match x, y with
  | .inf a, .inf b => a && !b
  | .inf a, _ => a
  | _, .inf b => !b
  | .fin a m e _, .fin b n f _ =>
    if m = 0 ∧ n = 0 then zeros && a && !b
    else
      let g := min e f
      let u : Int := (m * 2 ^ (e - g).toNat : Nat)
      let v : Int := (n * 2 ^ (f - g).toNat : Nat)
      decide ((if a then -u else u) < (if b then -v else v))
  | _, _ => false

end Sys2Proof.Machine
end

