-- ==== Sys2Proof/Machine/Shape.lean ====
section
/-!
DEFINITION. Shape records (R184, R185): their fields, and the rules that a record keeps for those who use it.
-/

namespace Sys2Proof.Machine

/-- Fields of a shape record (R184). -/
def shDim0 (v : Nat) : Nat := bitsAt v 0 16
def shDim1 (v : Nat) : Nat := bitsAt v 16 16
def shDim2 (v : Nat) : Nat := bitsAt v 32 16
def shDim3 (v : Nat) : Nat := bitsAt v 48 16
def shStride (v n : Nat) : Int := signed 64 (bitsAt v (64 * n) 64)
def shType (v : Nat) : Nat := bitsAt v 256 4
def shSpectral (v : Nat) : Bool := decide (bit v 260 = 1)
def shColumns (v : Nat) : Bool := decide (bit v 261 = 1)
def shTwin (v : Nat) : Bool := decide (bit v 262 = 1)
def shPoint (v : Nat) : Nat := bitsAt v 264 2
def shKind (v : Nat) : Nat := bitsAt v 266 2
def shHflag (v : Nat) : Bool := decide (bit v 268 = 1)
def shHsize (v : Nat) : Nat := bitsAt v 269 2
def shSexp (v : Nat) : Int := signed 6 (bitsAt v 272 6)
def shGain (v : Nat) : Nat := bitsAt v 280 4
def shSeed (v : Nat) : Nat := bitsAt v 288 32
def shSide (v : Nat) : Nat := bitsAt v 320 64
def shIndex (v : Nat) : Nat := bitsAt v 384 64

/-- A type of MMAQ (R53). -/
def mmaqType (t : BitVec 4) : Bool := t == 3 || t == 4 || t == 5

/-- The rules of R185, each with the low bits of the fields it involves and whether the record breaks it. -/
def shapeRules (v : Nat) : List (List Nat × Bool) :=
  let t := shType v
  let k := shKind v
  let per := if t = 7 then 32 else 16
  [([64], shStride v 1 % 64 != 0), ([128], shStride v 2 % 64 != 0), ([192], shStride v 3 % 64 != 0),
   ([268, 269], shHflag v != (shHsize v != 0)),
   ([280, 269, 268], shGain v != (if shHflag v && shHsize v != 0 then shHsize v + 3 else 0)),
   ([266, 256], k == 2 && !mmaqType (BitVec.ofNat 4 t)), ([266, 256], (k == 3) != (t == 6)),
   ([266, 261], k == 3 && shColumns v), ([260, 256], shSpectral v && t != 7 && t != 8),
   ([260, 256, 0], shSpectral v && (t == 7 || t == 8) && shDim0 v % per != 0),
   ([268, 261], shHflag v && shColumns v),
   ([269, 268, 0], shHflag v && shHsize v != 0 && shDim0 v % 2 ^ (shHsize v + 3) != 0)]

/-- Reserved fields of the record: low bit and width (R184). -/
def shapeReserved : List (Nat × Nat) := [(464, 48), (284, 4), (278, 2), (271, 1), (263, 1)]

/-- The low bit of the topmost offending field of a record of which some fields are used (R185). -/
def offending (used : List Nat) (v : Nat) : Option Nat :=
  let always := (shapeReserved.filter (fun r => bitsAt v r.1 r.2 != 0)).map (fun r => r.1)
    ++ [0, 16, 32, 48].filter (fun p => bitsAt v p 16 == 0) ++ (if shType v = 15 then [256] else [])
  let rules := (shapeRules v).filter (fun r => r.2 && r.1.any used.contains)
  (always ++ (rules.map (fun r => r.1)).flatten).foldl (fun m p => some (max p (m.getD 0))) none

end Sys2Proof.Machine
end

