-- ==== Sys2Proof/Machine/Approx.lean ====
section
/-!
DEFINITION. The approximate functions (R86), Hadamard rotations (R87), and the butterflies of the spectral transforms
(R88 to R90).
-/

namespace Sys2Proof.Machine

/-- Part 0 of T[i] = round_fp32(2^(i/64)) (R86). -/
def tableT0 : List Nat :=
  [0x3F800000, 0x3F8164D2, 0x3F82CD87, 0x3F843A29, 0x3F85AAC3, 0x3F871F62, 0x3F88980F, 0x3F8A14D5,
   0x3F8B95C2, 0x3F8D1ADF, 0x3F8EA43A, 0x3F9031DC, 0x3F91C3D3, 0x3F935A2B, 0x3F94F4F0, 0x3F96942D]

/-- Part 1 of T[i] = round_fp32(2^(i/64)) (R86). -/
def tableT1 : List Nat :=
  [0x3F9837F0, 0x3F99E046, 0x3F9B8D3A, 0x3F9D3EDA, 0x3F9EF532, 0x3FA0B051, 0x3FA27043, 0x3FA43516,
   0x3FA5FED7, 0x3FA7CD94, 0x3FA9A15B, 0x3FAB7A3A, 0x3FAD583F, 0x3FAF3B79, 0x3FB123F6, 0x3FB311C4]

/-- Part 2 of T[i] = round_fp32(2^(i/64)) (R86). -/
def tableT2 : List Nat :=
  [0x3FB504F3, 0x3FB6FD92, 0x3FB8FBAF, 0x3FBAFF5B, 0x3FBD08A4, 0x3FBF179A, 0x3FC12C4D, 0x3FC346CD,
   0x3FC5672A, 0x3FC78D75, 0x3FC9B9BE, 0x3FCBEC15, 0x3FCE248C, 0x3FD06334, 0x3FD2A81E, 0x3FD4F35B]

/-- Part 3 of T[i] = round_fp32(2^(i/64)) (R86). -/
def tableT3 : List Nat :=
  [0x3FD744FD, 0x3FD99D16, 0x3FDBFBB8, 0x3FDE60F5, 0x3FE0CCDF, 0x3FE33F89, 0x3FE5B907, 0x3FE8396A,
   0x3FEAC0C7, 0x3FED4F30, 0x3FEFE4BA, 0x3FF28177, 0x3FF5257D, 0x3FF7D0DF, 0x3FFA83B3, 0x3FFD3E0C]

/-- T[i] = round_fp32(2^(i/64)) (R86): for i = 0 to 63. -/
def tableT : List Nat := tableT0 ++ tableT1 ++ tableT2 ++ tableT3

/-- Part 0 of L[i] = round_fp32(log2(1 + i/64)) (R86). -/
def tableL0 : List Nat :=
  [0x00000000, 0x3CB73CB4, 0x3D35D69C, 0x3D8759C5, 0x3DB31FB8, 0x3DDE4212, 0x3E0462C4, 0x3E19574F,
   0x3E2E00D2, 0x3E42615F, 0x3E567AF1, 0x3E6A4F72, 0x3E7DE0B6, 0x3E88983F, 0x3E92203D, 0x3E9B8926]

/-- Part 1 of L[i] = round_fp32(log2(1 + i/64)) (R86). -/
def tableL1 : List Nat :=
  [0x3EA4D3C2, 0x3EAE00D2, 0x3EB7110E, 0x3EC0052B, 0x3EC8DDD4, 0x3ED19BB0, 0x3EDA3F60, 0x3EE2C97D,
   0x3EEB3A9F, 0x3EF39355, 0x3EFBD42B, 0x3F01FED4, 0x3F060828, 0x3F0A0650, 0x3F0DF989, 0x3F11E20F]

/-- Part 2 of L[i] = round_fp32(log2(1 + i/64)) (R86). -/
def tableL2 : List Nat :=
  [0x3F15C01A, 0x3F1993E3, 0x3F1D5DA0, 0x3F211D84, 0x3F24D3C2, 0x3F28808C, 0x3F2C2411, 0x3F2FBE80,
   0x3F335004, 0x3F36D8CB, 0x3F3A58FF, 0x3F3DD0C8, 0x3F41404F, 0x3F44A7BA, 0x3F480731, 0x3F4B5ED7]

/-- Part 3 of L[i] = round_fp32(log2(1 + i/64)) (R86). -/
def tableL3 : List Nat :=
  [0x3F4EAED0, 0x3F51F740, 0x3F553848, 0x3F587209, 0x3F5BA4A4, 0x3F5ED039, 0x3F61F4E5, 0x3F6512C7,
   0x3F6829FB, 0x3F6B3A9F, 0x3F6E44CD, 0x3F7148A1, 0x3F744636, 0x3F773DA4, 0x3F7A2F04, 0x3F7D1A71]

/-- L[i] = round_fp32(log2(1 + i/64)) (R86): for i = 0 to 63. -/
def tableL : List Nat := tableL0 ++ tableL1 ++ tableL2 ++ tableL3

/-- An FP32 pattern as a value. -/
def f32 (bits : Nat) : FVal := decodeFloat 0 bits

/-- fma(a, b, c): one rounding of a b + c (R86). -/
def fma32 (a b c : FVal) : FVal := (exactSum [(a.mul b).1, c] 0).1.fp32

/-- mul(a, b): one rounding of a b (R86). -/
def mul32 (a b : FVal) : FVal := (a.mul b).1.fp32

/-- G[i] = round_fp32(1/(1 + i/64)) (R86). -/
def tableG (i : Nat) : FVal := ((FVal.ofInt 64).div (.ofInt (64 + i))).1.fp32

/-- The VRCP table: round_fp32(1/(1 + (j + 0.5)/64)) (R86). -/
def tableRcp (j : Nat) : FVal := ((FVal.ofInt 128).div (.ofInt (129 + 2 * j))).1.fp32

/-- The VRSQ table: round_fp32(1/sqrt(mid)), mid = (65 + 2f)/64 for j = f below 32 and (65 + 2f)/32 for j = 32 + f (R86). The
root of 64 (or 32) over 65 + 2f is taken to 100 places. -/
def tableRsq (j : Nat) : FVal :=
  let v := (if j < 32 then 64 else 32) * 2 ^ 200 / (65 + 2 * (j % 32))
  (FVal.fin false (isqrtFrom v 110 0) (-100) true).fp32

/-- The significand of a positive finite value normalised to 24 bits, and its exponent (R86). -/
def significand (m : Nat) (e : Int) : Nat × Int :=
  let l := Nat.log2 m
  (m * 2 ^ (23 - l), (l : Int) + e)

/-- A normalised significand as a value in [1, 2). -/
def sigVal (m : Nat) : FVal := .fin false m (-23) false

/-- vfexp2 of a finite value, exact before the last rounding (R86). Its power of two is held to ±2,000, beyond which
every type over- or underflows alike. -/
def approxExp2 (neg : Bool) (m : Nat) (e : Int) : FVal :=
  let x : FVal := .fin neg m e false
  let mag : Int := if 0 ≤ e + 6 then m * 2 ^ (e + 6).toNat else m / 2 ^ (-(e + 6)).toNat
  let exact := 0 ≤ e + 6 ∨ m % 2 ^ (-(e + 6)).toNat = 0
  let k : Int := if neg then (if exact then -mag else -mag - 1) else mag
  let i := (k % 64).toNat
  let n := max (-2000) (min 2000 ((k - i) / 64))
  let r := (exactSum [x, (FVal.ofInt (-k)).scale (-6)] 0).1.fp32
  let p := fma32 (fma32 (f32 0x3D635847) r (f32 0x3E75FDF0)) r (f32 0x3F317218)
  let q := mul32 p r
  let t := f32 (tableT.getD i 0)
  (exactSum [t, (t.mul q).1] 0).1.scale n

/-- vrcp of a finite non-zero value (R86). -/
def approxRcp (neg : Bool) (m : Nat) (e : Int) : FVal :=
  let s := significand m e
  let v := sigVal s.1
  let r := tableRcp (bitsAt s.1 17 6)
  let d := fma32 v.neg r (.ofInt 1)
  let a := fma32 d d d
  let t := fma32 a d d
  let y := (exactSum [r, (r.mul t).1] 0).1.scale (-s.2)
  if neg then y.neg else y

/-- vrsq of a finite positive value (R86). -/
def approxRsq (m : Nat) (e : Int) : FVal :=
  let s := significand m e
  let odd := s.2 % 2 ≠ 0
  let v := if odd then (sigVal s.1).scale 1 else sigVal s.1
  let c := if odd then (s.2 - 1) / 2 else s.2 / 2
  let f := bitsAt s.1 18 5
  let r := tableRsq (if odd then 32 + f else f)
  let hh := mul32 v r
  let d := fma32 hh.neg r (.ofInt 1)
  let p := fma32 (fma32 (fma32 (f32 0x3E8C0000) d (f32 0x3EA00000)) d (f32 0x3EC00000)) d (f32 0x3F000000)
  let t := mul32 p d
  (exactSum [r, (r.mul t).1] 0).1.scale (-c)

/-- vflog2 of a finite positive value (R86). -/
def approxLog2 (m : Nat) (e : Int) (rnd : Nat) : FVal :=
  let s := significand m e
  let j := bitsAt s.1 17 6
  let r := fma32 (sigVal s.1) (tableG j) (.ofInt (-1))
  let p := fma32 (fma32 (fma32 (f32 0xBEB8AA3B) r (f32 0x3EF6384F)) r (f32 0xBF38AA3B)) r (f32 0x3FB8AA3B)
  let q := mul32 p r
  (exactSum [.ofInt s.2, f32 (tableL.getD j 0), q] rnd).1

/-- VRCP with its special operands (R86). -/
def fnRcp (x : FVal) : FVal × Flags :=
  match x with
  | .nan => (.nan, flNV)
  | .inf n => (.fin n 0 0 false, 0)
  | .fin n m e _ => if m = 0 then (.inf n, flDZ) else (approxRcp n m e, 0)

/-- VRSQ with its special operands (R86). -/
def fnRsq (x : FVal) : FVal × Flags :=
  match x with
  | .nan => (.nan, flNV)
  | .inf n => if n then (.nan, flNV) else (.fin false 0 0 false, 0)
  | .fin n m e _ => if m = 0 then (.inf n, flDZ) else if n then (.nan, flNV) else (approxRsq m e, 0)

/-- VFEXP2 with its special operands (R86). -/
def fnExp2 (x : FVal) : FVal × Flags :=
  match x with
  | .nan => (.nan, flNV)
  | .inf n => if n then (.fin false 0 0 false, 0) else (.inf false, 0)
  | .fin n m e _ => if m = 0 then (.ofInt 1, 0) else (approxExp2 n m e, 0)

/-- VFLOG2 with its special operands (R86). -/
def fnLog2 (rnd : Nat) (x : FVal) : FVal × Flags :=
  match x with
  | .nan => (.nan, flNV)
  | .inf n => if n then (.nan, flNV) else (.inf false, 0)
  | .fin n m e _ => if m = 0 then (.inf true, flDZ) else if n then (.nan, flNV) else (approxLog2 m e rnd, 0)

/-- One stage of a Walsh–Hadamard transform with stride `2^k` over a list of values (R87): the values and the flags of
∞ − ∞ and of NaN operands. -/
def hadamardStage (v : List FVal) (k : Nat) : List (FVal × Flags) :=
  (List.range v.length).map (fun j =>
    let s := 2 ^ k
    let x :=
      if bit j k = 0 then exactSum [v.getD j .nan, v.getD (j + s) .nan] 0
      else exactSum [v.getD (j - s) .nan, (v.getD j .nan).neg] 0
    (x.1.fp32, x.2))

/-- The stages from stride `2^k` on, `n` of them. -/
def hadamardStages (v : List FVal) (k : Nat) : Nat → List FVal × Flags
  | 0 => (v, 0)
  | n + 1 =>
    let st := hadamardStage v k
    let r := hadamardStages (st.map (fun e => e.1)) (k + 1) n
    (r.1, st.foldl (fun f e => f ||| e.2) r.2)

/-- The rotation of `2^n` values, unnormalised, in FP32 (R87). -/
def hadamard (n : Nat) (v : List FVal) : List FVal × Flags := hadamardStages v 0 n

/-- cos(πk/16) for k = 0 to 15 (R90). -/
def twiddleCos (k : Nat) : FVal :=
  let t := [0x3F800000, 0x3F7B14BE, 0x3F6C835E, 0x3F54DB31, 0x3F3504F3, 0x3F0E39DA, 0x3EC3EF15, 0x3E47C5C2, 0]
  if k ≤ 8 then f32 (t.getD k 0) else (f32 (t.getD (16 - k) 0)).neg

/-- sin(πk/16) for k = 0 to 15 (R90). -/
def twiddleSin (k : Nat) : FVal :=
  let t := [0, 0x3E47C5C2, 0x3EC3EF15, 0x3F0E39DA, 0x3F3504F3, 0x3F54DB31, 0x3F6C835E, 0x3F7B14BE, 0x3F800000]
  f32 (t.getD (if k ≤ 8 then k else 16 - k) 0)

/-- A complex value: its real and imaginary parts. -/
abbrev CVal := FVal × FVal

/-- cmul_fused of R88, each part rounded once: `inv` for the conjugate twiddle. -/
def cmulFused (c s : FVal) (v : CVal) (inv : Bool) : CVal × Flags :=
  let p := c.mul v.1
  let q := s.mul v.2
  let x := exactSum [p.1, if inv then q.1.neg else q.1] 0
  let u := c.mul v.2
  let w := s.mul v.1
  let y := exactSum [u.1, if inv then w.1 else w.1.neg] 0
  ((x.1.fp32, y.1.fp32), p.2 ||| q.2 ||| x.2 ||| u.2 ||| w.2 ||| y.2)

/-- A complex sum or difference, each part rounded once (R88). -/
def caddFused (a b : CVal) (sub : Bool) : CVal × Flags :=
  let x := exactSum [a.1, if sub then b.1.neg else b.1] 0
  let y := exactSum [a.2, if sub then b.2.neg else b.2] 0
  ((x.1.fp32, y.1.fp32), x.2 ||| y.2)

/-- One stage of span `2^(k+1)` of a radix-2 transform (R88). -/
def fftStage (v : List CVal) (k : Nat) (inv : Bool) : List (CVal × Flags) :=
  let z : CVal := (.nan, .nan)
  (List.range v.length).map (fun p =>
    let h := 2 ^ k
    let j := p % h
    let tw := j * 32 / (2 * h)
    let base := p - p % (2 * h) + j
    let u := v.getD base z
    let t := cmulFused (twiddleCos tw) (twiddleSin tw) (v.getD (base + h) z) inv
    let r := caddFused u t.1 (decide (bit p k = 1))
    (r.1, r.2 ||| t.2))

/-- The stages from span `2^(k+1)` on, `n` of them. -/
def fftStages (v : List CVal) (k : Nat) (inv : Bool) : Nat → List CVal × Flags
  | 0 => (v, 0)
  | n + 1 =>
    let st := fftStage v k inv
    let r := fftStages (st.map (fun e => e.1)) (k + 1) inv n
    (r.1, st.foldl (fun f e => f ||| e.2) r.2)

/-- `n` bits of `i` in reverse order (R88). -/
def bitReverse : Nat → Nat → Nat
  | 0, _ => 0
  | n + 1, i => i % 2 * 2 ^ n + bitReverse n (i / 2)

/-- The transform of `2^n` complex values, bit-reversed on entry (R88, R89). -/
def fft (n : Nat) (v : List CVal) (inv : Bool) : List CVal × Flags :=
  fftStages ((List.range v.length).map (fun i => v.getD (bitReverse n i) (.nan, .nan))) 0 inv n

/-- log2 of the points of a packed type's block (R74). -/
def blockLog (t : Nat) : Nat := if t = 7 then 5 else 4

/-- A real value as a complex one. -/
def FVal.real (x : FVal) : CVal := (x, .fin false 0 0 false)

/-- The forward transform of one block of real points, its stored parts in slot order before narrowing (R74, R88). -/
def forwardBlock (t : Nat) (x : List FVal) (s : Int) : List FVal × Flags :=
  let n := blockLog t
  let r := fft n (x.map FVal.real) false
  let part := fun (i : Nat) (im : Bool) =>
    let c := r.1.getD i (.nan, .nan)
    (if im then c.2 else c.1).scale (-s)
  ((List.range (2 ^ n)).map (fun k =>
    if k = 0 then part 0 false else if k = 1 then part (2 ^ n / 2) false else part (k / 2) (decide (k % 2 = 1))), r.2)

/-- The bins of a packed line, the implied ones among them (R74, R75). -/
def expandBins (t : Nat) (x : List FVal) : List CVal :=
  let b := 2 ^ blockLog t
  let z : FVal := .fin false 0 0 false
  let bin := fun (k : Nat) => (x.getD (2 * k) .nan, x.getD (2 * k + 1) .nan)
  (List.range b).map (fun k =>
    if k = 0 then (x.getD 0 .nan, z)
    else if k = b / 2 then (x.getD 1 .nan, z)
    else if k < b / 2 then bin k
    else ((bin (b - k)).1, (bin (b - k)).2.neg))

/-- The inverse transform of one packed line, its real points before narrowing (R89). -/
def inverseBlock (t : Nat) (x : List FVal) (s : Int) : List FVal × Flags :=
  let n := blockLog t
  let r := fft n (expandBins t x) true
  (r.1.map (fun c => c.1.scale (s - n)), r.2)

end Sys2Proof.Machine
end

