-- ==== Sys2Proof/Machine/ScratchLS.lean ====
section
/-!
DEFINITION. The scalar scratch loads and stores (R117 to R119).
-/

namespace Sys2Proof.Machine

open Host (Outcome)

/-- The effective byte address: an unbounded integer (R117, R118). -/
def scratchAddr {n : Nat} (base : U64) (off : BitVec n) : Int := (base.toNat : Int) + off.toInt

/-- An integer address as a 64-bit word (R118: ea[63:0]). -/
def addrWord (ea : Int) : U64 := BitVec.ofNat 64 (wrapTo 64 ea)

/-- The word in flight of a scalar scratch access (R91, R92). -/
def State.scratchPend (s : State) (res : List Res) : Pend := { plainPend (s.now + 4) res with asks := some (s.now, 4) }

/-- The issuing core's request for the line of a byte address (R118, R119): latched out of range, else standing at its bank
in this clock. -/
def State.askScalar (s : State) (ea : Int) (act : BankAct) : State :=
  s.setMyTile ((s.myTile.touchAt s.now (rankScalar s.cur.core) ea).ask s.now (rankScalar s.cur.core) lineSlack [(ea / 64,
    act)] s.me.pc)

/-- A scratch load of `n` bytes (R117, R118): the value is read when the bank grants the request, and zero out of range. A
place at an out-port is taken at issue (R30). -/
def State.loadScratch (s : State) (d a : BitVec 5) (i : BitVec 14) (n : Nat) (sgn : Bool) :
    Outcome State Fault Refusal :=
  s.withRegs [(a.toNat, false), (d.toNat, true)] fun s' v =>
    let ea := scratchAddr (val v 0) i
    if ea % n ≠ 0 then s.fault 0x0E (addrWord ea)
    else
      let s1 := s'.askScalar ea (.load ea.toNat n sgn d.toNat)
      let s1 := if isPort d.toNat ∨ inRange (ea / 64) = false then s1.putReg d.toNat 0 4 else s1
      .next (s1.issue (s.me.pc + 4) (s.now + 1) (s.scratchPend (regRes d.toNat)))

/-- A scratch store of `n` bytes; it reads d (R117, R118). The bytes are written when the bank grants the request. -/
def State.storeScratch (s : State) (d a : BitVec 5) (i : BitVec 14) (n : Nat) : Outcome State Fault Refusal :=
  s.withRegs [(a.toNat, false), (d.toNat, false)] fun s' v =>
    let ea := scratchAddr (val v 0) i
    if ea % n ≠ 0 then s.fault 0x0E (addrWord ea)
    else
      .next ((s'.askScalar ea (.put [(ea.toNat, leBytes n (val v 1).toNat)])).issue (s.me.pc + 4) (s.now + 1) (s.scratchPend []))

def execLdsB (d a : BitVec 5) (i : BitVec 14) (s : State) : Outcome State Fault Refusal := s.loadScratch d a i 1 true

def execLdsBu (d a : BitVec 5) (i : BitVec 14) (s : State) : Outcome State Fault Refusal := s.loadScratch d a i 1 false

def execLdsH (d a : BitVec 5) (i : BitVec 14) (s : State) : Outcome State Fault Refusal := s.loadScratch d a i 2 true

def execLdsHu (d a : BitVec 5) (i : BitVec 14) (s : State) : Outcome State Fault Refusal := s.loadScratch d a i 2 false

def execLdsW (d a : BitVec 5) (i : BitVec 14) (s : State) : Outcome State Fault Refusal := s.loadScratch d a i 4 true

def execLdsWu (d a : BitVec 5) (i : BitVec 14) (s : State) : Outcome State Fault Refusal := s.loadScratch d a i 4 false

def execLdsD (d a : BitVec 5) (i : BitVec 14) (s : State) : Outcome State Fault Refusal := s.loadScratch d a i 8 false

def execStsB (d a : BitVec 5) (i : BitVec 14) (s : State) : Outcome State Fault Refusal := s.storeScratch d a i 1

def execStsH (d a : BitVec 5) (i : BitVec 14) (s : State) : Outcome State Fault Refusal := s.storeScratch d a i 2

def execStsW (d a : BitVec 5) (i : BitVec 14) (s : State) : Outcome State Fault Refusal := s.storeScratch d a i 4

def execStsD (d a : BitVec 5) (i : BitVec 14) (s : State) : Outcome State Fault Refusal := s.storeScratch d a i 8

end Sys2Proof.Machine
end

