-- ==== Sys2Proof/Machine/GlobalLS.lean ====
section
/-!
DEFINITION. Global loads and stores (R120 to R122): checks at issue, the access at its place, and what its completion
does (GLOBAL_ACCESS_COMPLETION, R344), with peer messages (R353, R354).
-/

namespace Sys2Proof.Machine

open Host (Outcome)

/-- The page of a region-0 address belongs to a twin group, and which (R321, R327). -/
def State.twinGroup (s : State) (x ia : Nat) : Option Nat :=
  match s.ctx x with
  | none => none
  | some c =>
    let e := (Store.get 0 c.pages (pageOf ia)).toNat
    if pageAbsent e ∨ bit e 15 = 0 then none else some (bitsAt e 16 8)

/-- A list of numbers with one more. -/
def addNew (n : Nat) (l : List Nat) : List Nat := if l.contains n then l else l ++ [n]

/-- A twin write to a page of a group (R327): the shadow is made, and the task of tile `g` has written the group. -/
def State.twinWrite (s : State) (g x ia grp : Nat) (bs : List Byte) : State :=
  let s := s.makeShadow x (pageOf ia)
  let t := s.tile g
  let s := s.setTile g { t with task := { t.task with twins := addNew grp t.task.twins } }
  s.writeReach .hub (s.reach x [grp] ia) bs

/-- The lowest message tag of a port that is not outstanding, if there is one (R353). -/
def State.freeTag (s : State) (port : Nat) : Option Nat :=
  (List.range 4096).find? (fun n => !s.peers.any (fun r => r.port == port && r.tag == n))

/-- A message leaves a port in flits of 120 bytes (R353): the last one is padded with zeros, and each header says how many
follow. -/
def State.emitFlits (s : State) (port hdr : Nat) (payload : List Byte) : State :=
  let n := max 1 ((payload.length + 119) / 120)
  (List.range n).foldl (fun s k =>
    let part := (payload.drop (120 * k)).take 120
    s.emit (.peer port (BitVec.ofNat 64 (hdr + (n - 1 - k) * 2 ^ 24)) (part ++ List.replicate (120 - part.length) 0))) s

/-- The port that a tile of a die uses to a peer (R354): the (g mod m)-th set bit of ROUTE; none where it refuses. -/
def State.routePort (s : State) (g peer : Nat) : Option Nat :=
  let mask := bitsAt (s.devGet (0x4000000 + 0x800 * dieOf g + 8 * peer)).toNat 0 32
  let set := (List.range 32).filter (fun k => decide (bit mask k = 1))
  if peer = (s.devGet 0x100).toNat % 256 then none
  else (set[g % set.length]?).map (fun k => 32 * dieOf g + k)

/-- Every tag of the port that leads a tile to a peer's address is outstanding, or the port was left down at bring-up: a request
waits for it (R353, R387). -/
def State.noCredit (s : State) (g ia : Nat) : Bool :=
  (s.routePort g (bitsAt ia 40 8)).any (fun port => (s.freeTag port).isNone || s.downPorts.contains port)

/-- A request sent to a peer (R353): the address word, then the data of a write. -/
def State.sendPeer (s : State) (g : Nat) (c : CoreId) (f : Option Fifo) (ia sect va : Nat)
    (data : Option (List Byte)) (issued : Nat := 0) : Option State :=
  match s.routePort g (bitsAt ia 40 8) with
  | none => none
  | some port =>
    match s.freeTag port with
    | none => none
    | some tag =>
      let payload := leBytes 8 (bitsAt ia 0 40) ++ data.getD []
      let kind := if data.isSome then 0 else 1
      let hdr := kind * 2 ^ 58 + bitsAt ia 40 8 * 2 ^ 50 + (s.devGet 0x100).toNat % 256 * 2 ^ 42 + tag * 2 ^ 30
      let r : PeerReq :=
        { port := port, tag := tag, tile := g, core := c, fifo := f, sect := sect, va := va, replays := 0, issued := issued,
          since := s.now }
      some { s.emitFlits port hdr payload with peers := s.peers ++ [r] }

/-- Where a task's intermediate address lies at a peer, if it does: in region 3, or in a page of state 3 (R319, R321). -/
def State.peerAddr (s : State) (g ia : Nat) : Option Nat :=
  match regionOf ia with
  | 0 =>
    match s.reach (s.tile g).task.ctx (s.tile g).task.twins ia with
    | .peer ia' => some ia'
    | _ => none
  | 3 => some ia
  | _ => none

/-- A word to a peer's address has to wait for a message tag (R353). -/
def State.awaitsCredit (s : State) (g ia : Nat) : Bool := !s.datumTile g && (s.peerAddr g ia).any (s.noCredit g)

/-- An access performed at its place, charged (R346), or the fault it meets: a read gives its data, a write its bytes'
acknowledge. -/
def State.performAt (s : State) (w : Who) (r : Reach) (cls n : Nat) (data : Option (List Byte)) : State × Reply :=
  let by_ := HostWriter.task (s.tile w.tile).task.uid w.core false
  match data with
  | none =>
    match s.readReach r n with
    | some bs => (s.charge w.tile cls 1, .done (BitVec.ofNat 64 (leNat bs)))
    | none => (s, .fault 0x14)
  | some bs =>
    match r with
    | .host a => if s.hostBroken a n then (s, .fault 0x14) else ((s.writeReach by_ r bs).charge w.tile cls 1, .done 0)
    | _ => ((s.writeReach by_ r bs).charge w.tile cls 1, .done 0)

/-- How a word's access at an intermediate address begins (R121): the state, and the reply where it is known at once.
A store to a page of a twin group writes its shadow frames. What a peer holds comes later than datum mode can wait for
(R103, R355; notes/assumptions 30). -/
def State.beginAccess (s : State) (w : Who) (ia n : Nat) (nc : Bool) (data : Option (List Byte)) : State × Reply :=
  let k := (s.tile w.tile).task
  let ask := fun (s : State) (ia : Nat) =>
    if s.datumTile w.tile then (s, Reply.fault 0x14)
    else
      match s.sendPeer w.tile w.core none ia 0 0 data with
      | some s => (s, .pending)
      | none => (s, .fault 0x06)
  match regionOf ia with
  | 0 =>
    let s := s.countRequest w.tile k.ctx ia nc
    match s.reach k.ctx k.twins ia, data, s.twinGroup k.ctx ia with
    | .absent, _, _ => (s, .fault 0x07)
    | .broken, _, _ => (s, .fault 0x14)
    | .peer ia', _, _ => ask s ia'
    | .hbm _, some bs, some grp => ((s.twinWrite w.tile k.ctx ia grp bs).charge w.tile 12 1, .done 0)
    | .hbm a, _, _ => s.performAt w (.hbm a) 12 n data
    | r, _, _ => s.performAt w r 13 n data
  | 1 => ({ s with remote := s.remote ++ [⟨(w.tile, w.core), ia, n, data⟩] }, .pending)
  | 3 => ask s ia
  | _ => s.performAt w (s.reach k.ctx k.twins ia) (if regionOf ia = 2 then 13 else 16) n data

/-- The clock in which an access completes (R122): the declared figure in datum mode, a free value in free mode. -/
def State.accessDue (s : State) (g ia : Nat) (isLoad : Bool) : Nat :=
  if s.datumTile g then
    s.now + (match regionOf ia with
      | 0 => if isLoad then 640 else 480
      | _ => remoteFigure g (bitsAt ia 19 29))
  else s.now + 1 + Config.freeLatency s.fresh

/-- The places of out-ports reserved, and the tokens taken, by a word that blocks (R30). -/
def State.holdPorts (s : State) (us : List (Nat × Bool)) : State × List (Nat × U32) :=
  us.foldl (fun acc u =>
    let t := acc.1.myTile
    if isPort u.1 = false then acc
    else
      match u.2, inQueue s.cur.core (u.1 - 28), outQueue s.cur.core (u.1 - 28) with
      | true, _, some q => (acc.1.setMyTile (t.setQueue q { t.queue q with resv := (t.queue q).resv + 1 }), acc.2)
      | false, some q, _ => (acc.1.setMyTile (t.setQueue q ((t.queue q).pop s.now)), acc.2 ++ [(q, (t.queue q).head)])
      | _, _, _ => acc) (s, [])

/-- A global word (R121): checks, then the access begins and the core blocks; a store of datum mode to HBM is performed at its
declared clock (R102). -/
def State.globalWord (s : State) (kind : Nat) (d a : BitVec 5) (i : BitVec 14) (n : Nat) (isLoad : Bool) :
    Outcome State Fault Refusal :=
  let us := [(a.toNat, false), (d.toNat, isLoad)]
  s.withRegs us fun _ v =>
    let va := val v 0 + sext64 i
    if va.toNat % n ≠ 0 then s.fault 0x0E va
    else
      match s.translate s.cur.tile s.myTile.task.windows va.toNat (if isLoad then .read else .write) with
      | .error e => s.fault e va
      | .ok (ia, nc) =>
        if regionOf ia = 15 ∧ n ≠ 8 then s.fault 0x06 va
        else if s.awaitsCredit s.cur.tile ia then s.wait .credit
        else
          let h := s.holdPorts us
          let bs := leBytes n (val v 1).toNat
          let late := !isLoad && s.datumTile s.cur.tile && regionOf ia == 0
          let r := if late then (h.1, Reply.done 0) else h.1.beginAccess s.cur ia n nc (if isLoad then none else some bs)
          let due := s.accessDue s.cur.tile ia isLoad
          .next ((r.1.mapMe (fun k => { k with
            run := .waiting .global,
            glob := some ⟨kind, d.toNat, va, r.2, due, s.now, h.2, if late then some (ia, nc, bs) else none⟩ })).tick)

def execLdgW (d a : BitVec 5) (i : BitVec 14) (s : State) : Outcome State Fault Refusal := s.globalWord 0 d a i 4 true

def execLdgWu (d a : BitVec 5) (i : BitVec 14) (s : State) : Outcome State Fault Refusal := s.globalWord 1 d a i 4 true

def execLdgD (d a : BitVec 5) (i : BitVec 14) (s : State) : Outcome State Fault Refusal := s.globalWord 2 d a i 8 true

def execStgW (d a : BitVec 5) (i : BitVec 14) (s : State) : Outcome State Fault Refusal := s.globalWord 3 d a i 4 false

def execStgD (d a : BitVec 5) (i : BitVec 14) (s : State) : Outcome State Fault Refusal := s.globalWord 4 d a i 8 false

/-- The context of a tile's task has a free task frame (R341, R344). -/
def State.frameToGive (s : State) (g : Nat) : Bool :=
  (s.ctx (s.tile g).task.ctx).any (fun c => decide (c.frames.length < c.cfg.nframes))

/-- A tile's task holds a task frame, or may take one (R342). -/
def State.hasFrame (s : State) (g : Nat) : Bool := (s.tile g).task.frame.isSome || s.frameToGive g

/-- Parking (R344): the core stops at its word, and the tile injects STOP unless one is under way. -/
def State.park (s : State) (w : Who) (va : U64) : State :=
  let t := s.tile w.tile
  let t := t.setCore w.core { t.core w.core with run := .waiting .global, glob := none }
  s.setTile w.tile (t.stopToPark va)

/-- A page-absent fault parks the task: free mode, PRIV 0, a free frame (R344; notes/assumptions 44). -/
def State.parks (s : State) (g code : Nat) (priv : Nat) : Bool :=
  decide (code = 0x07) && decide (priv = 0) && !s.datumTile g && s.frameToGive g

/-- What a blocking word took at issue given back (R9): popped tokens to the head, reserved places. -/
def Tile.giveBack (t : Tile) (c : CoreId) (gl : Glob) : Tile :=
  let t := gl.undo.reverse.foldl (fun t u =>
    t.setQueue u.1 { t.queue u.1 with toks := ⟨u.2, 0, 0, 0⟩ :: (t.queue u.1).toks }) t
  if gl.kind ≤ 2 && isPort gl.d then
    match outQueue c (gl.d - 28) with
    | some q => t.setQueue q { t.queue q with resv := (t.queue q).resv - 1 }
    | none => t
  else t

/-- The value a global load delivers (R120). -/
def Glob.value (gl : Glob) (data : U64) : U64 :=
  match gl.kind with
  | 0 => extendLoad (data.toNat % 2 ^ 32) 4 true
  | 1 => extendLoad (data.toNat % 2 ^ 32) 4 false
  | _ => data

/-- A global word that ends in a fault (R121): nothing is written; the core parks or takes the trap. -/
def State.globFault (s : State) (w : Who) (gl : Glob) (code : Nat) (tval : U64) : State :=
  let t := (s.tile w.tile).giveBack w.core gl
  let s := s.setTile w.tile t
  let k := t.core w.core
  if s.parks w.tile code k.priv.toNat then s.park w gl.va
  else s.trap w code tval k.pc false

/-- A global word at its clock: what it holds to be stored then is stored (R102, R103). -/
def State.storeHeld (s : State) (w : Who) (gl : Glob) : State × Glob :=
  match gl.write with
  | none => (s, gl)
  | some (ia, nc, bs) =>
    let r := s.beginAccess w ia bs.length nc (some bs)
    (r.1, { gl with reply := r.2, write := none })

/-- A global word's request to its own tile's window that a range lock holds (R189; notes/assumptions 112). -/
def Tile.heldFar (t : Tile) (c : CoreId) (a : Ask) : Bool := a.isFar && askCore a.rank == some c && t.lockHeld a

/-- A global word whose request a lock has held to its declared clock meets an uncorrectable memory error in that clock (R103). -/
def State.lateFar (s : State) (w : Who) (gl : Glob) : State × Glob :=
  let t := s.tile w.tile
  if s.datumTile w.tile && gl.reply == .pending && t.asks.any (t.heldFar w.core) then
    (s.setTile w.tile { t with asks := t.asks.filter (fun a => !t.heldFar w.core a) }, { gl with reply := .fault 0x14 })
  else (s, gl)

/-- GLOBAL_ACCESS_COMPLETION: the reply of a global word takes effect, once it is there and its clock has come; of a task that is
ending it ends the store that was open (R281). -/
def execGlobalAccessCompletion (g : Nat) (c : CoreId) (s : State) : Outcome State Fault Refusal :=
  match (s.core ⟨g, c⟩).glob with
  | none => .next s
  | some gl =>
    if s.now < gl.due then .next s
    else
      let r := s.storeHeld ⟨g, c⟩ gl
      let r := r.1.lateFar ⟨g, c⟩ r.2
      let s := r.1
      let gl := r.2
      let t := s.tile g
      let k := t.core c
      if t.task.ending.isSome ∧ gl.reply ≠ .pending then .next (s.setCore ⟨g, c⟩ { k with glob := none })
      else
      match gl.reply with
      | .pending => .next s
      | .fault code => .next (s.globFault ⟨g, c⟩ gl code gl.va)
      | .done data =>
        let v := gl.value data
        let done := fun (k : Core) => { k with
          pc := k.pc + 4, run := .running, glob := none, nextAt := s.now, pend := k.pend ++ [plainPend s.now []] }
        if 2 < gl.kind then .next (s.setCore ⟨g, c⟩ (done k))
        else if isPort gl.d then
          let tok := BitVec.ofNat 32 v.toNat
          if forbiddenToken tok then .next (s.globFault ⟨g, c⟩ gl 0x08 (BitVec.ofNat 64 tok.toNat))
          else
            match outQueue c (gl.d - 28) with
            | some q =>
              let u := t.queue q
              .next (s.setTile g ((t.setQueue q ({ u with resv := u.resv - 1 }.push tok (s.now - 1) 3 s.now)).setCore c (done k)))
            | none => .next (s.setCore ⟨g, c⟩ (done k))
        else .next (s.setCore ⟨g, c⟩ (done (k.setReg gl.d v)))

end Sys2Proof.Machine
end

