-- ==== Sys2Proof/Machine/Csr.lean ====
section
/-!
DEFINITION. The control and status registers (R39, R40) and the words that read and write them (R123, R124).
-/

namespace Sys2Proof.Machine

open Host (Outcome)

/-- A row of the CSR map (R39): the level that may read, and the level that may write if any may. -/
structure CsrRow where
  readAt  : Nat
  writeAt : Option Nat
  deriving DecidableEq, Repr

/-- The CSR map (R39). -/
def csrRow (n : Nat) : Option CsrRow :=
  if 0x90 ≤ n ∧ n ≤ 0x9F then some ⟨2, some 2⟩
  else if 0x100 ≤ n ∧ n ≤ 0x10F then some ⟨0, some 0⟩
  else
    match n with
    | 0x000 | 0x001 => some ⟨0, some 0⟩
    | 0x010 | 0x011 | 0x012 | 0x013 | 0x020 | 0x021 | 0x023 | 0x070 => some ⟨0, none⟩
    | 0x022 | 0x030 | 0x031 | 0x040 | 0x041 | 0x050 | 0x060 | 0x061 | 0x080 => some ⟨0, some 2⟩
    | 0x051 | 0x052 | 0x053 | 0x054 => some ⟨0, some 1⟩
    | _ => none

/-- WALK0 to WALK15, which only the X-core has (R40). -/
def csrIsWalk (n : Nat) : Bool := decide (0x100 ≤ n ∧ n ≤ 0x10F)

/-- A CSR's value (R39), zero-extended. -/
def State.readCsr (s : State) (w : Who) (n : Nat) : Nat :=
  let t := s.tile w.tile
  let k := t.core w.core
  if 0x90 ≤ n ∧ n ≤ 0x9F then
    match s.partOf w.tile with
    | some (_, p) => (Store.get 0 p.enw (n - 0x90)).toNat
    | none => 0
  else if csrIsWalk n then (Store.get 0 t.xr.w (n - 0x100)).toNat
  else
    match n with
    | 0x000 => k.fflags.toNat
    | 0x001 => k.frm.toNat
    | 0x010 => t.task.taskId.toNat
    | 0x011 => t.task.recIndex.toNat
    | 0x012 => w.tile
    | 0x013 => t.task.groupMask.toNat
    | 0x020 => s.now
    | 0x021 => (s.frameOrg w.tile).toNat
    | 0x022 => t.task.frameLen.toNat
    | 0x023 => s.tai
    | 0x030 => t.ageLimit.toNat
    | 0x031 => t.closureWin.toNat
    | 0x040 => if t.oorFlag then 1 else 0
    | 0x041 => t.oorAddr.toNat
    | 0x050 => k.tvec.toNat
    | 0x051 => k.tcause.toNat
    | 0x052 => k.tval.toNat
    | 0x053 => k.tpc.toNat
    | 0x054 => k.tstatus.toNat
    | 0x060 => k.codeLo.toNat
    | 0x061 => k.codeHi.toNat
    | 0x070 => k.priv.toNat
    | 0x080 => t.energy.toNat
    | _ => 0

/-- AGE_LIMIT as stored (R40): clamped to 8 to 1,024. -/
def clampAge (v : Nat) : BitVec 11 := BitVec.ofNat 11 (min (max v 8) 1024)

/-- CLOSURE_WINDOW as stored (R40): raised to 256, and held to its 32 bits (notes/assumptions 13). -/
def clampClosure (v : Nat) : BitVec 32 := BitVec.ofNat 32 (min (max v 256) (2 ^ 32 - 1))

/-- A value kept in the record of the context of a tile's task, in force and in memory (R18): what a write at level 2 to a
register of the context leaves for its later tasks. `off` is the field's byte in the record (R333), `n` its bytes. -/
def State.keepInRecord (s : State) (g : Nat) (set : CtxRec → CtxRec) (off n v : Nat) : State :=
  let x := (s.tile g).task.ctx
  match s.ctx x with
  | some c =>
    if (s.tile g).task.live then (s.setCtx x { c with cfg := set c.cfg }).writePhys (c.recAddr + off) (leBytes n v) else s
  | none => s

/-- A core's entry of a triple that holds S, X and L, and its place from L up (R333). -/
def triple (c : CoreId) (v : U64) (t : U64 × U64 × U64) : U64 × U64 × U64 :=
  match c with
  | .L => (t.1, t.2.1, v)
  | .X => (t.1, v, t.2.2)
  | .S => (v, t.2)

def coreIndex : CoreId → Nat
  | .L => 0
  | .X => 1
  | .S => 2

/-- A CSR written (R39, R40, R123). CODE_LO, CODE_HI, TVEC, AGE_LIMIT and CLOSURE_WINDOW are the context's: its record takes
them too (R18). -/
def State.writeCsr (s : State) (w : Who) (n : Nat) (v : Nat) : State :=
  let t := s.tile w.tile
  let k := t.core w.core
  let core := fun (k : Core) => s.setTile w.tile (t.setCore w.core k)
  let v64 := BitVec.ofNat 64 v
  let bound := codeBound v
  if 0x90 ≤ n ∧ n ≤ 0x9F then
    match s.partOf w.tile with
    | some (p, pt) =>
      { s with parts := Store.put s.parts p { pt with enw := Store.set 0 pt.enw (n - 0x90) (BitVec.ofNat 32 v) } }
    | none => s
  else if csrIsWalk n then
    s.setTile w.tile { t with
      xr := { t.xr with w := Store.set 0 t.xr.w (n - 0x100) (BitVec.ofNat 64 (v % 2 ^ 52)) } }
  else
    match n with
    | 0x000 => core { k with fflags := BitVec.ofNat 5 v }
    | 0x001 => core { k with frm := BitVec.ofNat 3 v }
    | 0x022 => s.setTile w.tile { t with task := { t.task with frameLen := BitVec.ofNat 32 v } }
    | 0x030 => (s.setTile w.tile { t with ageLimit := clampAge v }).keepInRecord w.tile
        (fun r => { r with age := (clampAge v).toNat }) 224 2 (clampAge v).toNat
    | 0x031 => (s.setTile w.tile { t with closureWin := clampClosure v }).keepInRecord w.tile
        (fun r => { r with closure := (clampClosure v).toNat }) 236 4 (clampClosure v).toNat
    | 0x040 => s.setTile w.tile { t with oorFlag := decide (bit v 0 = 1) }
    | 0x041 => s.setTile w.tile { t with oorAddr := v64 }
    | 0x050 => (core { k with tvec := v64 }).keepInRecord w.tile
        (fun r => { r with tvec := triple w.core v64 r.tvec }) (176 + 8 * coreIndex w.core) 8 v64.toNat
    | 0x051 => core { k with tcause := BitVec.ofNat 8 v }
    | 0x052 => core { k with tval := v64 }
    | 0x053 => core { k with tpc := v64 }
    | 0x054 => core { k with tstatus := BitVec.ofNat 64 (v % 32) }
    | 0x060 => (core { k with codeLo := bound }).keepInRecord w.tile
        (fun r => { r with codeLo := triple w.core bound r.codeLo }) (128 + 8 * coreIndex w.core) 8 bound.toNat
    | 0x061 => (core { k with codeHi := bound }).keepInRecord w.tile
        (fun r => { r with codeHi := triple w.core bound r.codeHi }) (152 + 8 * coreIndex w.core) 8 bound.toNat
    | 0x080 => s.setTile w.tile { t with energy := energyWord v }
    | _ => s

/-- How a CSR word forms the value it writes (R123). -/
inductive CsrOp
  | rd
  | wr
  | set
  | clr
  deriving DecidableEq, Repr

/-- The value a CSR word writes (R123). -/
def CsrOp.value (op : CsrOp) (old x : Nat) : Nat :=
  match op with
  | .rd => old
  | .wr => x
  | .set => old ||| x
  | .clr => old &&& (2 ^ 64 - 1 - x)

/-- The check of number, write access and read access (R40, R123), as a fault code. -/
def csrCheck (op : CsrOp) (d priv n : Nat) : Option Nat :=
  match csrRow n with
  | none => some 0x01
  | some r =>
    let writes : Option Nat :=
      if op = .rd then none
      else
        match r.writeAt with
        | none => some 0x01
        | some l => if priv < l then some 0x11 else none
    match writes with
    | some c => some c
    | none => if (op = .rd ∨ d ≠ 0) ∧ priv < r.readAt then some 0x11 else none

/-- An M-format word in flight that may raise flags (R124, R181): MSTA and MSCAL, and the products, MADD and MRED but those of
INT32, which raise none (R83, R176). -/
def MOpen.raises (m : MOpen) : Bool :=
  m.op == 6 || m.op == 9 || ((decide (m.op ≤ 3) || m.op == 10 || m.op == 11) && m.w.tC != 2)

/-- A CSR word (R40, R123, R124): `i` is the word itself, whose first unit a check records. Its push is
checked before its access (R23). -/
def State.csrWord (s : State) (i : Instr) (op : CsrOp) (d a : Nat) (c : BitVec 14) : Outcome State Fault Refusal :=
  let n := c.toNat
  let us := if op = .rd then [(d, true)] else [(a, false), (d, true)]
  if csrIsWalk n && s.cur.core != .X then s.illegal i
  else
    match deadPort s.cur.core us with
    | some p => s.fault 0x08 (BitVec.ofNat 64 p)
    | none =>
      let old := s.readCsr s.cur n
      if isPort d && forbiddenToken (BitVec.ofNat 32 old) then s.fault 0x08 (BitVec.ofNat 64 (old % 2 ^ 32))
      else
      match csrCheck op d s.me.priv.toNat n with
      | some code => s.fault code (headUnit i)
      | none =>
        if n = 0 ∧ (s.me.pending s.now .fflags ∨ (s.cur.core = .X ∧ s.myTile.mopen.any MOpen.raises)) then s.wait .res
        else
          s.withRegs us fun s' v =>
            let new := op.value old (val v 0).toNat
            if op ≠ .rd ∧ n = 1 ∧ 6 ≤ bitsAt new 0 3 then s.badOperand 1 a
            else
              s.finish (if op = .rd then s' else s'.writeCsr s.cur n new) d (BitVec.ofNat 64 old) 1 (s.me.pc + 4)
                (s.now + 1)

def execCsrrd (d : BitVec 5) (c : BitVec 14) (s : State) : Outcome State Fault Refusal :=
  s.csrWord (.csrrd d c) .rd d.toNat 0 c

def execCsrwr (d a : BitVec 5) (c : BitVec 14) (s : State) : Outcome State Fault Refusal :=
  s.csrWord (.csrwr d a c) .wr d.toNat a.toNat c

def execCsrset (d a : BitVec 5) (c : BitVec 14) (s : State) : Outcome State Fault Refusal :=
  s.csrWord (.csrset d a c) .set d.toNat a.toNat c

def execCsrclr (d a : BitVec 5) (c : BitVec 14) (s : State) : Outcome State Fault Refusal :=
  s.csrWord (.csrclr d a c) .clr d.toNat a.toNat c

end Sys2Proof.Machine
end

