-- ==== Sys2Proof/Machine/Tokens.lean ====
section
/-!
DEFINITION. The token words QPOP, QPUSH, QPEEK and QCNT (R210 to R213).
-/

namespace Sys2Proof.Machine

open Host (Outcome)

/-- QPOP: an expected type above 4, or a type beside `any`, is illegal; a type mismatch leaves the token (R211). -/
def execQpop (d : BitVec 5) (y : BitVec 1) (k : BitVec 2) (t : BitVec 4) (s : State) : Outcome State Fault Refusal :=
  if (y = 0 ∧ 5 ≤ t.toNat) ∨ (y = 1 ∧ t ≠ 0) then s.illegal (.qpop d y k t)
  else
    let us := [(28 + k.toNat, false), (d.toNat, true)]
    match deadPort s.cur.core us, inQueue s.cur.core k.toNat with
    | some p, _ => s.fault 0x08 (BitVec.ofNat 64 p)
    | none, none => s.fault 0x08 (BitVec.ofNat 64 k.toNat)
    | none, some q =>
      let u := s.myTile.queue q
      if s.myTile.poppable q s.now = 0 then
        let l := portLacks s.myTile s.cur.core s.now us
        s.wait ((lackWait l.1 l.2 [] []).getD (.pop q))
      else if y = 0 ∧ bitsAt u.head.toNat 28 4 ≠ t.toNat then s.fault 0x09 (BitVec.ofNat 64 u.head.toNat)
      else s.withRegs us fun s' v => s.finish s' d.toNat (val v 0) 1 (s.me.pc + 4) (s.now + 1)

/-- The token QPUSH forms (R212). -/
def pushedToken (r : BitVec 1) (t : BitVec 4) (x : U64) : Nat :=
  if r = 1 then x.toNat % 2 ^ 32 else t.toNat * 2 ^ 28 + x.toNat % 2 ^ 28

/-- QPUSH (R212): a forbidden type and an unconnected port raise queue port. -/
def execQpush (a : BitVec 5) (r : BitVec 1) (k : BitVec 2) (t : BitVec 4) (s : State) : Outcome State Fault Refusal :=
  if r = 1 ∧ t ≠ 0 then s.illegal (.qpush a r k t)
  else
    s.compute [a.toNat] (28 + k.toNat) 1 (fun v => BitVec.ofNat 64 (pushedToken r t (val v 0)))

/-- QPEEK: the head token, or all ones where none is poppable (R213). -/
def execQpeek (d : BitVec 5) (k : BitVec 2) (s : State) : Outcome State Fault Refusal :=
  match inQueue s.cur.core k.toNat with
  | none => s.fault 0x08 (BitVec.ofNat 64 k.toNat)
  | some q =>
    let u := s.myTile.queue q
    s.compute [] d.toNat 1 fun _ => if s.myTile.poppable q s.now = 0 then -1 else BitVec.ofNat 64 u.head.toNat

/-- QCNT: poppable tokens of an in-port, or free places of an out-port (R213). -/
def execQcnt (d : BitVec 5) (o : BitVec 1) (k : BitVec 2) (s : State) : Outcome State Fault Refusal :=
  match if o = 1 then outQueue s.cur.core k.toNat else inQueue s.cur.core k.toNat with
  | none => s.fault 0x08 (BitVec.ofNat 64 k.toNat)
  | some q =>
    let u := s.myTile.queue q
    s.compute [] d.toNat 1 fun _ => BitVec.ofNat 64 (if o = 1 then u.places s.now else s.myTile.poppable q s.now)

end Sys2Proof.Machine
end

