-- ==== Sys2Proof/Machine/Sync.lean ====
section
/-!
DEFINITION. Starting and meeting (R214, R215), transaction barriers (R216, R217, R277, R278) and future cells (R218).
-/

namespace Sys2Proof.Machine

open Host (Outcome)

/-- A core that FORK starts (R214): its registers, FFLAGS and FRM stay. Its first word follows the X-core's accesses that the
FORK of clock `now` releases (R275). -/
def Core.start (k : Core) (entry : U64) (now : Nat) : Core :=
  { k with run := .running, pc := entry, priv := 0, nextAt := now + 2, held := none, resume := none, glob := none,
           drain := false, arrived := false, forked := some now }

/-- A started core does not issue yet: the X-core's accesses before its FORK are not performed (R214, R275). -/
def State.forkHeld (s : State) (w : Who) : Bool := (s.core w).forked.any (fun c => !(s.tile w.tile).performed .X c)

/-- Why FORK may not start a core (R214): it is not idle, or its entry is misaligned. -/
def forkFault (k : Core) (entry : U64) : Option Nat :=
  if k.run ≠ .idle then some 0x01 else if entry.toNat % 4 ≠ 0 then some 0x0E else none

/-- FORK, on the X-core only (R45, R214). -/
def execFork (d a : BitVec 5) (e : BitVec 2) (s : State) : Outcome State Fault Refusal :=
  let l := bit e.toNat 0 = 1
  let r := bit e.toNat 1 = 1
  if e = 0 ∨ (¬ l ∧ a ≠ 0) ∨ (¬ r ∧ d ≠ 0) ∨ s.cur.core ≠ .X then s.illegal (.fork d a e)
  else
    s.withRegs ((if l then [(a.toNat, false)] else []) ++ (if r then [(d.toNat, false)] else [])) fun s' v =>
      let le := val v 0
      let se := val v (if l then 1 else 0)
      match (if l then forkFault s.myTile.l le else none), (if r then forkFault s.myTile.s se else none) with
      | some c, _ => s.fault c (if c = 0x01 then headUnit (.fork d a e) else le)
      | none, some c => s.fault c (if c = 0x01 then headUnit (.fork d a e) else se)
      | none, none =>
        let t := s'.myTile
        let t := if l then { t with l := t.l.start le s.now } else t
        let t := if r then { t with s := t.s.start se s.now } else t
        .next (s'.setMyTile t).stepOn

/-- The group-abort mark delivered at a sampling point (R221): the task is discarded and its record dealt again. -/
def State.deliverAbort (s : State) (g : Nat) : State := s.beginEnd g 3 0x13 s.now

/-- A load that its bank serves in this clock is refused by its out-port: its core takes a fault with the clock (R32, R345). -/
def Tile.refusing (t : Tile) (now : Nat) (datum : Bool) : Bool :=
  t.asks.any (fun x => (t.refusal x).isSome && t.serves now datum x)

/-- A core of a tile takes a fault or STOP in this clock (R345). -/
def State.strikes (s : State) (g : Nat) : Bool :=
  (s.tile g).struck == some s.now || (s.tile g).refusing s.now (s.datumTile g)

/-- A sampling point of the issuing core delivers the mark: there is one, and no fault or STOP of the tile in this clock
comes before (R221, R345). -/
def State.delivers (s : State) : Bool := s.myTile.task.abortMark && !s.strikes s.cur.tile

/-- MARKs of the other FIFO without a partner pair with the core's RENDZ or HALT (R273), whose clock they keep, and the
core's count is raised to match. -/
def Tile.pairMarks (t : Tile) (c : CoreId) (now : Nat) : Tile :=
  let pair := fun (q : List Cmd) => q.map (fun m =>
    if m.op = 256 ∧ (t.core c).marks < m.next then { m with paired := true, due := now } else m)
  match c with
  | .L => if t.l.marks < t.s.marks then { t with storeQ := pair t.storeQ, l := { t.l with marks := t.s.marks } } else t
  | .S => if t.s.marks < t.l.marks then { t with loadQ := pair t.loadQ, s := { t.s with marks := t.l.marks } } else t
  | .X => t

/-- RENDZ or HALT of the L-core or the S-core (R215): the core drains, and is idle once its FIFO is empty and, since its
arrival at idle is a release (R275), its accesses are performed. -/
def Tile.beginDrain (t : Tile) (c : CoreId) (now : Nat) : Tile :=
  let t := t.pairMarks c now
  let k := t.core c
  let q := match c with | .S => t.storeQ | _ => t.loadQ
  t.setCore c { k with pc := k.pc + 4, run := if q.isEmpty && t.accessesDone c now then .idle else .draining, held := none,
                       pend := k.pend ++ [plainPend (now + 1) []] }

/-- What X-core RENDZ and RETIRE wait for (R215): the started cores idle, the open words complete. -/
def Tile.met (t : Tile) : Bool := t.l.run == .idle && t.s.run == .idle && t.mopen.isEmpty

/-- RENDZ or HALT of the issuing core, which is not the X-core; an X-core whose RENDZ or RETIRE waits for the S-core sees the
S-core idle in the same clock (R209, R215). -/
def State.drainMe (s : State) : State :=
  let t := s.myTile.beginDrain s.cur.core s.now
  let s' := s.setMyTile t
  match s.cur.core, t.x.run with
  | .S, .waiting (.meet _) => { s' with turn := ⟨s.cur.tile, .X⟩ :: s'.turn }
  | _, _ => s'

/-- RENDZ (R215): aborts are sampled first. -/
def execRendz (s : State) : Outcome State Fault Refusal :=
  if s.delivers then .next (s.deliverAbort s.cur.tile)
  else if s.cur.core = .X then
    if s.myTile.met then .next (s.issue (s.me.pc + 4) (s.now + 2) (plainPend (s.now + 1) []))
    else s.wait (.meet false)
  else .next s.drainMe

/-- TVAL of a schedule miss (R101). -/
def missTval (reason stamp : Nat) : U64 := BitVec.ofNat 64 (reason * 2 ^ 32 + stamp % 2 ^ 30)

/-- Schedule miss (R101). -/
def State.miss (s : State) (reason stamp : Nat) : Outcome State Fault Refusal := s.fault 0x0B (missTval reason stamp)

/-- The stamp field of an unstamped word's miss: DATUM − FRAME_ORG (R234). -/
def State.sinceOrigin (s : State) : Nat := wrapTo 30 ((s.now : Int) - ((s.frameOrg s.cur.tile).toNat : Int))

/-- A barrier or cell that is not ready: a wait in free mode, a schedule miss in datum mode (R234). -/
def State.notReady (s : State) (w : Wait) : Outcome State Fault Refusal :=
  if s.datumTile s.cur.tile then s.miss 5 s.sinceOrigin else s.wait w

/-- What a word that is served at one bank finds there: in datum mode, where it does not wait, what the stores that stand there
before it leave (R234, R270). -/
def State.found (s : State) (ea : Int) : Tile :=
  if s.datumTile s.cur.tile then s.myTile.ahead s.now (ea / 64) else s.myTile

/-- Requests stand at its bank for the line of a word of datum mode: what it writes follows them there (R97, R270). -/
def State.follows (s : State) (ea : Int) : Bool :=
  s.datumTile s.cur.tile && s.myTile.asks.any (fun a => decide ((a.line : Int) = ea / 64))

/-- A word that is served at one bank: in free mode it waits there until it is granted (R97, R216 to R218); in datum mode it
never waits, and one whose line is locked, or still to be written by the X-core's earlier words, finds its condition not met
(R234; notes/assumptions 24). -/
def State.atBank (s : State) (ea : Int) (writes : Bool) (w : Wait) (go : Outcome State Fault Refusal) :
    Outcome State Fault Refusal :=
  if s.datumTile s.cur.tile then
    if inRange (ea / 64) && (s.myTile.lockHeld (s.coreAsk ea writes) ||
        (s.cur.core == .X && s.myTile.unwritten s.now (ea / 64))) then s.notReady w else go
  else
    match s.bankWait ea writes with
    | some w => s.wait w
    | none => go

/-- A barrier or a future cell as a core's word is served there: latched out of range (R118), the bank taken in range. -/
def Tile.visit (t : Tile) (now : Nat) (c : CoreId) (ea : Int) : Tile := (t.touchAt now (rankScalar c) ea).serve ea

/-- WAITB (R216): a port as d is illegal. The next word issues 4 clocks after the condition is met (R209). -/
def execWaitb (d a : BitVec 5) (i : BitVec 14) (s : State) : Outcome State Fault Refusal :=
  if isPort d.toNat then s.illegal (.waitb d a i)
  else
    s.withRegs [(a.toNat, false), (d.toNat, false), (d.toNat, true)] fun s' v =>
      let ba := scratchAddr (val v 0) i
      if ba % 16 ≠ 0 then s.fault 0x0E (addrWord ba)
      else
        s.atBank ba false (.barrier ba.toNat) (
          let phase := barrierPhase ((s.found ba).barrier ba)
          if phase = (val v 1).toNat % 16 then
            (s.setMyTile (s.myTile.visit s.now s.cur.core ba)).notReady (.barrier ba.toNat)
          else
            s.finish ((s'.setMyTile (s'.myTile.visit s.now s.cur.core ba)).chargeAt ba) d.toNat
              (BitVec.ofNat 64 phase) 4 (s.me.pc + 4) (s.now + 4))

/-- ARRIVE and BARINIT act on a barrier when its bank grants their request, which follows the core's earlier accesses; the
core goes on (R209, R217). Out of range they write nothing (R251). -/
def State.onBarrier (s s' : State) (ba : Int) (act : BankAct) : Outcome State Fault Refusal :=
  .next ((s'.askScalar ba act).issue (s.me.pc + 4) (s.now + 1) { plainPend (s.now + 1) [] with asks := some (s.now, 0) })

/-- ARRIVE (R217): a decrement of 0 is illegal. -/
def execArrive (a : BitVec 5) (n : BitVec 14) (s : State) : Outcome State Fault Refusal :=
  if n = 0 then s.illegal (.arrive a n)
  else
    s.withRegs [(a.toNat, false)] fun s' v =>
      let ba : Int := (val v 0).toNat
      if ba % 16 ≠ 0 then s.fault 0x0E (val v 0)
      else s.onBarrier s' ba (.lower ba.toNat n.toNat)

/-- The barrier BARINIT writes (R217). -/
def initialBarrier (x : U64) : Nat :=
  bitsAt x.toNat 0 24 * 2 ^ 100 + bitsAt x.toNat 0 24 * 2 ^ 76 + bitsAt x.toNat 24 32 * 2 ^ 44
    + bitsAt x.toNat 24 32 * 2 ^ 12

/-- BARINIT (R217). -/
def execBarinit (d a : BitVec 5) (s : State) : Outcome State Fault Refusal :=
  s.withRegs [(a.toNat, false), (d.toNat, false)] fun s' v =>
    let ba : Int := (val v 0).toNat
    if ba % 16 ≠ 0 then s.fault 0x0E (val v 0)
    else if bitsAt (val v 1).toNat 56 8 ≠ 0 then s.badOperand 0 d.toNat
    else s.onBarrier s' ba (.init ba.toNat (initialBarrier (val v 1)))

/-- A future cell is full (R218). -/
def Tile.cellFull (t : Tile) (ca : Int) : Bool := decide (bit (t.readAt (ca + 8) 8) 0 = 1)

/-- PUTF (R218): performed after its core's earlier writes; in datum mode, where it never waits, a full cell is a miss in the
issue clock, and an empty one is filled by a request that stands at the bank until those writes are performed (R234;
notes/assumptions 47). -/
def execPutf (d a : BitVec 5) (i : BitVec 14) (s : State) : Outcome State Fault Refusal :=
  s.withRegs [(a.toNat, false), (d.toNat, false)] fun s' v =>
    let ca := scratchAddr (val v 0) i
    let late := inRange (ca / 64) && (!s.myTile.writesDone s.cur.core s.now || s.follows ca)
    let cell := leBytes 8 (val v 1).toNat ++ leBytes 8 1
    if ca % 16 ≠ 0 then s.fault 0x0E (addrWord ca)
    else if late && !s.datumTile s.cur.tile then s.wait .fence
    else
      s.atBank ca true (.cell ca.toNat) (
        if inRange (ca / 64) && (s.found ca).cellFull ca then
          (s.setMyTile (s.myTile.serve ca)).notReady (.cell ca.toNat)
        else if late then
          .next ((s'.askScalar ca (.fill ca.toNat (leNat cell))).issue (s.me.pc + 4) (s.now + 1)
            { plainPend (s.now + 1) [] with asks := some (s.now, 0) })
        else
          let t := (s'.myTile.visit s.now s.cur.core ca).writeAt ca cell
          .next ((s'.setMyTile t).chargeAt ca).stepOn)

/-- GETF (R218); it may write a port. The next word issues 4 clocks after the cell is found full (R209). -/
def execGetf (d a : BitVec 5) (i : BitVec 14) (s : State) : Outcome State Fault Refusal :=
  s.withRegs [(a.toNat, false), (d.toNat, true)] fun s' v =>
    let ca := scratchAddr (val v 0) i
    if ca % 16 ≠ 0 then s.fault 0x0E (addrWord ca)
    else
      s.atBank ca true (.cell ca.toNat) (
        if inRange (ca / 64) && !(s.found ca).cellFull ca then
          (s.setMyTile (s.myTile.serve ca)).notReady (.cell ca.toNat)
        else
          let rest := (s.found ca).readAt (ca + 8) 8
          let empty := leBytes 8 (rest - bit rest 0)
          let s'' := if inRange (ca / 64) && s.follows ca then s'.askScalar ca (.put [((ca + 8).toNat, empty)])
            else (s'.setMyTile ((s'.myTile.visit s.now s.cur.core ca).writeAt (ca + 8) empty)).chargeAt ca
          s.finish s'' d.toNat (BitVec.ofNat 64 ((s.found ca).readAt ca 8)) 4 (s.me.pc + 4) (s.now + 4))

end Sys2Proof.Machine
end

