-- ==== Sys2Proof/Machine/Groups.lean ====
section
/-!
DEFINITION. Groups and the abort line (R219 to R221, R246): JOIN, LEAVE, GBAR, ABORTG, ABCHK, and the hub's release and
marking.
-/

namespace Sys2Proof.Machine

open Host (Outcome)

/-- The group `k` of tile `g`'s partition, if it exists. -/
def State.group (s : State) (g k : Nat) : Option Group :=
  match s.partOf g with
  | some (_, p) => Store.find p.groups k
  | none => none

/-- A group of tile `g`'s partition replaced, or ended. -/
def State.setGroup (s : State) (g k : Nat) (gr : Option Group) : State :=
  match s.partOf g with
  | none => s
  | some (p, pt) =>
    let groups := match gr with
      | some gr => Store.put pt.groups k gr
      | none => pt.groups.erase k
    { s with parts := Store.put s.parts p { pt with groups := groups } }

/-- The task of tile `g` is a member of group `k`. -/
def State.isMember (s : State) (g k : Nat) : Bool :=
  match s.group g k with
  | some gr => gr.members.contains (s.tile g).task.uid
  | none => false

/-- Bit `k` of GROUP_MASK set or cleared (R219). -/
def Tile.maskBit (t : Tile) (k : Nat) (v : Bool) : Tile :=
  { t with task := { t.task with
      groupMask := if v then t.task.groupMask ||| (1#16 <<< k) else t.task.groupMask &&& ~~~(1#16 <<< k) } }

/-- A task becomes a member (R219): its counting starts at the completed barriers, or one later when some member has
arrived for the next (R220). A generation counts as completed once its set is complete (notes/assumptions 45). -/
def joinGroup (gr : Option Group) (uid : Nat) : Group :=
  match gr with
  | none => { members := [uid], done := 0, arrived := [], base := [], release := [] }
  | some gr =>
    if gr.members.contains uid then gr
    else
      let g := gr.done + gr.release.length
      let b := if gr.arrived.any (fun a => a.2 == g + 1) then g + 1 else g
      { gr with members := gr.members ++ [uid], base := Store.set 0 gr.base uid b }

/-- The number of members of group `k` as tile `g` sees it. -/
def State.memberCount (s : State) (g k : Nat) : Nat :=
  match s.group g k with
  | some gr => gr.members.length
  | none => 0

/-- A word that waits for the hub (R208): it waits until the clock in which the answer comes, and has its effect then; what
interrupts the wait abandons it (notes/assumptions 50). -/
def State.atHub (s : State) (at_ : Nat) (go : Outcome State Fault Refusal) : Outcome State Fault Refusal :=
  match s.me.run with
  | .waiting (.hub c) => if c ≤ s.now then go else s.wait (.hub c)
  | _ => s.wait (.hub at_)

/-- JOIN (R219): the result is visible, and the next word may issue, 96 clocks after (R209). -/
def execJoin (d : BitVec 5) (g : BitVec 4) (s : State) : Outcome State Fault Refusal :=
  s.withRegs [(d.toNat, true)] fun s' _ => s.atHub (s.now + 96) (
    let tile := s.cur.tile
    let s' := (s'.setGroup tile g.toNat (some (joinGroup (s.group tile g.toNat) s.myTile.task.uid)))
    let s' := s'.setMyTile (s'.myTile.maskBit g.toNat true)
    s.finish s' d.toNat (BitVec.ofNat 64 (s'.memberCount tile g.toNat)) 0 (s.me.pc + 4) s.now)

/-- LEAVE (R219); the task's GBAR counts for the group end (R18). -/
def execLeave (d : BitVec 5) (g : BitVec 4) (s : State) : Outcome State Fault Refusal :=
  s.withRegs [(d.toNat, true)] fun s' _ => s.atHub (s.now + 96) (
    let tile := s.cur.tile
    let s' :=
      match s.group tile g.toNat with
      | none => s'
      | some gr =>
        if gr.members.contains s.myTile.task.uid then
          s'.setGroup tile g.toNat (gr.leave s.now s.myTile.task.uid)
        else s'
    let forget := fun (k : Core) => { k with gbars := k.gbars.erase g.toNat }
    let t := s'.myTile.maskBit g.toNat false
    let s' := s'.setMyTile { t with l := forget t.l, x := forget t.x, s := forget t.s }
    s.finish s' d.toNat (BitVec.ofNat 64 (s'.memberCount tile g.toNat)) 0 (s.me.pc + 4) s.now)

/-- The generation a core's next GBAR on group `k` belongs to (R220). -/
def State.nextGeneration (s : State) (w : Who) (k : Nat) (gr : Group) : Nat :=
  Store.get 0 gr.base (s.tile w.tile).task.uid + Store.get 0 (s.core w).gbars k + 1

/-- A core's GBAR is counted and the core goes on, its next word from clock `next` (R220). -/
def Core.passGbar (k : Core) (g now next : Nat) : Core :=
  { k with gbars := Store.put k.gbars g (Store.get 0 k.gbars g + 1), pc := k.pc + 4, run := .running, nextAt := next,
           pend := k.pend ++ [plainPend now []] }

/-- GBAR (R220): not a member is illegal operand; aborts are sampled; a generation already released proceeds at once;
otherwise the task arrives, once the core's accesses are performed (R275), and the core waits. -/
def execGbar (g : BitVec 4) (s : State) : Outcome State Fault Refusal :=
  let tile := s.cur.tile
  if s.isMember tile g.toNat = false then s.badOperand 3 g.toNat
  else if s.delivers then .next (s.deliverAbort tile)
  else
    match s.group tile g.toNat with
    | none => s.badOperand 3 g.toNat
    | some gr =>
      let gen := s.nextGeneration s.cur g.toNat gr
      if gen ≤ gr.done then .next (s.mapMe (fun k => k.passGbar g.toNat (s.now + 1) (s.now + 1)))
      else if s.myTile.accessesDone s.cur.core s.now = false then s.wait .fence
      else
        let a := (s.myTile.task.uid, gen)
        let gr := if gr.arrived.contains a then gr else { gr with arrived := gr.arrived ++ [a] }
        (s.setGroup tile g.toNat (some (gr.settle s.now))).wait (.gbar g.toNat gen)

/-- A core that waits in GBAR is released with its generation (R220). -/
def Core.released (c : Core) (gr : Group) (k now : Nat) : Core :=
  match c.run with
  | .waiting (.gbar k' gen) => if k' = k ∧ gen ≤ gr.done then c.passGbar k now now else c
  | _ => c

/-- GROUP_BARRIER_RELEASE: the generations of a group whose clock has come are completed (R220); of a task that is marked the
abort comes first (R221). -/
def execGroupBarrierRelease (p k : Nat) (s : State) : Outcome State Fault Refusal :=
  match Store.find s.parts p with
  | none => .next s
  | some pt =>
    match Store.find pt.groups k with
    | none => .next s
    | some gr =>
      let n := (gr.release.filter (fun r => decide (r ≤ s.now))).length
      let gr := { gr with done := gr.done + n, release := gr.release.drop n,
                          arrived := gr.arrived.filter (fun a => decide (gr.done + n < a.2)) }
      .next (pt.tiles.foldl (fun s g =>
        let t := s.tile g
        if gr.members.contains t.task.uid && !t.task.abortMark then
          s.setTile g { t with l := t.l.released gr k s.now, x := t.x.released gr k s.now, s := t.s.released gr k s.now }
        else s) { s with parts := Store.put s.parts p { pt with groups := Store.put pt.groups k (gr.settle s.now) } })

/-- ABORTG (R221): the hub marks the members 48 clocks after. -/
def execAbortg (a : BitVec 5) (s : State) : Outcome State Fault Refusal :=
  s.withRegs [(a.toNat, false)] fun s' v =>
    let k := (val v 0).toNat
    match s.partOf s.cur.tile with
    | none => s.badOperand 1 a.toNat
    | some (p, _) =>
      if 16 ≤ k ∨ s.isMember s.cur.tile k = false then s.badOperand 1 a.toNat
      else .next { s' with aborts := s'.aborts ++ [(s.now + 48, p, k)] }.stepOn

/-- A core that waits in GBAR samples aborts throughout (R220, R221): a mark is delivered, unless a fault or STOP of its tile
comes before (R345); then its release, where it has come, lets it go on. -/
def State.sampleGbar (s : State) (w : Who) (k : Nat) : State :=
  let t := s.tile w.tile
  if t.task.abortMark then
    if s.strikes w.tile = false then s.deliverAbort w.tile
    else
      match s.group w.tile k with
      | some gr => s.setCore w ((t.core w.core).released gr k s.now)
      | none => s
  else s

/-- GROUP_ABORT_MARKING: the hub performs an ABORTG whose clock has come (R221): every member's task is marked, saved
ones too. -/
def execGroupAbortMarking (p k : Nat) (s : State) : Outcome State Fault Refusal :=
  match s.aborts.find? (fun a => decide (a.1 ≤ s.now) && a.2.1 == p && a.2.2 == k), Store.find s.parts p with
  | some a, some pt =>
    let s := { s with aborts := s.aborts.erase a }
    match Store.find pt.groups k with
    | none => .next s
    | some gr =>
      let mark := fun (t : Tile) =>
        if t.task.live && gr.members.contains t.task.uid then { t with task := { t.task with abortMark := true } } else t
      let s := pt.tiles.foldl (fun s g => s.setTile g (mark (s.tile g))) s
      .next { s with saved := s.saved.map (fun e => (e.1, { e.2 with tile := mark e.2.tile })) }
  | _, _ => .next s

/-- ABCHK (R221). -/
def execAbchk (s : State) : Outcome State Fault Refusal :=
  if s.delivers then .next (s.deliverAbort s.cur.tile) else .next s.stepOn

end Sys2Proof.Machine
end

