-- ==== Sys2Proof/Machine/Rings.lean ====
section
/-!
DEFINITION. Operand rings: the descriptor image (R241), RINGSET (R222) and RINGOP (R223, R244).
-/

namespace Sys2Proof.Machine

open Host (Outcome)

/-- A slot's state (R244). -/
def Ring.slot (r : Ring) (i : Nat) : Slot := Store.get .empty r.slots i

/-- A slot's state set. -/
def Ring.setSlot (r : Ring) (i : Nat) (v : Slot) : Ring := { r with slots := Store.set .empty r.slots i v }

/-- A slot's state as an agent sees it (R245): a change by RINGOP is seen once the accesses that its core made
before are performed; until then the slot counts as being written, or as being read. -/
def Tile.slotNow (t : Tile) (n i : Nat) : Slot :=
  let r := t.ring n
  match Store.find r.held i with
  | none => r.slot i
  | some (c, k) =>
    if t.performed c k then r.slot i
    else match r.slot i with
      | .full => .writing
      | .empty => .reading
      | v => v

/-- A slot changed by a RINGOP. -/
def State.changeSlot (s : State) (r : Ring) (i : Nat) (v : Slot) : Ring :=
  { r.setSlot i v with held := Store.put r.held i (s.cur.core, s.now) }

/-- A position advanced modulo the number of slots (R244). -/
def Ring.after (r : Ring) (i : Nat) : Nat := (i + 1) % r.nslots

/-- The image of a set ring (R241, R340). -/
def Ring.image (r : Ring) : Nat := r.base + r.nslots * 2 ^ 32 + r.lps * 2 ^ 64 + r.shape * 2 ^ 112

/-- The wait of a RINGOP for a slot, and for the place that its result lacks. -/
def State.slotWait (s : State) (d : BitVec 5) (full empty : List Nat) : Wait :=
  (lackWait [] (portLacks s.myTile s.cur.core s.now [(d.toNat, true)]).2 full empty).getD .res

/-- A word in flight names ring `n`, or a RINGSET or RINGOP of it has not reached its latency (R222). -/
def Tile.ringBusy (t : Tile) (now n : Nat) : Bool :=
  t.mopen.any (fun m => m.names.contains n) ||
    [t.l, t.x, t.s].any (fun k => k.pending now (.ring n))

/-- A ring's image cannot be read as RINGSET issues: a command that holds its line closed, or an earlier write of the core, comes
before (R91, R189). -/
def Tile.imageHeld (t : Tile) (c : CoreId) (now : Nat) (line : Int) : Bool :=
  inRange line && (t.readLocked line || t.writeLeft c now line)

/-- RINGSET (R222): the ring's image is read, and checked, as the word issues; or, where its line is held, when the bank serves
its request, which does not hold up issue (R91; notes/assumptions 111). -/
def execRingset (a : BitVec 5) (n : BitVec 3) (s : State) : Outcome State Fault Refusal :=
  s.withRegs [(a.toNat, false)] fun s' v =>
    let ea : Int := (val v 0).toNat
    if ea % 64 ≠ 0 then s.fault 0x0E (val v 0)
    else if s.myTile.ringBusy s.now n.toNat then s.wait (.ringWords n.toNat)
    else
      let p : Pend := { plainPend (s.now + 4) [.ring n.toNat] with asks := some (s.now, 4) }
      if s.myTile.imageHeld s.cur.core s.now (ea / 64) then
        .next ((s'.askScalar ea (.ring n.toNat a.toNat)).issue (s.me.pc + 4) (s.now + 1) p)
      else
        match ringOfImage (leNat (s.myTile.line (ea / 64))) with
        | none => s.badOperand 1 a.toNat
        | some r =>
          let s' := s'.askScalar ea .look
          .next ((s'.setMyTile (s'.myTile.setRing n.toNat r)).issue (s.me.pc + 4) (s.now + 1) p)

/-- The scratch byte address of a slot's first line (R223, R243). -/
def Ring.slotAddr (r : Ring) (i : Nat) : U64 := BitVec.ofNat 64 ((r.base + i * r.lps) * 64)

/-- A RINGOP on ring `n`: a RINGSET of it is waited for (R222); a ring not set is illegal operand (R242). -/
def State.ringOp (s : State) (n : BitVec 3) (k : Ring → Outcome State Fault Refusal) : Outcome State Fault Refusal :=
  let r := s.myTile.ring n.toNat
  if [s.myTile.l, s.myTile.x, s.myTile.s].any (fun c => c.pending s.now (.ring n.toNat)) then s.wait (.ringWords n.toNat)
  else if r.isSet = false then s.badOperand 3 n.toNat
  else k r

/-- TVAL of ring overrun (R223). -/
def overrunTval (n : BitVec 3) : U64 := BitVec.ofNat 64 (n.toNat * 2 ^ 16)

def execRingopTail (d : BitVec 5) (n : BitVec 3) (s : State) : Outcome State Fault Refusal :=
  s.ringOp n fun r =>
    match deadPort s.cur.core [(d.toNat, true)] with
    | some p => s.fault 0x08 (BitVec.ofNat 64 p)
    | none => if s.myTile.slotNow n.toNat r.t ≠ .empty then s.wait (s.slotWait d [] [n.toNat])
      else s.compute [] d.toNat 1 fun _ => r.slotAddr r.t

def execRingopFill (n : BitVec 3) (s : State) : Outcome State Fault Refusal :=
  s.ringOp n fun r =>
    if s.myTile.slotNow n.toNat r.t ≠ .empty then s.fault 0x12 (overrunTval n)
    else .next (s.setMyTile (s.myTile.setRing n.toNat { s.changeSlot r r.t .full with t := r.after r.t })).stepOn

def execRingopHead (d : BitVec 5) (n : BitVec 3) (s : State) : Outcome State Fault Refusal :=
  s.ringOp n fun r =>
    match deadPort s.cur.core [(d.toNat, true)] with
    | some p => s.fault 0x08 (BitVec.ofNat 64 p)
    | none => if s.myTile.slotNow n.toNat r.h ≠ .full then s.wait (s.slotWait d [n.toNat] [])
      else s.compute [] d.toNat 1 fun _ => r.slotAddr r.h

def execRingopFree (n : BitVec 3) (s : State) : Outcome State Fault Refusal :=
  s.ringOp n fun r =>
    if s.myTile.slotNow n.toNat r.h ≠ .full then s.fault 0x12 (overrunTval n)
    else .next (s.setMyTile (s.myTile.setRing n.toNat { s.changeSlot r r.h .empty with h := r.after r.h })).stepOn

/-- How many slots are full (R223, R244). -/
def Tile.fullSlots (t : Tile) (n : Nat) : Nat :=
  ((List.range (t.ring n).nslots).filter (fun i => t.slotNow n i == .full)).length

def execRingopCount (d : BitVec 5) (n : BitVec 3) (s : State) : Outcome State Fault Refusal :=
  s.ringOp n fun _ => s.compute [] d.toNat 1 fun _ => BitVec.ofNat 64 (s.myTile.fullSlots n.toNat)

/-- Positions and slot states cleared; the descriptor stays (R223, R242). -/
def execRingopReset (n : BitVec 3) (s : State) : Outcome State Fault Refusal :=
  s.ringOp n fun r =>
    if s.myTile.ringBusy s.now n.toNat then s.wait (.ringWords n.toNat)
    else .next (s.setMyTile (s.myTile.setRing n.toNat { r with h := 0, t := 0, slots := [], held := [] })).stepOn

end Sys2Proof.Machine
end

