-- ==== Sys2Proof/Machine/Sys.lean ====
section
/-!
DEFINITION. The SYS words (R224 to R233): traps and returns, task ends, FENCE, MARK, SSTEP, FRAME, timed waits and
LAUNCH. What ends their waits stands with the events.
-/

namespace Sys2Proof.Machine

open Host (Outcome)

/-- ILLEGAL always raises illegal instruction (R22, R225). -/
def execIllegal (d a b : BitVec 5) (s : State) : Outcome State Fault Refusal := s.illegal (.illegal d a b)

/-- NOP (R225). -/
def execNop (s : State) : Outcome State Fault Refusal := .next s.stepOn

/-- TRAP (R226): TPC holds the address of the next word. -/
def execTrap (a : BitVec 5) (s : State) : Outcome State Fault Refusal :=
  s.withRegs [(a.toNat, false)] fun s' v => .next (s'.trap s.cur 0x17 (val v 0) (s.me.pc + 4) false)

/-- BRK (R226): TPC holds its own address. -/
def execBrk (s : State) : Outcome State Fault Refusal := s.fault 0x16 8

/-- ERET (R226): privilege at PRIV 0. -/
def execEret (s : State) : Outcome State Fault Refusal :=
  if s.me.priv = 0 then s.fault 0x11 (headUnit .eret) else .next s.eret

/-- A word that ends the task has no effect: a STOP of the tile is in progress, or a fault or STOP of the tile in this clock
comes before it (R19, R345). Its core issues it again. -/
def State.endsNothing (s : State) (g : Nat) : Bool := (s.tile g).stop.isSome || s.strikes g

/-- EXIT with a code (R227). -/
def State.exitTask (s : State) (code : Nat) : Outcome State Fault Refusal :=
  if s.endsNothing s.cur.tile then .next s else .next (s.stepOn.beginEnd s.cur.tile 1 code s.now)

def execExit (a : BitVec 5) (s : State) : Outcome State Fault Refusal :=
  s.withRegs [(a.toNat, false)] fun _ v => s.exitTask (bitsAt (val v 0).toNat 0 16)

/-- HALT (R215, R227): EXIT with code 0 on the X-core; elsewhere the core drains. -/
def execHalt (s : State) : Outcome State Fault Refusal :=
  if s.cur.core = .X then s.exitTask 0 else .next s.drainMe

/-- The wait of RETIRE has ended (R227): the task ends, in datum mode with its publication 652 clocks later. -/
def State.retire (s : State) (g : Nat) : State :=
  if s.endsNothing g then s
  else s.stepOn.beginEnd g 0 0 (if s.datumTile g then s.now + 652 else s.now)

/-- A datum-mode RETIRE whose publication reaches the DXUs before a group's last flip is settled does not end the task: it
raises 0x14 (R329, R103). -/
def State.refuseRetire (s : State) (g : Nat) : State :=
  let t := s.tile g
  match t.task.ending, t.task.twins.find? (s.unsettled t.task.ctx) with
  | some (0, _, _), some grp =>
    let s := s.setTile g { t with task := { t.task with ending := none }, x := { t.x with run := .running } }
    s.trap ⟨g, .X⟩ 0x14 (BitVec.ofNat 64 grp) (t.x.pc - 4) false
  | _, _ => s

/-- The datum-mode RETIREs that would end in this clock, refused where they publish too early (R329). -/
def State.refuseRetires (s : State) : State :=
  (s.endings.filter (fun e => s.datumTile e.1)).foldl (fun s e => s.refuseRetire e.1) s

/-- RETIRE, on the X-core only (R45, R227). -/
def execRetire (s : State) : Outcome State Fault Refusal :=
  if s.cur.core ≠ .X then s.illegal .retire
  else if s.myTile.met then .next (s.retire s.cur.tile)
  else s.wait (.meet true)

/-- The commands the core has issued are complete (R228, kinds 0 and 2); MARKs are none. -/
def Tile.commandsDone (t : Tile) (c : CoreId) : Bool :=
  match c with
  | .X => true
  | .L => t.loadQ.all (fun m => m.op == 256)
  | .S => t.storeQ.all (fun m => m.op == 256)

/-- The issuing core's own writes to host memory, by its words or by its commands, are performed at .sys (R228, R268). -/
def State.hostFenced (s : State) (engine : Bool) : Bool :=
  !s.hostAcks.contains (.task s.myTile.task.uid s.cur.core engine)

/-- FENCE (R228, R276): at .sys, writes to host memory are performed once the host has acknowledged them (R268). -/
def execFence (k sc : BitVec 2) (s : State) : Outcome State Fault Refusal :=
  if k = 3 then s.illegal (.fence k sc)
  else if (k = 2 ∨ (s.myTile.accessesDone s.cur.core s.now ∧ (sc ≠ 3 ∨ s.hostFenced false))) ∧
      (k = 1 ∨ (s.myTile.commandsDone s.cur.core ∧ (sc ≠ 3 ∨ s.hostFenced true))) then .next s.stepOn
  else s.wait .fence

/-- A MARK as it stands in a FIFO: the `k`-th of its core, with number `n` (R229). -/
def markCmd (n k now : Nat) (pc : U64) (paired : Bool) : Cmd :=
  { op := 256,
    w := { h := { etype := 0, rnd := 0, sat := 0, nowb := 0, mask := 0, capN := 0, capEn := 0, x3 := 0, stamp := none,
                  lits := [] },
           ed := 0, es := 0, eh := 0, eb := 0, inc := 0, cvtType := 0, cvtRnd := 0, cvtSat := 0, had := 0, donePort := 0,
           doneEn := 0, xpEn := 0, xp := 0, twin := 0, count := 0 },
    pc := pc, ed := 0, es := 0, eh := 0, eb := 0, shape := 0, rows := [], rnd := 0, priv := 0, srcLock := [],
    dstLock := [], mark := n, paired := paired, issued := now, base := now, lead := 0, started := false, plan := [],
    next := k, trouble := none, flags := 0, lfsr := 1, fetched := [], doneQ := none, due := now, sent := false,
    late := false, faulted := false }

/-- The partner of a core's FIFO (R229). -/
def partnerOf : CoreId → CoreId
  | .L => .S
  | _ => .L

/-- MARK placed on the L-core or the S-core (R229, R273). -/
def State.placeMark (s : State) (f : Fifo) (n : Nat) : Outcome State Fault Refusal :=
  let t := s.myTile
  let other := partnerOf s.cur.core
  let k := s.me.marks + 1
  let mate := (t.fifo (match f with | .load => .store | .store => .load)).find? (fun m => m.op == 256 && m.next == k)
  if 32 ≤ (t.fifo f).length then s.wait .fifo
  else if mate.any (fun m => m.mark != n) then s.badOperand 1 n
  else
    let alone := (t.core other).run == .idle && decide ((t.core other).marks < k)
    let t := t.setFifo f (t.fifo f ++ [markCmd n k s.now s.me.pc alone])
    let t := if alone then t.setCore other { t.core other with marks := k } else t
    .next ((s.setMyTile t).mapMe (fun c => { c with marks := k })).stepOn

/-- MARK; on the X-core it has no effect beyond its clock (R229). -/
def execMark (n : BitVec 5) (s : State) : Outcome State Fault Refusal :=
  match s.cur.core with
  | .X => .next s.stepOn
  | .L => s.placeMark .load n.toNat
  | .S => s.placeMark .store n.toNat

/-- A deadline `dl` of SSTEP has come, by the origin in force (R232; notes/assumptions 123). -/
def State.sstepLate (s : State) (g dl : Nat) : Bool := decide (dl ≠ 0 ∧ (s.frameOrg g).toNat + dl ≤ s.now)

/-- SSTEP (R232): illegal in free mode; the core waits for the release, and has arrived once its accesses are performed
(R275). Issued at its deadline or later it misses at once. -/
def execSstep (a : BitVec 5) (s : State) : Outcome State Fault Refusal :=
  if s.datumTile s.cur.tile = false then s.illegal (.sstep a)
  else
    s.withRegs [(a.toNat, false)] fun _ v =>
      let dl := (val v 0).toNat
      let s := s.mapMe (fun k => { k with arrived := k.arrived || s.myTile.accessesDone s.cur.core s.now })
      if s.sstepLate s.cur.tile dl then s.miss 5 dl else s.wait (.sstep dl a.toNat)

/-- The origin a FRAME asks for (R230). -/
def State.askedOrigin (s : State) (a : BitVec 5) (x : U64) : Nat :=
  if a = 0 then (s.frameOrg s.cur.tile).toNat + s.myTile.task.frameLen.toNat else x.toNat

/-- FRAME, on the X-core only (R45, R230). -/
def execFrame (a : BitVec 5) (s : State) : Outcome State Fault Refusal :=
  if s.cur.core ≠ .X then s.illegal (.frame a)
  else
    s.withRegs [(a.toNat, false)] fun _ v =>
      let o := s.askedOrigin a (val v 0)
      if o < s.now + 64 then s.miss 0 0
      else
        match s.partOf s.cur.tile with
        | none => s.wait (.origin o a.toNat)
        | some (p, pt) =>
          if pt.pendOrg.any (fun q => q != o) then s.badOperand 1 a.toNat
          else State.wait { s with parts := Store.put s.parts p { pt with pendOrg := some o } } (.origin o a.toNat)

/-- WAITD (R231). -/
def execWaitd (a : BitVec 5) (s : State) : Outcome State Fault Refusal :=
  s.withRegs [(a.toNat, false)] fun s' v =>
    if (val v 0).toNat ≤ s.now then .next s'.stepOn else s.wait (.datum (val v 0).toNat a.toNat)

/-- WAITT (R231). -/
def execWaitt (a : BitVec 5) (s : State) : Outcome State Fault Refusal :=
  s.withRegs [(a.toNat, false)] fun s' v =>
    if (val v 0).toNat ≤ s.tai then .next s'.stepOn else s.wait (.tai (val v 0).toNat a.toNat)

/-- A context's card queue is full (R304). -/
def Ctx.queueFull (c : Ctx) : Bool := decide (2 ^ c.cfg.qlog ≤ (c.qTail - c.qHead).toNat)

/-- A card at `va` copied into the slot at the tail of a context's queue (R304). -/
def State.appendCard (s : State) (x : Nat) (c : Ctx) (va : U64) (bs : List Byte) : State :=
  let slot := c.qTail.toNat % 2 ^ c.cfg.qlog
  let s := s.setCtx x { c with qTail := c.qTail + 1, slotVa := Store.put c.slotVa slot va }
  s.writePhys (c.cfg.qbase + 128 * slot) bs

/-- The card that LAUNCH reads at an address (R233), or the fault it meets; of a peer's page its bytes are free. -/
def State.launchBytes (s : State) (k : Task) (ia va : Nat) : Except Nat (List Byte) :=
  match s.reach k.ctx k.twins ia with
  | .absent => .error 0x07
  | .peer _ => .ok (s.peerBytes va 128)
  | r =>
    match s.readReach r 128 with
    | some bs => .ok bs
    | none => .error 0x14

/-- LAUNCH, on the X-core only (R45, R233, R301, R304): it issues once the core's accesses are performed (R275), and the
core waits for the hub's acknowledge, with which the word has its effect (R208). -/
def execLaunch (d a : BitVec 5) (s : State) : Outcome State Fault Refusal :=
  if s.cur.core ≠ .X then s.illegal (.launch d a)
  else if s.myTile.accessesDone s.cur.core s.now = false then s.wait .fence
  else
    s.withRegs [(a.toNat, false), (d.toNat, true)] fun s' v =>
      let va := val v 0
      let k := s.myTile.task
      if va.toNat % 128 ≠ 0 then s.fault 0x0E va
      else
        match s.translate s.cur.tile k.windows va.toNat .read, s.ctx k.ctx with
        | .error e, _ => s.fault e va
        | .ok _, none => s.fault 0x06 va
        | .ok (ia, _), some c =>
          if s.datumTile s.cur.tile ∨ (regionOf ia ≠ 0 ∧ regionOf ia ≠ 2) then s.fault 0x06 va
          else
            match s.launchBytes k ia va.toNat with
            | .error e => s.fault e va
            | .ok bs => s.tick.atHub (s.now + 1 + Config.freeLatency s.fresh) (
                if c.queueFull then s.finish s' d.toNat 1 0 (s.me.pc + 4) s.now
                else s.finish (s'.appendCard k.ctx c va bs) d.toNat 0 0 (s.me.pc + 4) s.now)

end Sys2Proof.Machine
end

