-- ==== Sys2Proof/Machine/Operands.lean ====
section
/-!
DEFINITION. Operands of vector words (R33 to R38, R65, R126, R144), and the one shape in which every vector word runs
(R125, R127, R128, R143): checks, stamp, readiness, domain check, effect.
-/

namespace Sys2Proof.Machine

open Host (Outcome)

/-- An operand field as read by R33, or as a mask number (R135). -/
inductive Opnd
  | unused
  | vreg (n : Nat)
  | byp (n : Nat)
  | const (n : Nat)
  | scalar (n : Nat)
  | lane
  | lit (k : Nat)
  | walk (w post : Nat) (off : Int)
  | imm (p : Nat)
  | mask (n : Nat)
  deriving DecidableEq, Repr

/-- How a word uses an operand field (R129, R145); `t` is the element type the field is read or written with. -/
inductive Use
  | no
  | rd (t : Nat)
  | wr (t : Nat)
  | rw (t : Nat)
  /-- A vector register, written or read. -/
  | regWr (t : Nat)
  | regRd (t : Nat)
  | maskWr
  | maskRd
  /-- A control immediate, and a count, which may be a scalar (R144). -/
  | ctl
  | cnt
  /-- The scalar base and the index of VGATH and VSCAT (R158). -/
  | base
  | idx
  /-- The 16 lines that CBLD reads (R161). -/
  | image
  deriving DecidableEq, Repr

/-- The kinds of R33; none where the field is illegal. -/
def parseOpnd (lits f : Nat) : Option Opnd :=
  match bitsAt f 18 2 with
  | 0 => if bitsAt f 9 9 = 0 ∧ bitsAt f 0 9 < 384 then some (.vreg (bitsAt f 0 9)) else none
  | 1 =>
    match bitsAt f 15 3 with
    | 0 => if bitsAt f 3 12 = 0 then some (.byp (bitsAt f 0 3)) else none
    | 1 => if bitsAt f 8 7 = 0 then some (.const (bitsAt f 0 8)) else none
    | 2 =>
      if bitsAt f 5 10 = 0 ∧ 1 ≤ bitsAt f 0 5 ∧ bitsAt f 0 5 ≤ 27 then some (.scalar (bitsAt f 0 5)) else none
    | 3 => if bitsAt f 0 15 = 0 then some .lane else none
    | 4 => if bitsAt f 1 14 = 0 ∧ bitsAt f 0 1 < lits then some (.lit (bitsAt f 0 1)) else none
    | _ => none
  | 2 => if bitsAt f 12 2 = 3 then none else some (.walk (bitsAt f 14 4) (bitsAt f 12 2) (signed 12 (bitsAt f 0 12)))
  | _ => some (.imm (bitsAt f 0 18))

/-- An operand that gives every lane one value, against its type (R38, R126). -/
def sourceOk (pos t : Nat) : Opnd → Bool
  | .imm _ => pos == 2 && !(t == 5 || t == 6 || t == 7 || t == 8 || t == 14)
  | .lane => !(t == 5 || t == 14)
  | _ => true

/-- A mask number as an operand field (R135, R136). -/
def parseMask (f : Nat) (wr : Bool) : Option Opnd :=
  if bitsAt f 3 17 = 0 ∧ (wr = false ∨ bitsAt f 0 3 ≠ 0) then some (.mask (bitsAt f 0 3)) else none

/-- A field at position `pos` (0 D, 1 A, 2 B) under its use; none where it raises illegal operand (R33, R34, R144). -/
def Use.parse (u : Use) (pos lits f : Nat) : Option Opnd :=
  match u with
  | .no => if f = 0 then some .unused else none
  | .rd t => (parseOpnd lits f).filter (sourceOk pos t)
  | .wr _ => (parseOpnd lits f).filter (fun o => match o with | .vreg _ => true | .walk _ _ _ => true | _ => false)
  | .rw _ => (parseOpnd lits f).filter (fun o => match o with | .vreg _ => true | .walk _ _ _ => true | _ => false)
  | .regWr _ => (parseOpnd lits f).filter (fun o => match o with | .vreg _ => true | _ => false)
  | .regRd _ => (parseOpnd lits f).filter (fun o => match o with | .vreg _ => true | _ => false)
  | .maskWr => parseMask f true
  | .maskRd => parseMask f false
  | .ctl => (parseOpnd lits f).filter (fun o => match o with | .imm _ => true | _ => false)
  | .cnt => (parseOpnd lits f).filter (fun o => match o with | .imm _ => true | .scalar _ => true | _ => false)
  | .base => (parseOpnd lits f).filter (fun o => match o with | .scalar _ => true | _ => false)
  | .idx => (parseOpnd lits f).filter (fun o => match o with | .vreg _ => true | .byp _ => true | _ => false)
  | .image => (parseOpnd lits f).filter (fun o => match o with | .walk _ _ _ => true | _ => false)

/-- The element type of a use. -/
def Use.ty : Use → Nat
  | .rd t => t
  | .wr t => t
  | .rw t => t
  | .regWr t => t
  | .regRd t => t
  | .idx => 13
  | _ => 0

/-- Lines of an operand of type `t` (R35). -/
def typeLines (t : Nat) : Nat :=
  match typeBits t with
  | 32 => 4
  | 16 => 2
  | _ => 1

/-- Lines a use reaches through a strided operand (R35, R161). -/
def Use.lines (u : Use) : Nat := if u = .image then 16 else typeLines u.ty

/-- Fields of a walk register (R35). -/
def walkBase (w : U64) : Nat := bitsAt w.toNat 0 13
def walkStride (w : U64) : Int := signed 13 (bitsAt w.toNat 13 13)
def walkStep (w : U64) : Int := signed 13 (bitsAt w.toNat 26 13)
def walkWrap (w : U64) : Nat := bitsAt w.toNat 39 13

/-- A line `delta` lines after a walk's base (R35). -/
def walkAt (w : U64) (delta : Int) : Int :=
  let b := walkBase w
  let r := walkWrap w
  if r = 0 then b + delta
  else
    let o := b - b % r
    o + ((b - o : Nat) + delta) % r

/-- Line `k` of a strided operand (R35). -/
def walkLine (w : U64) (off : Int) (k : Nat) : Int := walkAt w (off + k * walkStride w)

/-- A walk register after its post-update (R36). -/
def walkPost (w : U64) (post n : Nat) : U64 :=
  match post with
  | 0 => w
  | 1 => BitVec.ofNat 64 (w.toNat - walkBase w + wrapTo 13 (walkAt w (walkStep w)))
  | _ => BitVec.ofNat 64 (w.toNat - walkBase w + wrapTo 13 (walkAt w (walkStride w * n)))

/-- The walk register an operand post-updates. -/
def Opnd.moved : Opnd → Option Nat
  | .walk w post _ => if post = 0 then none else some w
  | _ => none

/-- A latch an operand reads that has been lost: its valid bit is clear, and no capture into it is in flight (R33, R93). -/
def Tile.latchLost (t : Tile) (now : Nat) : Opnd → Bool
  | .byp n => !t.xr.bypValid.contains n && !t.x.pending now (.byp n)
  | _ => false

/-- Two operands move the same walk register (R36). -/
def clash (o p : Opnd) : Bool := o.moved.isSome && o.moved == p.moved

/-- The operand fields of a vector word. -/
structure Fields where
  d : Opnd
  a : Opnd
  b : Opnd
  deriving DecidableEq, Repr

/-- Check 7 of R23 over D, A and B: the fields, or the position of the first illegal one. -/
def checkFields (lost : Opnd → Bool) (ctlOk : Nat → Bool) (lits : Nat) (ud ua ub : Use) (w : VWord) :
    Except Nat Fields :=
  match ud.parse 0 lits w.d.toNat with
  | none => .error 0
  | some d =>
    match ua.parse 1 lits w.a.toNat with
    | none => .error 1
    | some a =>
      if lost a || clash d a then .error 1
      else
        match ub.parse 2 lits w.b.toNat with
        | none => .error 2
        | some b =>
          let ctl := match b with
            | .imm p => ctlOk p
            | _ => true
          if lost b || clash d b || clash a b || !ctl then .error 2 else .ok ⟨d, a, b⟩

/-- Field `pos` of a word. -/
def fieldOf (w : VWord) (pos : Nat) : Nat :=
  match pos with
  | 0 => w.d.toNat
  | 1 => w.a.toNat
  | _ => w.b.toNat

/-- A mask register; m0 is all ones (R34). -/
def XRes.mask (x : XRes) (n : Nat) : Nat := if n = 0 then 2 ^ 64 - 1 else (Store.get 0 x.m n).toNat

/-- A walk register. -/
def XRes.walk (x : XRes) (n : Nat) : U64 := Store.get 0 x.w n

/-- The lines of a strided operand; none of any other. -/
def XRes.opndLines (x : XRes) (o : Opnd) (n : Nat) : List Int :=
  match o with
  | .walk w _ off => (List.range n).map (fun k => walkLine (x.walk w) off k)
  | _ => []

/-- A vector register's lane, the bits above the element ignored (R65). -/
def XRes.lane (x : XRes) (n j : Nat) : Nat := (Store.get 0 x.v (64 * n + j)).toNat

/-- An FP32 pattern as an element of a type (R38, R126): converted to a narrow float, else its low bits. -/
def constElem (t bits : Nat) : Nat :=
  if typeFloat t ∧ t ≠ 5 ∧ typeBits t < 32 then (roundTo (f32 bits) (slotType t) 0 false 0).1
  else bits % 2 ^ typeBits t

/-- A lane index as an element (R126). -/
def laneElem (t j : Nat) : Nat := if typeFloat t then (roundTo (.ofInt j) (slotType t) 0 false 0).1 else j

/-- An immediate as an element (R38). -/
def immElem (t p : Nat) : Nat :=
  if typeFloat t then constElem t (p % 2 ^ 18 * 2 ^ 14) else wrapTo (typeBits t) (signed 18 p)

/-- The elements of type `t` of consecutive lines (R37). -/
def lineElems (t : Nat) (bytes : List Byte) (n : Nat) : List Nat :=
  let v := leNat bytes
  (List.range n).map (fun j => bitsAt v (j * typeBits t) (typeBits t))

/-- The 64 elements of an operand read with type `t` (R33, R37, R65, R126). -/
def Tile.elems (t : Tile) (lits : List U32) (ty : Nat) (o : Opnd) : List Nat :=
  let m := 2 ^ typeBits ty
  let all := fun (v : Nat) => List.replicate 64 v
  match o with
  | .vreg n => (List.range 64).map (fun j => t.xr.lane n j % m)
  | .byp n => (List.range 64).map (fun j => (Store.get 0 t.xr.byp (64 * n + j)).toNat % m)
  | .const n => all (constElem ty (Store.get 0 t.xr.c n).toNat)
  | .scalar n => all ((t.x.reg n).toNat % m)
  | .lane => (List.range 64).map (laneElem ty)
  | .lit k => all ((lits.getD k 0).toNat % m)
  | .walk _ _ _ => lineElems ty ((t.xr.opndLines o (typeLines ty)).map t.line).flatten 64
  | .imm p => all (immElem ty p)
  | .mask n => (List.range 64).map (fun j => bit (t.xr.mask n) j)
  | .unused => []

/-- A line with the elements from lane `first` on that are written (R37, R125). -/
def patchLine (ty : Nat) (old : List Byte) (first : Nat) (new : List Nat) (wr : List Bool) : List Byte :=
  let w := typeBits ty
  leBytes 64 ((List.range (min 64 (512 / w))).foldl (fun v j =>
    if wr.getD (first + j) false then v - bitsAt v (j * w) w * 2 ^ (j * w) + new.getD (first + j) 0 % 2 ^ w * 2 ^ (j * w)
    else v) (leNat old))

/-- Elements written to a destination: the lanes that `wr` marks (R125, R65). -/
def Tile.putElems (t : Tile) (ty : Nat) (o : Opnd) (new : List Nat) (wr : List Bool) : Tile :=
  match o with
  | .vreg n =>
    let put := fun (v : Store U32) (j : Nat) =>
      if wr.getD j false then Store.set 0 v (64 * n + j) (BitVec.ofNat 32 (new.getD j 0 % 2 ^ typeBits ty)) else v
    { t with xr := { t.xr with v := (List.range 64).foldl put t.xr.v } }
  | .walk _ _ _ =>
    (List.range (typeLines ty)).foldl (fun t' k =>
      let l := (t.xr.opndLines o (typeLines ty)).getD k 0
      t'.setLine l (patchLine ty (t'.line l) (k * min 64 (512 / typeBits ty)) new wr)) t
  | .mask n =>
    let add := fun (v j : Nat) => if wr.getD j false then v + new.getD j 0 % 2 * 2 ^ j else v
    { t with xr := { t.xr with m := Store.set 0 t.xr.m n (BitVec.ofNat 64 ((List.range 64).foldl add 0)) } }
  | _ => t

/-- The resource an operand reads (R91). -/
def Opnd.reads : Opnd → List Res
  | .vreg n => [.v n]
  | .byp n => [.byp n]
  | .const _ => [.consts]
  | .scalar n => [.s n]
  | .mask n => if n = 0 then [] else [.m n]
  | _ => []

/-- The resource a destination writes (R91). -/
def Opnd.writes : Opnd → List Res
  | .vreg n => [.v n]
  | .mask n => [.m n]
  | _ => []

/-- The use reads its field. -/
def Use.isRead : Use → Bool
  | .no => false
  | .wr _ => false
  | .regWr _ => false
  | .maskWr => false
  | _ => true

/-- What a vector word delivers: the new elements, the lanes of D it writes, its flags, and the LFSRs after it. -/
structure VOut where
  new   : List Nat
  wr    : List Bool
  flags : Flags
  lfsr  : List U32
  deriving DecidableEq, Repr

/-- How a vector word differs from others: `ok5` is its part of check 5; `domain` says whether a spectral line (true) or a
time line (false) faults (R128, R146); `lfsr` whether it uses the lane LFSRs always (some true) or in SR mode (some false);
`book` is the codebook table it reads (R151); `raises` whether it may raise a flag (R124). -/
structure VPlan where
  ok5    : Bool
  ud     : Use
  ua     : Use
  ub     : Use
  ctlOk  : Nat → Bool
  lat    : Nat
  domain : Option Bool
  lfsr   : Option Bool
  book   : Option Nat
  run    : VIn → VOut
  raises : Bool := true

/-- A vector word steps or reads the lane LFSRs: some always, others in SR mode (R80). -/
def VPlan.usesLfsr (p : VPlan) (rm : Nat) : Bool := p.lfsr == some true || (p.lfsr == some false && rm == 5)

/-- The rounding code in force (R76): FRM for DYN, read at issue. -/
def Core.rounding (k : Core) (rnd : Nat) : Nat := if rnd = 6 then k.frm.toNat else rnd

/-- The active lanes of a mask value. -/
def lanesOf (m : Nat) : List Bool := (List.range 64).map (fun j => decide (bit m j = 1))

/-- A condition that a word does not meet at issue: it waits in free mode, and is a schedule miss in datum mode (R91,
R101). -/
def State.notYet (s : State) (stamp : Option (BitVec 30)) (reason : Nat) (w : Wait) : Outcome State Fault Refusal :=
  if s.datumTile s.cur.tile then s.miss reason (stamp.getD 0).toNat else s.wait w

/-- The stamp of a long word (R99 to R101): in datum mode it is held until its clock, missed where that has passed or lies
beyond the frame, and goes on in its clock; in free mode a stamp is ignored (R27). -/
def State.atStamp (s : State) (stamp : Option (BitVec 30)) (go : Outcome State Fault Refusal) :
    Outcome State Fault Refusal :=
  if s.datumTile s.cur.tile then
    let st := (stamp.getD 0).toNat
    let t := s.me.held.getD ((s.frameOrg s.cur.tile).toNat + st)
    if t < s.now then s.miss 0 st
    else if s.me.held = none ∧ s.myTile.task.frameLen.toNat ≤ st then s.miss 1 st
    else if s.now < t then (s.mapMe (fun k => { k with held := some t })).wait (.stamp t)
    else go
  else go

/-- A long word that datum mode refuses at check 5: it carries no stamp (R27). -/
def State.unstamped (s : State) (stamp : Option (BitVec 30)) : Bool := s.datumTile s.cur.tile && stamp.isNone

/-- Lines in range. -/
def linesIn (ls : List Int) : List Nat := (ls.filter inRange).map Int.toNat

/-- A vector word in flight is a VSCAT. -/
def VJob.scatters (j : VJob) : Bool := match j.word with | .vscat _ => true | _ => false

/-- A line of a later word of the X-core is one that an earlier vector word has yet to write (R127, R159): lines that it reads,
of any such word; lines that it writes, of VSCAT. -/
def Tile.lineOwed (t : Tile) (now : Nat) (rd wr : List Int) : Bool :=
  t.vjobs.any (fun j => decide (j.issued < now) && (rd.any j.owes || (j.scatters && wr.any j.owes)))

/-- A vector word's lines are pending (R127, R142, R159, R270): earlier vector words have yet to write them, or it reads one that
an earlier M-format word has yet to write. -/
def Tile.linesPending (t : Tile) (now : Nat) (rd wr : List Int) : Bool :=
  t.lineOwed now rd wr || t.mopen.any (fun m => decide (m.issued < now) && rd.any m.fills)

/-- The lines of a task that break a domain rule (R128, R146, R256): a line in no parcel is not checked. -/
def Task.domainBroken (k : Task) (spectral : Bool) (ls : List Int) : Bool :=
  ls.any (fun l => (k.parcelOf l).isSome && k.lineSpectral l == spectral)

/-- The first operand, in field order, that breaks the domain rule. -/
def domainField (k : Task) (dom : Option Bool) (d a b : List Int) : Option Nat :=
  match dom with
  | none => none
  | some sp =>
    if k.domainBroken sp d then some 0 else if k.domainBroken sp a then some 1 else if k.domainBroken sp b then some 2 else none

/-- Walk post-updates of an operand (R36). -/
def XRes.post (x : XRes) (o : Opnd) (n : Nat) : XRes :=
  match o with
  | .walk w p _ => { x with w := Store.set 0 x.w w (walkPost (x.walk w) p n) }
  | _ => x

/-- The lines of one request set touched: of those out of range the lowest is latched (R35, R252; notes/assumptions 88). -/
def Tile.touchLines (t : Tile) (now rank : Nat) (ls : List Int) : Tile :=
  match (ls.filter (fun l => !inRange l)).min? with
  | some l => t.touch now rank l
  | none => t

/-- Line grants charged (R346): one per line in range. -/
def State.chargeLines (s : State) (g : Nat) (ls : List Int) : State :=
  if (linesIn ls).isEmpty then s else s.charge g 10 (linesIn ls).length

/-- The weight class of a vector word by its latency (R346). -/
def vectorWeight (lat : Nat) : Nat := if lat = 2 then 2 else if lat < 10 then 3 else 4

/-- Where the codebook or constant readers are recorded, for CBLD to wait for (R162). -/
def readerRes (f : Fields) (book : Option Nat) : List Res :=
  (if [f.d, f.a, f.b].any (fun o => match o with | .const _ => true | _ => false) then [Res.readConsts] else [])
    ++ (match book with | some t => [Res.readBook t] | none => [])

/-- The full value of a scalar or control field (R144). -/
def Core.fieldValue (k : Core) : Opnd → U64
  | .scalar n => k.reg n
  | .imm p => BitVec.ofNat 64 p
  | _ => 0

/-- What the latch holds after a capture (R93, R125). -/
def captured (nowb : Bool) (o : VOut) (d : List Nat) : List U32 :=
  (List.range 64).map (fun j =>
    BitVec.ofNat 32 (if o.wr.getD j false then o.new.getD j 0 else if nowb then 0 else d.getD j 0))

/-- The address after a long word. -/
def State.afterLong (s : State) (h : VHead) : U64 :=
  s.me.pc + 4 * BitVec.ofNat 64 (3 + (if h.stamp.isSome then 1 else 0) + h.lits.length)

/-- The elements of an operand from the lines read of it (R35, R37): a line out of range supplies zero. -/
def VJob.elems (j : VJob) (op ty n : Nat) : List Nat :=
  lineElems ty ((List.range (j.reads.find? (·.1 == op) |>.elim 0 (fun r => r.2.length))).map (fun k =>
    leBytes 64 ((j.got.find? (fun g => g.1 == op && g.2.1 == k)).elim 0 (fun g => g.2.2)))).flatten n

/-- What a word with lines computes with once they are read. -/
def VJob.input (j : VJob) (p : VPlan) : VIn :=
  let from_ := fun (op ty : Nat) (xs : List Nat) => if j.reads.any (·.1 == op) then j.elems op ty 64 else xs
  { j.vin with d := from_ 0 p.ud.ty j.vin.d, a := from_ 1 p.ua.ty j.vin.a, b := from_ 2 p.ub.ty j.vin.b }

/-- A word in flight gets its result: flags, and the capture where the latches have not been lost since its issue (R93). -/
def Pend.result (p : Pend) (flags : BitVec 5) (cap : Option (Nat × List U32)) : Pend :=
  { p with flags := flags, cap := if p.res.any Res.isLatch then cap else none }

/-- The word in flight that made its requests in clock `issued`. -/
def Pend.askedAt (p : Pend) (issued : Nat) : Bool :=
  match p.asks with
  | some a => a.1 == issued
  | none => false

/-- A change to that word of a core. -/
def Core.mapAsked (k : Core) (issued : Nat) (f : Pend → Pend) : Core :=
  { k with pend := k.pend.map (fun p => if p.askedAt issued then f p else p) }

/-- The requests of a vector word: for its destination's lines, and for those of its sources (R95, R127). -/
def lineAsks (reads : List (Nat × List Int)) (writes : List Int) : List (Int × BankAct) :=
  writes.mapIdx (fun k l => (l, BankAct.give k)) ++
    (reads.map (fun r => r.2.mapIdx (fun k l => (l, BankAct.take r.1 k)))).flatten

/-- A vector word that reaches lines leaves its requests at the banks (R127). Datum mode has served them within `slack`
clocks; `out` is a result that does not wait for them, `walks` the walk registers that it has advanced (R128). -/
def Tile.startJob (t : Tile) (now slack lat : Nat) (i : Instr) (v : VIn) (reads : List (Nat × List Int)) (writes : List Int)
    (pc : U64) (out : Option (Nat × List Nat × List Bool) := none) (walks : List (Nat × U64 × U64) := []) : Tile :=
  let j : VJob := { issued := now, word := i, vin := v, reads := reads, writes := writes, got := [], given := [],
                    todo := ((List.range writes.length).filter (fun k => inRange (writes.getD k (-1)))), lat := lat, out := out,
                    walks := walks }
  let t := t.touchLines now rankVector ((reads.map (fun r => r.2)).flatten ++ writes)
  { t.ask now rankVector slack (lineAsks reads writes) pc with vjobs := t.vjobs ++ [j] }

/-- The walk registers that differ: number, value before, value after (R36, R128). -/
def XRes.walksTo (x y : XRes) : List (Nat × U64 × U64) :=
  ((List.range 16).map (fun n => (n, x.walk n, y.walk n))).filter (fun e => e.2.1 != e.2.2)

/-- The effect of a vector word that issues (R125): where it reaches a line in range, what its lines hold comes when the banks
grant them. `readD` tells whether D is read; `rd` are the strided operands read, `wl` the lines written. -/
def State.vectorEffect (s : State) (i : Instr) (w : VWord) (p : VPlan) (f : Fields) (readD : Bool)
    (rd : List (Nat × List Int)) (wl : List Int) (lat : Nat) (res : List Res) : State :=
  let t := s.myTile
  let k := s.me
  let els := fun (u : Use) (o : Opnd) => t.elems w.h.lits u.ty o
  let d := if readD then els p.ud f.d else []
  let v : VIn := { act := lanesOf (t.xr.mask w.h.mask.toNat), a := els p.ua f.a, b := els p.ub f.b, d := d,
                   bx := k.fieldValue f.b, rm := k.rounding w.h.rnd.toNat, sat := decide (w.h.sat = 1), lfsr := t.xr.lfsr }
  let lines := (rd.map (fun r => r.2)).flatten ++ wl
  let x := ((t.xr.post f.d p.ud.lines).post f.a p.ua.lines).post f.b p.ub.lines
  let pend : Pend := { res := res, due := s.now + lat, flags := 0, cap := none, ew := (vectorWeight p.lat, 1),
                       asks := some (s.now, lat) }
  if (linesIn lines).isEmpty then
    let o := p.run v
    let t := t.touchLines s.now rankVector lines
    let t := if w.h.nowb = 1 then t else t.putElems p.ud.ty f.d o.new o.wr
    let t := { t with xr := { t.xr with w := x.w, lfsr := if p.usesLfsr v.rm then o.lfsr else t.xr.lfsr } }
    let cap := if w.h.capEn = 1 then some (w.h.capN.toNat, captured (w.h.nowb = 1) o d) else none
    (s.setMyTile t).issue (s.afterLong w.h) (s.now + 1) (pend.result o.flags cap)
  else
    let t := { t.startJob s.now lineSlack lat i v rd wl k.pc (walks := t.xr.walksTo x) with xr := x }
    (s.setMyTile t).issue (s.afterLong w.h) (s.now + 1) pend

/-- The word may issue: readiness and domains in this order (R91, R101, R127, R128), then the effect. -/
def State.vectorIssue (s : State) (i : Instr) (w : VWord) (p : VPlan) (f : Fields) : Outcome State Fault Refusal :=
  let t := s.myTile
  let nowb := w.h.nowb = 1
  let readD := p.ud.isRead || (w.h.capEn == 1 && !decide nowb && w.h.mask != 0 && p.ud != .no)
  let dl := t.xr.opndLines f.d p.ud.lines
  let al := t.xr.opndLines f.a p.ua.lines
  let bl := t.xr.opndLines f.b p.ub.lines
  let rd := [(0, if readD then dl else []), (1, al), (2, bl)].filter (fun (r : Nat × List Int) => !r.2.isEmpty)
  let wl := if nowb ∨ p.ud = .no then [] else dl
  let sr := p.usesLfsr (s.me.rounding w.h.rnd.toNat)
  let srcs := f.a.reads ++ f.b.reads ++ (if readD then f.d.reads else [])
    ++ (if w.h.mask = 0 then [] else [Res.m w.h.mask.toNat]) ++ (if sr then [Res.lfsr] else [])
    ++ (match p.book with | some n => [Res.book n] | none => [])
  let dsts := (if nowb then [] else f.d.writes) ++ (if w.h.capEn = 1 then [Res.byp w.h.capN.toNat] else [])
    ++ (if sr then [Res.lfsr] else [])
  if (srcs ++ dsts).any (s.me.pending s.now) || t.linesPending s.now (rd.map (fun r => r.2)).flatten wl then
    s.notYet w.h.stamp 2 .res
  else
    match domainField t.task p.domain dl al bl with
    | some pos => s.fault 0x0C (operandTval pos (fieldOf w pos))
    | none =>
      .next (s.vectorEffect i w p f readD rd wl (if rd.isEmpty then p.lat else p.lat + 4)
        (dsts ++ (if p.raises then [Res.fflags] else []) ++ readerRes f p.book))

/-- Checks 5 to 7 of a V-format word of the X-core, its stamp, and then `go` with its fields (R23, R128). -/
def State.longWord (s : State) (i : Instr) (w : VWord) (p : VPlan) (go : Fields → Outcome State Fault Refusal) :
    Outcome State Fault Refusal :=
  if p.ok5 = false ∨ s.unstamped w.h.stamp ∨ s.cur.core ≠ .X then s.illegal i
  else
    match checkFields (s.myTile.latchLost s.now) p.ctlOk w.h.lits.length p.ud p.ua p.ub w with
    | .error pos => s.badOperand pos (fieldOf w pos)
    | .ok f => s.atStamp w.h.stamp (go f)

/-- A vector word (R125, R128, R143). -/
def State.vectorWord (s : State) (i : Instr) (w : VWord) (p : VPlan) : Outcome State Fault Refusal :=
  s.longWord i w p (s.vectorIssue i w p)

/-- A register destination with a result, and a destination's lines left for the banks (R125). -/
def Tile.jobResult (t : Tile) (j : VJob) (p : VPlan) (w : VWord) (d : Opnd) (now : Nat) : Tile :=
  let v := j.input p
  let o := p.run v
  let cap := if w.h.capEn = 1 then some (w.h.capN.toNat, captured (w.h.nowb = 1) o v.d) else none
  let done := (t.x.pend.find? (·.askedAt j.issued)).elim (now + 1) (fun q => q.due)
  let t := if j.writes.isEmpty && w.h.nowb != 1 then t.putElems p.ud.ty d o.new o.wr else t
  let steps := p.usesLfsr j.vin.rm
  let t := if steps then { t with xr := { t.xr with lfsr := o.lfsr } } else t
  let t := { t with x := t.x.mapAsked j.issued (fun q => q.result o.flags cap) }
  t.mapJob j.issued (fun j => { j with out := some (done, o.new, o.wr), steps := if steps then some o.lfsr else none })

end Sys2Proof.Machine
end

