-- ==== Sys2Proof/Machine/VecFloat.lean ====
section
/-!
DEFINITION. The floating-point element words, compares and mask words (R129 to R137).
-/

namespace Sys2Proof.Machine

open Host (Outcome)

/-- Every lane of a word's operands given to `f`, with the LFSR state after the step that an SR word makes before it
rounds an active lane's element (R81, R125): `steps` tells whether the word rounds. -/
def VIn.lanes (i : VIn) (steps : Bool) (f : Nat → U32 → Nat × Flags) : VOut :=
  let next := fun (j : Nat) =>
    let l := i.lfsr.getD j 1
    if i.act.getD j false && steps && i.rm == 5 then lfsrStep l else l
  let r := (List.range 64).map (fun j => if i.act.getD j false then f j (next j) else (0, 0))
  { new := r.map (fun e => e.1), wr := i.act, flags := r.foldl (fun g e => g ||| e.2) 0,
    lfsr := (List.range 64).map next }

/-- Element `j` of A, B and D as exact values. -/
def VIn.va (i : VIn) (t j : Nat) : FVal := decodeFloat t (i.a.getD j 0)
def VIn.vb (i : VIn) (t j : Nat) : FVal := decodeFloat t (i.b.getD j 0)
def VIn.vd (i : VIn) (t j : Nat) : FVal := decodeFloat t (i.d.getD j 0)

/-- A word that forms one exact value per lane and rounds it once (R130). -/
def roundedLanes (t : Nat) (x : VIn → Nat → FVal × Flags) (i : VIn) : VOut :=
  i.lanes true fun j l =>
    let v := x i j
    let r := roundTo v.1 t i.rm i.sat l
    (r.1, r.2 ||| v.2)

/-- Head fields of a floating-point element word (R50). -/
def floatHead (h : VHead) : Bool := decide (h.etype.toNat ≤ 2) && h.rnd != 7 && h.x3 == 0

/-- The type of a word. -/
def typeOf (w : VWord) : Nat := w.h.etype.toNat

/-- A floating-point word (R128 to R130): it refuses spectral lines. -/
def floatPlan (w : VWord) (ud ua ub : Use) (lat : Nat) (lfsr : Option Bool) (run : VIn → VOut) : VPlan :=
  { ok5 := floatHead w.h, ud := ud, ua := ua, ub := ub, ctlOk := fun _ => true, lat := lat, domain := some true,
    lfsr := lfsr, book := none, run := run }

/-- A word of two sources that rounds (R130). -/
def float2 (w : VWord) (lat : Nat) (x : VIn → Nat → FVal × Flags) : VPlan :=
  let t := typeOf w
  (floatPlan w (.wr t) (.rd t) (.rd t) lat (some false) (roundedLanes t x))

/-- A fused word, which reads D too (R130). -/
def float3 (w : VWord) (x : VIn → Nat → FVal × Flags) : VPlan :=
  let t := typeOf w
  (floatPlan w (.rw t) (.rd t) (.rd t) 4 (some false) (roundedLanes t x))

/-- A word of one source that rounds (R130, R132). -/
def float1 (w : VWord) (lat : Nat) (x : VIn → Nat → FVal × Flags) : VPlan :=
  let t := typeOf w
  (floatPlan w (.wr t) (.rd t) .no lat (some false) (roundedLanes t x))

/-- A word of one source that does not round (R131, R134). -/
def exact1 (w : VWord) (lat : Nat) (f : Nat → Nat × Flags) : VPlan :=
  let t := typeOf w
  (floatPlan w (.wr t) (.rd t) .no lat none (fun v => v.lanes false fun j _ => f (v.a.getD j 0)))

/-- A word of two sources that does not round (R131). -/
def exact2 (w : VWord) (f : Nat → Nat → Nat × Flags) : VPlan :=
  let t := typeOf w
  (floatPlan w (.wr t) (.rd t) (.rd t) 2 none
    (fun v => v.lanes false fun j _ => f (v.a.getD j 0) (v.b.getD j 0)))

/-- The exact product of lane `j` with its flags, its sign changed where `neg` holds, plus a term (R130). -/
def fusedTerm (rm : Nat) (a b d : FVal) (neg : Bool) : FVal × Flags :=
  let p := a.mul b
  let r := exactSum [if neg then p.1.neg else p.1, d] rm
  (r.1, r.2 ||| p.2)

def planVadd (w : VWord) : VPlan :=
  float2 w 4 fun i j => exactSum [i.va (typeOf w) j, i.vb (typeOf w) j] i.rm

def execVadd (w : VWord) (s : State) : Outcome State Fault Refusal := s.vectorWord (.vadd w) w (planVadd w)

def planVsub (w : VWord) : VPlan :=
  float2 w 4 fun i j => exactSum [i.va (typeOf w) j, (i.vb (typeOf w) j).neg] i.rm

def execVsub (w : VWord) (s : State) : Outcome State Fault Refusal := s.vectorWord (.vsub w) w (planVsub w)

def planVmul (w : VWord) : VPlan :=
  float2 w 4 fun i j => (i.va (typeOf w) j).mul (i.vb (typeOf w) j)

def execVmul (w : VWord) (s : State) : Outcome State Fault Refusal := s.vectorWord (.vmul w) w (planVmul w)

def planVfma (w : VWord) : VPlan :=
  float3 w fun i j => fusedTerm i.rm (i.va (typeOf w) j) (i.vb (typeOf w) j) (i.vd (typeOf w) j) false

def execVfma (w : VWord) (s : State) : Outcome State Fault Refusal := s.vectorWord (.vfma w) w (planVfma w)

def planVfms (w : VWord) : VPlan :=
  float3 w fun i j => fusedTerm i.rm (i.va (typeOf w) j) (i.vb (typeOf w) j) (i.vd (typeOf w) j).neg false

def execVfms (w : VWord) (s : State) : Outcome State Fault Refusal := s.vectorWord (.vfms w) w (planVfms w)

def planVfnma (w : VWord) : VPlan :=
  float3 w fun i j => fusedTerm i.rm (i.va (typeOf w) j) (i.vb (typeOf w) j) (i.vd (typeOf w) j) true

def execVfnma (w : VWord) (s : State) : Outcome State Fault Refusal := s.vectorWord (.vfnma w) w (planVfnma w)

def planVdiv (w : VWord) : VPlan :=
  float2 w 24 fun i j => (i.va (typeOf w) j).div (i.vb (typeOf w) j)

def execVdiv (w : VWord) (s : State) : Outcome State Fault Refusal := s.vectorWord (.vdiv w) w (planVdiv w)

def planVsqrt (w : VWord) : VPlan :=
  float1 w 24 fun i j => (i.va (typeOf w) j).sqrt

def execVsqrt (w : VWord) (s : State) : Outcome State Fault Refusal := s.vectorWord (.vsqrt w) w (planVsqrt w)

def planVrcp (w : VWord) : VPlan :=
  float1 w 10 fun i j => fnRcp (i.va (typeOf w) j)

def execVrcp (w : VWord) (s : State) : Outcome State Fault Refusal := s.vectorWord (.vrcp w) w (planVrcp w)

def planVrsq (w : VWord) : VPlan :=
  float1 w 10 fun i j => fnRsq (i.va (typeOf w) j)

def execVrsq (w : VWord) (s : State) : Outcome State Fault Refusal := s.vectorWord (.vrsq w) w (planVrsq w)

def planVfexp2 (w : VWord) : VPlan :=
  float1 w 10 fun i j => fnExp2 (i.va (typeOf w) j)

def execVfexp2 (w : VWord) (s : State) : Outcome State Fault Refusal := s.vectorWord (.vfexp2 w) w (planVfexp2 w)

def planVflog2 (w : VWord) : VPlan :=
  float1 w 10 fun i j => fnLog2 i.rm (i.va (typeOf w) j)

def execVflog2 (w : VWord) (s : State) : Outcome State Fault Refusal := s.vectorWord (.vflog2 w) w (planVflog2 w)

/-- The lesser or the greater of two elements, −0 below +0 (R131). -/
def pickElem (t : Nat) (greater : Bool) (x y : Nat) : Nat × Flags :=
  let a := decodeFloat t x
  let b := decodeFloat t y
  if a.isNan || b.isNan then (nanCode t, flNV)
  else if (FVal.below true a b) != greater then (x, 0) else (y, 0)

def planVmin (w : VWord) : VPlan := exact2 w (pickElem (typeOf w) false)

def execVmin (w : VWord) (s : State) : Outcome State Fault Refusal := s.vectorWord (.vmin w) w (planVmin w)

def planVmax (w : VWord) : VPlan := exact2 w (pickElem (typeOf w) true)

def execVmax (w : VWord) (s : State) : Outcome State Fault Refusal := s.vectorWord (.vmax w) w (planVmax w)

/-- The sign bit cleared (R131). -/
def clearSign (t x : Nat) : Nat := x % 2 ^ (typeBits t - 1)

/-- The sign bit inverted (R131). -/
def flipSign (t x : Nat) : Nat := (x + 2 ^ (typeBits t - 1)) % 2 ^ typeBits t

def planVabs (w : VWord) : VPlan :=
  { exact1 w 2 (fun x => (clearSign (typeOf w) x, 0)) with raises := false }

def execVabs (w : VWord) (s : State) : Outcome State Fault Refusal := s.vectorWord (.vabs w) w (planVabs w)

def planVneg (w : VWord) : VPlan :=
  { exact1 w 2 (fun x => (flipSign (typeOf w) x, 0)) with raises := false }

def execVneg (w : VWord) (s : State) : Outcome State Fault Refusal := s.vectorWord (.vneg w) w (planVneg w)

/-- An exact value's bits in a type that holds it. -/
def exactBits (t : Nat) (x : FVal) : Nat := (roundTo x t 0 false 0).1

/-- A value rounded to an integral value of its type, with its sign (R133). -/
def roundIntegral (t bits rm : Nat) (sr : U32) : Nat × Flags :=
  match decodeFloat t bits with
  | .nan => (nanCode t, flNV)
  | .inf _ => (bits, 0)
  | .fin n m e _ => (exactBits t (.fin n (onGrid n m e false 0 rm sr).2.1 0 false), 0)

def planVrndi (w : VWord) : VPlan :=
  let t := typeOf w
  (floatPlan w (.wr t) (.rd t) .no 4 (some false)
    (fun i => i.lanes true fun j l => roundIntegral t (i.a.getD j 0) i.rm l))

def execVrndi (w : VWord) (s : State) : Outcome State Fault Refusal := s.vectorWord (.vrndi w) w (planVrndi w)

/-- A finite value truncated toward zero and held to ±2,000 (R133). -/
def scaleCount (n : Bool) (m : Nat) (e : Int) : Int :=
  let v := min 2000 (if 0 ≤ e then m * 2 ^ e.toNat else m / 2 ^ (-e).toNat)
  if n then -(v : Int) else v

/-- VSCALB's table (R133). -/
def scalbLane (t x y rm : Nat) (sat : Bool) (sr : U32) : Nat × Flags :=
  let a := decodeFloat t x
  match a, decodeFloat t y with
  | .nan, _ => (nanCode t, flNV)
  | _, .nan => (nanCode t, flNV)
  | .inf _, .inf true => (nanCode t, flNV)
  | .inf _, _ => (x, 0)
  | .fin n m _ _, .inf false => if m = 0 then (nanCode t, flNV) else narrowInf t n sat
  | .fin n _ _ _, .inf true => (withSign t n 0, 0)
  | _, .fin k p f _ => roundTo (a.scale (scaleCount k p f)) t rm sat sr

def planVscalb (w : VWord) : VPlan :=
  let t := typeOf w
  (floatPlan w (.wr t) (.rd t) (.rd t) 4 (some false)
    (fun i => i.lanes true fun j l => scalbLane t (i.a.getD j 0) (i.b.getD j 0) i.rm i.sat l))

def execVscalb (w : VWord) (s : State) : Outcome State Fault Refusal := s.vectorWord (.vscalb w) w (planVscalb w)

/-- VGETEXP (R134). -/
def expElem (t x : Nat) : Nat × Flags :=
  match decodeFloat t x with
  | .nan => (nanCode t, flNV)
  | .inf _ => (exactBits t (.inf false), 0)
  | .fin _ m e _ => if m = 0 then (exactBits t (.inf true), flDZ) else (exactBits t (.ofInt (Nat.log2 m + e)), 0)

def planVgetexp (w : VWord) : VPlan :=
  exact1 w 4 fun x => expElem (typeOf w) x

def execVgetexp (w : VWord) (s : State) : Outcome State Fault Refusal := s.vectorWord (.vgetexp w) w (planVgetexp w)

/-- VGETMANT (R134). -/
def mantElem (t x : Nat) : Nat × Flags :=
  match decodeFloat t x with
  | .nan => (nanCode t, flNV)
  | .inf _ => (nanCode t, flNV)
  | .fin n m _ _ => if m = 0 then (x, 0) else (exactBits t (.fin n m (-(Nat.log2 m : Int)) false), 0)

def planVgetmant (w : VWord) : VPlan :=
  exact1 w 4 fun x => mantElem (typeOf w) x

def execVgetmant (w : VWord) (s : State) : Outcome State Fault Refusal := s.vectorWord (.vgetmant w) w (planVgetmant w)

/-- VCLASS's bit (R134). -/
def classBit (t x : Nat) : Nat :=
  match decodeFloat t x with
  | .nan => 8
  | .inf n => if n then 0 else 7
  | .fin n m _ _ =>
    if m = 0 then (if n then 3 else 4)
    else if bitsAt x (fracBits t) (expBits t) = 0 then (if n then 2 else 5)
    else (if n then 1 else 6)

def planVclass (w : VWord) : VPlan :=
  { exact1 w 4 (fun x => (2 ^ classBit (typeOf w) x, 0)) with raises := false }

def execVclass (w : VWord) (s : State) : Outcome State Fault Refusal := s.vectorWord (.vclass w) w (planVclass w)

/-- The type codes of R50's VMOV row. -/
def moveType (t : Nat) : Bool := decide (t ≤ 14) && t != 6

/-- VMOV moves B's bits (R131). -/
def planVmov (w : VWord) : VPlan :=
  let t := typeOf w
  { ok5 := moveType t && w.h.rnd == 0 && w.h.sat == 0 && w.h.x3 == 0, ud := .wr t, ua := .no, ub := .rd t,
      ctlOk := fun _ => true, lat := 2, domain := none, lfsr := none, book := none, raises := false,
      run := fun i => i.lanes false fun j _ => (i.b.getD j 0, 0) }

def execVmov (w : VWord) (s : State) : Outcome State Fault Refusal := s.vectorWord (.vmov w) w (planVmov w)

/-- VCMP's outcomes (R51, R135). -/
def compareElem (t cc x y : Nat) : Nat × Flags :=
  let a := decodeFloat t x
  let b := decodeFloat t y
  if a.isNan || b.isNan then
    (if cc = 1 ∨ cc = 6 then 1 else 0, if 2 ≤ cc ∧ cc ≤ 5 then flNV else 0)
  else
    let lt := FVal.below false a b
    let gt := FVal.below false b a
    let r := match cc with
      | 0 => !lt && !gt
      | 1 => lt || gt
      | 2 => lt
      | 3 => !gt
      | 4 => gt
      | 5 => !lt
      | 6 => false
      | _ => true
    (if r then 1 else 0, 0)

/-- VCMP writes a mask register; nowb and cap_en must be zero (R135). -/
def planVcmp (w : VWord) : VPlan :=
  let t := typeOf w
  { floatPlan w .maskWr (.rd t) (.rd t) 2 none
        (fun i => i.lanes false fun j _ => compareElem t w.h.x3.toNat (i.a.getD j 0) (i.b.getD j 0)) with
      ok5 := decide (t ≤ 2) && w.h.rnd != 7 && w.h.nowb == 0 && w.h.capEn == 0,
      raises := decide (2 ≤ w.h.x3.toNat ∧ w.h.x3.toNat ≤ 5) }

def execVcmp (w : VWord) (s : State) : Outcome State Fault Refusal := s.vectorWord (.vcmp w) w (planVcmp w)

/-- A result for every lane, whatever the mask. -/
def allLanes (i : VIn) (new : List Nat) (fl : Flags) : VOut :=
  { new := new, wr := List.replicate 64 true, flags := fl, lfsr := i.lfsr }

/-- VSEL takes its mask as a selector (R137). -/
def planVsel (w : VWord) : VPlan :=
  let t := typeOf w
  { ok5 := moveType t && w.h.rnd == 0 && w.h.sat == 0 && w.h.x3 == 0, ud := .wr t, ua := .rd t, ub := .rd t,
      ctlOk := fun _ => true, lat := 2, domain := none, lfsr := none, book := none, raises := false,
      run := fun i => allLanes i ((List.range 64).map (fun j =>
        if i.act.getD j false then i.a.getD j 0 else i.b.getD j 0)) 0 }

def execVsel (w : VWord) (s : State) : Outcome State Fault Refusal := s.vectorWord (.vsel w) w (planVsel w)

/-- One bit of VMASKOP (R51, R136). -/
def maskBitOp (op x y : Nat) : Nat :=
  match op with
  | 0 => x * y
  | 1 => max x y
  | 2 => (x + y) % 2
  | 3 => x * (1 - y)
  | 4 => max x (1 - y)
  | 5 => 1 - x
  | _ => x

/-- VMASKOP (R136): B must be zero for .not and .mov. -/
def planVmaskop (w : VWord) : VPlan :=
  let op := w.h.x3.toNat
  { ok5 := w.h.etype == 0 && w.h.rnd == 0 && w.h.sat == 0 && w.h.mask == 0 && w.h.nowb == 0 && w.h.capEn == 0 && op != 7,
      ud := .maskWr, ua := .maskRd, ub := if 5 ≤ op then .no else .maskRd, ctlOk := fun _ => true, lat := 2,
      domain := none, lfsr := none, book := none, raises := false,
      run := fun i => allLanes i ((List.range 64).map (fun j => maskBitOp op (i.a.getD j 0) (i.b.getD j 0))) 0 }

def execVmaskop (w : VWord) (s : State) : Outcome State Fault Refusal := s.vectorWord (.vmaskop w) w (planVmaskop w)

end Sys2Proof.Machine
end

