-- ==== Sys2Proof/Machine/VecInt.lean ====
section
/-!
DEFINITION. The integer element words (R138), the packed-spectral products (R139), reductions and scans (R84, R140), and
the words of the lane LFSRs (R80, R141).
-/

namespace Sys2Proof.Machine

open Host (Outcome)

/-- Head fields of an integer word (R50). -/
def intHead (h : VHead) : Bool := typeInt h.etype.toNat && h.rnd == 0 && h.x3 == 0

/-- An arithmetic result wrapped, or with sat clamped, to its type (R138). -/
def fitInt (t : Nat) (sat : Bool) (v : Int) : Nat := intBits t (if sat then clampInt t v else v)

/-- An integer word: `f` of the elements of a lane; no flag, no rounding, no domain check (R128, R138). -/
def intWord (w : VWord) (f : Bool → Nat → Nat → Nat) : VPlan :=
  let t := typeOf w
  { ok5 := intHead w.h, ud := .wr t, ua := .rd t, ub := .rd t, ctlOk := fun _ => true, lat := 2, domain := none,
      lfsr := none, book := none, raises := false,
      run := fun v => v.lanes false fun j _ => (f v.sat (v.a.getD j 0) (v.b.getD j 0), 0) }

/-- An arithmetic word on the integers of the lanes (R138). -/
def intArith (w : VWord) (f : Int → Int → Int) : VPlan :=
  intWord w fun sat x y => fitInt (typeOf w) sat (f (decodeInt (typeOf w) x) (decodeInt (typeOf w) y))

def planViadd (w : VWord) : VPlan := intArith w (· + ·)

def execViadd (w : VWord) (s : State) : Outcome State Fault Refusal := s.vectorWord (.viadd w) w (planViadd w)

def planVisub (w : VWord) : VPlan := intArith w (· - ·)

def execVisub (w : VWord) (s : State) : Outcome State Fault Refusal := s.vectorWord (.visub w) w (planVisub w)

def planVimul (w : VWord) : VPlan := intArith w (· * ·)

def execVimul (w : VWord) (s : State) : Outcome State Fault Refusal := s.vectorWord (.vimul w) w (planVimul w)

def planVimin (w : VWord) : VPlan := intArith w min

def execVimin (w : VWord) (s : State) : Outcome State Fault Refusal := s.vectorWord (.vimin w) w (planVimin w)

def planVimax (w : VWord) : VPlan := intArith w max

def execVimax (w : VWord) (s : State) : Outcome State Fault Refusal := s.vectorWord (.vimax w) w (planVimax w)

def planVand (w : VWord) : VPlan := intWord w fun _ x y => x &&& y

def execVand (w : VWord) (s : State) : Outcome State Fault Refusal := s.vectorWord (.vand w) w (planVand w)

def planVor (w : VWord) : VPlan := intWord w fun _ x y => x ||| y

def execVor (w : VWord) (s : State) : Outcome State Fault Refusal := s.vectorWord (.vor w) w (planVor w)

def planVxor (w : VWord) : VPlan := intWord w fun _ x y => x ^^^ y

def execVxor (w : VWord) (s : State) : Outcome State Fault Refusal := s.vectorWord (.vxor w) w (planVxor w)

/-- VSHL: a × 2^c, wrapped or clamped; a count of w or more gives what a count of w gives (R138). -/
def planVshl (w : VWord) : VPlan :=
  let t := typeOf w
  intWord w fun sat x y => fitInt t sat (decodeInt t x * 2 ^ min y (typeBits t))

def execVshl (w : VWord) (s : State) : Outcome State Fault Refusal := s.vectorWord (.vshl w) w (planVshl w)

/-- VSHR: zeros enter (R138). -/
def planVshr (w : VWord) : VPlan :=
  intWord w fun _ x y => x / 2 ^ min y (typeBits (typeOf w))

def execVshr (w : VWord) (s : State) : Outcome State Fault Refusal := s.vectorWord (.vshr w) w (planVshr w)

/-- VSRA: copies of bit w − 1 enter, for unsigned types too (R138). -/
def planVsra (w : VWord) : VPlan :=
  let n := typeBits (typeOf w)
  intWord w fun _ x y => wrapTo n (signed n x / 2 ^ min y n)

def execVsra (w : VWord) (s : State) : Outcome State Fault Refusal := s.vectorWord (.vsra w) w (planVsra w)

def planViminu (w : VWord) : VPlan := intWord w fun _ x y => min x y

def execViminu (w : VWord) (s : State) : Outcome State Fault Refusal := s.vectorWord (.viminu w) w (planViminu w)

def planVimaxu (w : VWord) : VPlan := intWord w fun _ x y => max x y

def execVimaxu (w : VWord) (s : State) : Outcome State Fault Refusal := s.vectorWord (.vimaxu w) w (planVimaxu w)

/-- One part of a packed-spectral product (R139): `acc` holds D's part for VCMAC. -/
def spectralPart (t rm : Nat) (a b : Nat → FVal) (acc : List FVal) (j : Nat) : FVal × Flags :=
  let slot := j % (if t = 7 then 32 else 16)
  let ps : List (FVal × Flags) :=
    if slot < 2 then [(a j).mul (b j)]
    else if slot % 2 = 0 then
      let q := (a (j + 1)).mul (b (j + 1))
      [(a j).mul (b j), (q.1.neg, q.2)]
    else [(a (j - 1)).mul (b j), (a j).mul (b (j - 1))]
  let r := exactSum (ps.map (fun p => p.1) ++ acc) rm
  (r.1, ps.foldl (fun f p => f ||| p.2) r.2)

/-- A packed-spectral word (R139): it refuses time lines (R128). -/
def spectralWord (w : VWord) (acc : Bool) : VPlan :=
  let t := typeOf w
  { ok5 := (t == 7 || t == 8) && w.h.rnd != 7 && w.h.x3 == 0, ud := if acc then .rw t else .wr t, ua := .rd t,
      ub := .rd t, ctlOk := fun _ => true, lat := 4, domain := some false, lfsr := some false, book := none,
      run := roundedLanes t (fun v j =>
        spectralPart t v.rm (v.va t) (v.vb t) (if acc then [v.vd t j] else []) j) }

def planVcmul (w : VWord) : VPlan := spectralWord w false

def execVcmul (w : VWord) (s : State) : Outcome State Fault Refusal := s.vectorWord (.vcmul w) w (planVcmul w)

def planVcmac (w : VWord) : VPlan := spectralWord w true

def execVcmac (w : VWord) (s : State) : Outcome State Fault Refusal := s.vectorWord (.vcmac w) w (planVcmac w)

/-- The four reductions (R84). -/
inductive Red
  | add
  | max
  | min
  | absMax
  deriving DecidableEq, Repr

/-- The exact node operation on floating-point values (R84). -/
def Red.node (op : Red) (rm : Nat) (x y : FVal) : FVal × Flags :=
  let pick := fun (a b : FVal) (greater : Bool) =>
    if a.isNan || b.isNan then (FVal.nan, flNV) else (if (FVal.below true a b) != greater then a else b, 0)
  match op with
  | .add => exactSum [x, y] rm
  | .max => pick x y true
  | .min => pick x y false
  | .absMax => pick x.abs y.abs true

/-- The identity that a masked-off lane enters as (R84). -/
def Red.identity : Red → FVal
  | .add => .fin true 0 0 false
  | .max => .inf true
  | .min => .inf false
  | .absMax => .fin false 0 0 false

/-- A level of the tree as it stands: the values, the flags, and the LFSRs. -/
structure Level where
  vals  : List FVal
  flags : Flags
  lfsr  : List U32
  deriving DecidableEq, Repr

/-- One level of the tree (R84, R140): the node covering lanes from `i 2^l` on steps the LFSR of that lane in SR mode. -/
def treeLevel (op : Red) (t rm : Nat) (sat : Bool) (lev : Nat) (v : Level) : Level :=
  let n := v.vals.length / 2
  let lf := if rm = 5 then
      (List.range 64).map (fun j =>
        if j % 2 ^ lev = 0 then lfsrStep (v.lfsr.getD j 1) else v.lfsr.getD j 1)
    else v.lfsr
  let r := (List.range n).map (fun i =>
    let x := op.node rm (v.vals.getD (2 * i) .nan) (v.vals.getD (2 * i + 1) .nan)
    let y := roundTo x.1 t rm sat (lf.getD (i * 2 ^ lev) 1)
    (decodeFloat t y.1, x.2 ||| y.2))
  { vals := r.map (fun e => e.1), flags := r.foldl (fun f e => f ||| e.2) v.flags, lfsr := lf }

/-- reduce_tree of R84 for a floating-point type. -/
def reduceFloat (op : Red) (t : Nat) (i : VIn) : VOut :=
  let v0 := (List.range 64).map (fun j => if i.act.getD j false then i.va t j else op.identity)
  let r := [1, 2, 3, 4, 5, 6].foldl (fun v l => treeLevel op t i.rm i.sat l v) ⟨v0, 0, i.lfsr⟩
  let x := roundTo (r.vals.getD 0 .nan) t 0 false 0
  { new := x.1 :: List.replicate 63 0, wr := List.replicate 64 true, flags := r.flags, lfsr := r.lfsr }

/-- A node on integers (R140). -/
def Red.intNode (op : Red) (t : Nat) (sat : Bool) (x y : Int) : Int :=
  match op with
  | .add => decodeInt t (fitInt t sat (x + y))
  | .max => Max.max x y
  | .min => Min.min x y
  | .absMax => Max.max x y

/-- The tree on integers, level by level. -/
def intTree (op : Red) (t : Nat) (sat : Bool) : Nat → List Int → Int
  | 0, v => v.getD 0 0
  | n + 1, v =>
    intTree op t sat n ((List.range (v.length / 2)).map (fun i => op.intNode t sat (v.getD (2 * i) 0) (v.getD (2 * i + 1) 0)))

/-- The identity of an integer reduction (R140). -/
def Red.intIdentity (op : Red) (t : Nat) : Int :=
  match op with
  | .add => 0
  | .max => intMin t
  | .min => intMax t
  | .absMax => 0

/-- reduce_tree of R84 for INT32 and UINT32 (R140). -/
def reduceInt (op : Red) (t : Nat) (i : VIn) : VOut :=
  let v := (List.range 64).map (fun j =>
    if i.act.getD j false then
      let x := decodeInt t (i.a.getD j 0)
      if op = .absMax then (x.natAbs : Int) else x
    else op.intIdentity t)
  allLanes i (intBits t (intTree op t i.sat 6 v) :: List.replicate 63 0) 0

/-- Head fields of a reduction or scan (R50). -/
def reduceHead (h : VHead) : Bool :=
  h.x3 == 0 &&
    ((decide (h.etype.toNat ≤ 2) && h.rnd != 7) || ((h.etype.toNat == 12 || h.etype.toNat == 13) && h.rnd == 0))

/-- A reduction or scan (R140). -/
def reduceWord (w : VWord) (run : VIn → VOut) : VPlan :=
  let t := typeOf w
  { ok5 := reduceHead w.h, ud := .wr t, ua := .rd t, ub := .no, ctlOk := fun _ => true, lat := 12,
      domain := some true, lfsr := some false, book := none, raises := !typeInt t, run := run }

/-- A reduction by its type. -/
def reduceRun (op : Red) (t : Nat) : VIn → VOut := if typeInt t then reduceInt op t else reduceFloat op t

def planVradd (w : VWord) : VPlan :=
  reduceWord w (reduceRun .add (typeOf w))

def execVradd (w : VWord) (s : State) : Outcome State Fault Refusal := s.vectorWord (.vradd w) w (planVradd w)

def planVrmax (w : VWord) : VPlan :=
  reduceWord w (reduceRun .max (typeOf w))

def execVrmax (w : VWord) (s : State) : Outcome State Fault Refusal := s.vectorWord (.vrmax w) w (planVrmax w)

def planVrmin (w : VWord) : VPlan :=
  reduceWord w (reduceRun .min (typeOf w))

def execVrmin (w : VWord) (s : State) : Outcome State Fault Refusal := s.vectorWord (.vrmin w) w (planVrmin w)

def planVramax (w : VWord) : VPlan :=
  reduceWord w (reduceRun .absMax (typeOf w))

def execVramax (w : VWord) (s : State) : Outcome State Fault Refusal := s.vectorWord (.vramax w) w (planVramax w)

/-- A scan as far as it has gone: the prefix's bits once a lane was active, the lanes in reverse, flags, LFSRs. -/
structure Scan where
  pre   : Option Nat
  out   : List Nat
  flags : Flags
  lfsr  : List U32
  deriving DecidableEq, Repr

/-- One lane of a scan (R84, R140): the first active lane's bits are taken unchanged. -/
def scanStep (t : Nat) (i : VIn) (p : Scan) (j : Nat) : Scan :=
  if i.act.getD j false = false then { p with out := 0 :: p.out, lfsr := i.lfsr.getD j 1 :: p.lfsr }
  else
    let x := i.a.getD j 0
    match p.pre with
    | none => { p with pre := some x, out := x :: p.out, lfsr := i.lfsr.getD j 1 :: p.lfsr }
    | some y =>
      if typeInt t then
        let v := fitInt t i.sat (decodeInt t y + decodeInt t x)
        { p with pre := some v, out := v :: p.out, lfsr := i.lfsr.getD j 1 :: p.lfsr }
      else
        let l := if i.rm = 5 then lfsrStep (i.lfsr.getD j 1) else i.lfsr.getD j 1
        let e := exactSum [decodeFloat t y, decodeFloat t x] i.rm
        let r := roundTo e.1 t i.rm i.sat l
        { pre := some r.1, out := r.1 :: p.out, flags := p.flags ||| e.2 ||| r.2, lfsr := l :: p.lfsr }

/-- VSCAN over 64 lanes. -/
def scanRun (t : Nat) (i : VIn) : VOut :=
  let r := (List.range 64).foldl (scanStep t i) ⟨none, [], 0, []⟩
  { new := r.out.reverse, wr := i.act, flags := r.flags, lfsr := r.lfsr.reverse }

def planVscan (w : VWord) : VPlan :=
  reduceWord w (scanRun (typeOf w))

def execVscan (w : VWord) (s : State) : Outcome State Fault Refusal := s.vectorWord (.vscan w) w (planVscan w)

/-- A lane's seed from a card seed and REC_INDEX (R80). -/
def laneSeed (seed : U32) (rec_ : U64) (j : Nat) : U32 :=
  nonZero (seed ^^^ (rec_.truncate 32 * 0x9E3779B9#32) ^^^ (BitVec.ofNat 32 j * 0x85EBCA6B#32))

/-- A VLFSR word (R141): each active lane's state becomes `f` of its number, its state and A's element. -/
def lfsrWord (w : VWord) (ud ua : Use) (reads : Bool) (f : Nat → U32 → Nat → U32) : VPlan :=
  { ok5 := w.h.etype == 0 && w.h.rnd == 0 && w.h.sat == 0 && (reads || w.h.capEn == 0), ud := ud, ua := ua, ub := .no,
      ctlOk := fun _ => true, lat := 2, domain := none, lfsr := some true, book := none, raises := false,
      run := fun v =>
        { new := (List.range 64).map (fun j => if v.act.getD j false then (v.lfsr.getD j 1).toNat else 0), wr := v.act,
          flags := 0,
          lfsr := (List.range 64).map (fun j =>
            if v.act.getD j false then f j (v.lfsr.getD j 1) (v.a.getD j 0) else v.lfsr.getD j 1) } }

def planVlfsrRead (w : VWord) : VPlan :=
  lfsrWord w (.wr 0) .no true fun _ l _ => l

def execVlfsrRead (w : VWord) (s : State) : Outcome State Fault Refusal := s.vectorWord (.vlfsrRead w) w (planVlfsrRead w)

def planVlfsrWrite (w : VWord) : VPlan :=
  lfsrWord w .no (.rd 0) false fun _ _ x => nonZero (BitVec.ofNat 32 x)

def execVlfsrWrite (w : VWord) (s : State) : Outcome State Fault Refusal := s.vectorWord (.vlfsrWrite w) w (planVlfsrWrite w)

def planVlfsrAdvance (w : VWord) : VPlan :=
  lfsrWord w .no .no false fun _ l _ => lfsrStep l

def execVlfsrAdvance (w : VWord) (s : State) : Outcome State Fault Refusal := s.vectorWord (.vlfsrAdvance w) w (planVlfsrAdvance w)

/-- VLFSR.reseed; `r` is REC_INDEX. -/
def planVlfsrReseed (r : U64) (w : VWord) : VPlan :=
  lfsrWord w .no (.rd 0) false fun j _ x => laneSeed (BitVec.ofNat 32 x) r j

def execVlfsrReseed (w : VWord) (s : State) : Outcome State Fault Refusal := s.vectorWord (.vlfsrReseed w) w (planVlfsrReseed s.myTile.task.recIndex w)

end Sys2Proof.Machine
end

