-- ==== Sys2Proof/Machine/VecMove.lean ====
section
/-!
DEFINITION. Conversion, quantisation and data movement (R143 to R163).
-/

namespace Sys2Proof.Machine

open Host (Outcome)

/-- The set Q of R145: E4M3, E5M2, E2M1, INT8. -/
def quantType (t : Nat) : Bool := t == 3 || t == 4 || t == 5 || t == 9

/-- The set P of R145. -/
def packType (t : Nat) : Bool := (decide (1 ≤ t ∧ t ≤ 5)) || t == 7 || (decide (9 ≤ t ∧ t ≤ 11)) || t == 14

/-- A head whose rnd, sat and x3 are zero. -/
def bareHead (h : VHead) : Bool := h.rnd == 0 && h.sat == 0 && h.x3 == 0

/-- A word that moves bits (R145): no rounding, no flags, no domain check. -/
def movePlan (w : VWord) (legal : Nat → Bool) (ud ua ub : Use) (run : VIn → VOut) : VPlan :=
  { ok5 := legal (typeOf w) && bareHead w.h, ud := ud, ua := ua, ub := ub, ctlOk := fun _ => true, lat := 4,
    domain := none, lfsr := none, book := none, raises := false, run := run }

/-- A conversion word (R145, R146): it refuses spectral lines. -/
def convPlan (ok5 : Bool) (ud ua ub : Use) (lfsr : Option Bool) (run : VIn → VOut) : VPlan :=
  { ok5 := ok5, ud := ud, ua := ua, ub := ub, ctlOk := fun _ => true, lat := 4, domain := some true, lfsr := lfsr,
    book := none, run := run }

/-- VCVT of one element (R147). -/
def convertElem (src dst x rm : Nat) (sat : Bool) (sr : U32) : Nat × Flags :=
  if typeInt src ∧ typeInt dst then (fitInt dst sat (decodeInt src x), 0)
  else roundTo (decodeElement src x) dst rm sat sr

/-- The source type in VCVT's control field (R147). -/
def cvtSource (w : VWord) : Nat := bitsAt w.b.toNat 0 4

/-- VCVT (R145, R147). -/
def planVcvt (w : VWord) : VPlan :=
  let t := typeOf w
  let src := cvtSource w
  let legal := decide (t ≤ 13) && t != 6 && t != 7 && t != 8 && w.h.rnd != 7 && w.h.x3 == 0
  { convPlan legal (.wr t) (.rd src) .ctl (some false)
        (fun i => i.lanes true fun j l => convertElem src t (i.a.getD j 0) i.rm i.sat l) with
      raises := !(typeInt src && typeInt t),
      ctlOk := fun p => decide (bitsAt p 4 14 = 0) && bitsAt p 0 4 != 6 && bitsAt p 0 4 != 7 && bitsAt p 0 4 != 8
        && bitsAt p 0 4 != 15 }

def execVcvt (w : VWord) (s : State) : Outcome State Fault Refusal := s.vectorWord (.vcvt w) w (planVcvt w)

/-- L of R148: the largest finite value of a quantisation type. -/
def quantMax (t : Nat) : FVal := if t = 9 then .ofInt 127 else decodeFloat t (maxCode t)

/-- ceiling(log2(m / L)) of R148: the least e with m 2^-e ≤ L. -/
def scaleExp (m l : FVal) : Int :=
  match m, l with
  | .fin _ a e _, .fin _ b f _ =>
    let k := (Nat.log2 a : Int) + e - (Nat.log2 b + f)
    if FVal.below false (l.scale k) m then k + 1 else k
  | _, _ => 0

/-- vamaxb_block of R148. -/
def blockScale (t : Nat) (xs : List FVal) : Nat × Flags :=
  if xs.any (fun x => x.isNan || x.isInf) then (0xFF, flNV)
  else
    let m := xs.foldl (fun m x => if FVal.below false m x.abs then x.abs else m) (.fin false 0 0 false)
    if m.isZero then (0x7F, 0)
    else ((max 0 (min 254 (scaleExp m (quantMax t) + 127))).toNat, 0)

/-- The active elements of block `k` (R148). -/
def VIn.block (i : VIn) (t k : Nat) : List FVal :=
  ((List.range 32).filter (fun j => i.act.getD (32 * k + j) false)).map (fun j => i.va t (32 * k + j))

/-- VAMAXB (R145, R148). -/
def planVamaxb (w : VWord) : VPlan :=
  let t := typeOf w
  (convPlan (quantType t && bareHead w.h) (.wr 14) (.rd 0) .no none
    (fun i =>
      let b0 := blockScale t (i.block 0 0)
      let b1 := blockScale t (i.block 0 1)
      { new := List.replicate 32 b0.1 ++ List.replicate 32 b1.1, wr := i.act, flags := b0.2 ||| b1.2, lfsr := i.lfsr }))

def execVamaxb (w : VWord) (s : State) : Outcome State Fault Refusal := s.vectorWord (.vamaxb w) w (planVamaxb w)

/-- VQNT of one element (R149). -/
def quantElem (t x e rm : Nat) (sat : Bool) (sr : U32) : Nat × Flags :=
  if e = 255 then (nanCode t, flNV) else roundTo ((f32 x).scale (127 - (e : Int))) t rm sat sr

/-- VQNT (R145, R149). -/
def planVqnt (w : VWord) : VPlan :=
  let t := typeOf w
  (convPlan (quantType t && w.h.rnd != 7 && w.h.x3 == 0) (.wr t) (.rd 0) (.rd 14) (some false)
    (fun i => i.lanes true fun j l => quantElem t (i.a.getD j 0) (i.b.getD j 0) i.rm i.sat l))

def execVqnt (w : VWord) (s : State) : Outcome State Fault Refusal := s.vectorWord (.vqnt w) w (planVqnt w)

/-- expand_scaled of R69: an element of type `t` under a scale byte, narrowed to `dst`. -/
def expandElem (t x e dst rm : Nat) (sat : Bool) (sr : U32) : Nat × Flags :=
  if e = 255 then (nanCode dst, flNV) else roundTo ((decodeElement t x).scale ((e : Int) - 127)) dst rm sat sr

/-- VDQNT (R145, R150). -/
def planVdqnt (w : VWord) : VPlan :=
  let t := typeOf w
  (convPlan (quantType t && w.h.rnd != 7 && w.h.x3 == 0) (.wr 0) (.rd t) (.rd 14) (some false)
    (fun i => i.lanes true fun j l => expandElem t (i.a.getD j 0) (i.b.getD j 0) 0 i.rm i.sat l))

def execVdqnt (w : VWord) (s : State) : Outcome State Fault Refusal := s.vectorWord (.vdqnt w) w (planVdqnt w)

/-- lq8_decode of R71 with the scale limit of R72: weight `k` of a codeword, against its row of the table. -/
def lq8Weight (word row e k : Nat) : FVal :=
  if 0xFC ≤ e then .nan
  else
    let sg := bitsAt word 1 7
    let neg := if k < 7 then decide (bit sg k = 1)
      else decide ((List.range 7).foldl (fun n i => n + bit sg i) 0 % 2 = 1)
    .fin neg (2 * bitsAt row (4 * k) 4 + bit word 0) ((e : Int) - 128) false

/-- A row of a codebook table (R73). -/
def XRes.bookRow (x : XRes) (t c : Nat) : Nat := (Store.get 0 x.cb (256 * t + c)).toNat

/-- VLQDEC of lane `j` (R151). -/
def lqLane (x : XRes) (tab : Nat) (i : VIn) (j : Nat) : Nat × Flags :=
  let word := i.a.getD (j / 8) 0
  let e := i.b.getD (j / 8 / 4) 0
  roundTo (lq8Weight word (x.bookRow tab (bitsAt word 8 8)) e (j % 8)) 1 0 false 0

/-- VLQDEC: its rnd field names the table, one of those of `x` (R145, R151). -/
def planVlqdec (x : XRes) (w : VWord) : VPlan :=
  let tab := w.h.rnd.toNat
  { convPlan (typeOf w == 6 && decide (tab < 4) && w.h.sat == 0 && w.h.x3 == 0) (.wr 1) (.rd 6) (.rd 14) none
        (fun i => i.lanes false fun j _ => lqLane x tab i j) with book := some tab }

def execVlqdec (w : VWord) (s : State) : Outcome State Fault Refusal := s.vectorWord (.vlqdec w) w (planVlqdec s.myTile.xr w)

/-- The groups of VHAD (R152): the rotated values and whether each group raised invalid with an active lane. -/
def hadamardLanes (n t : Nat) (i : VIn) : List FVal × Flags :=
  let size := 2 ^ n
  let gs := (List.range (64 / size)).map (fun g =>
    let r := hadamard n ((List.range size).map (fun j => i.va t (g * size + j)))
    let live := (List.range size).any (fun j => i.act.getD (g * size + j) false)
    (r.1, if live then r.2 else 0))
  ((gs.map (fun g => g.1)).flatten, gs.foldl (fun f g => f ||| g.2) 0)

/-- VHAD: x3 gives the size (R51, R145, R152). -/
def planVhad (w : VWord) : VPlan :=
  let t := typeOf w
  let n := w.h.x3.toNat + 4
  (convPlan (decide (t ≤ 2) && w.h.rnd != 7 && decide (w.h.x3.toNat ≤ 2)) (.wr t) (.rd t) .no
    (some false)
    (fun i =>
      let h := hadamardLanes n t i
      let o := i.lanes true fun j l => roundTo (h.1.getD j .nan) t i.rm i.sat l
      { o with flags := o.flags ||| h.2 }))

def execVhad (w : VWord) (s : State) : Outcome State Fault Refusal := s.vectorWord (.vhad w) w (planVhad w)

/-- Stream element `e` of a 32-bit-raw vector (R153). -/
def streamElem (v : List Nat) (w e : Nat) : Nat := bitsAt (v.getD (e / (32 / w)) 0) (w * (e % (32 / w))) w

/-- One element put into a 32-bit-raw vector (R153). -/
def putStream (v : List Nat) (w e x : Nat) : List Nat :=
  v.modify (e / (32 / w)) (fun r =>
    let lo := w * (e % (32 / w))
    r - bitsAt r lo w * 2 ^ lo + x % 2 ^ w * 2 ^ lo)

/-- VPACK: the mask predicates source lanes (R153). -/
def packRun (w : Nat) (i : VIn) : VOut :=
  let c := i.bx.toNat
  allLanes i ((List.range 64).foldl (fun v j =>
    if i.act.getD j false ∧ c + j < 2048 / w then putStream v w (c + j) (i.a.getD j 0) else v) i.d) 0

/-- VPACK (R145, R153): D is 32-bit raw. -/
def planVpack (w : VWord) : VPlan :=
  let t := typeOf w
  (movePlan w packType (.rw 13) (.rd t) .cnt (packRun (typeBits t)))

def execVpack (w : VWord) (s : State) : Outcome State Fault Refusal := s.vectorWord (.vpack w) w (planVpack w)

/-- VUNPK (R145, R153). -/
def planVunpk (w : VWord) : VPlan :=
  let t := typeOf w
  let n := typeBits t
  (movePlan w packType (.wr t) (.rd 13) .cnt
    (fun i => i.lanes false fun j _ =>
      (if i.bx.toNat + j < 2048 / n then streamElem i.a n (i.bx.toNat + j) else 0, 0)))

def execVunpk (w : VWord) (s : State) : Outcome State Fault Refusal := s.vectorWord (.vunpk w) w (planVunpk w)

/-- VPERM (R145, R154). -/
def planVperm (w : VWord) : VPlan :=
  let t := typeOf w
  (movePlan w moveType (.wr t) (.rd t) (.rd 13)
    (fun i => i.lanes false fun j _ => (i.a.getD (i.b.getD j 0 % 64) 0, 0)))

def execVperm (w : VWord) (s : State) : Outcome State Fault Refusal := s.vectorWord (.vperm w) w (planVperm w)

/-- The source lane of VSHUF (R155). -/
def shuffleLane (ctl j : Nat) : Nat :=
  match bitsAt ctl 6 2 with
  | 0 => j ^^^ bitsAt ctl 0 6
  | 1 => j / 2 + 32 * (j % 2)
  | _ => 2 * (j % 32) + j / 32

/-- VSHUF (R145, R155). -/
def planVshuf (w : VWord) : VPlan :=
  let t := typeOf w
  { movePlan w moveType (.wr t) (.rd t) .ctl
        (fun i => i.lanes false fun j _ => (i.a.getD (shuffleLane i.bx.toNat j) 0, 0)) with
      ctlOk := fun p => decide (bitsAt p 8 10 = 0) && bitsAt p 6 2 != 3 &&
        (bitsAt p 6 2 == 0 || bitsAt p 0 6 == 0) }

def execVshuf (w : VWord) (s : State) : Outcome State Fault Refusal := s.vectorWord (.vshuf w) w (planVshuf w)

/-- The count of VSLIDE: a control immediate is signed, a scalar is its 64-bit value, signed too (R144, R156;
notes/assumptions 87). -/
def slideCount (b : Nat) (x : U64) : Int := if bitsAt b 18 2 = 3 then signed 18 b else x.toInt

/-- VSLIDE (R145, R156). -/
def planVslide (w : VWord) : VPlan :=
  let t := typeOf w
  (movePlan w moveType (.wr t) (.rd t) .cnt
    (fun i => i.lanes false fun j _ =>
      let k := (j : Int) + slideCount w.b.toNat i.bx
      (if 0 ≤ k ∧ k ≤ 63 then i.a.getD k.toNat 0 else 0, 0)))

def execVslide (w : VWord) (s : State) : Outcome State Fault Refusal := s.vectorWord (.vslide w) w (planVslide w)

/-- VBCAST (R145, R156). -/
def planVbcast (w : VWord) : VPlan :=
  let t := typeOf w
  (movePlan w moveType (.wr t) (.rd t) .cnt
    (fun i => i.lanes false fun _ _ => (i.a.getD (i.bx.toNat % 64) 0, 0)))

def execVbcast (w : VWord) (s : State) : Outcome State Fault Refusal := s.vectorWord (.vbcast w) w (planVbcast w)

/-- VCOMP: its mask is a selector (R145, R157). -/
def planVcomp (w : VWord) : VPlan :=
  let t := typeOf w
  (movePlan w moveType (.wr t) (.rd t) .no
    (fun i =>
      let live := ((List.range 64).filter (fun j => i.act.getD j false)).map (fun j => i.a.getD j 0)
      allLanes i ((List.range 64).map (fun j => live.getD j 0)) 0))

def execVcomp (w : VWord) (s : State) : Outcome State Fault Refusal := s.vectorWord (.vcomp w) w (planVcomp w)

/-- VEXPD: its mask is a predicate (R145, R157). -/
def planVexpd (w : VWord) : VPlan :=
  let t := typeOf w
  (movePlan w moveType (.rw t) (.rd t) .no
    (fun i => i.lanes false fun j _ =>
      (i.a.getD ((List.range j).filter (fun k => i.act.getD k false)).length 0, 0)))

def execVexpd (w : VWord) (s : State) : Outcome State Fault Refusal := s.vectorWord (.vexpd w) w (planVexpd w)

/-- VTOS (R145, R160): the destination stands in the control field. -/
def planVtos (w : VWord) : VPlan :=
  { movePlan w moveType .no (.rd (typeOf w)) .ctl (fun i => allLanes i [] 0) with
    ok5 := moveType (typeOf w) && bareHead w.h && w.h.mask == 0 && w.h.nowb == 0 && w.h.capEn == 0,
    ctlOk := fun p => decide (bitsAt p 11 7 = 0) && decide (1 ≤ bitsAt p 0 5 ∧ bitsAt p 0 5 ≤ 27) }

/-- The value that VTOS takes from the elements of A (R160). -/
def vtosValue (w : VWord) (els : List Nat) : U64 :=
  let t := typeOf w
  let x := els.getD (bitsAt w.b.toNat 5 6) 0
  if typeInt t ∧ typeSigned t then BitVec.ofInt 64 (decodeInt t x) else BitVec.ofNat 64 x

def execVtos (w : VWord) (s : State) : Outcome State Fault Refusal :=
  let t := typeOf w
  s.longWord (.vtos w) w (planVtos w) fun f =>
    let d := bitsAt w.b.toNat 0 5
    let al := s.myTile.xr.opndLines f.a (typeLines t)
    if (f.a.reads ++ [Res.s d]).any (s.me.pending s.now) || s.myTile.linesPending s.now al [] then s.notYet w.h.stamp 2 .res
    else
      let pend : Pend := { res := [Res.s d] ++ readerRes f none, due := s.now + (if al.isEmpty then 4 else 8), flags := 0,
                           cap := none, ew := (3, 1), asks := some (s.now, 8) }
      let els := s.myTile.elems w.h.lits t f.a
      let v : VIn := { act := [], a := els, b := [], d := [], bx := 0, rm := 0, sat := false, lfsr := [] }
      let x := s.myTile.xr.post f.a (typeLines t)
      if (linesIn al).isEmpty then
        let tl := { s.myTile.touchLines s.now rankVector al with xr := x }
        .next (((s.setMyTile tl).mapMe (fun k => k.setReg d (vtosValue w els))).issue (s.afterLong w.h) (s.now + 1) pend)
      else
        let tl := { s.myTile.startJob s.now lineSlack 8 (.vtos w) v [(1,
          al)] [] s.me.pc (walks := s.myTile.xr.walksTo x) with xr := x }
        .next ((s.setMyTile tl).issue (s.afterLong w.h) (s.now + 1) pend)

/-- The byte address of lane `j` of a gather or scatter (R158). -/
def gatherAddr (u : U64) (z j : Nat) (idx : List Nat) : Int := ((u.toNat + z * idx.getD j 0 : Nat) : Int)

/-- The lines of the active lanes' addresses, each once (R159). -/
def gatherLines (act : List Bool) (ea : Nat → Int) : List Int :=
  (((List.range 64).filter (fun j => act.getD j false)).map (fun j => ea j / 64)).eraseDups

/-- The out-of-range addresses of active lanes latched in lane order (R158, R252). -/
def Tile.touchLanes (t : Tile) (now : Nat) (act : List Bool) (ea : Nat → Int) : Tile :=
  (List.range 64).foldl (fun t j => if act.getD j false then t.touchAt now rankVector (ea j) else t) t

/-- Clocks that VGATH and VSCAT take (R92, R163). -/
def State.gatherTime (s : State) : Nat := if s.datumTile s.cur.tile then 112 else 72

/-- What VGATH and VSCAT share (R158, R159): the check of the base, which comes before the wait for D, a latch or a line
(notes/assumptions 118), and readiness; then `go` with what the word computes with,
the addresses, and the lines. 72 clocks cover 64 grants of one bank, the last 9 clocks before the result. -/
def State.gatherWord (s : State) (w : VWord) (f : Fields) (store : Bool)
    (go : VIn → (Nat → Int) → List Int → Outcome State Fault Refusal) : Outcome State Fault Refusal :=
  let t := s.myTile
  let z := typeBits (typeOf w) / 8
  let u := s.me.fieldValue f.a
  let act := lanesOf (t.xr.mask w.h.mask.toNat)
  let idx := t.elems w.h.lits 13 f.b
  let ea := fun (j : Nat) => gatherAddr u z j idx
  let ls := gatherLines act ea
  let first := f.a.reads ++ f.b.reads ++ (if w.h.mask = 0 then [] else [Res.m w.h.mask.toNat])
  let srcs := first ++ (if w.h.nowb = 1 then [] else f.d.reads) ++ (if w.h.capEn = 1 then [Res.byp w.h.capN.toNat] else [])
  let owed := if store then t.linesPending s.now [] ls else t.linesPending s.now ls []
  if first.any (s.me.pending s.now) then s.notYet w.h.stamp 2 .res
  else if u.toNat % z ≠ 0 then s.fault 0x0E u
  else if srcs.any (s.me.pending s.now) || owed then s.notYet w.h.stamp 2 .res
  else
    go { act := act, a := [], b := idx, d := if w.h.nowb = 1 then [] else t.elems [] (typeOf w) f.d, bx := u, rm := 0,
         sat := false, lfsr := [] } ea ls

/-- VGATH (R145, R158, R159). -/
def planVgath (w : VWord) : VPlan :=
  movePlan w (fun t => moveType t && t != 5) (.regWr (typeOf w)) .base .idx (fun i => allLanes i [] 0)

/-- What VGATH delivers; `line k` is the contents of its line `k`, of those at `ls` (R158). -/
def gatherOut (w : VWord) (v : VIn) (ls : List Int) (line : Nat → Nat) : VOut :=
  let z := typeBits (typeOf w) / 8
  { new := (List.range 64).map (fun j =>
      let ea := gatherAddr v.bx z j v.b
      if v.act.getD j false then bitsAt (line (ls.idxOf (ea / 64))) (8 * (ea % 64).toNat) (8 * z) else v.d.getD j 0),
    wr := v.act, flags := 0, lfsr := [] }

/-- VGATH's result placed in its destination. -/
def Tile.putGather (t : Tile) (w : VWord) (o : VOut) : Tile :=
  if w.h.nowb = 1 then t else t.putElems (typeOf w) (.vreg (bitsAt w.d.toNat 0 9)) o.new o.wr

/-- What VGATH captures. -/
def gatherCap (w : VWord) (v : VIn) (o : VOut) : Option (Nat × List U32) :=
  if w.h.capEn = 1 then some (w.h.capN.toNat, captured (w.h.nowb = 1) o v.d) else none

def execVgath (w : VWord) (s : State) : Outcome State Fault Refusal :=
  s.longWord (.vgath w) w (planVgath w) fun f => s.gatherWord w f false fun v ea ls =>
    let t := s.myTile.touchLanes s.now v.act ea
    let pend : Pend :=
      { res := (if w.h.nowb = 1 then [] else f.d.writes) ++ (if w.h.capEn = 1 then [Res.byp w.h.capN.toNat] else []),
        due := s.now + s.gatherTime, flags := 0, cap := none, ew := (4, 1), asks := some (s.now, 9) }
    if (linesIn ls).isEmpty then
      let o := gatherOut w v ls (fun _ => 0)
      .next ((s.setMyTile (t.putGather w o)).issue (s.afterLong w.h) (s.now + 1) (pend.result 0 (gatherCap w v o)))
    else
      .next ((s.setMyTile (t.startJob s.now 111 9 (.vgath w) v [(1, ls)] [] s.me.pc)).issue (s.afterLong w.h) (s.now + 1) pend)

/-- VSCAT: nowb and cap_en must be zero (R145, R158, R159). -/
def planVscat (w : VWord) : VPlan :=
  let p := movePlan w (fun t => moveType t && t != 5) (.regRd (typeOf w)) .base .idx (fun i => allLanes i [] 0)
  { p with ok5 := p.ok5 && w.h.nowb == 0 && w.h.capEn == 0 }

/-- The writes of VSCAT to a line: the elements of the active lanes that lie there, in lane order (R158). -/
def Tile.scatterLine (t : Tile) (w : VWord) (v : VIn) (line : Int) : Tile :=
  let z := typeBits (typeOf w) / 8
  let ea := fun (j : Nat) => gatherAddr v.bx z j v.b
  ((List.range 64).filter (fun j => v.act.getD j false && ea j / 64 == line)).foldl
    (fun t j => t.writeAt (ea j) (leBytes z (v.d.getD j 0))) t

/-- Each line is written once its bank has granted it, and by the clock that the latency gives (R92). -/
def execVscat (w : VWord) (s : State) : Outcome State Fault Refusal :=
  s.longWord (.vscat w) w (planVscat w) fun f => s.gatherWord w f true fun v ea ls =>
    let t := (s.myTile.touchLanes s.now v.act ea).startJob s.now 111 0 (.vscat w) v [] ls s.me.pc
      (some (s.now + s.gatherTime, [], []))
    .next ((s.setMyTile t).issue (s.afterLong w.h) (s.now + 1)
      { res := [], due := s.now + s.gatherTime, flags := 0, cap := none, ew := (4, 1), asks := some (s.now, 9) })

/-- Words put into a store from key `k` on. -/
def putWords (m : Store U32) (k : Nat) (ws : List Nat) : Store U32 :=
  (List.range ws.length).foldl (fun m i => Store.set 0 m (k + i) (BitVec.ofNat 32 (ws.getD i 0))) m

/-- CBLD of either kind (R161). -/
def planCbld (w : VWord) : VPlan :=
  { movePlan w (fun t => t == 0) .no .image .no (fun i => allLanes i [] 0) with
    ok5 := w.h.etype == 0 && w.h.rnd == 0 && w.h.sat == 0 && w.h.mask == 0 && w.h.nowb == 0 && w.h.capEn == 0 }

/-- CBLD (R161, R162): `dst` is the resource it loads, `rdr` what its readers hold, `put` the loading. The image is written
whole at completion, 48 clocks after issue where no bank waits. -/
def State.loadImage (s : State) (i : Instr) (w : VWord) (dst rdr : Res) (busy : Bool) (put : XRes → List Nat → XRes) :
    Outcome State Fault Refusal :=
  s.longWord i w (planCbld w) fun f =>
    let ls := s.myTile.xr.opndLines f.a 16
    if busy ∨ ([dst, rdr].any (s.me.pending s.now) || s.myTile.linesPending s.now ls []) then s.notYet w.h.stamp 2 .res
    else
      let pend : Pend := { res := [dst], due := s.now + 48, flags := 0, cap := none, ew := (4, 1), asks := some (s.now, 48) }
      let x := s.myTile.xr.post f.a 16
      let v : VIn := { act := [], a := [], b := [], d := [], bx := 0, rm := 0, sat := false, lfsr := [] }
      if (linesIn ls).isEmpty then
        let tl := { s.myTile.touchLines s.now rankVector ls with xr := put x (List.replicate 256 0) }
        .next ((s.setMyTile tl).issue (s.afterLong w.h) (s.now + 1) pend)
      else
        let tl := { s.myTile.startJob s.now 47 48 i v [(1, ls)] [] s.me.pc (walks := s.myTile.xr.walksTo x) with xr := x }
        .next ((s.setMyTile tl).issue (s.afterLong w.h) (s.now + 1) pend)

/-- The constant bank loaded. -/
def XRes.loadConsts (x : XRes) (ws : List Nat) : XRes := { x with c := putWords x.c 0 ws }

/-- Codebook table `n` loaded. -/
def XRes.loadBook (n : Nat) (x : XRes) (ws : List Nat) : XRes := { x with cb := putWords x.cb (256 * n) ws }

/-- An open MSTA or MSCAL reads the constant bank (R162, R176, R177). -/
def Tile.constsOpen (t : Tile) : Bool := t.mopen.any (fun m => (m.op == 6 || m.op == 9) && decide (bit m.w.p4.toNat 17 = 1))

/-- CBLD of the constant bank (R161). -/
def execCbldConst (w : VWord) (s : State) : Outcome State Fault Refusal :=
  s.loadImage (.cbldConst w) w .consts .readConsts s.myTile.constsOpen XRes.loadConsts

/-- An open MMAL reads codebook table `t` (R162). -/
def Tile.bookOpen (t : Tile) (n : Nat) : Bool := t.mopen.any (fun m => m.op == 2 && bitsAt m.w.p4.toNat 24 2 == n)

/-- CBLD of a codebook table: x3 is its number plus 1 (R51, R161). -/
def execCbldCodebook (w : VWord) (s : State) : Outcome State Fault Refusal :=
  let n := w.h.x3.toNat - 1
  s.loadImage (.cbldCodebook w) w (.book n) (.readBook n) (s.myTile.bookOpen n) (XRes.loadBook n)

end Sys2Proof.Machine
end

