-- ==== Sys2Proof/Machine/MatrixOps.lean ====
section
/-!
DEFINITION. What the matrix words share: the fields of units 4 to 6 (R170), operand tiles in ring slots (R164 to R166),
accumulators with their tags and owners (R167, R168, R262 to R264, R342), shape records as far as a ring consults them
(R184, R242), and the values that the words compute (R172, R173, R176, R177).
-/

namespace Sys2Proof.Machine

open Host (Outcome)

/-- Fields of units 4 to 6 (R170). -/
def ringCOf (w : MWord) : Nat := bitsAt w.p4.toNat 27 3
def popCOf (w : MWord) : Nat := bitsAt w.p4.toNat 26 1
def tableOf (w : MWord) : Nat := bitsAt w.p4.toNat 24 2
def mrndOf (w : MWord) : Nat := bitsAt w.p4.toNat 27 3
def msatOf (w : MWord) : Bool := decide (bit w.p4.toNat 26 = 1)
def mexpOf (w : MWord) : Int := signed 8 (bitsAt w.p4.toNat 18 8)
def cenOf (w : MWord) : Bool := decide (bit w.p4.toNat 17 = 1)
def cidxOf (w : MWord) : Nat := bitsAt w.p4.toNat 9 8
def accSOf (w : MWord) : Nat := bitsAt w.p4.toNat 20 6
def mownMask (w : MWord) : Nat := bitsAt w.p4.toNat 0 24 * 2 ^ 24 + bitsAt w.p5.toNat 0 24

/-- Only some bits of unit 4 are used, and none of units 5 and 6. -/
def onlyBits (w : MWord) (lo : Nat) : Bool := decide (w.p4.toNat % 2 ^ lo = 0) && w.p5 == 0 && w.p6 == 0

/-- The stamp of a matrix word (R28). -/
def mstamp (w : MWord) : Option (BitVec 30) := if w.sv = 1 then some w.stamp else none

/-- Contraction elements per line of the narrower operand (R164). -/
def kspan (w : MWord) : Nat := (512 / min (typeBits w.tA.toNat) (typeBits w.tB.toNat)) * (w.ksteps.toNat + 1)

/-- Lines per stored row of an operand with `n` elements per row index and transpose bit `tr` (R164, R165). -/
def rowLines (t n : Nat) (tr : Bool) : Nat := if tr then typeBits t / 8 else n * typeBits t / 512

/-- Data lines of an operand (R165). -/
def dataLines (t n : Nat) (tr : Bool) : Nat := (if tr then n else 64) * rowLines t n tr

/-- Line `l` of the lines read. -/
def lineAt (ls : List Nat) (l : Nat) : Nat := ls.getD l 0

/-- Element `j` of type `t` in stored row `i` (R66, R165). -/
def storedElem (ls : List Nat) (t rl i j : Nat) : Nat :=
  let per := 512 / typeBits t
  bitsAt (lineAt ls (i * rl + j / per)) (j % per * typeBits t) (typeBits t)

/-- operand_elem of R165. -/
def operandElem (ls : List Nat) (t n : Nat) (tr : Bool) (r k : Nat) : Nat :=
  let rl := rowLines t n tr
  if tr then storedElem ls t rl k r else storedElem ls t rl r k

/-- scale_of of R165; none for scale code 0. `srow` is the per-row scale line. -/
def scaleOf (ls : List Nat) (t n : Nat) (tr : Bool) (code srow r k : Nat) : Option Nat :=
  match code with
  | 0 => none
  | 1 =>
    let j := r * (n / 32) + k / 32
    some (bitsAt (lineAt ls (dataLines t n tr + j / 64)) (j % 64 * 8) 8)
  | _ => some (bitsAt srow (r * 8) 8)

/-- value(X, i, k) of R172: a scale byte of 0xFF poisons what it covers. -/
def operandValue (ls : List Nat) (t n : Nat) (tr : Bool) (code srow r k : Nat) : FVal :=
  let v := decodeElement t (operandElem ls t n tr r k)
  match scaleOf ls t n tr code srow r k with
  | none => v
  | some e => (v.mul (decodeScale e)).1

/-- value(B, c, k) of MMAL (R165): a weight of a codeword, under its table row and its trailer scale; `rl` lines per
stored row, `n` weights. -/
def lqValue (x : XRes) (tab : Nat) (ls : List Nat) (rl n c k : Nat) : FVal :=
  let word := storedElem ls 6 rl c (k / 8)
  let j := c * (n / 32) + k / 32
  lq8Weight word (x.bookRow tab (bitsAt word 8 8)) (bitsAt (lineAt ls (64 * rl + j / 64)) (j % 64 * 8) 8) (k % 8)

/-- The row of 64 results that `f` gives. -/
def row64 (f : Nat → α) : List α := (List.range 64).map f

/-- What a matrix word reads: the lines of its slots and its per-row scale lines, each as a number; and the rounding code. -/
structure MRead where
  a  : List Nat
  b  : List Nat
  c  : List Nat
  sa : Nat
  sb : Nat
  rm : Nat
  deriving DecidableEq, Repr

/-- What a matrix word delivers: new accumulator contents with their tags (none for a release), the lines of its slot, its
flags and the lane LFSRs. -/
structure MOut where
  accs  : List (Nat × Option (List Nat × Nat))
  slot  : List (List Byte)
  flags : Flags
  lfsr  : List U32
  deriving DecidableEq, Repr

/-- The 4,096 elements of an accumulator; without an owner they are +0 (R167). -/
def Tile.accElems (t : Tile) (n : Nat) : List Nat :=
  let sub := t.acc.filter (fun e => e.1 / 4096 == n)
  (List.range 4096).map (fun i => (Store.get 0 sub (4096 * n + i)).toNat)

/-- An accumulator's type tag (R167). -/
def Tile.tagOf (t : Tile) (n : Nat) : Nat := Store.get 0 t.accTag n

/-- An accumulator written whole, with its tag. -/
def Tile.setAcc (t : Tile) (n : Nat) (v : List Nat) (tag : Nat) : Tile :=
  let new := ((List.range 4096).map (fun i => (4096 * n + i, BitVec.ofNat 32 (v.getD i 0)))).filter (fun e => e.2 != 0)
  { t with acc := t.acc.filter (fun e => e.1 / 4096 < n) ++ new ++ t.acc.filter (fun e => n < e.1 / 4096),
           accTag := Store.set 0 t.accTag n tag }

/-- An accumulator's owner (R263). -/
def Tile.ownerOf (t : Tile) (n : Nat) : Owner := Store.get .nobody t.accOwner n

/-- An accumulator's owner set. -/
def Tile.setOwner (t : Tile) (n : Nat) (o : Owner) : Tile := { t with accOwner := Store.set .nobody t.accOwner n o }

/-- An accumulator that nobody owns: +0 with tag 0 (R167). -/
def Tile.freeAcc (t : Tile) (n : Nat) : Tile := (t.setAcc n [] 0).setOwner n .nobody

/-- The lines of an accumulator line image (R262), as bytes. -/
def accLines (v : List Nat) : List (List Byte) :=
  (List.range 256).map (fun l => ((List.range 16).map (fun i => leBytes 4 (v.getD (16 * l + i) 0))).flatten)

/-- An MSPILL image: 256 lines of elements and the line of the tag (R178). -/
def spillImage (v : List Nat) (tag : Nat) : List (List Byte) := accLines v ++ [leBytes 64 tag]

/-- The elements that 256 lines hold (R262). -/
def elemsOfLines (ls : List Nat) : List Nat := (List.range 4096).map (fun i => bitsAt (lineAt ls (i / 16)) (i % 16 * 32) 32)

/-- The owner for which the X-core now uses accumulators (R168). -/
def Tile.user (t : Tile) : Owner :=
  if t.x.priv = 0 then .task t.task.uid else .handler t.task.uid t.x.priv.toNat

/-- The task an owner belongs to. -/
def Owner.uid : Owner → Nat
  | .nobody => 0
  | .task u => u
  | .handler u _ => u

/-- Line of a task frame where an owner's image of acc `n` begins (R340, R342). -/
def imageLine (o : Owner) (n : Nat) : Nat :=
  match o with
  | .handler _ _ => 19280 + 257 * n
  | _ => 6944 + 257 * n

/-- The lowest-numbered free frame of a context (R341). -/
def Ctx.lowFrame (c : Ctx) : Option Nat := (List.range c.cfg.nframes).find? (fun f => !c.frames.contains f)

/-- The physical address of a line of a frame. -/
def frameAddr (c : Ctx) (f line : Nat) : Nat := c.cfg.fbase + 2 ^ 21 * f + 64 * line

/-- The task of tile `g`, or a saved one, that an owner belongs to, with its context and frame; none where it has ended. -/
def State.holder (s : State) (g : Nat) (o : Owner) : Option Task :=
  if o = .nobody then none
  else if (s.tile g).task.live && (s.tile g).task.uid == o.uid then some (s.tile g).task
  else (Store.find s.saved o.uid).map (fun v => v.tile.task)

/-- That task replaced. -/
def State.setHolder (s : State) (g : Nat) (o : Owner) (k : Task) : State :=
  if (s.tile g).task.uid = o.uid then s.setTile g { s.tile g with task := k }
  else
    match Store.find s.saved o.uid with
    | some v => { s with saved := Store.put s.saved o.uid { v with tile := { v.tile with task := k } } }
    | none => s

/-- A frame taken for the running task where it holds none (R342); none where the context has none free. -/
def State.takeFrame (s : State) (g : Nat) : Option State :=
  let t := s.tile g
  if t.task.frame.isSome then some s
  else
    match s.ctx t.task.ctx with
    | none => none
    | some c =>
      match c.lowFrame with
      | none => none
      | some f =>
        some ((s.setCtx t.task.ctx { c with frames := f :: c.frames }).setTile g
          { t with task := { t.task with frame := some f } })

/-- Clocks of a spill or a fill (R168): declared figures in datum mode, free in free mode. -/
def State.moveTime (s : State) (g figure : Nat) : Nat :=
  if s.datumTile g then figure else 1 + Config.freeLatency s.fresh

/-- A spill or fill of acc `n` of tile `g` begins; it brings the accumulator to `who`. -/
def State.startMove (s : State) (g n : Nat) (fill : Bool) (who : Owner) : State :=
  let t := s.tile g
  let due := s.now + s.moveTime g (if fill then 1676 else 1516)
  (s.setTile g { t with accMoves := t.accMoves ++ [⟨n, due, fill, who⟩] }).tick

/-- First use of acc `n` by the X-core's present owner (R168): another owner's contents are spilled, the owner's image is
filled, or the accumulator is taken as it is, empty. None where a spill needs a frame and none is free. -/
def State.beginUse (s : State) (g n : Nat) : Option State :=
  let t := s.tile g
  let me := t.user
  if t.ownerOf n = me then some s
  else if t.accMoves.any (fun m => m.acc == n) then
    some (s.setTile g { t with accMoves := t.accMoves.map (fun (m : AccMove) =>
      if m.acc = n ∧ m.who = .nobody then { m with who := me } else m) })
  else if t.ownerOf n = .nobody then
    if t.task.images.contains (me, n) then some (s.startMove g n true me) else some (s.setTile g (t.setOwner n me))
  else if (t.ownerOf n).isOf t.task.uid then (s.takeFrame g).map (fun s => s.startMove g n false me)
  else some (s.startMove g n false me)

/-- First use of some accumulators; the flag tells that one lacks a frame. -/
def State.beginUses (s : State) (g : Nat) : List Nat → State × Bool
  | [] => (s, false)
  | n :: ns =>
    match s.beginUse g n with
    | some s' => s'.beginUses g ns
    | none => let r := s.beginUses g ns; (r.1, true)

/-- An accumulator image written to its owner's frame and recorded (R263, R342). -/
def State.writeImage (s : State) (g n : Nat) : State :=
  let t := s.tile g
  let o := t.ownerOf n
  match s.holder g o with
  | none => s
  | some k =>
    match k.frame, s.ctx k.ctx with
    | some f, some c =>
      let s := s.writePhys (frameAddr c f (imageLine o n)) (spillImage (t.accElems n) (t.tagOf n)).flatten
      s.setHolder g o { k with images := k.images ++ [(o, n)] }
    | _, _ => s

/-- An accumulator filled from the image of an owner of the tile's task (R168); the image is used up. Poison there discards the
task (R378). -/
def State.readImage (s : State) (g n : Nat) (me : Owner) : State :=
  let t := s.tile g
  match t.task.frame, s.ctx t.task.ctx with
  | some f, some c =>
    let a := frameAddr c f (imageLine me n)
    if s.poisoned a 16448 then s.beginEnd g 3 0x14 s.now
    else
    let ls := (List.range 257).map (fun l => Memory.num s.hbm (a + 64 * l) 64)
    let t := (t.setAcc n (elemsOfLines ls) (bitsAt (lineAt ls 256) 0 8)).setOwner n me
    (s.setTile g { t with task := { t.task with images := t.task.images.erase (me, n) } }).returnFrame g
  | _, _ => s

/-- A ring's shape record as a number; none without a record (R242). -/
def Tile.ringShape (t : Tile) (r : Ring) : Option Nat := if r.shape = 0x1FFF then none else some (leNat (t.line r.shape))

/-- A ring's domain tag is spectral (R184, R242). -/
def Tile.ringSpectral (t : Tile) (r : Ring) : Bool :=
  match t.ringShape r with
  | some v => decide (bit v 260 = 1)
  | none => t.task.lineSpectral r.base

/-- A ring's scale axis runs along columns (R184, R242). -/
def Tile.ringColumns (t : Tile) (r : Ring) : Bool :=
  match t.ringShape r with
  | some v => decide (bit v 261 = 1)
  | none => false

/-- The per-row scale line that a ring's shape record names (R165, R184). -/
def Tile.rowScaleLine (t : Tile) (r : Ring) : Int :=
  match t.ringShape r with
  | some v => (bitsAt v 448 16 : Nat)
  | none => 0

/-- The old accumulator value of a product word (R172): acc, +0, or ring C. -/
def oldElems (t : Tile) (w : MWord) (c : List Nat) : List Nat :=
  match w.init.toNat with
  | 0 => t.accElems w.acc.toNat
  | 1 => List.replicate 4096 0
  | _ => elemsOfLines c

/-- A term under the negate bit (R83). -/
def signTerm (neg : Bool) (x : FVal) : FVal := if neg then x.neg else x

/-- The exact sum of R83 over paired factors, rounded once to FP32 in RNE. -/
def productSum (neg : Bool) (old : Nat) (pairs : List (FVal × FVal)) : Nat × Flags :=
  let s := exactSum (f32 old :: pairs.map (fun p => signTerm neg (p.1.mul p.2).1)) 0
  let r := roundTo s.1 0 0 false 0
  (r.1, s.2 ||| r.2)

/-- The INT32 sum of R83, modulo 2^32. -/
def productInt (neg : Bool) (old : Nat) (pairs : List (Int × Int)) : Nat :=
  let p := pairs.foldl (fun a p => a + p.1 * p.2) 0
  intBits 12 (decodeInt 12 old + (if neg then -p else p))

/-- Flags ORed. -/
def orFlags (fs : List (Nat × Flags)) : Flags := fs.foldl (fun f r => f ||| r.2) 0

/-- The result of a word that writes its accumulator and nothing else. -/
def accOut (t : Tile) (n tag : Nat) (r : List (Nat × Flags)) : MOut :=
  { accs := [(n, some (r.map (fun e => e.1), tag))], slot := [], flags := orFlags r, lfsr := t.xr.lfsr }

/-- MMA, MMAQ and MMAL from the rows of their operands (R172). -/
def realProduct (t : Tile) (w : MWord) (q : MRead) (va vb : List (List FVal)) : MOut :=
  let old := oldElems t w q.c
  accOut t w.acc.toNat w.tC.toNat ((List.range 4096).map (fun i =>
    productSum (w.neg == 1) (old.getD i 0) ((va.getD (i / 64) []).zip (vb.getD (i % 64) []))))

/-- The integer products (R172). -/
def intProduct (t : Tile) (w : MWord) (q : MRead) (va vb : List (List Int)) : MOut :=
  let old := oldElems t w q.c
  accOut t w.acc.toNat w.tC.toNat ((List.range 4096).map (fun i =>
    (productInt (w.neg == 1) (old.getD i 0) ((va.getD (i / 64) []).zip (vb.getD (i % 64) [])), 0)))

/-- The rows of an operand of MMA or MMAQ. -/
def operandRows (w : MWord) (ls : List Nat) (ty : BitVec 4) (tr : BitVec 1) (sc : BitVec 2) (srow : Nat) :
    List (List FVal) :=
  row64 (fun r => (List.range (kspan w)).map (fun k =>
    operandValue ls ty.toNat (kspan w) (tr == 1) sc.toNat srow r k))

/-- The rows of an integer operand of MMA. -/
def operandInts (w : MWord) (ls : List Nat) (ty : BitVec 4) (tr : BitVec 1) : List (List Int) :=
  row64 (fun r => (List.range (kspan w)).map (fun k =>
    decodeInt ty.toNat (operandElem ls ty.toNat (kspan w) (tr == 1) r k)))

/-- MMA and MMAQ (R172). -/
def mmaRun (w : MWord) (t : Tile) (q : MRead) : MOut :=
  if w.tC = 2 then intProduct t w q (operandInts w q.a w.tA w.trA) (operandInts w q.b w.tB w.trB)
  else realProduct t w q (operandRows w q.a w.tA w.trA w.scA q.sa) (operandRows w q.b w.tB w.trB w.scB q.sb)

/-- MMAL (R165, R172). -/
def mmalRun (w : MWord) (t : Tile) (q : MRead) : MOut :=
  let rl := w.ksteps.toNat + 1
  let n := 256 * rl
  let va := row64 (fun r => (List.range n).map (fun k => decodeElement 1 (operandElem q.a 1 n (w.trA == 1) r k)))
  let vb := row64 (fun c => (List.range n).map (fun k => lqValue t.xr (tableOf w) q.b rl n c k))
  realProduct t w q va vb

/-- The factor pairs of slot `s` of output block `8 i + n` (R173): real bins 0 and 1, then real and imaginary parts; the
subtracted products have their first factor negated. -/
def spectralPairs (a b : List Nat) (steps i n s : Nat) : List (FVal × FVal) :=
  let x := fun (j p : Nat) => decodeFloat 1 (bitsAt (lineAt a (i * steps + j)) (16 * p) 16)
  let y := fun (j p : Nat) => decodeFloat 1 (bitsAt (lineAt b (n * steps + j)) (16 * p) 16)
  ((List.range steps).map (fun j =>
    if s < 2 then [(x j s, y j s)]
    else if s % 2 = 0 then [(x j s, y j s), ((x j (s + 1)).neg, y j (s + 1))]
    else [(x j (s - 1), y j s), (x j s, y j (s - 1))])).flatten

/-- MMAS (R173): element `i` of the accumulator is slot `i mod 32` of block `i div 32`. -/
def mmasRun (w : MWord) (t : Tile) (q : MRead) : MOut :=
  let old := oldElems t w q.c
  accOut t w.acc.toNat w.tC.toNat ((List.range 4096).map (fun i =>
    productSum (w.neg == 1) (old.getD i 0) (spectralPairs q.a q.b (w.ksteps.toNat + 1) (i / 32 / 8) (i / 32 % 8) (i % 32))))

/-- 64 rows of 64 elements given to `f` with the LFSR state of their column: in SR mode each row steps every lane once
before it rounds (R176, R177). -/
def roundRows (sr : Bool) (f : Nat → Nat → U32 → Nat × Flags) : Nat → Nat → List U32 → List (Nat × Flags) × List U32
  | 0, _, l => ([], l)
  | m + 1, r, l =>
    let l := if sr then l.map lfsrStep else l
    let out := (List.range 64).map (fun c => f r c (l.getD c 1))
    let rest := roundRows sr f m (r + 1) l
    (out ++ rest.1, rest.2)

/-- An accumulator element as an exact value under a tag (R167). -/
def tagValue (tag x : Nat) : FVal := if tag = 2 then .ofInt (decodeInt 12 x) else f32 x

/-- The element times the constant, where cen is 1, and 2^k (R176, R177): exact. -/
def scaledValue (t : Tile) (w : MWord) (tag x : Nat) : FVal × Flags :=
  let v := tagValue tag x
  let r := if cenOf w then v.mul (f32 (Store.get 0 t.xr.c (cidxOf w)).toNat) else (v, 0)
  (r.1.scale (mexpOf w), r.2)

/-- The result type of a tag (R176). -/
def tagType (tag : Nat) : Nat := if tag = 2 then 12 else 0

/-- A word that rounds each element of its accumulator once (R176). -/
def rowsOut (t : Tile) (w : MWord) (q : MRead) (f : Nat → U32 → Nat × Flags) : MOut :=
  let r := roundRows (q.rm == 5) (fun r c l => f (64 * r + c) l) 64 0 t.xr.lfsr
  { accs := [(w.acc.toNat, some (r.1.map (fun e => e.1), w.tC.toNat))], slot := [], flags := orFlags r.1, lfsr := r.2 }

/-- MSCAL (R176). -/
def mscalRun (w : MWord) (t : Tile) (q : MRead) : MOut :=
  let x := t.accElems w.acc.toNat
  rowsOut t w q (fun i l =>
    let v := scaledValue t w w.tC.toNat (x.getD i 0)
    let r := roundTo v.1 (tagType w.tC.toNat) q.rm (msatOf w) l
    (r.1, v.2 ||| r.2))

/-- The sum of two elements, rounded once; INT32 wraps or clamps without a flag (R176). -/
def addElem (w : MWord) (rm x y : Nat) (l : U32) : Nat × Flags :=
  if w.tC = 2 then (fitInt 12 (msatOf w) (decodeInt 12 x + decodeInt 12 y), 0)
  else
    let s := exactSum [f32 x, f32 y] rm
    let r := roundTo s.1 0 rm (msatOf w) l
    (r.1, s.2 ||| r.2)

/-- MADD and MRED with the elements they add (R176). -/
def maddRun (w : MWord) (t : Tile) (q : MRead) (y : List Nat) : MOut :=
  let x := t.accElems w.acc.toNat
  rowsOut t w q (fun i l => addElem w q.rm (x.getD i 0) (y.getD i 0) l)

/-- The elements that MSTA stores, stored row by stored row: accumulator rows or columns (R177). -/
def mstaValue (t : Tile) (w : MWord) (x : List Nat) (i p : Nat) : FVal × Flags :=
  scaledValue t w w.tC.toNat (x.getD (if w.trA = 1 then 64 * p + i else 64 * i + p) 0)

/-- A stored row as its lines (R177): it begins on a line boundary, and unused bytes are zero. -/
def storedRow (t : Nat) (es : List Nat) : List (List Byte) :=
  let v := (List.range 64).foldl (fun v j => v + es.getD j 0 % 2 ^ typeBits t * 2 ^ (j * typeBits t)) 0
  (List.range (max 1 (64 * typeBits t / 512))).map (fun l => leBytes 64 (v / 2 ^ (512 * l)))

/-- The slot lines of stored rows. -/
def storedRows (t : Nat) (es : List Nat) : List (List Byte) :=
  (row64 (fun i => storedRow t ((es.drop (64 * i)).take 64))).flatten

/-- MSTA (R177). -/
def mstaRun (w : MWord) (t : Tile) (q : MRead) : MOut :=
  let ty := w.tA.toNat
  let x := t.accElems w.acc.toNat
  let val := fun (i p : Nat) => mstaValue t w x i p
  if w.scA = 1 then
    let es := row64 (fun i => [0, 1].map (fun b => blockScale ty ((List.range 32).map (fun p => (val i (32 * b + p)).1))))
    let r := roundRows (q.rm == 5) (fun i p l =>
      let e := ((es.getD i []).getD (p / 32) (0, 0)).1
      let v := val i p
      if e = 0xFF then (nanCode ty, flNV)
      else
        let o := roundTo (v.1.scale (127 - (e : Int))) ty q.rm (msatOf w) l
        (o.1, v.2 ||| o.2)) 64 0 t.xr.lfsr
    let bytes := (es.flatten.map (fun e => BitVec.ofNat 8 e.1 : Nat × Flags → Byte))
    { accs := [], slot := storedRows ty (r.1.map (fun e => e.1)) ++ [bytes.take 64, bytes.drop 64],
      flags := orFlags r.1 ||| orFlags es.flatten, lfsr := r.2 }
  else
    let ty := slotType ty
    let r := roundRows (q.rm == 5) (fun i p l =>
      let v := val i p
      let o := roundTo v.1 ty q.rm (msatOf w) l
      (o.1, v.2 ||| o.2)) 64 0 t.xr.lfsr
    { accs := [], slot := storedRows ty (r.1.map (fun e => e.1)), flags := orFlags r.1, lfsr := r.2 }

end Sys2Proof.Machine
end

