-- ==== Sys2Proof/Machine/Matrix.lean ====
section
/-!
DEFINITION. The M-format words (R164 to R181), in the one shape in which they all run: checks (R23, R53, R170), first use
of accumulators (R168), stamp, readiness (R91, R166, R169, R180), execution checks (R174), effect.
-/

namespace Sys2Proof.Machine

open Host (Outcome)

/-- A ring that a word reads: its number, the pop bit, its place in TVAL (1 A, 2 B, 3 C), and the lines read. -/
structure RingRead where
  ring  : Nat
  pop   : Bool
  field : Nat
  lines : Nat
  deriving DecidableEq, Repr

/-- How a matrix word differs from others: `ok5` is its part of check 5; `want` and `doms` are check 1 of R174 (rings with
their place in TVAL), `tags` says whether checks 2 and 3 apply to the accumulators read, `axes` is check 4 (place, ring,
and whether columns are wanted); `claims` marks MOWN.claim, which does not wait for transfers; `refuse` is MFILL's check of
the lines read. -/
structure MPlan where
  ok5    : Bool
  named  : Bool
  source : Option Nat
  reads  : List RingRead
  fill   : Option (Nat × Nat)
  rd     : List Nat
  wr     : List Nat
  want   : Tile → Bool
  doms   : List (Nat × Nat)
  tags   : Bool
  axes   : List (Nat × Nat × Bool)
  srows  : List Nat
  book   : Option Nat
  cen    : Bool
  rnd    : Nat
  occ    : Nat
  lat    : Nat
  ew     : Nat × Nat
  claims : Bool
  refuse : MRead → Bool
  run    : Tile → MRead → MOut

/-- A word that names its accumulator and nothing else. -/
def MPlan.base (w : MWord) (occ lat : Nat) (run : Tile → MRead → MOut) : MPlan :=
  { ok5 := true, named := true, source := none, reads := [], fill := none, rd := [], wr := [w.acc.toNat],
    want := fun _ => w.spec == 1, doms := [], tags := false, axes := [], srows := [], book := none, cen := false, rnd := 0,
    occ := occ, lat := lat, ew := (9, 1), claims := false, refuse := fun _ => false, run := run }

/-- The rings a word names. -/
def MPlan.rings (p : MPlan) : List Nat := p.reads.map (fun r => r.ring) ++ (p.fill.map (fun f => f.1)).toList

/-- The accumulators a word names. -/
def MPlan.accs (p : MPlan) : List Nat := (p.rd ++ p.wr).eraseDups

/-- Check 5 of every matrix word (R28): reserved codes, and an unstamped long word in datum mode (R27). -/
def State.mfieldsOk (s : State) (w : MWord) : Bool :=
  w.resv == 0 && w.tC != 3 && w.init != 3 && w.scA != 3 && w.scB != 3 && !s.unstamped (mstamp w)

/-- A ring number that stands twice (R166). -/
def repeated : List Nat → Option Nat
  | [] => none
  | r :: rs => match repeated rs with
    | some x => some x
    | none => if rs.contains r then some r else none

/-- A RINGSET of ring `n` is in flight: words that name the ring wait for it (R222). -/
def Tile.ringComing (t : Tile) (n : Nat) : Bool := [t.l, t.x, t.s].any (fun k => k.pend.any (fun p => p.res.contains (.ring n)))

/-- Check 7 over the accumulator and ring fields (R23, R28, R166, R170, R242): the offending number. -/
def MPlan.badField (p : MPlan) (t : Tile) (acc : Nat) : Option Nat :=
  if p.named ∧ 48 ≤ acc then some acc
  else if p.source.any (48 ≤ ·) then p.source
  else
    match repeated p.rings.reverse with
    | some r => some r
    | none =>
      match p.rings.find? (fun r => !(t.ring r).isSet && !t.ringComing r) with
      | some r => some r
      | none => p.srows.find? (fun r => (t.ring r).shape == 0x1FFF && !t.ringComing r)

/-- Lines of a slot that a word reaches. -/
def Ring.slotLines (r : Ring) (i n : Nat) : List Int :=
  (List.range (min n r.lps)).map (fun k => ((r.base + i * r.lps + k : Nat) : Int))

/-- Lines read and lines written. -/
def MPlan.readLines (p : MPlan) (t : Tile) : List Int :=
  (p.reads.map (fun r => (t.ring r.ring).slotLines (t.ring r.ring).h r.lines)).flatten
def MPlan.writeLines (p : MPlan) (t : Tile) : List Int :=
  match p.fill with
  | some (r, n) => (t.ring r).slotLines (t.ring r).t n
  | none => []

/-- Lines of shape records and of per-row scales that a word consults (R165, R242). -/
def MPlan.recordLines (p : MPlan) (t : Tile) : List Int :=
  ((p.rings.filter (fun r => (t.ring r).shape != 0x1FFF)).map (fun r => ((t.ring r).shape : Int)))
    ++ p.srows.map (fun r => t.rowScaleLine (t.ring r))

/-- An array request of clock `now` for a line would wait: at a range lock, or for an earlier store of the X-core (R189,
R270). -/
def Tile.lineHeld (t : Tile) (now : Nat) (l : Int) : Bool :=
  t.cmds.any (fun c => decide (c.issued ≤ now) && inRanges c.dstLock l) ||
    t.asks.any (fun a => askCore a.rank == some .X && decide (a.since < now) && a.writes && decide ((a.line : Int) = l)) ||
    t.mopen.any (fun m => decide (m.issued < now) && m.fills l)

/-- What a matrix word waits for, with the reason code of R101 (R91): sources; rings, their slots and the slots' lines;
accumulators and their transfers; the done token's place; the array. -/
def MPlan.unready (p : MPlan) (s : State) (w : MWord) (rm : Nat) (lack : Bool) : Option (Nat × Wait) :=
  let t := s.myTile
  let srcs := (if p.cen then [Res.consts] else []) ++ (p.book.map Res.book).toList ++ (if rm = 5 then [Res.lfsr] else [])
  let record := p.recordLines t
  let lines := p.readLines t
  let full := ((p.reads.filter (fun r => t.slotNow r.ring (t.ring r.ring).h != .full)).map (fun r => r.ring)).eraseDups
  let empty := (p.fill.toList.filter (fun f => t.slotNow f.1 (t.ring f.1).t != .empty)).map (fun f => f.1)
  let busy := p.accs.find? (fun n => t.mopen.any (fun m => m.writes.contains n || (p.wr.contains n && m.accs.contains n)))
  let moving := p.accs.find? (fun n => t.accMoves.any (fun m => m.acc == n) || t.ownerOf n != t.user)
  let foreign := fun (n : Nat) => t.accMoves.any (fun m => m.acc == n && m.who != t.user)
  let q := (outQueue .X w.dport.toNat).getD 0
  if srcs.any (s.me.pending s.now) || t.lineOwed s.now (record ++ lines) (p.writeLines t) || record.any (t.lineHeld s.now) then
    some (2, .res)
  else if p.rings.any (fun n => [t.l, t.x, t.s].any (fun k => k.pending s.now (.ring n))) then
    some (3, .ringWords (p.rings.headD 0))
  else if full ≠ [] ∨ empty ≠ [] then
    some (3, (lackWait [] (if w.den = 1 ∧ (t.queue q).places s.now < 1 then [q] else []) full empty).getD .res)
  else if busy.isSome then some (4, .acc (busy.getD 0))
  else if lack then some (4, .frameFree)
  else if p.claims = false ∧ moving.isSome then some (4, .accMove (moving.getD 0))
  else if (p.accs.find? foreign).isSome then some (4, .accMove ((p.accs.find? foreign).getD 0))
  else if w.den = 1 ∧ (t.queue q).places s.now < 1 then some (6, .push q)
  else if s.now < t.arrayFree then some (7, .array)
  else none

/-- The fields that a matrix word uses of a ring's shape record: the domain, the scale axis, the per-row scale line (R165,
R174). -/
def MPlan.shapeUsed (p : MPlan) (n : Nat) : List Nat :=
  (if (p.doms.map (fun d => d.2)).contains n then [260] else [])
    ++ (if (p.axes.map (fun a => a.2.1)).contains n then [261] else [])
    ++ (if p.srows.contains n then [448] else [])

/-- R185 over the shape records that a matrix word consults (R242): the topmost offending field of the first bad one. -/
def MPlan.badRecord (p : MPlan) (t : Tile) : Option Nat :=
  (p.rings.filter (fun n => p.shapeUsed n != [])).findSome?
    (fun n => (t.ringShape (t.ring n)).bind (fun v => offending (p.shapeUsed n) v))

/-- The first execution check that fails: the shape records consulted (R185, R242), then the order of R174; the fault and its
TVAL. -/
def MPlan.trouble (p : MPlan) (t : Tile) (w : MWord) (q : MRead) : Option (Nat × U64) :=
  let tagOff := fun (n : Nat) => t.tagOf n != w.tC.toNat
  let domOff := fun (n : Nat) => (t.tagOf n == 1) != (w.tC == 1)
  let need := p.reads.map (fun r => (r.ring, r.lines)) ++ p.fill.toList
  match p.badRecord t with
  | some b => some (0x04, operandTval 2 b)
  | none =>
  match p.doms.find? (fun d => t.ringSpectral (t.ring d.2) != p.want t) with
  | some d => some (0x0C, operandTval d.1 d.2)
  | none =>
    match if p.tags then p.rd.find? domOff else none with
    | some n => some (0x0C, operandTval 3 (0x40 + n))
    | none =>
      match if p.tags then p.rd.find? tagOff else none with
      | some n => some (0x04, operandTval 3 (0x40 + n))
      | none =>
        match p.axes.find? (fun a => t.ringColumns (t.ring a.2.1) != a.2.2) with
        | some a => some (0x0D, operandTval a.1 a.2.1)
        | none =>
          match need.find? (fun e => (t.ring e.1).lps < e.2) with
          | some e => some (0x12, BitVec.ofNat 64 (e.1 * 2 ^ 16 + e.2 % 2 ^ 15))
          | none => if p.refuse q then some (0x04, operandTval 3 (0x40 + w.acc.toNat)) else none

/-- The lines of the slot at the head of a ring, as numbers. -/
def Tile.headLines (t : Tile) (r : RingRead) : List Nat :=
  ((t.ring r.ring).slotLines (t.ring r.ring).h r.lines).map (fun l => leNat (t.line l))

/-- What a matrix word reads at issue. -/
def MPlan.gather (p : MPlan) (t : Tile) (w : MWord) (rm : Nat) : MRead :=
  let lines := fun (f : Nat) => ((p.reads.filter (fun r => r.field == f)).map t.headLines).flatten
  let srow := fun (r : Nat) => if p.srows.contains r then leNat (t.line (t.rowScaleLine (t.ring r))) else 0
  { a := lines 1, b := lines 2, c := lines 3, sa := srow w.ringA.toNat, sb := srow w.ringB.toNat, rm := rm }

/-- The heads of the rings read, after issue: slot and position move where the pop bit is 1 (R166, R244). -/
def Tile.popHeads (t : Tile) (rs : List RingRead) : Tile :=
  rs.foldl (fun t r =>
    let g := t.ring r.ring
    if r.pop then t.setRing r.ring { g.setSlot g.h .reading with h := g.after g.h } else t) t

/-- The tail of the ring written, after issue: the slot is writing (R177, R244). -/
def Tile.fillTail (t : Tile) (f : Option (Nat × Nat)) : Tile :=
  match f with
  | none => t
  | some (n, _) =>
    let g := t.ring n
    t.setRing n { g.setSlot g.t .writing with t := g.after g.t }

/-- The lines of the slot at the tail of the ring written, with what the word writes to them (R177). -/
def Tile.slotOut (t : Tile) (f : Option (Nat × Nat)) (ls : List (List Byte)) : List (Int × List Byte) :=
  match f with
  | none => []
  | some (n, _) =>
    let g := t.ring n
    ls.mapIdx (fun k b => (((g.base + g.t * g.lps + k : Nat) : Int), b))

/-- New contents of accumulators; a release leaves one without owner (R167, R179). -/
def Tile.putAccs (t : Tile) (as : List (Nat × Option (List Nat × Nat))) : Tile :=
  as.foldl (fun t a =>
    match a.2 with
    | some v => t.setAcc a.1 v.1 v.2
    | none => t.freeAcc a.1) t

/-- Clocks that the transfers of some accumulators still take beyond now (R168, R179). -/
def Tile.transferTime (t : Tile) (now : Nat) (ns : List Nat) (datum : Bool) : Nat :=
  (t.accMoves.filter (fun m => ns.contains m.acc)).foldl (fun a m =>
    let more := if datum ∧ m.fill = false ∧ t.task.images.contains (m.who, m.acc) then 1676 else 0
    max a (m.at_ + more - now)) 0

/-- What a matrix word computes: accumulators and LFSRs get their new values, which no word reads before it completes; its flags
and the lines of the slot that it fills come with its completion (R169, R177, R181). -/
def Tile.matrixResult (t : Tile) (m : MOpen) (o : MOut) (fill : Option (Nat × Nat)) (due : Nat) : Tile :=
  let done := { m with due := due, flags := o.flags, slot := t.slotOut fill o.slot, rings := [], held := [] }
  let t := t.putAccs o.accs
  { t with mopen := t.mopen.map (fun k => if k = m then done else k), xr := { t.xr with lfsr := o.lfsr } }

/-- The effect of a matrix word that issues (R180, R181). It reads its rings' lines now, or, where an access that comes
before its own holds one of them, once none does (R189, R270). -/
def State.matrixEffect (s : State) (i : Instr) (op : Nat) (w : MWord) (p : MPlan) (rm : Nat) (q : MRead) : State :=
  let t := s.myTile
  let due := s.now + p.lat + t.transferTime s.now p.accs (s.datumTile s.cur.tile)
  let rel := (p.reads.filter (fun r => r.pop)).map (fun r => (r.ring, (t.ring r.ring).h))
  let fills := (p.fill.map (fun f => (f.1, (t.ring f.1).t))).toList
  let dq := if w.den = 1 then outQueue .X w.dport.toNat else none
  let lines := p.readLines t
  let m : MOpen := { op := op, w := w, due := due, flags := 0, accs := p.accs, writes := p.wr, names := p.rings,
                     release := rel, fill := fills, doneQ := dq, ew := p.ew, issued := s.now, word := i, pc := s.me.pc, rm := rm,
                     rings := t.rings, held := if lines.any (t.lineHeld s.now) then lines else [], sa := q.sa, sb := q.sb }
  let u := { t with mopen := t.mopen ++ [m] }
  let u := if m.held.isEmpty then u.matrixResult m (p.run t q) p.fill due else u
  let u := ((u.popHeads p.reads).fillTail p.fill).touchLines s.now rankArray (p.srows.map (fun n => t.rowScaleLine (t.ring n)))
  let u := match dq with
    | some d => u.setQueue d { u.queue d with resv := (u.queue d).resv + 1 }
    | none => u
  let u := { u with arrayFree := s.now + p.occ }
  let res := (if rm = 5 then [Res.lfsr] else []) ++ (if p.cen then [Res.readConsts] else [])
    ++ (p.book.map Res.readBook).toList
  ((s.setMyTile u).chargeLines s.cur.tile lines).issue (s.me.pc + 24) (s.now + 1)
    { res := res, due := due, flags := 0, cap := none, ew := (9, 0), asks := some (s.now, p.lat) }

/-- A matrix word whose stamp has come: readiness, execution checks, effect. -/
def State.matrixIssue (s : State) (i : Instr) (op : Nat) (w : MWord) (p : MPlan) (lack : Bool) : Outcome State Fault Refusal :=
  let rm := s.me.rounding p.rnd
  match p.unready s w rm lack with
  | some (reason, c) => s.notYet (mstamp w) reason c
  | none =>
    let q := p.gather s.myTile w rm
    let later := (p.readLines s.myTile).any (s.myTile.lineHeld s.now)
    match (if later then { p with refuse := fun _ => false } else p).trouble s.myTile w q with
    | some (code, v) => s.fault code v
    | none => .next (s.matrixEffect i op w p rm q)

/-- The stamp of a word is passed, or lies beyond the frame, when the core reaches it (R101). -/
def State.stampLost (s : State) (stamp : Option (BitVec 30)) : Bool :=
  s.datumTile s.cur.tile &&
    (decide (s.me.held.getD ((s.frameOrg s.cur.tile).toNat + (stamp.getD 0).toNat) < s.now) ||
      (s.me.held.isNone && decide (s.myTile.task.frameLen.toNat ≤ (stamp.getD 0).toNat)))

/-- A matrix word (R23, R164 to R181). Spills and fills of its accumulators begin when the core reaches it (R168). -/
def State.matrixWord (s : State) (i : Instr) (op : Nat) (w : MWord) (p : MPlan) : Outcome State Fault Refusal :=
  if s.mfieldsOk w = false ∨ p.ok5 = false ∨ s.cur.core ≠ .X then s.illegal i
  else
    match p.badField s.myTile w.acc.toNat with
    | some n => s.badOperand 3 n
    | none =>
      if 3 ≤ w.dport.toNat then s.fault 0x08 (BitVec.ofNat 64 w.dport.toNat)
      else if s.stampLost (mstamp w) then s.atStamp (mstamp w) (.next s)
      else
        let r := s.beginUses s.cur.tile p.accs
        r.1.atStamp (mstamp w) (r.1.matrixIssue i op w p r.2)

/-- Fields that a product word may set (R53, R165, R170); `lo` is the lowest bit of unit 4 it uses. -/
def productFields (w : MWord) (lo : Nat) : Bool :=
  onlyBits w lo && (w.init == 2 || (ringCOf w == 0 && popCOf w == 0))

/-- A type that may be read transposed (R165). -/
def transposable (t : BitVec 4) (tr : BitVec 1) : Bool :=
  tr == 0 || ((typeBits t.toNat == 16 || typeBits t.toNat == 8) && t != 6 && t != 7)

/-- What product words share (R164, R166, R169, R174): `na` and `nb` lines of A and B. -/
def productPlan (w : MWord) (ok5 : Bool) (na nb occ : Nat) (ew : Nat) (run : Tile → MRead → MOut) : MPlan :=
  let ks := w.ksteps.toNat + 1
  let c : List RingRead := if w.init = 2 then [⟨ringCOf w, popCOf w == 1, 3, 256⟩] else []
  let axis := fun (f : Nat) (r : BitVec 3) (tr : BitVec 1) (sc : BitVec 2) =>
    if sc = 1 then [(f, r.toNat, tr == 1)] else []
  let rows := fun (r : BitVec 3) (sc : BitVec 2) => if sc = 2 then [r.toNat] else []
  { MPlan.base w occ (16 + 16 * w.ksteps.toNat) run with
    ok5 := ok5, reads := [⟨w.ringA.toNat, w.popA == 1, 1, na⟩, ⟨w.ringB.toNat, w.popB == 1, 2, nb⟩] ++ c,
    rd := if w.init = 0 then [w.acc.toNat] else [],
    doms := [(1, w.ringA.toNat), (2, w.ringB.toNat)] ++ c.map (fun r => (3, r.ring)), tags := true,
    axes := axis 1 w.ringA w.trA w.scA ++ axis 2 w.ringB w.trB w.scB,
    srows := rows w.ringA w.scA ++ rows w.ringB w.scB, ew := (ew, ks) }

/-- Lines of an operand with its trailer (R164 to R166). -/
def operandLines (t : BitVec 4) (tr : BitVec 1) (sc : BitVec 2) (n : Nat) : Nat :=
  dataLines t.toNat n (tr == 1) + (if sc = 1 then n / 32 else 0)

/-- The weight of MMA and MMAQ (R346). -/
def productWeight (w : MWord) : Nat := if w.tA = 5 ∨ w.tB = 5 then 7 else if typeBits w.tA.toNat = 16 then 5 else 6

/-- MMA and MMAQ: `types` says which types the word takes (R53). -/
def mmaPlan (w : MWord) (types : Bool) : MPlan :=
  let n := kspan w
  let occ := if w.tA = 5 ∨ w.tB = 5 then n / 16 else 8 * (w.ksteps.toNat + 1)
  productPlan w (types && productFields w 26 && w.spec == 0 && transposable w.tA w.trA && transposable w.tB w.trB)
    (operandLines w.tA w.trA w.scA n) (operandLines w.tB w.trB w.scB n) occ (productWeight w) (mmaRun w)

def planMma (w : MWord) : MPlan :=
  let types := (((w.tA == 1 || w.tA == 2) && w.tB == w.tA) || ((w.tA == 3 || w.tA == 4) && (w.tB == 3 || w.tB == 4)))
      && w.tC == 0 || ((w.tA == 9 || w.tA == 10) && (w.tB == 9 || w.tB == 10) && w.tC == 2)
  (mmaPlan w (types && w.scA == 0 && w.scB == 0))

def execMma (w : MWord) (s : State) : Outcome State Fault Refusal := s.matrixWord (.mma w) 0 w (planMma w)

def planMmaq (w : MWord) : MPlan :=
  (mmaPlan w (mmaqType w.tA && mmaqType w.tB && w.tC == 0 && w.scA != 0 && w.scB != 0))

def execMmaq (w : MWord) (s : State) : Outcome State Fault Refusal := s.matrixWord (.mmaq w) 1 w (planMmaq w)

def planMmal (w : MWord) : MPlan :=
  let ks := w.ksteps.toNat + 1
  let n := 256 * ks
  let ok := w.tA == 1 && w.tB == 6 && w.tC == 0 && w.scA == 0 && w.scB == 1 && w.spec == 0 && w.trB == 0 &&
    productFields w 24
  let p := productPlan w ok (operandLines w.tA w.trA 0 n) (64 * ks + n / 32) (16 * ks) 7 (mmalRun w)
  { p with book := some (tableOf w) }

def execMmal (w : MWord) (s : State) : Outcome State Fault Refusal := s.matrixWord (.mmal w) 2 w (planMmal w)

def planMmas (w : MWord) : MPlan :=
  let ks := w.ksteps.toNat + 1
  let ok := w.tA == 7 && w.tB == 7 && w.tC == 1 && w.scA == 0 && w.scB == 0 && w.spec == 1 && w.trA == 0 && w.trB == 0 &&
    productFields w 26
  (productPlan w ok (16 * ks) (8 * ks) ((ks + 1) / 2) 8 (mmasRun w))

def execMmas (w : MWord) (s : State) : Outcome State Fault Refusal := s.matrixWord (.mmas w) 3 w (planMmas w)

/-- Fields that no word but a product uses are zero, and the others where the word does not use them (R53, R170). -/
def otherFields (w : MWord) (ty tc ring tr sp : Bool) : Bool :=
  w.tB == 0 && w.init == 0 && w.ksteps == 0 && w.ringB == 0 && w.popB == 0 && w.trB == 0 && w.scB == 0 && w.neg == 0 &&
    (ty || w.tA == 0) && (tc || w.tC == 0) && (ring || (w.ringA == 0 && w.popA == 0)) &&
    (tr || (w.trA == 0 && w.scA == 0)) && (if sp then (w.spec == 1) == (w.tC == 1) else w.spec == 0)

/-- Ring A read (R170). -/
def readsA (w : MWord) (n : Nat) : List RingRead := [⟨w.ringA.toNat, w.popA == 1, 1, n⟩]

/-- MZERO (R175). -/
def planMzero (w : MWord) : MPlan :=
  { MPlan.base w 1 4 (fun t _ => accOut t w.acc.toNat w.tC.toNat (List.replicate 4096 (0, 0))) with
      ok5 := otherFields w false true false false true && onlyBits w 30 }

def execMzero (w : MWord) (s : State) : Outcome State Fault Refusal := s.matrixWord (.mzero w) 4 w (planMzero w)

/-- MLDA (R175). -/
def planMlda (w : MWord) : MPlan :=
  { MPlan.base w 16 24 (fun t q => accOut t w.acc.toNat w.tC.toNat ((elemsOfLines q.a).map (·, 0))) with
      ok5 := otherFields w true true true false true && onlyBits w 30 && w.tA == (if w.tC = 2 then 12 else 0),
      reads := readsA w 256, doms := [(1, w.ringA.toNat)] }

def execMlda (w : MWord) (s : State) : Outcome State Fault Refusal := s.matrixWord (.mlda w) 5 w (planMlda w)

/-- Targets of MSTA by type tag (R177). -/
def mstaTypes (w : MWord) : Bool :=
  if w.tC = 1 then w.tA == 7 && w.trA == 0 && w.scA == 0
  else (decide (w.tA.toNat ≤ 5) || typeInt w.tA.toNat) && (w.scA == 0 || (w.scA == 1 && mmaqType w.tA))

/-- Slot lines of MSTA (R177). -/
def mstaLines (w : MWord) : Nat :=
  if w.tC = 1 then 128 else 64 * max 1 (64 * typeBits w.tA.toNat / 512) + (if w.scA = 1 then 2 else 0)

/-- MSTA (R177): its ring's domain is held against the accumulator's (R174). -/
def planMsta (w : MWord) : MPlan :=
  { MPlan.base w 16 40 (mstaRun w) with
      ok5 := otherFields w true true true true true && onlyBits w 9 && w.popA == 1 && mstaTypes w && mrndOf w != 7 &&
        !(cenOf w && w.tC == 2),
      fill := some (w.ringA.toNat, mstaLines w), rd := [w.acc.toNat], wr := [],
      want := fun t => t.tagOf w.acc.toNat == 1, doms := [(1, w.ringA.toNat)], tags := true,
      axes := if w.scA = 1 then [(1, w.ringA.toNat, false)] else [], cen := cenOf w, rnd := mrndOf w }

def execMsta (w : MWord) (s : State) : Outcome State Fault Refusal := s.matrixWord (.msta w) 6 w (planMsta w)

/-- MCOPY (R175). -/
def planMcopy (w : MWord) : MPlan :=
  let src := accSOf w
  { MPlan.base w 16 16 (fun t _ => accOut t w.acc.toNat (t.tagOf src) ((t.accElems src).map (·, 0))) with
      ok5 := otherFields w false false false false false && onlyBits w 20 && decide (w.p4.toNat < 2 ^ 26),
      source := some src, rd := [src] }

def execMcopy (w : MWord) (s : State) : Outcome State Fault Refusal := s.matrixWord (.mcopy w) 7 w (planMcopy w)

/-- The transpose of a 64 × 64 block (R175). -/
def transposed (x : List Nat) : List Nat := (List.range 4096).map (fun i => x.getD (64 * (i % 64) + i / 64) 0)

/-- MTRN (R175): it takes type tags 0 and 2. -/
def planMtrn (w : MWord) : MPlan :=
  let src := accSOf w
  { MPlan.base w 16 24 (fun t _ => accOut t w.acc.toNat (t.tagOf src) ((transposed (t.accElems src)).map (·, 0))) with
      ok5 := otherFields w false true false false false && onlyBits w 20 && decide (w.p4.toNat < 2 ^ 26) && w.tC != 1,
      source := some src, rd := [src], tags := true }

def execMtrn (w : MWord) (s : State) : Outcome State Fault Refusal := s.matrixWord (.mtrn w) 8 w (planMtrn w)

/-- MSCAL (R176). -/
def planMscal (w : MWord) : MPlan :=
  { MPlan.base w 16 16 (mscalRun w) with
      ok5 := otherFields w false true false false true && onlyBits w 9 && mrndOf w != 7 && !(cenOf w && w.tC == 2),
      rd := [w.acc.toNat], tags := true, cen := cenOf w, rnd := mrndOf w }

def execMscal (w : MWord) (s : State) : Outcome State Fault Refusal := s.matrixWord (.mscal w) 9 w (planMscal w)

/-- MADD (R176); of its accumulators acc is checked before acc S (notes/assumptions 119). -/
def planMadd (w : MWord) : MPlan :=
  let src := accSOf w
  { MPlan.base w 16 16 (fun t q => maddRun w t q (t.accElems src)) with
      ok5 := otherFields w false true false false true && onlyBits w 20 && mrndOf w != 7,
      source := some src, rd := [w.acc.toNat, src], tags := true, rnd := mrndOf w }

def execMadd (w : MWord) (s : State) : Outcome State Fault Refusal := s.matrixWord (.madd w) 10 w (planMadd w)

/-- MRED (R176). -/
def planMred (w : MWord) : MPlan :=
  { MPlan.base w 16 24 (fun t q => maddRun w t q (elemsOfLines q.a)) with
      ok5 := otherFields w false true true false true && onlyBits w 26 && mrndOf w != 7, reads := readsA w 256,
      rd := [w.acc.toNat], doms := [(1, w.ringA.toNat)], tags := true, rnd := mrndOf w }

def execMred (w : MWord) (s : State) : Outcome State Fault Refusal := s.matrixWord (.mred w) 11 w (planMred w)

/-- MSPILL (R178). -/
def planMspill (w : MWord) : MPlan :=
  let n := w.acc.toNat
  { MPlan.base w 16 40 (fun t _ =>
        { accs := [], slot := spillImage (t.accElems n) (t.tagOf n), flags := 0, lfsr := t.xr.lfsr }) with
      ok5 := otherFields w false false true false false && onlyBits w 30 && w.popA == 1,
      fill := some (w.ringA.toNat, 257), rd := [n], wr := [] }

def execMspill (w : MWord) (s : State) : Outcome State Fault Refusal := s.matrixWord (.mspill w) 12 w (planMspill w)

/-- MFILL (R178): a line 256 that holds no tag is illegal operand. -/
def planMfill (w : MWord) : MPlan :=
  { MPlan.base w 16 40 (fun t q => accOut t w.acc.toNat (lineAt q.a 256) ((elemsOfLines q.a).map (·, 0))) with
      ok5 := otherFields w false false true false false && onlyBits w 30, reads := readsA w 257,
      refuse := fun q => decide (3 ≤ lineAt q.a 256) }

def execMfill (w : MWord) (s : State) : Outcome State Fault Refusal := s.matrixWord (.mfill w) 13 w (planMfill w)

/-- The accumulators of MOWN (R179). -/
def mownAccs (w : MWord) : List Nat := (List.range 48).filter (fun n => bit (mownMask w) n == 1)

/-- What MOWN's two forms share (R170, R179): `mo` in unit 4. -/
def mownPlan (w : MWord) (mo : Nat) (run : Tile → MRead → MOut) : MPlan :=
  { MPlan.base w 1 8 run with
    ok5 := otherFields w false false false false false && w.acc == 0 && w.p6 == 0 && decide (w.p5.toNat < 2 ^ 24) &&
      decide (bitsAt w.p4.toNat 24 6 = 16 * mo),
    named := false, wr := mownAccs w }

/-- MOWN.claim (R179): it issues while its transfers run, and completes when they have ended. -/
def planMownClaim (w : MWord) : MPlan :=
  { mownPlan w 0 (fun t _ => { accs := [], slot := [], flags := 0, lfsr := t.xr.lfsr }) with claims := true }

def execMownClaim (w : MWord) (s : State) : Outcome State Fault Refusal := s.matrixWord (.mownClaim w) 14 w (planMownClaim w)

/-- MOWN.release (R179). -/
def planMownRelease (w : MWord) : MPlan :=
  (mownPlan w 1 (fun t _ =>
      { accs := (mownAccs w).map (·, none), slot := [], flags := 0, lfsr := t.xr.lfsr }))

def execMownRelease (w : MWord) (s : State) : Outcome State Fault Refusal := s.matrixWord (.mownRelease w) 14 w (planMownRelease w)

/-- What each M-format word that reads rings does, for one that computes after its issue. -/
def matrixPlan : Instr → Option MPlan
  | .mma w => some (planMma w)
  | .mmaq w => some (planMmaq w)
  | .mmal w => some (planMmal w)
  | .mmas w => some (planMmas w)
  | .mlda w => some (planMlda w)
  | .mred w => some (planMred w)
  | .mfill w => some (planMfill w)
  | _ => none

/-- What an open word reads that computes after its issue: its lines now, its per-row scale lines as it found them (R165). -/
def MOpen.gather (m : MOpen) (p : MPlan) (t : Tile) : MRead :=
  { p.gather { t with rings := m.rings } m.w m.rm with sa := m.sa, sb := m.sb }

/-- An open word computes after its issue; an MFILL that finds no image does not. -/
def Tile.computeHeld (t : Tile) (m : MOpen) (due : Nat) : Tile :=
  match matrixPlan m.word with
  | none => t
  | some p =>
    let q := m.gather p t
    if p.refuse q then t else t.matrixResult m (p.run { t with rings := m.rings } q) none due

/-- An open word whose lines nothing holds any longer reads them and computes, at the end of clock `now` (R189, R270). -/
def Tile.readHeld (t : Tile) (now : Nat) (datum : Bool) (m : MOpen) : Tile :=
  match matrixPlan m.word with
  | none => t
  | some p =>
    let busy := m.held.any (t.lineHeld m.issued)
    let due := if datum then m.due else now + (if busy then 1 else 0) + p.lat
    let t := { t with x := t.x.mapAsked m.issued (fun q => { q with due := max q.due due }) }
    if busy then t else t.computeHeld m (max m.due due)

/-- An open MFILL whose lines nothing holds any longer finds no image in them (R178). -/
def Tile.fillRefused (t : Tile) (m : MOpen) : Bool :=
  !m.held.isEmpty && !m.held.any (t.lineHeld m.issued) && (matrixPlan m.word).any (fun p => p.refuse (m.gather p t))

/-- An MFILL that finds no image has no effect (R178, R9): the slot that it popped is full again, the place of its token free. -/
def Tile.dropFill (t : Tile) (m : MOpen) : Tile :=
  let back := fun (t : Tile) (e : Nat × Nat) =>
    let r := t.ring e.1
    let r := r.setSlot e.2 .full
    t.setRing e.1 (if r.h = r.after e.2 then { r with h := e.2 } else r)
  let t := m.release.foldl back t
  let t := match m.doneQ with
    | some q => t.setQueue q { t.queue q with resv := (t.queue q).resv - 1 }
    | none => t
  let k := t.x
  { t with mopen := t.mopen.erase m, x := { k with pend := k.pend.filter (fun p => !p.askedAt m.issued) } }

end Sys2Proof.Machine
end

