-- ==== Sys2Proof/Machine/Engine.lean ====
section
/-!
DEFINITION. Engine commands as they issue (R182 to R190): fields, shape records (R184 to R186), global reach (R318), the
checks of R187, and the place in the FIFO.
-/

namespace Sys2Proof.Machine

open Host (Outcome)

/-- Which fields a command uses (R193): ed, es, eh, all conversion fields, cvt_rnd alone, had, count, twin, and xp_en with
xp. Every command may use eb and inc. -/
structure EUse where
  d : Bool := false
  s : Bool := false
  h : Bool := false
  c : Bool := false
  r : Bool := false
  a : Bool := false
  n : Bool := false
  t : Bool := false
  x : Bool := false
  deriving DecidableEq, Repr

/-- The command table's columns by op8 (R193). -/
def euseOf (op : Nat) : EUse :=
  match op with
  | 0xC0 => { d := true, s := true, h := true, c := true, x := true }
  | 0xC1 => { d := true, s := true, h := true, c := true, t := true, x := true }
  | 0xC2 => { d := true, s := true, h := true, c := true, n := true, x := true }
  | 0xC3 => { d := true, s := true, h := true, c := true, n := true, t := true, x := true }
  | 0xC4 => { d := true, s := true, h := true, c := true, x := true }
  | 0xC5 => { d := true, s := true, h := true, c := true, a := true }
  | 0xC6 => { d := true, s := true, h := true, c := true }
  | 0xC7 => { s := true, h := true }
  | 0xC8 => { s := true, h := true }
  | 0xC9 => { d := true, s := true, h := true, c := true, n := true }
  | 0xCA => { d := true, s := true, h := true, c := true, n := true }
  | 0xCB => { d := true, s := true, c := true, a := true, n := true }
  | 0xCC => { d := true, s := true, h := true, c := true, n := true }
  | 0xCD => { d := true, s := true, n := true }
  | 0xCE => { d := true, s := true, h := true, c := true, n := true }
  | 0xCF => { d := true, s := true, h := true, r := true, n := true }
  | 0xD0 => { n := true }
  | 0xD1 => { n := true }
  | 0xD2 => { d := true, s := true, n := true }
  | 0xD3 => { d := true, s := true }
  | _ => { s := true, n := true }

/-- An engine word's op8 and fields. -/
def engineParts : Instr → Option (Nat × EWord)
  | .cpy w => some (0xC0, w)
  | .cpyo w => some (0xC1, w)
  | .cpyg w => some (0xC2, w)
  | .cpys w => some (0xC3, w)
  | .cpyr w => some (0xC4, w)
  | .cpyq w => some (0xC5, w)
  | .cpydq w => some (0xC6, w)
  | .pref w => some (0xC7, w)
  | .cflush w => some (0xC8, w)
  | .xfft w => some (0xC9, w)
  | .xifft w => some (0xCA, w)
  | .xhad w => some (0xCB, w)
  | .xexp w => some (0xCC, w)
  | .xtrl w => some (0xCD, w)
  | .sacc w => some (0xCE, w)
  | .amo w => some (0xCF, w)
  | .publ w => some (0xD0, w)
  | .disc w => some (0xD1, w)
  | .lxfer w => some (0xD2, w)
  | .nxtx w => some (0xD3, w)
  | .nxarm w => some (0xD4, w)
  | _ => none

/-- The copy commands of R194. -/
def isCopy (op : Nat) : Bool := decide (0xC0 ≤ op ∧ op ≤ 0xC4)

/-- Commands that move rows of a record between the two sides: copies, CPYQ, CPYDQ. -/
def movesRows (op : Nat) : Bool := decide (0xC0 ≤ op ∧ op ≤ 0xC6)

/-- The strided side is the destination (R193). -/
def outward (op : Nat) : Bool := op == 0xC1 || op == 0xC3

/-- The command gathers or scatters rows by an index stream (R194). -/
def gathers (op : Nat) : Bool := op == 0xC2 || op == 0xC3

/-- Transforms in the banks (R200). -/
def isTransform (op : Nat) : Bool := decide (0xC9 ≤ op ∧ op ≤ 0xCD)

/-- The command reads a shape record (R193). -/
def readsShape (op : Nat) : Bool := (euseOf op).h && op != 0xCF

/-- Check 7 over the overlay, from its top (R182): the offending field's TVAL. -/
def ewordOperand (u : EUse) (w : EWord) : Option U64 :=
  let reg := fun (i : Nat) (used : Bool) (pos : Nat) (r : BitVec 5) =>
    if used then (if 28 ≤ r.toNat then some (operandTval i r.toNat) else none)
    else if r ≠ 0 then some (operandTval 3 pos) else none
  let zero := fun (used : Bool) (pos v : Nat) => if !used && v != 0 then some (operandTval 3 pos) else none
  [reg 0 u.d 57 w.ed, reg 1 u.s 52 w.es, reg 2 u.h 47 w.eh, reg 3 true 42 w.eb, zero u.c 26 w.cvtType.toNat,
   zero (u.c || u.r) 23 w.cvtRnd.toNat, zero u.c 22 w.cvtSat.toNat, zero u.a 20 w.had.toNat, zero u.x 15 w.xpEn.toNat,
   zero u.x 13 w.xp.toNat, zero u.t 12 w.twin.toNat, zero u.n 0 w.count.toNat].findSome? id

/-- Check 5 of an engine command's head and codes (R26, R51, R54, R55, R182). -/
def ewordCodes (op : Nat) (w : EWord) : Bool :=
  let h := w.h
  h.etype == 0 && h.rnd == 0 && h.sat == 0 && h.nowb == 0 && h.mask == 0 && h.capN == 0 && h.capEn == 0 && h.lits.isEmpty &&
    (h.x3 == 0 || (op == 0xCF && h.x3 != 7)) && w.cvtType != 15 && (w.cvtType != 6 || isCopy op) && w.cvtRnd != 7

/-- The fields a command uses of its record, by their low bits (R185, R193). -/
def shapeUsed (op : Nat) : List Nat :=
  let rows := [0, 16, 32, 48, 64, 128, 192, 256]
  if gathers op then [0, 16, 32, 48, 64, 256, 260, 261, 262, 264, 266, 288, 320, 384]
  else if isCopy op then rows ++ [260, 261, 262, 264, 266, 288, 320]
  else if op = 0xC5 then rows ++ [260, 261, 266, 288, 320]
  else if op = 0xC6 then rows ++ [260, 261, 266, 268, 269, 280, 288, 320]
  else if op = 0xC7 ∨ op = 0xC8 then rows ++ [261, 266, 320]
  else if op = 0xC9 ∨ op = 0xCA then [256, 272, 288]
  else if op = 0xCC then [0, 16, 32, 48, 256, 261, 266, 268, 269, 280, 288, 320]
  else [256, 288, 384]

/-- Check 4 of R187 (R185). -/
def badShape (op v : Nat) : Option Nat := offending (shapeUsed op) v

/-- Bits per element, counting LQ8 by weights (R186). -/
def elemBits (t : Nat) : Nat := if t = 6 then 2 else typeBits t

/-- Elements per row with the padding of R67 (R186). -/
def paddedDim (v kind : Nat) : Nat := if kind = 2 ∨ kind = 3 then (shDim0 v + 31) / 32 * 32 else shDim0 v

/-- Lines of one row of type `t` (R186). -/
def rowLineCount (v kind t : Nat) : Nat := (paddedDim v kind * elemBits t + 511) / 512

/-- Rows of a record (R186). -/
def rowsOf (v : Nat) : Nat := shDim1 v * shDim2 v * shDim3 v

/-- Blocks of a row along dim0 (R186). -/
def blocksPerRow (v : Nat) : Nat := (shDim0 v + 31) / 32

/-- Blocks of a block-scaled tensor (R186); `rows` rows are moved. -/
def blockCount (v rows : Nat) : Nat :=
  if shColumns v then shDim0 v * ((shDim1 v + 31) / 32) * shDim2 v * shDim3 v else rows * blocksPerRow v

/-- The block of element `e` of row `r` (R68, R186). -/
def blockOf (v r e : Nat) : Nat :=
  if shColumns v then
    (r / shDim1 v * ((shDim1 v + 31) / 32) + r % shDim1 v / 32) * shDim0 v + e
  else r * blocksPerRow v + e / 32

/-- Rows a command moves (R186, R194): rows that pad a column of blocks have no lines (notes/assumptions 116). -/
def Cmd.rowCount (c : Cmd) : Nat := if gathers c.op then c.rows.length else rowsOf c.shape

/-- The strided side's base address (R193). -/
def Cmd.base64 (c : Cmd) : Nat := if outward c.op then c.ed.toNat else c.es.toNat

/-- Where row `i` begins on the strided side (R186, R194). -/
def Cmd.rowStart (c : Cmd) (i : Nat) : Nat :=
  let v := c.shape
  if gathers c.op then wrapTo 64 ((c.base64 : Int) + c.rows.getD i 0 * shStride v 1)
  else
    let i1 := i % shDim1 v
    let i2 := i / shDim1 v % shDim2 v
    let i3 := i / shDim1 v / shDim2 v
    wrapTo 64 ((c.base64 : Int) + i1 * shStride v 1 + i2 * shStride v 2 + i3 * shStride v 3)

/-- Types of the source and of the destination of a row command (R193, R194, R197, R198). -/
def Cmd.srcType (c : Cmd) : Nat := if outward c.op then c.w.cvtType.toNat else shType c.shape
def Cmd.dstType (c : Cmd) : Nat := if outward c.op then shType c.shape else c.w.cvtType.toNat

/-- The kind under which rows are laid out on the destination side: CPYQ makes kind 2 (R197). -/
def Cmd.dstKind (c : Cmd) : Nat := if c.op = 0xC5 then 2 else shKind c.shape

/-- Lines per row on the source side and on the destination side. -/
def Cmd.srcLines (c : Cmd) : Nat := rowLineCount c.shape (shKind c.shape) c.srcType
def Cmd.dstLines (c : Cmd) : Nat := rowLineCount c.shape c.dstKind c.dstType

/-- Scale lines beside the rows: of the source and of the destination (R186, R194, R197, R198). -/
def Cmd.srcScales (c : Cmd) : Nat :=
  if shKind c.shape = 2 ∨ shKind c.shape = 3 then (blockCount c.shape c.rowCount + 63) / 64 else 0
def Cmd.dstScales (c : Cmd) : Nat :=
  if c.op = 0xC6 then 0 else if c.op = 0xC5 then (blockCount c.shape c.rowCount + 63) / 64 else c.srcScales

/-- The first line and the lines of `n` bytes of scratch from a byte address. -/
def spanOf (addr n : Nat) : Nat × Nat := (addr / 64, if n = 0 then 0 else (addr % 64 + n + 63) / 64)

/-- The mask of kind 1, read from scratch: bits of the first `n` destination lines, counted from the side address (R186). -/
def Tile.scratchMask (t : Tile) (addr n : Nat) : Nat :=
  let b := (n + 7) / 8
  let r := spanOf addr b
  bitsAt (leNat ((List.range r.2).map (fun k => t.line (((r.1 + k : Nat) : Int)))).flatten) (8 * (addr % 64)) n

/-- Ones among the first `n` bits. -/
def onesBelow (v : Nat) : Nat → Nat
  | 0 => 0
  | n + 1 => onesBelow v n + bit v n

/-- Lines of the scratch side of a row command (R186, R189): its own count, what is present of a compressed scratch
source, and the scale lines. -/
def Cmd.scratchLines (c : Cmd) (t : Tile) : Nat :=
  if outward c.op then
    let n := c.rowCount * c.srcLines
    (if shKind c.shape = 1 then onesBelow (t.scratchMask (shSide c.shape) n) n else n) + c.srcScales
  else c.rowCount * c.dstLines + c.dstScales

/-- Lines that a transform reads and writes (R200). -/
def Cmd.xformLines (c : Cmd) (t : Tile) : Nat × Nat :=
  let n := c.w.count.toNat
  match c.op with
  | 0xCB => let p := max 1 (2 ^ (c.w.had.toNat + 3) * typeBits c.w.cvtType.toNat / 512); (n * p, n * p)
  | 0xCC =>
    if shKind c.shape = 1 then (onesBelow (t.scratchMask (shSide c.shape) n) n, n)
    else (rowsOf c.shape * rowLineCount c.shape 2 (shType c.shape) + (blockCount c.shape (rowsOf c.shape) + 63) / 64,
          rowsOf c.shape * rowLineCount c.shape 2 c.w.cvtType.toNat)
  | _ => (n, n)

/-- The frame length that line 0 of an NXTX slot gives (R204). -/
def Tile.slotFrame (t : Tile) (es : Nat) : Nat := bitsAt (leNat (t.line ((es / 64 : Nat) : Int))) 0 16

/-- The lines of the scratch side of a command that is timed by them (R207). -/
def Cmd.sideLines (c : Cmd) (t : Tile) : Nat :=
  if movesRows c.op then c.scratchLines t
  else if isTransform c.op then (c.xformLines t).2
  else if c.op = 0xD2 then c.w.count.toNat else 0

/-- A range of lines without those out of range, which no lock holds (R251). -/
def clipRange (r : Nat × Nat) : Nat × Nat := (r.1, min r.2 (5115 - r.1))

/-- The line ranges that a command touches: sources, then destinations (R189); none behind a region-1 address
(notes/assumptions 120). -/
def Cmd.ranges (c : Cmd) (t : Tile) : List (Nat × Nat) × List (Nat × Nat) :=
  let n := c.w.count.toNat
  let mask := if shKind c.shape = 1 then [spanOf (shSide c.shape) ((n + 7) / 8)] else []
  if outward c.op then
    let m := c.rowCount * c.srcLines
    ((c.es.toNat / 64, c.scratchLines t) ::
      (if shKind c.shape = 1 then [spanOf (shSide c.shape) ((m + 7) / 8)] else []), [])
  else if c.op = 0xC5 then ([], [(c.ed.toNat / 64, c.scratchLines t), (c.eh.toNat / 64, 1)])
  else if movesRows c.op then ([], [(c.ed.toNat / 64, c.scratchLines t)])
  else if isTransform c.op then
    ((c.es.toNat / 64, (c.xformLines t).1) :: (if c.op = 0xCC then mask else []), [(c.ed.toNat / 64, (c.xformLines t).2)])
  else
    match c.op with
    | 0xCE =>
      let z := typeBits (shType c.shape) / 8
      ([(c.es.toNat / 64, (n * z + 63) / 64), (shIndex c.shape / 64, (shIndex c.shape % 64 + 4 * n + 63) / 64)], [])
    | 0xCF => ([], [(c.eh.toNat / 64, 1)])
    | 0xD2 => ([(c.es.toNat / 64, n)], [])
    | 0xD3 => ([(c.es.toNat / 64 + 1, (t.slotFrame c.es.toNat + 63) / 64)], [(c.es.toNat / 64, 1)])
    | _ => ([], [])

/-- Lines that a line mask has bits for: of CPYG those of the table up to the last row that it takes (notes/assumptions 40). -/
def Cmd.maskBits (c : Cmd) : Nat :=
  (if gathers c.op && !outward c.op then c.rows.foldl (fun m r => max m (r + 1)) 0 else c.rowCount) * c.srcLines

/-- The runs of a line mask (R186): whole lines of scratch, or lines from its address on the global side. -/
def Cmd.maskRuns (c : Cmd) : List (Option (Nat × Nat)) :=
  if shKind c.shape = 1 then
    if outward c.op then
      let r := spanOf (shSide c.shape) ((c.maskBits + 7) / 8)
      (List.range r.2).map (fun k => some (64 * (r.1 + k), 64))
    else (List.range ((c.maskBits + 511) / 512)).map (fun k => some (shSide c.shape + 64 * k, 64))
  else []

/-- The mask in the bytes read of its runs. -/
def Cmd.maskOf (c : Cmd) (bs : List Byte) : Nat :=
  if outward c.op then bitsAt (leNat bs) (8 * (shSide c.shape % 64)) c.maskBits else leNat bs

/-- The runs of a command's data lines (R186, R194): of a compressed source, the present lines stand consecutively. Bit `m`
of the mask counts lines of the expanded tensor; for CPYG those of the whole table (notes/assumptions 40). -/
def Cmd.dataRuns (c : Cmd) (mask : Nat) : List (Option (Nat × Nat)) :=
  let n := c.srcLines
  (List.range (c.rowCount * n)).map (fun k =>
    let i := k / n
    let j := k % n
    if shKind c.shape = 1 then
      let m := if gathers c.op && !outward c.op then c.rows.getD i 0 * n + j else k
      if bit mask m = 1 then some ((c.es.toNat + 64 * onesBelow mask m) % 2 ^ 64, 64) else none
    else if outward c.op then some (c.es.toNat + 64 * k, 64)
    else some ((c.rowStart i + 64 * j) % 2 ^ 64, 64))

/-- Bytes of a command's global side as they stand at its issue, where they can be looked at: not those of a peer. -/
def State.peek (s : State) (g : Nat) (c : Cmd) (va n : Nat) : Option (List Byte) :=
  let k := (s.tile g).task
  let at_ := if c.op = 0xC4 then some va
    else match s.translate g k.windows va .read with | .ok (ia, _) => some ia | .error _ => none
  at_.bind (fun ia => if regionOf ia = 1 then some (Memory.bytes (s.tile (bitsAt ia 19 29)).scratch (bitsAt ia 0 19) n)
    else s.readReach (s.reach k.ctx k.twins ia) n)

/-- The data lines of a global source behind a line mask, which check 3 of R187 looks up at issue (R186, R318); none where
the mask cannot be looked at. -/
def State.maskedRuns (s : State) (g : Nat) (c : Cmd) : List (Nat × Nat) :=
  if shKind c.shape ≠ 1 ∨ outward c.op ∨ !(movesRows c.op || c.op == 0xC7 || c.op == 0xC8) then []
  else
    let lines := c.maskRuns.map (fun r => r.bind (fun a => s.peek g c a.1 a.2))
    if lines.any (fun l => l.isNone) then []
    else (c.dataRuns (leNat (lines.map (fun l => l.getD [])).flatten)).filterMap id

/-- The global runs a command reaches, in order (R186, R318): address and bytes; empty where it has no global side. -/
def Cmd.globalRuns (c : Cmd) : List (Nat × Nat) :=
  let v := c.shape
  let lines := if outward c.op then c.dstLines else c.srcLines
  let n := c.rowCount
  let shape := movesRows c.op || c.op == 0xC7 || c.op == 0xC8
  if shape = false then []
  else
    let expanded := shKind v = 1 ∧ outward c.op = false
    let data := if expanded then [] else (List.range n).map (fun i => (c.rowStart i, 64 * lines))
    let side :=
      if outward c.op ∧ shKind v = 1 then []
      else if shKind v = 1 then
        let rows := if gathers c.op then c.rows.foldl (fun m r => max m (r + 1)) 0 else n
        [(shSide v, (rows * lines + 511) / 512 * 64)]
      else if c.srcScales = 0 then []
      else if gathers c.op then
        (List.range n).map (fun i => (shSide v + c.rows.getD i 0 * blocksPerRow v, blocksPerRow v))
      else [(shSide v, 64 * c.srcScales)]
    data ++ side

/-- The need of a command's global side. -/
def globalNeed (op : Nat) : Need := if outward op then .write else .read

/-- One address of a command's global side checked (R187, R318, R319); device registers take no engine access (R351). -/
def State.checkAddr (s : State) (g : Nat) (op va : Nat) (need : Need) : Option (Nat × Nat) :=
  if op = 0xC4 then
    if regionOf va = 1 ∧ va < 2 ^ 52 ∧ s.refuses g need va = false then none else some (0x06, va)
  else
    match s.translate g (s.tile g).task.windows va need with
    | .error e => some (e, va)
    | .ok (ia, _) => if regionOf ia = 15 then some (0x06, va) else none

/-- The first byte of some runs that lies outside the window `w` (R318). -/
def outsideWindow (w : Nat) : List (Nat × Nat) → Option Nat
  | [] => none
  | (a, n) :: rs =>
    if n = 0 then outsideWindow w rs
    else if windowCovers w a = false then some a
    else if windowCovers w (a + n - 1) = false then some ((bitsAt w 38 38 + 1) * 2 ^ 16)
    else outsideWindow w rs

/-- Check 3 of R187 over a command's runs: each line translated, and every byte in the window of the lowest byte. -/
def State.checkRuns (s : State) (g op : Nat) (runs : List (Nat × Nat)) (need : Need) : Option (Nat × Nat) :=
  let runs := runs.filter (fun r => r.2 != 0)
  let each := fun (_ : Unit) => runs.findSome? (fun r =>
    (List.range ((r.2 + 63) / 64)).findSome? (fun k => s.checkAddr g op (r.1 + 64 * k) need))
  match runs with
  | [] => none
  | r :: rs =>
    if op = 0xC4 then each ()
    else
      let low := rs.foldl (fun m x => min m x.1) r.1
      match windowFor (s.tile g).task.windows low with
      | none => some (0x05, low)
      | some w =>
        match outsideWindow w runs with
        | some a => some (0x05, a)
        | none => each ()

/-- The flow entry that NXARM names (R359), as a number. -/
def State.flowEntry (s : State) (f : Nat) : Nat :=
  (s.devGet (0x3000000 + 16 * f)).toNat + (s.devGet (0x3000000 + 16 * f + 8)).toNat * 2 ^ 64

/-- Check 2 of R187: the first misaligned address. -/
def Cmd.misaligned (c : Cmd) : Option U64 :=
  let off := fun (use : Bool) (v : U64) (n : Nat) => if use && v.toNat % n != 0 then some v else none
  let scratchD := (movesRows c.op && !outward c.op) || isTransform c.op
  let scratchS := outward c.op || isTransform c.op || c.op == 0xCE || c.op == 0xD2 || c.op == 0xD3
  [off scratchD c.ed 64, off (c.op == 0xCF) c.ed (if c.w.count.toNat % 4 = 1 then 8 else 4), off scratchS c.es 64,
   off (euseOf c.op).h c.eh 64, off (c.w.eb != 0) c.eb 16].findSome? id

/-- Check 3 of R187. -/
def State.checkWindows (s : State) (g : Nat) (c : Cmd) : Option (Nat × Nat) :=
  match c.op with
  | 0xCE =>
    if regionOf c.ed.toNat = 1 ∧ c.ed.toNat < 2 ^ 52 ∧ s.refuses g .write c.ed.toNat = false then none
    else some (0x06, c.ed.toNat)
  | 0xCF =>
    match s.checkAddr g c.op c.ed.toNat .read with
    | some e => some e
    | none => s.checkAddr g c.op c.ed.toNat .write
  | 0xD2 => if regionOf c.ed.toNat = 3 ∧ c.ed.toNat < 2 ^ 52 then none else some (0x06, c.ed.toNat)
  | 0xD3 => if s.datumTile g then some (0x06, c.es.toNat) else none
  | 0xD4 =>
    let e := s.flowEntry c.es.toNat
    if s.datumTile g ∨ 1024 ≤ c.es.toNat ∨ bit e 127 = 0 ∨ bit e 124 = 1 ∨ bit e 123 = 1 ∨ bitsAt e 110 10 ≠ g then
      some (0x06, c.es.toNat)
    else none
  | _ =>
    if s.datumTile g ∧ (c.op = 0xC7 ∨ c.op = 0xC8) then some (0x06, c.es.toNat)
    else s.checkRuns g c.op (s.maskedRuns g c ++ c.globalRuns) (globalNeed c.op)

/-- TVAL of illegal operand naming a field (R182). -/
def nameEd (w : EWord) : U64 := operandTval 0 w.ed.toNat
def nameEs (w : EWord) : U64 := operandTval 1 w.es.toNat
def nameEh (w : EWord) : U64 := operandTval 2 w.eh.toNat

/-- The expansion point of a copy (R195). -/
def Cmd.point (c : Cmd) : Nat := if c.w.xpEn = 1 then c.w.xp.toNat else shPoint c.shape

/-- Types that are only moved whole (R194). -/
def wholeType (t : Nat) : Bool := t == 6 || t == 7 || t == 8 || t == 14

/-- The parcel rules of R258 for a scratch destination that a command writes; `point3` says it writes at point 3. -/
def packedOk (k : Task) (line : Int) (point3 : Bool) (kind t : Nat) : Bool :=
  match k.parcelOf line with
  | none => true
  | some d => if bit d.toNat 33 = 1 then point3 && kind == (if t = 6 then 3 else 2) else !point3

/-- A line lies in a parcel that records another type (R258). -/
def typedOff (k : Task) (line : Int) (t : Nat) : Bool := (k.lineType line).any (fun p => p != t)

/-- Check 5 of R187 for the row commands (R194, R195, R197, R198, R258). -/
def Cmd.rowTypes (c : Cmd) (k : Task) : Option U64 :=
  let v := c.shape
  let t := shType v
  let ct := c.w.cvtType.toNat
  let line : Int := ((if outward c.op then c.es else c.ed).toNat / 64 : Nat)
  let recorded := typedOff k line ct
  let q := quantType (shType v) && t != 9
  let listed := match c.op with
    | 0xC5 => mmaqType c.w.cvtType
    | 0xC6 => decide (ct ≤ 2)
    | _ => true
  let own := match c.op with
    | 0xC5 => (t != 0 && t != 1) || (c.w.had != 0 && shDim0 v % 2 ^ (c.w.had.toNat + 3) != 0)
    | 0xC6 => shKind v != 2 || !q
    | _ => ((wholeType t || wholeType ct || shKind v == 2 || shKind v == 3) && t != ct)
      || (gathers c.op && (shDim1 v != 1 || shDim2 v != 1 || shDim3 v != 1 || shColumns v && decide (2 ≤ shKind v)))
      || (c.point == 3 && decide (shKind v < 2))
  let point3 := isCopy c.op && c.point == 3
  if listed = false then some (operandTval 3 26)
  else if own || recorded || (!outward c.op && !packedOk k line point3 (shKind v) ct) then some (nameEh c.w)
  else none

/-- Ranges of lines overlap without being equal (R200). -/
def overlapUnequal (a n b m : Nat) : Bool := decide (a < b + m ∧ b < a + n) && !(a == b && n == m)

/-- A scratch side's first line lies in a parcel of the other domain (R187, R285). -/
def domainOff (k : Task) (addr : U64) (spectral : Bool) : Bool :=
  (k.parcelOf ((addr.toNat / 64 : Nat) : Int)).isSome && k.lineSpectral ((addr.toNat / 64 : Nat) : Int) != spectral

/-- A scratch side of a transform lies in a parcel that records another type than the side's (R258): of XFFT and XIFFT one whose
domain is the side's, since check 6 answers for the other (R285); the compressed source of XEXP where the parcel is not packed;
where lines are moved as they are, none (notes/assumptions 114). -/
def Cmd.sideTypes (c : Cmd) (k : Task) : Bool :=
  let ct := c.w.cvtType.toNat
  let ty := shType c.shape
  let off := fun (a : U64) (t : Nat) => typedOff k (a.toNat / 64 : Nat) t
  let side := fun (a : U64) (spectral : Bool) (t : Nat) => !domainOff k a spectral && off a t
  let packed := (k.parcelOf (c.es.toNat / 64 : Nat)).any (fun d => bit d.toNat 33 == 1)
  match c.op with
  | 0xC9 => side c.ed true ct || side c.es false ty
  | 0xCA => side c.ed false ct || side c.es true ty
  | 0xCB => off c.ed ct || off c.es ct
  | 0xCC => shKind c.shape == 2 && (off c.ed ct || (!packed && off c.es ty))
  | _ => false

/-- Check 5 of R187 for transforms (R193, R200, R258). -/
def Cmd.xformTypes (c : Cmd) (t : Tile) : Option U64 :=
  let v := c.shape
  let ty := shType v
  let ct := c.w.cvtType.toNat
  let n := c.w.count.toNat
  let float3 := decide (ct ≤ 2)
  let ls := c.xformLines t
  let d := c.ed.toNat / 64
  let listed := match c.op with
    | 0xC9 => ct == 7 || ct == 8
    | 0xCA => ct == 1 || ct == 0
    | 0xCB => float3
    | 0xCC => if shKind v = 1 then ct == 0 else float3
    | _ => true
  let paired := match c.op with
    | 0xC9 => (ty == 1 && ct == 7) || (ty == 0 && ct == 8)
    | 0xCA => (ty == 7 && ct == 1) || (ty == 8 && ct == 0)
    | 0xCC => shKind v == 1 || shKind v == 2
    | _ => true
  let counted := if c.op = 0xCC ∧ shKind v ≠ 1 then n == 0 else n != 0
  if c.op = 0xCC ∧ paired = false then some (nameEh c.w)
  else if listed = false then some (operandTval 3 26)
  else if c.op = 0xCC ∧ shKind v = 1 ∧ c.w.cvtRnd ≠ 0 then some (operandTval 3 23)
  else if c.op = 0xCC ∧ shKind v = 1 ∧ c.w.cvtSat ≠ 0 then some (operandTval 3 22)
  else if c.op = 0xCB ∧ c.w.had = 0 then some (operandTval 3 20)
  else if counted = false then some (operandTval 3 0)
  else if paired = false then some (nameEh c.w)
  else if packedOk t.task (d : Int) false 0 0 = false || c.sideTypes t.task then some (nameEh c.w)
  else if overlapUnequal d ls.2 (c.es.toNat / 64) ls.1 then some (nameEd c.w)
  else none

/-- Check 5 of R187 (R193, R200 to R204, R359). -/
def State.checkTypes (s : State) (g : Nat) (c : Cmd) : Option U64 :=
  let t := s.tile g
  let n := c.w.count.toNat
  let badCount := some (operandTval 3 0)
  if movesRows c.op then c.rowTypes t.task
  else if isTransform c.op then c.xformTypes t
  else
    match c.op with
    | 0xCE =>
      let ty := shType c.shape
      if n = 0 then badCount
      else if ty ≠ 0 ∧ ty ≠ 1 ∧ ty ≠ 12 then some (nameEh c.w)
      else if c.w.cvtType.toNat ≠ ty then some (operandTval 3 26)
      else if typedOff t.task (c.es.toNat / 64 : Nat) ty then some (nameEh c.w) else none
    | 0xCF =>
      if 4 ≤ n ∨ n = 3 ∨ (n = 2 ∧ 3 ≤ c.w.h.x3.toNat) then badCount
      else if packedOk t.task (c.eh.toNat / 64 : Nat) false 0 0 = false then some (nameEh c.w) else none
    | 0xD3 => if packedOk t.task (c.es.toNat / 64 : Nat) false 0 0 = false then some (nameEh c.w) else none
    | 0xD0 => if 256 ≤ n then badCount else none
    | 0xD1 => if 256 ≤ n then badCount else none
    | 0xD2 => if n = 0 then badCount else none
    | 0xD4 =>
      if 8 ≤ n then badCount
      else if (t.ring n).isSet = false ∨ (t.ring n).lps < 2 then some (nameEs c.w) else none
    | _ => none

/-- Check 6 of R187 (R200, R285): ed before es. -/
def Cmd.checkDomains (c : Cmd) (k : Task) : Option U64 :=
  let pair := fun (d s : Bool) =>
    if domainOff k c.ed d then some (nameEd c.w) else if domainOff k c.es s then some (nameEs c.w) else none
  if outward c.op then (if domainOff k c.es (shSpectral c.shape) then some (nameEs c.w) else none)
  else if movesRows c.op then (if domainOff k c.ed (shSpectral c.shape) then some (nameEd c.w) else none)
  else
    match c.op with
    | 0xC9 => pair true false
    | 0xCA => pair false true
    | 0xCB => pair false false
    | 0xCC => pair false false
    | _ => none

/-- Checks 2 to 6 of R187 in order: the fault and its TVAL. No command has a scale-axis rule that check 4 does not make
first (R198), so check 7 never fails. -/
def State.checkCommand (s : State) (g : Nat) (c : Cmd) : Option (Nat × U64) :=
  match c.misaligned with
  | some v => some (0x0E, v)
  | none =>
    match s.checkWindows g c with
    | some e => some (e.1, BitVec.ofNat 64 e.2)
    | none =>
      match if readsShape c.op then badShape c.op c.shape else none with
      | some p => some (0x04, operandTval 2 p)
      | none =>
        match s.checkTypes g c with
        | some v => some (0x04, v)
        | none => (c.checkDomains (s.tile g).task).map (fun v => (0x0C, v))

/-- The place a command's path leads to (R207): that of its first global run, or the address it names. -/
def State.pathOf (s : State) (g : Nat) (c : Cmd) : Nat :=
  let va := ((c.globalRuns.filter (fun r => r.2 != 0)).map (fun r => r.1)).headD c.base64
  if c.op = 0xC4 then va
  else
    match s.translate g (s.tile g).task.windows va (globalNeed c.op) with
    | .ok (ia, _) => ia
    | .error _ => 0

/-- Hops of the route to a peer (R351, R355). -/
def State.routeHops (s : State) (g peer : Nat) : Nat :=
  bitsAt (s.devGet (0x4000000 + 0x800 * dieOf g + 8 * peer)).toNat 32 8

/-- Clocks from the stamp to the first line, and from line to line (R207); for a command that moves no line, to its
completion. -/
def State.declared (s : State) (g : Nat) (c : Cmd) : Nat × Nat :=
  if movesRows c.op then
    let ia := s.pathOf g c
    if regionOf ia = 1 then (12 + remoteFigure g (bitsAt ia 19 29), 2)
    else if outward c.op then (492, 4) else (652, 4)
  else if isTransform c.op then (60, 48)
  else
    match c.op with
    | 0xCE => (16 + c.w.count.toNat + remoteFigure g (bitsAt c.ed.toNat 19 29), 0)
    | 0xD2 => (12 + 900 * s.routeHops g (bitsAt c.ed.toNat 40 8), 2)
    | _ => (652, 0)

/-- Clocks to a command's first access: declared in datum mode, free otherwise; the frame of an NXTX may leave at issue (R361). -/
def State.leadTime (s : State) (g : Nat) (c : Cmd) : Nat :=
  if s.datumTile g then (s.declared g c).1 else if c.op = 0xD3 then 0 else 1 + Config.freeLatency s.fresh

/-- Index rows as they stand at issue (R194, R318). -/
def Tile.indexRows (t : Tile) (v n : Nat) : List Nat :=
  (List.range n).map (fun i => t.readAt ((shIndex v + 4 * i : Nat) : Int) 4)

/-- Lines of an index stream. -/
def indexLines (v n : Nat) : List Int := (List.range ((shIndex v % 64 + 4 * n + 63) / 64)).map (fun k =>
  ((shIndex v / 64 + k : Nat) : Int))

/-- The command that a word makes: everything it reads at issue (R182, R184, R318). In datum mode the lines of an LXFER
leave at the stamp (R204). -/
def State.command (s : State) (op : Nat) (w : EWord) : Cmd :=
  let t := s.myTile
  let k := s.me
  let eh := k.reg w.eh.toNat
  let shape := if readsShape op then leNat (t.line ((eh.toNat / 64 : Nat) : Int)) else 0
  let rows := if gathers op then t.indexRows shape w.count.toNat else []
  let dq := if w.doneEn = 1 then outQueue s.cur.core w.donePort.toNat else none
  let c : Cmd :=
    { op := op, w := w, pc := k.pc, ed := k.reg w.ed.toNat, es := k.reg w.es.toNat, eh := eh, eb := k.reg w.eb.toNat,
      shape := shape, rows := rows, rnd := k.rounding w.cvtRnd.toNat, priv := k.priv.toNat, srcLock := [], dstLock := [],
      mark := 0, paired := false, issued := s.now, base := s.now, lead := 0, started := false, plan := [],
      next := 0, trouble := none, flags := 0, lfsr := seedOf shape, fetched := [],
      doneQ := dq, due := 0, sent := false, late := false, faulted := false }
  let r := c.ranges t
  let c := { c with srcLock := r.1.map clipRange, dstLock := r.2.map clipRange, lead := s.leadTime s.cur.tile c }
  { c with due := c.base + c.firstStep (s.datumTile s.cur.tile) }

/-- The core's FIFO. -/
def fifoOf : CoreId → Fifo
  | .S => .store
  | _ => .load

/-- What an engine word waits for at issue, with its reason (R91, R101, R184, R188): its registers; its record and index
stream, which it reads after its core's earlier writes to their lines and after every command that locks them; a place. -/
def State.ewordWait (s : State) (op : Nat) (w : EWord) : Option (Nat × Wait) :=
  let t := s.myTile
  let k := s.me
  let u := euseOf op
  let regs := (if u.d then [w.ed] else []) ++ (if u.s then [w.es] else []) ++ (if u.h then [w.eh] else []) ++ [w.eb]
  let rec_ : Int := ((k.reg w.eh.toNat).toNat / 64 : Nat)
  let shape := leNat (t.line rec_)
  let lines := (if readsShape op then [rec_] else []) ++ (if gathers op then indexLines shape w.count.toNat else [])
  if regs.any (fun r => k.pending s.now (.s r.toNat)) || lines.any (t.writeLeft s.cur.core s.now) then some (2, .res)
  else
    match lines.find? (fun l => inRange l && t.writeLocked l) with
    | some l => some (2, .lock l.toNat)
    | none =>
      if 32 ≤ (t.fifo (fifoOf s.cur.core)).length then some (6, .fifo)
      else
        match if w.doneEn = 1 then outQueue s.cur.core w.donePort.toNat else none with
        | some q => if (t.queue q).places s.now < 1 then some (6, .push q) else none
        | none => none

/-- A command that passes its checks takes its place, its lock and its done-token place (R188, R189, R192); an NXTX may act at
once (R361); out-of-range lines of its record and index stream are latched (R251). -/
def State.enqueue (s : State) (w : EWord) (c : Cmd) : State :=
  let t := s.myTile
  let f := fifoOf s.cur.core
  let rank := if f = .load then rankCopyIn else rankCopyOut
  let t := if readsShape c.op then t.touch s.now rank ((c.eh.toNat / 64 : Nat) : Int) else t
  let t := if gathers c.op then t.touchLines s.now rank (indexLines c.shape w.count.toNat) else t
  let t := match c.doneQ with
    | some q => t.setQueue q { t.queue q with resv := (t.queue q).resv + 1 }
    | none => t
  let t := t.setFifo f (t.fifo f ++ [c])
  let s := ((s.setMyTile t).tick).issue (s.afterLong w.h) (s.now + 1)
    { res := [], due := s.now + 1, flags := 0, cap := none, ew := (1, 0) }
  if c.op = 0xD3 then s.due (.engineSectorPerformed s.cur.tile f) else s

/-- The clock until which a CPYG or CPYS of a free-mode task still reads its index stream: its issue comes one clock per row
later (R318). -/
def State.gatherUntil (s : State) (op : Nat) (w : EWord) : Option Nat :=
  if gathers op = false ∨ s.datumTile s.cur.tile then none
  else
    let c := s.me.held.getD (s.now + w.count.toNat)
    if s.now < c then some c else none

/-- An engine word whose stamp has come (R187, R188). -/
def State.engineIssue (s : State) (op : Nat) (w : EWord) : Outcome State Fault Refusal :=
  match s.ewordWait op w, s.gatherUntil op w with
  | some (reason, c), _ => s.notYet w.h.stamp reason c
  | none, some c => .next (s.mapMe (fun k => { k with run := .waiting (.stamp c), held := some c }))
  | none, none =>
    let c := s.command op w
    match s.checkCommand s.cur.tile c with
    | some (code, v) => s.fault code v
    | none => .next (s.enqueue w c)

/-- An engine word (R23, R182, R187, R193). -/
def State.engineWord (s : State) (i : Instr) (op : Nat) (w : EWord) : Outcome State Fault Refusal :=
  if ewordCodes op w = false ∨ s.unstamped w.h.stamp ∨ s.cur.core = .X ∨ (op = 0xD4 ∧ s.cur.core ≠ .L) then s.illegal i
  else
    match ewordOperand (euseOf op) w with
    | some v => s.fault 0x04 v
    | none =>
      if w.doneEn = 1 ∧ (outQueue s.cur.core w.donePort.toNat).isNone then
        s.fault 0x08 (BitVec.ofNat 64 w.donePort.toNat)
      else s.atStamp w.h.stamp (s.engineIssue op w)

def execCpy (w : EWord) (s : State) : Outcome State Fault Refusal := s.engineWord (.cpy w) 0xC0 w

def execCpyo (w : EWord) (s : State) : Outcome State Fault Refusal := s.engineWord (.cpyo w) 0xC1 w

def execCpyg (w : EWord) (s : State) : Outcome State Fault Refusal := s.engineWord (.cpyg w) 0xC2 w

def execCpys (w : EWord) (s : State) : Outcome State Fault Refusal := s.engineWord (.cpys w) 0xC3 w

def execCpyr (w : EWord) (s : State) : Outcome State Fault Refusal := s.engineWord (.cpyr w) 0xC4 w

def execCpyq (w : EWord) (s : State) : Outcome State Fault Refusal := s.engineWord (.cpyq w) 0xC5 w

def execCpydq (w : EWord) (s : State) : Outcome State Fault Refusal := s.engineWord (.cpydq w) 0xC6 w

def execPref (w : EWord) (s : State) : Outcome State Fault Refusal := s.engineWord (.pref w) 0xC7 w

def execCflush (w : EWord) (s : State) : Outcome State Fault Refusal := s.engineWord (.cflush w) 0xC8 w

def execXfft (w : EWord) (s : State) : Outcome State Fault Refusal := s.engineWord (.xfft w) 0xC9 w

def execXifft (w : EWord) (s : State) : Outcome State Fault Refusal := s.engineWord (.xifft w) 0xCA w

def execXhad (w : EWord) (s : State) : Outcome State Fault Refusal := s.engineWord (.xhad w) 0xCB w

def execXexp (w : EWord) (s : State) : Outcome State Fault Refusal := s.engineWord (.xexp w) 0xCC w

def execXtrl (w : EWord) (s : State) : Outcome State Fault Refusal := s.engineWord (.xtrl w) 0xCD w

def execSacc (w : EWord) (s : State) : Outcome State Fault Refusal := s.engineWord (.sacc w) 0xCE w

def execAmo (w : EWord) (s : State) : Outcome State Fault Refusal := s.engineWord (.amo w) 0xCF w

def execPubl (w : EWord) (s : State) : Outcome State Fault Refusal := s.engineWord (.publ w) 0xD0 w

def execDisc (w : EWord) (s : State) : Outcome State Fault Refusal := s.engineWord (.disc w) 0xD1 w

def execLxfer (w : EWord) (s : State) : Outcome State Fault Refusal := s.engineWord (.lxfer w) 0xD2 w

def execNxtx (w : EWord) (s : State) : Outcome State Fault Refusal := s.engineWord (.nxtx w) 0xD3 w

def execNxarm (w : EWord) (s : State) : Outcome State Fault Refusal := s.engineWord (.nxarm w) 0xD4 w

end Sys2Proof.Machine
end

