-- ==== Sys2Proof/Machine/EngineMath.lean ====
section
/-!
DEFINITION. What engine commands compute (R194 to R202): rows of elements packed and unpacked, conversions, block scales,
transforms, merged sums and atomic operations. No state.
-/

namespace Sys2Proof.Machine

/-- The numbers of some lines as one number, the first the lowest. -/
def linesNat : List Nat → Nat
  | [] => 0
  | l :: ls => l % 2 ^ 512 + 2 ^ 512 * linesNat ls

/-- Elements of `b` bits as one number, the first the lowest. -/
def packElems (b : Nat) : List Nat → Nat
  | [] => 0
  | e :: es => e % 2 ^ b + 2 ^ b * packElems b es

/-- `n` elements of `b` bits of a number. -/
def unpackElems (b v n : Nat) : List Nat := (List.range n).map (fun j => bitsAt v (j * b) b)

/-- A number as `n` lines. -/
def natLines (v n : Nat) : List (List Byte) := (List.range n).map (fun j => leBytes 64 (bitsAt v (512 * j) 512))

/-- Elements given to `f` in order with their place and the command LFSR, which in SR mode steps once before each (R80,
R194). -/
def stepElems (sr : Bool) (f : Nat → α → U32 → Nat × Flags) : List α → Nat → U32 → List Nat × Flags × U32
  | [], _, l => ([], 0, l)
  | x :: xs, e, l =>
    let l := if sr then lfsrStep l else l
    let o := f e x l
    let r := stepElems sr f xs (e + 1) l
    (o.1 :: r.1, o.2 ||| r.2.1, r.2.2)

/-- Rows given to `f` in order with their number and the command LFSR. -/
def stepRows (f : Nat → α → U32 → Nat × Flags × U32) : List α → Nat → U32 → List Nat × Flags × U32
  | [], _, l => ([], 0, l)
  | x :: xs, i, l =>
    let o := f i x l
    let r := stepRows f xs (i + 1) o.2.2
    (o.1 :: r.1, o.2.1 ||| r.2.1, r.2.2)

/-- Whether a command rounds stochastically. -/
def Cmd.sr (c : Cmd) : Bool := c.rnd == 5

/-- Its saturation bit. -/
def Cmd.sat (c : Cmd) : Bool := decide (c.w.cvtSat = 1)

/-- A command's conversion type. -/
def Cmd.ct (c : Cmd) : Nat := c.w.cvtType.toNat

/-- Elements narrowed to the command's type from exact values (R82, R194). -/
def Cmd.narrow (c : Cmd) (xs : List FVal) (l : U32) : List Nat × Flags × U32 :=
  stepElems c.sr (fun _ x sr => roundTo x (slotType c.ct) c.rnd c.sat sr) xs 0 l

/-- A row of a copy (R194): equal types move bits, with the padding beyond dim0 zero but where the compressed bytes are kept as
stored (R195), which out of scratch they are at every point; other types convert by `roundTo` alone, integers to integers too.
-/
def Cmd.copyRow (c : Cmd) (row : Nat) (l : U32) : Nat × Flags × U32 :=
  let d := shDim0 c.shape
  let src := c.srcType
  let dst := c.dstType
  if src = dst then
    let b := if src = 6 then (d + 7) / 8 * 16 else d * elemBits src
    (if c.point = 3 ∨ (outward c.op ∧ 2 ≤ shKind c.shape) then row else row % 2 ^ b, 0, l)
  else
    let r := stepElems c.sr (fun _ x sr => roundTo (decodeElement src x) dst c.rnd c.sat sr) (unpackElems (typeBits src) row d) 0 l
    (packElems (typeBits dst) r.1, r.2.1, r.2.2)

/-- Values in groups of `2^n` rotated (R87): the values and the flags of all groups. -/
def rotate (n : Nat) (xs : List FVal) : List FVal × Flags :=
  let gs := (List.range (xs.length / 2 ^ n)).map (fun g => hadamard n ((xs.drop (g * 2 ^ n)).take (2 ^ n)))
  ((gs.map (fun g => g.1)).flatten, gs.foldl (fun f g => f ||| g.2) 0)

/-- A row of CPYDQ or of XEXP with kind 2 (R198, R200): row `r` of the tensor, with its scale bytes. -/
def Cmd.expandRow (c : Cmd) (scales : List Byte) (r row : Nat) (l : U32) : Nat × Flags × U32 :=
  let v := c.shape
  let t := shType v
  let xs := unpackElems (typeBits t) row (shDim0 v)
  let sc := fun (e : Nat) => (scales.getD (blockOf v r e) 0).toNat
  if shHflag v = false then
    let o := stepElems c.sr (fun e x sr => expandElem t x (sc e) c.ct c.rnd c.sat sr) xs 0 l
    (packElems (typeBits c.ct) o.1, o.2.1, o.2.2)
  else
    let w := stepElems false (fun e x _ => expandElem t x (sc e) 0 0 false 0) xs 0 0
    let h := rotate (shHsize v + 3) (w.1.map f32)
    let o := c.narrow (h.1.map (fun x => x.scale (-(shGain v : Int)))) l
    (packElems (typeBits c.ct) o.1, w.2.1 ||| h.2 ||| o.2.1, o.2.2)

/-- The values of block `j` of a tensor given by rows (R186). -/
def blockValues (v : Nat) (rows : List (List FVal)) (j : Nat) : List FVal :=
  if shColumns v then
    let bpc := (shDim1 v + 31) / 32
    let first := j / shDim0 v / bpc * shDim1 v + j / shDim0 v % bpc * 32
    (List.range (min 32 (shDim1 v - j / shDim0 v % bpc * 32))).map (fun i =>
      (rows.getD (first + i) []).getD (j % shDim0 v) .nan)
  else ((rows.getD (j / blocksPerRow v) []).drop (32 * (j % blocksPerRow v))).take 32

/-- What a row command writes: destination rows, scale bytes, flags and the LFSR after it. -/
structure Moved where
  rows   : List Nat
  scales : List Byte
  flags  : Flags
  lfsr   : U32
  deriving DecidableEq, Repr

/-- CPYQ (R197): rotation, block scales, one rounding. -/
def Cmd.quantise (c : Cmd) (rows : List Nat) : Moved :=
  let v := c.shape
  let t := shType v
  let wide := rows.map (fun row => (unpackElems (typeBits t) row (shDim0 v)).map (decodeElement t))
  let rot := wide.map (fun xs => if c.w.had = 0 then (xs, 0) else rotate (c.w.had.toNat + 3) xs)
  let vals := rot.map (fun r => r.1)
  let sc := (List.range (blockCount v c.rowCount)).map (fun j => blockScale c.ct (blockValues v vals j))
  let o := stepRows (fun r xs l =>
    let q := stepElems c.sr (fun e x sr =>
      let s := (sc.getD (blockOf v r e) (0, 0)).1
      if s = 255 then (nanCode c.ct, flNV) else roundTo (x.scale (127 - (s : Int))) c.ct c.rnd c.sat sr) xs 0 l
    (packElems (typeBits c.ct) q.1, q.2.1, q.2.2)) vals 0 c.lfsr
  { rows := o.1, scales := sc.map (fun b => BitVec.ofNat 8 b.1),
    flags := o.2.1 ||| rot.foldl (fun f r => f ||| r.2) 0 ||| sc.foldl (fun f b => f ||| b.2) 0, lfsr := o.2.2 }

/-- The rows and scales that a row command writes, from the rows and scale bytes of its source. -/
def Cmd.moved (c : Cmd) (rows : List Nat) (scales : List Byte) : Moved :=
  if c.op = 0xC5 then c.quantise rows
  else if c.op = 0xC6 then
    let o := stepRows (c.expandRow scales) rows 0 c.lfsr
    { rows := o.1, scales := [], flags := o.2.1, lfsr := o.2.2 }
  else
    let o := stepRows (fun _ row l => c.copyRow row l) rows 0 c.lfsr
    { rows := o.1, scales := scales, flags := o.2.1, lfsr := o.2.2 }

/-- One unit of XFFT, XIFFT, XHAD or XTRL (R200): its source lines as one number, and the destination. -/
def Cmd.transform (c : Cmd) (src : Nat) : Nat × Flags × U32 :=
  let ty := shType c.shape
  let put := fun (f : Flags) (o : List Nat × Flags × U32) => (packElems (typeBits c.ct) o.1, f ||| o.2.1, o.2.2)
  match c.op with
  | 0xC9 =>
    let xs := (unpackElems (typeBits ty) src (2 ^ blockLog c.ct)).map (decodeFloat ty)
    let r := forwardBlock c.ct xs (shSexp c.shape)
    put r.2 (c.narrow r.1 c.lfsr)
  | 0xCA =>
    let b := typeBits (slotType ty)
    let xs := (unpackElems b src (2 ^ blockLog ty)).map (decodeFloat (slotType ty))
    let r := inverseBlock ty xs (shSexp c.shape)
    put r.2 (c.narrow r.1 c.lfsr)
  | 0xCB =>
    let n := c.w.had.toNat + 3
    let r := hadamard n ((unpackElems (typeBits c.ct) src (2 ^ n)).map (decodeFloat c.ct))
    let o := put r.2 (c.narrow r.1 c.lfsr)
    let used := 2 ^ n * typeBits c.ct
    (o.1 + (if used < 512 then src % 2 ^ 512 / 2 ^ used * 2 ^ used else 0), o.2.1, o.2.2)
  | _ => (packElems 8 ((List.range 64).map (fun p => bitsAt src (8 * (8 * (p % 8) + p / 8)) 8)), 0, c.lfsr)

/-- A SACC element after the values of one window that name it (R201). -/
def Cmd.accumulate (c : Cmd) (old : Nat) (xs : List Nat) (l : U32) : Nat × Flags × U32 :=
  let t := shType c.shape
  let l := if c.sr ∧ t ≠ 12 then lfsrStep l else l
  if t = 12 then
    (fitInt 12 c.sat (xs.foldl (fun a x => a + decodeInt 12 x) (decodeInt 12 old)), 0, l)
  else
    let x := exactSum ((old :: xs).map (decodeFloat t)) c.rnd
    let r := roundTo x.1 t c.rnd c.sat l
    (r.1, x.2 ||| r.2, l)

/-- AMO's new value (R202): `k` the sub-code, `size` 0 to 2, the old value, the operand and the compare value. FP32 MIN and MAX
of both infinities give one of them (notes/assumptions 117). -/
def Cmd.atomic (c : Cmd) (old v cmp : Nat) : Nat × Flags :=
  let size := c.w.count.toNat % 4
  let b := if size = 1 then 64 else 32
  let old := old % 2 ^ b
  let v := v % 2 ^ b
  let less := signed b old ≤ signed b v
  match c.w.h.x3.toNat with
  | 0 =>
    if size = 2 then
      let x := exactSum [f32 old, f32 v] c.rnd
      let r := roundTo x.1 0 c.rnd false (if c.sr then lfsrStep c.lfsr else c.lfsr)
      (r.1, x.2 ||| r.2)
    else ((old + v) % 2 ^ b, 0)
  | 1 => if size = 2 then pickElem 0 false old v else (if less then old else v, 0)
  | 2 => if size = 2 then pickElem 0 true old v else (if less then v else old, 0)
  | 3 => (v, 0)
  | 4 => (if old = cmp % 2 ^ b then v else old, 0)
  | 5 => (old &&& v, 0)
  | _ => (old ||| v, 0)

end Sys2Proof.Machine
end

