-- ==== Sys2Proof/Machine/EngineWork.lean ====
section
/-!
DEFINITION. What engine commands do to memory (R188 to R206): locks and the lines of a step, requests through region 1, reading a
source, the plan of writes, performing one write, the units of the transforms, and the effect that a command has at its
completion.
-/

namespace Sys2Proof.Machine

/-- The other FIFO. -/
def otherFifo : Fifo → Fifo
  | .load => .store
  | .store => .load

/-- The place of a FIFO's requests in the same-clock order (R97, R190). -/
def fifoRank : Fifo → Nat
  | .load => rankCopyIn
  | .store => rankCopyOut

/-- The scratch line of a byte address (R193). -/
def lineOfAddr (a : Nat) : Int := ((a / 64 : Nat) : Int)

/-- A step of an engine: a fault that the head of a FIFO takes, a clock that a command cannot keep, the requests of a step, an
access of a command, a unit of a transform, the completion of a command. -/
inductive Move
  | fault
  | late
  | ask
  | access
  | unit
  | done
  deriving DecidableEq, Repr

/-- Units of work of a transform (R200). -/
def Cmd.units (c : Cmd) : Nat := if c.op = 0xCC ∧ shKind c.shape ≠ 1 then rowsOf c.shape else c.w.count.toNat

/-- A transform has units to read. -/
def Cmd.unitsLeft (c : Cmd) : Bool := isTransform c.op && decide (c.next < c.units)

/-- A command reads its source before its writes. -/
def Cmd.reads (c : Cmd) : Bool := movesRows c.op || c.op == 0xD2 || c.op == 0xD3 || c.op == 0xCE

/-- The next access of a command reads its source, or the rest of it. -/
def Cmd.readsNow (c : Cmd) : Bool :=
  match c.plan with
  | [] => c.reads && !c.started
  | (_, a) :: _ => a == .more

/-- A command reads its source line by line, as locks let it (R189). -/
def Cmd.byLine (c : Cmd) : Bool := outward c.op || c.op == 0xD2

/-- The step that a command makes next, one thing after another. -/
def Cmd.nextMove (c : Cmd) : Move :=
  if c.unitsLeft && c.plan.isEmpty then .unit else if c.readsNow || !c.plan.isEmpty then .access else .done

/-- Lines of one unit of work of a transform: of its source, and of its destination (R200). -/
def Cmd.unitLines (c : Cmd) : Nat × Nat :=
  if c.op = 0xCC then (if shKind c.shape = 1 then (1, 1) else (c.srcLines, c.dstLines))
  else if c.op = 0xCB then let p := max 1 (2 ^ (c.w.had.toNat + 3) * typeBits c.w.cvtType.toNat / 512); (p, p)
  else (1, 1)

/-- Some lines from a place of a byte address on. -/
def linesAt (base : U64) (first n : Nat) : List Int := (List.range n).map (fun k => lineOfAddr (base.toNat + 64 * (first + k)))

/-- The mask lines or scale lines that XEXP reads with its first unit (R186, R200). -/
def Cmd.unitSide (c : Cmd) : List Int :=
  let v := c.shape
  if c.op ≠ 0xCC ∨ c.next ≠ 0 then []
  else if shKind v = 1 then
    let span := spanOf (shSide v) ((c.w.count.toNat + 7) / 8)
    (List.range span.2).map (fun k => ((span.1 + k : Nat) : Int))
  else linesAt c.es (rowsOf v * c.srcLines) ((blockCount v (rowsOf v) + 63) / 64)

/-- The source lines of the unit that a transform reads next; an absent line of a compressed source is none (R200). -/
def Cmd.unitReads (c : Cmd) (t : Tile) : List Int :=
  if c.op = 0xCC ∧ shKind c.shape = 1 then
    let mask := t.scratchMask (shSide c.shape) c.w.count.toNat
    if bit mask c.next = 1 then linesAt c.es (onesBelow mask c.next) 1 else []
  else linesAt c.es (c.next * c.unitLines.1) c.unitLines.1

/-- The tile of a SACC's target, and the line of an element there (R201). -/
def Cmd.elemTile (c : Cmd) : Nat := bitsAt c.ed.toNat 19 29
def Cmd.elemOff (c : Cmd) (i : Nat) : Nat := bitsAt c.ed.toNat 0 19 + typeBits (shType c.shape) / 8 * i

/-- Lines of its tile's scratch that a command has yet to read as its source: for NXTX those of its slot. -/
def Cmd.toRead (c : Cmd) (g : Nat) : List Int :=
  let rs := if c.op = 0xD3 then c.dstLock ++ c.srcLock else c.srcLock
  ((rs.map (fun r => (List.range r.2).map (fun k => ((r.1 + k : Nat) : Int)))).flatten).filter (fun l =>
    !c.got.any (fun e => e.1 == g && decide ((e.2.1 : Int) = l)))

/-- Lines of its tile's scratch that a step of a command reaches, each with whether it is written (R189, R190). -/
def Cmd.stepLines (c : Cmd) (t : Tile) (g : Nat) : Move → List (Int × Bool)
  | .unit => (c.unitSide ++ c.unitReads t).map (fun l => (l, false))
  | .access =>
    if c.readsNow then (c.toRead g).map (fun l => (l, false))
    else
      match c.plan with
      | (_, .own a _) :: _ => [(a / 64, true)]
      | (_, .elem i _) :: _ => if c.elemTile = g then [(((c.elemOff i / 64 : Nat) : Int), true)] else []
      | _ => []
  | .done =>
    if c.op = 0xC5 ∨ c.op = 0xCF then [(lineOfAddr c.eh.toNat, true)]
    else if c.op = 0xD3 then [(lineOfAddr c.es.toNat, true)] else []
  | _ => []

/-- Command `d` of the other FIFO was issued before one of FIFO `f`: L takes its locks first (R189). -/
def Cmd.before (d : Cmd) (f : Fifo) (c : Cmd) : Bool :=
  if f = .load then decide (d.issued < c.issued) else decide (d.issued ≤ c.issued)

/-- An earlier command of the other FIFO locks a line that a command of FIFO `f` is to reach (R189). -/
def Tile.lockedOut (t : Tile) (f : Fifo) (c : Cmd) (l : Int × Bool) : Bool :=
  (t.fifo (otherFifo f)).any (fun d => d.op != 256 && d.before f c &&
    (inRanges d.dstLock l.1 || (l.2 && inRanges d.srcLock l.1)))

/-- The accesses to a line that came before a command are performed (R189, R272): requests that stood at a bank when it took its
lock, and what earlier words of the X-core have yet to read or write. -/
def Tile.linePast (t : Tile) (c : Cmd) (l : Int × Bool) : Bool :=
  t.atBanks.all (fun a => (askCore a.rank).isNone || decide (c.issued ≤ a.since) || decide ((a.line : Int) ≠ l.1) ||
    !(l.2 || a.writes)) &&
  t.vjobs.all (fun j => decide (c.issued ≤ j.issued) || !j.owes l.1) &&
  t.mopen.all (fun m => decide (c.issued ≤ m.issued) || (!m.fills l.1 && !(l.2 && m.held.contains l.1)))

/-- A line is open to a command: no lock keeps it, and no earlier access (R189, R272). -/
def Tile.lineOpen (t : Tile) (f : Fifo) (c : Cmd) (l : Int × Bool) : Bool := !t.lockedOut f c l && t.linePast c l

/-- Of the lines of a step those are such that it may be made: all, or where a source is read line by line any (R189). -/
def Cmd.linesLet (c : Cmd) (m : Move) (ls : List (Int × Bool)) (ok : Int × Bool → Bool) : Bool :=
  if m == .access && c.readsNow && c.byLine then ls.isEmpty || ls.any ok else ls.all ok

/-- No MARK of the other FIFO that its core met by idleness or by draining stands before a command (R273). -/
def Tile.afterMarks (t : Tile) (f : Fifo) (c : Cmd) : Bool :=
  (t.fifo (otherFifo f)).all (fun d => !(d.op == 256 && d.paired && decide (d.due < c.issued)))

/-- The tile whose context answers for a region-1 request of tile `g` (R253): the target; or, where that holds no task, the
requester; and whether the bytes are in range. -/
def State.remoteTarget (s : State) (g ia n : Nat) : Nat × Bool :=
  let h := bitsAt ia 19 29
  if (s.tile h).task.live then (h, decide (bitsAt ia 0 19 + n ≤ 327360)) else (g, false)

/-- An out-of-range region-1 request latched (R252, R253). -/
def State.latchRemote (s : State) (h ia : Nat) : State :=
  s.setTile h ((s.tile h).latch s.now rankRemote (BitVec.ofNat 64 (ia % 2 ^ 52)))

/-- The place of a word's region-1 request in the same-clock order: that of remote requests; where the word reaches its own tile
it keeps its core's order and its locks (R96, R189, R253, R270; notes/assumptions 112). -/
def farRank (h : Nat) (r : Remote) : Nat := if h = r.who.1 then rankHome r.who.2 else rankRemote

/-- The clocks within which datum mode serves a word's region-1 request: a store by its declared clock, in which it is seen
(R102, R103). -/
def State.farSlack (s : State) (r : Remote) : Nat :=
  match r.data.isSome && s.datumTile r.who.1, (s.core ⟨r.who.1, r.who.2⟩).glob with
  | true, some gl => gl.due - 1 - s.now
  | _, _ => lineSlack

/-- A word's region-1 request stands at its bank, whose grant performs it (R96, R253, R267). -/
def State.askFar (s : State) (h : Nat) (r : Remote) : State :=
  s.setTile h ((s.tile h).ask s.now (farRank h r) (s.farSlack r)
    [(((bitsAt r.ia 6 13 : Nat) : Int),
      .far r.who.1 r.who.2 (bitsAt r.ia 0 19) (if r.data.isSome then 0 else r.bytes) (r.data.getD []))])

/-- A line of tile `h` as a command finds it: as its bank granted it, where the command asked for it (R267). -/
def State.lineFor (s : State) (got : List (Nat × Nat × Nat)) (h : Nat) (line : Int) : List Byte :=
  match got.find? (fun e => e.1 == h && decide ((e.2.1 : Int) = line)) with
  | some e => leBytes 64 e.2.2
  | none => (s.tile h).line line

/-- Bytes read through region 1 (R251, R253), as their bank granted them where they were asked for. -/
def State.remoteRead (s : State) (g ia n : Nat) (got : List (Nat × Nat × Nat) := []) : State × List Byte :=
  let r := s.remoteTarget g ia n
  let off := bitsAt ia 0 19
  if r.2 then
    (s, if got.isEmpty then Memory.bytes (s.tile r.1).scratch off n
        else ((s.lineFor got r.1 ((off / 64 : Nat) : Int)).drop (off % 64)).take n)
  else (s.latchRemote r.1 ia, List.replicate n 0)

/-- Bytes written through region 1 (R251, R253). -/
def State.remoteWrite (s : State) (g ia : Nat) (bs : List Byte) : State :=
  let r := s.remoteTarget g ia bs.length
  if r.2 then s.setTile r.1 ((s.tile r.1).store (bitsAt ia 0 19) bs) else s.latchRemote r.1 ia

/-- Pieces of a global range that lie in one block of `w` bytes each: addresses and lengths. -/
def blocksOf (w va n : Nat) : List (Nat × Nat) :=
  if n = 0 then []
  else
    (List.range ((va % w + n + w - 1) / w)).map (fun k =>
      let lo := max va ((va / w + k) * w)
      (lo, min (va + n) ((va / w + k + 1) * w) - lo))

/-- The 32-byte sectors of a global range (R191, R267). -/
def pieces (va n : Nat) : List (Nat × Nat) := blocksOf 32 va n

/-- How many of them there are. -/
def sectorsIn (va n : Nat) : Nat := (va % 32 + n + 31) / 32

/-- What a read of a command gives: bytes; a fault with its TVAL; the part that a peer has to send first; or nothing yet, behind
a lock. -/
inductive Got
  | data (bs : List Byte)
  | bad (code va : Nat)
  | peer (ia va : Nat)
  | held
  deriving DecidableEq, Repr

/-- The charge of one sector moved (R346): each HBM sector, and once per line elsewhere. -/
def State.chargeSector (s : State) (g cls va : Nat) : State :=
  if cls = 12 ∨ va / 32 % 2 = 0 then s.charge g cls 1 else s

/-- The charge of a block written (R346): each HBM sector, and once elsewhere; datum mode writes sector by sector. -/
def State.chargeBlock (s : State) (g cls va n : Nat) : State :=
  if cls = 12 then s.charge g 12 (sectorsIn va n) else if s.datumTile g then s.chargeSector g cls va else s.charge g cls 1

/-- Where a command's global address leads (R318): CPYR and SACC give intermediate addresses. -/
def State.commandAddr (s : State) (g : Nat) (c : Cmd) (va : Nat) (need : Need) : Except Nat (Nat × Bool) :=
  if c.op = 0xC4 ∨ c.op = 0xCE then .ok (va, false) else s.translate g (s.tile g).task.windows va need

/-- One sector of a command's global source (R205, R318 to R324). -/
def State.readPiece (s : State) (g : Nat) (c : Cmd) (va n : Nat) : State × Got :=
  let k := (s.tile g).task
  let fromPeer := fun (s : State) (ia : Nat) =>
    match Store.find c.fetched va with
    | some bs => (s.chargeSector g 13 va, Got.data (bs.take n))
    | none => (s, .peer ia va)
  match s.commandAddr g c va .read with
  | .error e => (s, .bad e va)
  | .ok (ia, nc) =>
    match regionOf ia with
    | 1 => let r := s.remoteRead g ia n c.got; (r.1.chargeSector g 11 va, .data r.2)
    | 3 => fromPeer s ia
    | _ =>
      let s := if regionOf ia = 0 then s.countRequest g k.ctx ia nc else s
      match s.reach k.ctx k.twins ia with
      | .absent => (s, .bad 0x07 va)
      | .peer ia' => fromPeer s ia'
      | r =>
        let s := s.chargeSector g (match r with | .host _ => 13 | _ => 12) va
        match s.readReach r n with
        | some bs => (s, .data bs)
        | none => (s, .bad 0x14 va)

/-- Sectors read in order, up to the first that gives no data. -/
def State.readPieces (s : State) (g : Nat) (c : Cmd) : List (Nat × Nat) → State × Got
  | [] => (s, .data [])
  | p :: ps =>
    let r := s.readPiece g c p.1 p.2
    match r.2 with
    | .data bs =>
      let q := r.1.readPieces g c ps
      (q.1, match q.2 with | .data cs => .data (bs ++ cs) | e => e)
    | e => (r.1, e)

/-- The charge of a line of the tile's own scratch in datum mode; in free mode its bank's grant is charged (R346). -/
def State.chargeOwn (s : State) (g : Nat) (line : Int) : State := if s.datumTile g then s.chargeLines g [line] else s

/-- A line of the tile's own scratch that a step reads, latched where it is out of range (R251). -/
def State.readLine (s : State) (g rank : Nat) (c : Cmd) (line : Int) : State × List Byte :=
  ((s.setTile g ((s.tile g).touch s.now rank line)).chargeOwn g line, s.lineFor c.got g line)

/-- A line of a command's own source: none where it has not been granted (R189, R267), and zero out of range (R251). A line that a
mask names which has changed since issue is read as it stands. -/
def State.readOwn (s : State) (g rank : Nat) (c : Cmd) (line : Int) : State × Option (List Byte) :=
  if inRange line = false then (s.setTile g ((s.tile g).touch s.now rank line), some (List.replicate 64 0))
  else
    match c.got.find? (fun e => e.1 == g && decide ((e.2.1 : Int) = line)) with
    | some e => (s, some (leBytes 64 e.2.2))
    | none => (s, if inRanges c.srcLock line then none else some ((s.tile g).line line))

/-- Datum mode reads at once the lines of a command's source that are open to it (R189, R207). -/
def State.takeLines (s : State) (g : Nat) (f : Fifo) (c : Cmd) : State × Cmd :=
  let t := s.tile g
  let ls := if s.datumTile g then (c.toRead g).filter (fun l => t.lineOpen f c (l, false)) else []
  (s.chargeLines g ls, { c with got := c.got ++ ls.map (fun l => (g, l.toNat, leNat (t.line l))) })

/-- A line of the tile's own scratch written by a command. -/
def State.writeOwn (s : State) (g rank : Nat) (line : Int) (bs : List Byte) : State :=
  (s.setTile g (((s.tile g).touch s.now rank line).setLine line bs)).chargeOwn g line

/-- Ranges of a command's source read in order, up to the first that gives no data: an absent line is zero. -/
def State.readRuns (s : State) (g : Nat) (f : Fifo) (c : Cmd) (own : Bool) :
    List (Option (Nat × Nat)) → State × List (List Byte) × Got
  | [] => (s, [], .data [])
  | none :: rs => let q := s.readRuns g f c own rs; (q.1, List.replicate 64 0 :: q.2.1, q.2.2)
  | some (a, n) :: rs =>
    let r : State × Got :=
      if own then (let x := s.readOwn g (fifoRank f) c (lineOfAddr a); (x.1, (x.2.map Got.data).getD .held))
      else s.readPieces g c (pieces a n)
    match r.2 with
    | .data bs => let q := r.1.readRuns g f c own rs; (q.1, bs :: q.2.1, q.2.2)
    | e => (r.1, [], e)

/-- The runs of its scale bytes (R186). -/
def Cmd.scaleRuns (c : Cmd) : List (Option (Nat × Nat)) :=
  let v := c.shape
  if c.srcScales = 0 then []
  else if outward c.op then
    (List.range c.srcScales).map (fun k => some (c.es.toNat + 64 * (c.rowCount * c.srcLines + k), 64))
  else if gathers c.op then
    c.rows.map (fun r => some ((shSide v + r * blocksPerRow v) % 2 ^ 64, blocksPerRow v))
  else (List.range c.srcScales).map (fun k => some ((shSide v + 64 * k) % 2 ^ 64, 64))

/-- A command's source as far as it could be read. -/
structure Source where
  mask   : Nat
  lines  : List Nat
  scales : List Byte
  rest   : Got
  deriving DecidableEq, Repr

/-- The source of a row command read: mask, data lines, scales. -/
def State.readSource (s : State) (g : Nat) (f : Fifo) (c : Cmd) : State × Source :=
  let own := outward c.op
  let m := s.readRuns g f c own c.maskRuns
  match m.2.2 with
  | .data _ =>
    let mask := c.maskOf m.2.1.flatten
    let d := m.1.readRuns g f c own (c.dataRuns mask)
    let lines := d.2.1.map leNat
    match d.2.2 with
    | .data _ => let e := d.1.readRuns g f c own c.scaleRuns; (e.1, ⟨mask, lines, e.2.1.flatten, e.2.2⟩)
    | e => (d.1, ⟨mask, lines, [], e⟩)
  | e => (m.1, ⟨0, [], [], e⟩)

/-- Source lines of a row that destination line `j` of the row needs (R186). -/
def Cmd.needs (c : Cmd) (j : Nat) : Nat :=
  if c.srcType = c.dstType then j + 1
  else
    let e := min (shDim0 c.shape) ((j + 1) * 512 / elemBits c.dstType)
    (e * elemBits c.srcType + 511) / 512

/-- Clocks from the first line to line `k` of the scratch side (R207). -/
def State.lineClock (s : State) (g : Nat) (c : Cmd) (k : Nat) : Nat :=
  if isTransform c.op then 48 * (k / 31) else (s.declared g c).2 * k

/-- A destination is written through the twin mechanism (R196). -/
def Cmd.twin (c : Cmd) : Bool := decide (c.w.twin = 1) || (outward c.op && shTwin c.shape)

/-- A piece joined to the one before it where both lie in one block and adjoin: at the clock of the later. -/
def joinPiece (w : Nat) (ps : List (Nat × Nat × List Byte)) (p : Nat × Nat × List Byte) : List (Nat × Nat × List Byte) :=
  match ps with
  | q :: qs =>
    if q.2.1 / w = p.2.1 / w ∧ q.2.1 + q.2.2.length = p.2.1 then (max q.1 p.1, q.2.1, q.2.2 ++ p.2.2) :: qs else p :: q :: qs
  | [] => [p]

/-- Bytes for a global destination, with their line clocks and addresses, cut at blocks of `w` bytes: adjoining lines share a
block's write (R191, R353). A block that lines still to be read may fill up is left out. -/
def cutBlocks (w : Nat) (held : Bool) (items : List (Nat × Nat × List Byte)) : List (Nat × Nat × List Byte) :=
  let cut := (items.map (fun e => (blocksOf w e.2.1 e.2.2.length).map (fun p =>
    (e.1, p.1, (e.2.2.drop (p.1 - e.2.1)).take p.2)))).flatten
  match cut.foldl (joinPiece w) [] with
  | q :: qs => (if held && (q.2.1 + q.2.2.length) % w != 0 then qs else q :: qs).reverse
  | [] => []

/-- Bytes filled up with zeros to whole lines. -/
def padLines (bs : List Byte) : List Byte := bs ++ List.replicate ((bs.length + 63) / 64 * 64 - bs.length) 0

/-- Bytes cut into lines. -/
def cutLines (bs : List Byte) : List (List Byte) := (List.range (bs.length / 64)).map (fun k => (bs.drop (64 * k)).take 64)

/-- The writes of a row command, in order, as far as its source could be read (R186, R194, R197, R198, R207): lines of its own
tile; on the global side sectors in datum mode, whose clocks are the lines', and lines in free mode. -/
def State.rowPlan (s : State) (g : Nat) (c : Cmd) (q : Source) : Moved × List (Nat × Act) :=
  let n := c.srcLines
  let v := c.shape
  let whole := match q.rest with | .data _ => true | _ => false
  let rows := (List.range c.rowCount).map (fun i => linesNat ((q.lines.drop (i * n)).take n))
  let mv := c.moved rows q.scales
  let dl := c.dstLines
  let ready := fun (i j : Nat) => whole || ((c.op != 0xC5 && c.op != 0xC6) && decide (i * n + c.needs j ≤ q.lines.length))
  let lines := ((List.range c.rowCount).map (fun i =>
    ((List.range dl).filter (ready i)).map (fun j => (i, j, leBytes 64 (bitsAt (mv.rows.getD i 0) (512 * j) 512))))).flatten
  let clk := s.lineClock g c
  let data := lines.map (fun x =>
    let i := x.1
    let j := x.2.1
    if outward c.op then
      let k := i * n + (c.needs j - 1)
      (clk (if shKind v = 1 then onesBelow q.mask (k + 1) - 1 else k), c.rowStart i + 64 * j, x.2.2)
    else (clk (i * dl + j), c.ed.toNat + 64 * (i * dl + j), x.2.2))
  let sc := cutLines (padLines mv.scales)
  let b := blocksPerRow v
  let scales :=
    if whole = false ∨ c.dstScales = 0 then []
    else if c.op = 0xC3 then
      (List.range c.rowCount).map (fun i =>
        (clk (c.rowCount * n + (i * b + b - 1) / 64), shSide v + c.rows.getD i 0 * b, (mv.scales.drop (i * b)).take b))
    else
      (List.range c.dstScales).map (fun k =>
        if outward c.op then (clk (c.rowCount * n + k), shSide v + 64 * k, sc.getD k [])
        else (clk (c.rowCount * dl + k), c.ed.toNat + 64 * (c.rowCount * dl + k), sc.getD k []))
  if outward c.op then
    (mv, (cutBlocks (if s.datumTile g then 32 else 64) (q.rest == .held) (data ++ scales)).map (fun e =>
      (e.1, Act.glob (e.2.1 % 2 ^ 64) e.2.2 c.twin)))
  else (mv, (data ++ scales).map (fun e => (e.1, Act.own (e.2.1 : Nat) e.2.2)))

/-- The line clock of write `k` of a row command, whatever its source holds. -/
def State.rowClock (s : State) (g : Nat) (c : Cmd) (q : Source) (k : Nat) : Nat :=
  let blank : Source := ⟨q.mask, List.replicate (c.rowCount * c.srcLines) 0, List.replicate (64 * c.srcScales) 0, .data []⟩
  ((s.rowPlan g c blank).2.getD k (0, .more)).1

/-- The updates of one window of a SACC stream: distinct indices in the order of their first occurrence (R201). -/
def windowUpdates (w : List (Nat × Nat)) : List (Nat × List Nat) :=
  ((w.map (fun (e : Nat × Nat) => e.1)).eraseDups).map (fun i =>
    (i, (w.filter (fun (e : Nat × Nat) => e.1 == i)).map (fun e => e.2)))

/-- A SACC begins (R201, R261): the streams are read from the tile's own scratch, and one update a clock is planned, window by
window. -/
def State.startScatter (s : State) (g : Nat) (f : Fifo) (c : Cmd) : State × Cmd :=
  let n := c.w.count.toNat
  let b := typeBits (shType c.shape)
  let run := fun (s : State) (a len : Nat) => s.readRuns g f c true
    ((List.range (spanOf a len).2).map (fun k => some (64 * (a / 64 + k), 64)))
  let r := run s c.es.toNat (n * b / 8)
  let i := run r.1 (shIndex c.shape) (4 * n)
  let vals := unpackElems b (leNat r.2.1.flatten) n
  let idx := unpackElems 32 (leNat (i.2.1.flatten.drop (shIndex c.shape % 64))) n
  let stream := idx.zip vals
  let updates := ((List.range ((n + 63) / 64)).map (fun k => windowUpdates ((stream.drop (64 * k)).take 64))).flatten
  (i.1, { c with started := true, got := [], plan := updates.mapIdx (fun k u => (k, Act.elem u.1 u.2)) })

/-- What starting a command gives: its plan, or a read that a peer must answer first. -/
inductive Started
  | planned (s : State) (c : Cmd)
  | asks (ia va : Nat)

/-- A fault met after issue (R205). -/
def troubleOf (code va : Nat) : Option (Nat × U64) := some (code, BitVec.ofNat 64 va)

/-- A row command, an LXFER or a SACC begins, or goes on with its source: it is read, and its writes that are not performed are
planned (R188, R205); where a lock keeps lines of it, those that need none of them, and reading on (R189). -/
def State.startCommand (s : State) (g : Nat) (f : Fifo) (c : Cmd) : Started :=
  if c.op = 0xD2 then
    let r := s.readRuns g f c true ((List.range c.w.count.toNat).map (fun k => some (c.es.toNat + 64 * k, 64)))
    let acts := (List.range r.2.1.length).map (fun k =>
      (s.lineClock g c k, Act.peer ((c.ed.toNat + 64 * k) % 2 ^ 64) (r.2.1.getD k [])))
    let rest := if r.2.2 = .held then [(s.lineClock g c r.2.1.length, Act.more)] else []
    .planned r.1 { c with started := true, plan := acts.drop c.next ++ rest }
  else if c.op = 0xCE then
    let r := s.startScatter g f c
    .planned r.1 r.2
  else
    let q := s.readSource g f c
    let m := q.1.rowPlan g c q.2
    match q.2.rest with
    | .peer ia va => .asks ia va
    | .bad code va => .planned q.1 { c with started := true, plan := m.2.drop c.next, trouble := troubleOf code va }
    | .held =>
      .planned q.1 { c with started := true, plan := m.2.drop c.next ++ [(s.rowClock g c q.2 m.2.length, Act.more)] }
    | .data _ =>
      .planned q.1 { c with started := true, plan := m.2.drop c.next, flags := m.1.flags, lfsr := m.1.lfsr, got := [] }

/-- A write of a command has to wait for a message tag (R353). -/
def State.actWaits (s : State) (g : Nat) (c : Cmd) : Act → Bool
  | .peer ia _ => s.noCredit g ia
  | .glob va _ _ =>
    match s.commandAddr g c va .write with
    | .ok (ia, _) => (s.peerAddr g ia).any (s.noCredit g)
    | .error _ => false
  | _ => false

/-- A block of a global destination written (R191, R196, R205): the state, and false where the write is only sent; a
fault otherwise. A page at a peer answers later than datum mode can wait for (R103). -/
def State.writePiece (s : State) (g : Nat) (f : Fifo) (c : Cmd) (va : Nat) (bs : List Byte) (twin : Bool) :
    Except (Nat × U64) (State × Bool) :=
  let k := (s.tile g).task
  let bad := fun (code : Nat) => Except.error (code, BitVec.ofNat 64 va)
  let by_ := HostWriter.task k.uid (fifoCore f) true
  let paid := fun (s : State) (cls : Nat) => s.chargeBlock g cls va bs.length
  let send := fun (s : State) (ia : Nat) =>
    if s.datumTile g then bad 0x14
    else
    match s.sendPeer g (fifoCore f) (some f) ia (sectorsIn va bs.length) va (some bs) c.issued with
    | some s => Except.ok (paid s 13, false)
    | none => bad 0x06
  match s.commandAddr g c va .write with
  | .error e => bad e
  | .ok (ia, nc) =>
    match twin, if regionOf ia = 0 then s.twinGroup k.ctx ia else none with
    | true, none =>
      if regionOf ia = 0 ∧ s.reach k.ctx [] ia = .absent then bad 0x07 else bad 0x06
    | true, some grp =>
      let s := s.countRequest g k.ctx ia nc
      if s.reach k.ctx [grp] ia = .broken then bad 0x14
      else .ok (paid (s.twinWrite g k.ctx ia grp bs) 12, true)
    | false, _ =>
      match regionOf ia with
      | 1 => .ok (paid (s.remoteWrite g ia bs) 11, true)
      | 3 => send s ia
      | _ =>
        let s := if regionOf ia = 0 then s.countRequest g k.ctx ia nc else s
        match s.reach k.ctx [] ia with
        | .absent => bad 0x07
        | .broken => bad 0x14
        | .peer ia' => send s ia'
        | .host a =>
          if s.hostBroken a bs.length then bad 0x14
          else .ok (paid (s.writeReach by_ (.host a) bs) 13, true)
        | r => .ok (paid (s.writeReach by_ r bs) 12, true)

/-- Sectors performed for a command taken from its barrier (R191). -/
def State.sectors (s : State) (g : Nat) (f : Fifo) (c : Cmd) (n : Nat) : State :=
  if c.w.eb = 0 ∨ n = 0 then s
  else s.setTile g ((s.tile g).updateBarrier s.now (fifoRank f) (c.eb.toNat : Int) 0 n 0)

/-- One element update of SACC at its target (R201, R261). -/
def State.updateElement (s : State) (g : Nat) (f : Fifo) (c : Cmd) (idx : Nat) (xs : List Nat) : State × Cmd :=
  let z := typeBits (shType c.shape) / 8
  let h := c.elemTile
  let off := c.elemOff idx
  let live := (s.tile h).task.live
  if live && decide (off + z ≤ 327360) then
    let t := s.tile h
    let r := c.accumulate (Memory.num t.scratch off z) xs c.lfsr
    let s := s.setTile h (t.store off (leBytes z r.1))
    let s := if h = g then s.chargeOwn g ((off / 64 : Nat) : Int) else s.charge g 11 1
    (s, { c with flags := c.flags ||| r.2.1, lfsr := r.2.2 })
  else
    let at_ := if live then h else g
    (s.setTile at_ ((s.tile at_).latch s.now (if h = g then fifoRank f else rankRemote)
      (BitVec.ofNat 64 ((c.ed.toNat + z * idx) % 2 ^ 52))), c)

/-- One planned write performed: the state with the sectors counted that it has performed, and the command, or the fault
it meets. -/
def State.performAct (s : State) (g : Nat) (f : Fifo) (c : Cmd) : Act → Except (Nat × U64) (State × Cmd)
  | .own addr bs =>
    let rank := if isTransform c.op then rankTransform else fifoRank f
    .ok ((s.writeOwn g rank (addr / 64) bs).sectors g f c 2, c)
  | .glob va bs twin =>
    match s.writePiece g f c va bs twin with
    | .error e => .error e
    | .ok (s, true) => .ok (s.sectors g f c (sectorsIn va bs.length), c)
    | .ok (s, false) => .ok (s, c)
  | .elem i vals => .ok (s.updateElement g f c i vals)
  | .peer ia bs =>
    match s.sendPeer g (fifoCore f) (some f) ia 2 ia (some bs) c.issued with
    | some s => .ok (s.charge g 13 1, c)
    | none => .error (0x06, BitVec.ofNat 64 ia)
  | .more => .ok (s, c)

/-- A unit of work of a transform: its source is read, and the writes of its destination lines are planned (R200, R260). -/
def State.unitOfWork (s : State) (g : Nat) (c : Cmd) : State × Cmd :=
  let u := c.next
  let v := c.shape
  let t := s.tile g
  let s := (c.unitSide ++ c.unitReads t).foldl (fun s l => (s.readLine g rankTransform c l).1) s
  let src := linesNat ((c.unitReads t).map (fun l => leNat (s.lineFor c.got g l)))
  let n := c.unitLines.2
  let o : Nat × Flags × U32 :=
    if c.op = 0xCC then
      if shKind v = 1 then (src, 0, c.lfsr)
      else
        let scales := ((linesAt c.es (rowsOf v * c.srcLines) ((blockCount v (rowsOf v) + 63) / 64)).map t.line).flatten
        c.expandRow scales u src c.lfsr
    else c.transform src
  let acts := (List.range n).map (fun j =>
    (s.lineClock g c (u * n + j), Act.own ((c.ed.toNat + 64 * (u * n + j) : Nat) : Int) (leBytes 64 (bitsAt o.1 (512 * j) 512))))
  (s.charge g 14 1,
   { c with plan := c.plan ++ acts, next := u + 1, flags := c.flags ||| o.2.1, lfsr := o.2.2, started := true, got := [] })

/-- AMO (R202): one read-modify-write at the published place of its address, and the old value into the cell. Through
region 1 it acts on the scratch of the tile named; a peer's memory has no DXU of this package and is refused (notes/assumptions
41). -/
def State.atomicStep (s : State) (g : Nat) (f : Fifo) (c : Cmd) : Except (Nat × U64) (State × Cmd) :=
  let k := (s.tile g).task
  let n := if c.w.count.toNat % 4 = 1 then 8 else 4
  let va := c.ed.toNat
  let bad := fun (code : Nat) => Except.error (code, c.ed)
  let cell : Int := (c.eh.toNat : Nat)
  let finish := fun (s : State) (old : Nat) (wr : State → Nat → State) =>
    let a := c.atomic old c.es.toNat ((s.tile g).readAt cell 8)
    let s := wr s a.1
    let t := ((s.tile g).touchAt s.now (fifoRank f) cell).writeAt cell (leBytes 8 old)
    Except.ok ((s.setTile g t).chargeOwn g (cell / 64), { c with flags := c.flags ||| a.2 })
  match s.commandAddr g c va .write with
  | .error e => bad e
  | .ok (ia, nc) =>
    match regionOf ia with
    | 1 =>
      let r := s.remoteRead g ia n
      finish (r.1.charge g 11 1) (leNat r.2) (fun s v => s.remoteWrite g ia (leBytes n v))
    | 3 => bad 0x06
    | _ =>
      let s := if regionOf ia = 0 then s.countRequest g k.ctx ia nc else s
      match s.reach k.ctx [] ia with
      | .absent => bad 0x07
      | .broken => bad 0x14
      | .peer _ => bad 0x06
      | r =>
        match s.readReach r n with
        | none => bad 0x14
        | some bs =>
          let s := s.charge g (match r with | .host _ => 13 | _ => 12) 1
          finish s (leNat bs) (fun s v => s.writeReach (.task k.uid (fifoCore f) true) r (leBytes n v))

/-- The record bytes that CPYQ rewrites at its completion (R197). -/
def Cmd.newRecord (c : Cmd) : List Byte :=
  let v := bitsAt c.shape 256 32
  let h := c.w.had.toNat
  leBytes 4 (c.ct + bitsAt v 4 6 * 2 ^ 4 + 2 * 2 ^ 10 + (if h = 0 then 0 else 2 ^ 12 + h * 2 ^ 13 + (h + 3) * 2 ^ 24)
    + bitsAt v 16 6 * 2 ^ 16)

/-- What a command does as it completes (R197, R199, R201 to R203): the state and the command, or the fault it meets. What CPYQ
writes into its record counts as no sector (notes/assumptions 121). -/
def State.finishCommand (s : State) (g : Nat) (f : Fifo) (c : Cmd) : Except (Nat × U64) (State × Cmd) :=
  let k := (s.tile g).task
  let grp := c.w.count.toNat
  match c.op with
  | 0xC5 =>
    let line : Int := ((c.eh.toNat / 64 : Nat) : Int)
    let t := ((s.tile g).touch s.now (fifoRank f) line).writeAt ((c.eh.toNat + 32 : Nat) : Int) c.newRecord
    .ok ((s.setTile g t).chargeOwn g line, c)
  | 0xCF => s.atomicStep g f c
  | 0xD0 =>
    if s.datumTile g ∧ s.unsettled k.ctx grp then .error (0x14, BitVec.ofNat 64 grp)
    else .ok (s.flip k.ctx grp true (s.datumTile g) c.base, c)
  | 0xD1 =>
    if s.datumTile g ∧ s.unsettled k.ctx grp then .error (0x14, BitVec.ofNat 64 grp)
    else .ok (s.flip k.ctx grp false (s.datumTile g) c.base, c)
  | 0xD3 =>
    .ok (s.setTile g ((s.tile g).writeAt ((c.es.toNat + 8 : Nat) : Int) (leBytes 8 c.next)), c)
  | 0xD4 =>
    let t := s.tile g
    let r := c.w.count.toNat
    let fl := c.es.toNat
    let keep := t.armed.filter (fun (b : Nat × Nat) => b.1 != fl && b.2 != r)
    .ok ({ s.setTile g { t with armed := keep ++ [(fl, r)] } with flowSeq := s.flowSeq.erase fl }, c)
  | _ => .ok (s, c)

end Sys2Proof.Machine
end

