-- ==== Sys2Proof/Machine/EngineEvents.lean ====
section
/-!
DEFINITION. The steps of an engine command after its issue (R188 to R192, R205 to R207, R260, R273): which step a
command of a FIFO may make, the requests at the banks that come before it, sectors and units of work, completion, and faults. In
free mode only the head of a FIFO acts, and an NXTX that takes its place among the pending sends (notes/assumptions 42).
-/

namespace Sys2Proof.Machine

open Host (Outcome)

/-- A core that STOP has halted (R237). -/
def Run.isHalted : Run → Bool
  | .halted _ => true
  | _ => false

/-- Requests of a command that peers have not answered. -/
def State.waitsPeers (s : State) (g : Nat) (f : Fifo) (c : Cmd) : Bool :=
  s.peers.any (fun r => r.tile == g && r.fifo == some f && r.issued == c.issued)

/-- The bank that serves unit `u`: that of its first source line (R260). -/
def Cmd.unitBank (c : Cmd) (t : Tile) (u : Nat) : Nat :=
  bankOf (c.es.toNat / 64 + (if c.op = 0xCC ∧ shKind c.shape = 1 then
    onesBelow (t.scratchMask (shSide c.shape) c.w.count.toNat) u else u * c.unitLines.1))

/-- The banks whose transform units hold a unit of the command (R260): units that are not written, and one whose lines it has
asked for. -/
def Cmd.unitBanks (c : Cmd) (t : Tile) : List Nat :=
  if isTransform c.op then
    (if c.asked && c.plan.isEmpty && c.unitsLeft then [c.unitBank t c.next] else []) ++ c.plan.filterMap (fun e => match e.2 with
      | .own a _ => some (c.unitBank t (((a / 64).toNat - c.ed.toNat / 64) / c.unitLines.2))
      | _ => none)
  else []

/-- The unit that the command reads next finds its bank's transform unit free of other commands' units, and none of the other
FIFO waits there from before, or in the same clock as a load FIFO's (R260). -/
def Tile.unitFree (t : Tile) (f : Fifo) (c : Cmd) : Bool :=
  let b := c.unitBank t c.next
  let first := fun (d : Cmd) => if f = .load then decide (d.due < c.due) else decide (d.due ≤ c.due)
  ((t.fifo f).filter (fun d => d.issued != c.issued) ++ t.fifo (otherFifo f)).all (fun d => !(d.unitBanks t).contains b) &&
    ((t.fifo (otherFifo f)).take 1).all (fun d => !(d.unitsLeft && d.plan.isEmpty && !d.faulted && d.unitBank t d.next == b &&
      first d && t.afterMarks (otherFifo f) d && (d.stepLines t 0 .unit).all (t.lineOpen (otherFifo f) d)))

/-- The scatter-accumulate engine takes a SACC (R261): it works on no other, and no earlier one of the other FIFO waits for it
that neither a MARK nor a fault keeps (notes/assumptions 93). -/
def Tile.scatterFree (t : Tile) (f : Fifo) (c : Cmd) : Bool :=
  t.cmds.all (fun d => d.op != 0xCE || !d.started || d.plan.isEmpty) &&
    ((t.fifo (otherFifo f)).takeWhile (fun d => d.op != 256 && !d.faulted)).all (fun d => d.op != 0xCE || d.started || !d.before f c)

/-- The clock in which datum mode reads the next unit of a transform: 48 before its first line is written (R207, R260). -/
def State.unitClock (s : State) (g : Nat) (c : Cmd) : Nat := c.base + 12 + s.lineClock g c (c.next * c.unitLines.2)

/-- The clock of the next access of a command, or of its completion (R207); in free mode a free value, a SACC making one
update a clock (R261), and a transform unit writing within 48 clocks of its reading where no bank waits (R260). -/
def State.nextDue (s : State) (g : Nat) (c : Cmd) : Nat :=
  if s.datumTile g then
    let last := s.lineClock g c (c.sideLines (s.tile g) - 1)
    match c.plan with
    | (o, _) :: _ =>
      let w := c.base + (if c.op = 0xCE ∨ c.op = 0xD2 then c.firstStep true else c.lead) + o
      if c.unitsLeft then min w (s.unitClock g c) else w
    | [] =>
      if c.unitsLeft then s.unitClock g c
      else if c.reads ∧ c.started = false then c.base + c.firstStep true
      else c.base + c.lead + last
  else
    let free := Config.freeLatency s.fresh
    s.now + (if isTransform c.op && !c.plan.isEmpty then free % 47 else free) + (if c.op = 0xCE ∧ c.plan ≠ [] then 1 else 0)

/-- A command of a FIFO replaced, known by the clock of its issue. -/
def State.setCmd (s : State) (g : Nat) (f : Fifo) (c : Cmd) : State :=
  let t := s.tile g
  s.setTile g (t.setFifo f ((t.fifo f).map (fun d => if d.issued = c.issued then c else d)))

/-- The first command of a FIFO whose clock has come, with those before it: in free mode the head only (notes/assumptions
42); in datum mode the commands overlap as their clocks have it. Behind a command that met a fault none acts (R205). -/
def dueIn (now : Nat) (datum : Bool) (before : List Cmd) : List Cmd → Option (List Cmd × Cmd)
  | [] => none
  | c :: cs =>
    if c.faulted ∨ (c.trouble.isSome ∧ c.plan.isEmpty) then none
    else if c.op ≠ 256 ∧ c.due ≤ now then some (before, c)
    else if datum ∧ c.trouble.isNone then dueIn now datum (before ++ [c]) cs
    else none

/-- Every write of a command is performed, though it has not completed (R188). -/
def Cmd.written (c : Cmd) : Bool :=
  c.started && c.plan.isEmpty && !c.unitsLeft && c.op != 0xC5 && c.op != 0xD2

/-- The first NXTX of a FIFO that has not begun, with the commands before it: it takes its place among the pending sends as it
issues, in their order, behind no MARK and no fault (R361). -/
def sendIn (before : List Cmd) : List Cmd → Option (List Cmd × Cmd)
  | [] => none
  | c :: cs =>
    if c.op = 256 ∨ c.faulted ∨ c.trouble.isSome then none
    else if c.op = 0xD3 ∧ c.started = false then some (before, c)
    else sendIn (before ++ [c]) cs

/-- The step that a command makes next: in datum mode a transform reads a unit while writes of those before are left. -/
def State.stepOf (s : State) (g : Nat) (c : Cmd) : Move :=
  if c.unitsLeft && s.datumTile g && decide (s.unitClock g c < c.base + c.lead + (c.plan.headD (0, .own 0 [])).1) then .unit
  else c.nextMove

/-- Two lists of line ranges share a line. -/
def rangesMeet (a b : List (Nat × Nat)) : Bool :=
  a.any (fun x => b.any (fun y => decide (x.1 < y.1 + y.2 ∧ y.1 < x.1 + x.2)))

/-- A command writes lines that another reads. -/
def Cmd.feeds (d c : Cmd) : Bool := !d.written && rangesMeet d.dstLock (c.srcLock ++ (if c.op = 0xD3 then c.dstLock else []))

/-- Reading on gives a write whose clock has come, in datum mode (R207). -/
def State.readsOn (s : State) (g : Nat) (f : Fifo) (c : Cmd) : Bool :=
  let r := s.takeLines g f c
  match r.1.startCommand g f r.2 with
  | .planned _ d => d.plan.head?.all (fun e => e.2 != .more)
  | .asks _ _ => true

/-- The lines that a step of a command reaches let it be made (R189, R272): they were asked for, or are open to it. -/
def State.linesLet (s : State) (g : Nat) (f : Fifo) (c : Cmd) (m : Move) : Bool :=
  c.asked || (c.linesLet m (c.stepLines (s.tile g) g m) ((s.tile g).lineOpen f c) &&
    (!(s.datumTile g && c.readsNow && c.byLine) || s.readsOn g f c))

/-- A command whose clock has come may make its step (R188, R189, R260, R261, R272): its writes follow every write of the
commands before it in its FIFO, a transform's reads, what an LXFER sends and the frame of an NXTX those of the lines concerned,
and its completion theirs. -/
def State.mayStep (s : State) (g : Nat) (f : Fifo) (before : List Cmd) (c : Cmd) : Bool :=
  let t := s.tile g
  let m := s.stepOf g c
  t.afterMarks f c && before.all (fun d => d.op != 256) && s.linesLet g f c m &&
    (match m with
     | .unit => before.all (fun d => !d.feeds c) && (c.asked || t.unitFree f c)
     | .access =>
       if c.op = 0xD2 ∨ c.op = 0xD3 then before.all (fun d => !d.feeds c)
       else before.all Cmd.written && !(c.readsNow && s.waitsPeers g f c) &&
         !(c.op == 0xCE && !c.started && !t.scatterFree f c)
     | _ => before.isEmpty && !s.waitsPeers g f c && !(c.op == 0xD3 && !c.sent))

/-- Lines of other tiles, or of its own region-1 window, that a step of a command reaches (R190, R253): tile and line. -/
def State.farLines (s : State) (g : Nat) (c : Cmd) (m : Move) : List (Nat × Int) :=
  let line := fun (ia n : Nat) =>
    let r := s.remoteTarget g ia n
    if r.2 then [(r.1, ((bitsAt ia 6 13 : Nat) : Int))] else []
  let at_ := fun (va n : Nat) (need : Need) =>
    match s.commandAddr g c va need with
    | .ok (ia, _) => if regionOf ia = 1 then line ia n else []
    | .error _ => []
  let run := fun (r : Nat × Nat) => (List.range (spanOf r.1 r.2).2).map (fun k => 64 * (r.1 / 64 + k) % 2 ^ 64)
  match m with
  | .access =>
    if c.readsNow then
      if c.byLine then [] else (((s.maskedRuns g c ++ c.globalRuns).map run).flatten.map (fun a => at_ a 64 .read)).flatten
    else
      match c.plan with
      | (_, .glob va bs _) :: _ => at_ va bs.length .write
      | (_, .elem i _) :: _ =>
        if c.elemTile = g then [] else line ((c.ed.toNat + typeBits (shType c.shape) / 8 * i) % 2 ^ 52) (typeBits (shType c.shape) / 8)
      | _ => []
  | .done => if c.op = 0xCF then at_ c.ed.toNat (if c.w.count.toNat % 4 = 1 then 8 else 4) .write else []
  | _ => []

/-- The requests of a step of a command, which free mode's banks grant before it is made (R95, R190, R253): tile, place in the
order, line. The lines of a frame leave as the NXTX begins (R361). -/
def State.stepAsks (s : State) (g : Nat) (f : Fifo) (c : Cmd) (m : Move) : List (Nat × Nat × Int) :=
  let t := s.tile g
  let rank := if isTransform c.op then rankTransform else fifoRank f
  if s.datumTile g ∨ (c.op = 0xD3 ∧ m = .access) then []
  else
    ((c.stepLines t g m).filter (fun l => inRange l.1 && t.lineOpen f c l)).map (fun l => (g, rank, l.1)) ++
      (s.farLines g c m).map (fun l => (l.1, rankRemote, l.2))

/-- Requests of a command that its banks have not granted. -/
def State.asksOpen (s : State) (g : Nat) (f : Fifo) (c : Cmd) : Bool :=
  s.tiles.any (fun (e : Nat × Tile) => e.2.asks.any (fun a => a.act == .eng g f c.issued))

/-- A step of a command that may be made: in free mode once its requests are made and granted (R95, R267). -/
def State.askFirst (s : State) (g : Nat) (f : Fifo) (c : Cmd) : Option (Cmd × Move) :=
  let m := s.stepOf g c
  if c.asked then (if s.asksOpen g f c then none else some (c, m))
  else some (c, if (s.stepAsks g f c m).isEmpty then m else .ask)

/-- The step that a command of a FIFO may make now. -/
def State.engineStep (s : State) (g : Nat) (f : Fifo) : Option (Cmd × Move) :=
  let t := s.tile g
  let k := t.core (fifoCore f)
  let step := fun (r : Option (List Cmd × Cmd)) =>
    r.bind (fun r => if r.2.due ≤ s.now ∧ s.mayStep g f r.1 r.2 then s.askFirst g f r.2 else none)
  match t.fifo f with
  | [] => none
  | h :: _ =>
    if t.task.live = false ∨ (k.run.isHalted ∧ k.stopIn = false) then none
    else if h.faulted = false ∧ h.trouble.isSome ∧ h.plan.isEmpty then
      if k.glob.isSome ∨ (s.datumTile g = false ∧ s.waitsPeers g f h) then none else some (h, .fault)
    else
      match step (dueIn s.now (s.datumTile g) [] (t.fifo f)) with
      | some m => some m
      | none => if s.datumTile g then none else step (sendIn [] (t.fifo f))

/-- The engine step of a FIFO in this clock: in datum mode a command whose clock has come, and that no engine step of the
clock lets go on, cannot keep it (R103, R207). -/
def State.engineMove (s : State) (g : Nat) (f : Fifo) : Option (Cmd × Move) :=
  match s.engineStep g f with
  | some m => some m
  | none =>
    if s.datumTile g ∧ (s.tile g).task.live ∧ (s.engineStep g (otherFifo f)).isNone then
      (dueIn s.now true [] ((s.tile g).fifo f)).map (fun r => (r.2, .late))
    else none

/-- The event that an engine step is. -/
def Move.event (g : Nat) (f : Fifo) : Move → Instr
  | .access => .engineSectorPerformed g f
  | .ask => .engineSectorPerformed g f
  | .unit => .transformUnitWork g f
  | .done => .engineCommandCompletion g f
  | .fault => .engineFault g f
  | .late => .engineFault g f

/-- The step that the commands of a FIFO may make now, if any. -/
def State.engineEvent (s : State) (g : Nat) (f : Fifo) : Option Instr := (s.engineMove g f).map (fun m => m.2.event g f)

/-- One pass over the MARKs at the heads of the FIFOs (R273): a pair goes when both are heads, a MARK met by idleness or
draining when no command of the partner from before then is left. -/
def Tile.popPair (t : Tile) : Tile :=
  let gone := fun (q : List Cmd) (m : Cmd) => q.all (fun d => d.op == 256 || decide (m.due < d.issued))
  match t.loadQ, t.storeQ with
  | m :: q, r =>
    if m.op = 256 ∧ m.paired ∧ gone r m then { t with loadQ := q }
    else
      match r with
      | n :: r' =>
        if n.op = 256 ∧ n.paired ∧ gone (m :: q) n then { t with storeQ := r' }
        else if m.op = 256 ∧ n.op = 256 ∧ m.next = n.next then { t with loadQ := q, storeQ := r' }
        else t
      | [] => t
  | [], n :: r' => if n.op = 256 ∧ n.paired then { t with storeQ := r' } else t
  | [], [] => t

/-- A core that drains is idle once its FIFO is empty and its accesses are performed (R215, R237, R275). -/
def Tile.endDrain (t : Tile) (now : Nat) : Tile :=
  let t := if t.l.run = .draining ∧ t.loadQ.isEmpty ∧ t.accessesDone .L now then { t with l := { t.l with run := .idle } } else t
  if t.s.run = .draining ∧ t.storeQ.isEmpty ∧ t.accessesDone .S now then { t with s := { t.s with run := .idle } } else t

/-- All MARKs popped that can go, and drained cores idle. -/
def Tile.popMarks (t : Tile) (now : Nat) : Tile :=
  ((List.range (t.loadQ.length + t.storeQ.length)).foldl (fun t _ => Tile.popPair t) t).endDrain now

/-- After a step of an engine: MARKs that can go are gone, and cores that drain may be idle. -/
def State.followEngine (s : State) (g : Nat) : State := s.setTile g ((s.tile g).popMarks s.now)

/-- The next steps of both FIFOs of a tile fall due, where they may be made in this clock, and what matrix words waited for
them. -/
def State.dueEngine (s : State) (g : Nat) : State :=
  let s := match s.engineEvent g .load with | some i => s.dueOnce i | none => s
  let s := match s.engineEvent g .store with | some i => s.dueOnce i | none => s
  if (s.tile g).mopen.any (fun m => decide (m.due ≤ s.now)) then s.dueOnce (.mWordCompletion g) else s

/-- The frame that the slot of an NXTX holds (R204): port and bytes; none where line 0 is malformed. -/
def Tile.frameOf (t : Tile) (es : Nat) : Option (Nat × List Byte) :=
  let v := leNat (t.line (lineOfAddr es))
  let n := bitsAt v 0 16
  let port := bitsAt v 16 8
  if n < 60 ∨ 9216 < n ∨ 2 ≤ port ∨ v / 2 ^ 24 ≠ 0 then none
  else some (port, ((((List.range ((n + 63) / 64)).map (fun (k : Nat) => t.line (lineOfAddr es + 1 + k))).flatten).take n))

/-- A frame entered among a port's pending sends: by launch time, then by arrival (R361). -/
def insertFrame (x : TxFrame) : List TxFrame → List TxFrame
  | [] => [x]
  | y :: ys => if x.launch < y.launch then x :: y :: ys else y :: insertFrame x ys

/-- The first pending send of a port may leave now: its launch time has come, and the port is idle and up (R361, R387). -/
def State.sendable (s : State) (port : Nat) : Bool :=
  match Store.get [] s.txq port with
  | x :: _ => decide (x.launch ≤ s.tai ∧ Store.get 0 s.txFree port ≤ s.now) && !s.downPorts.contains (128 + port)
  | [] => false

/-- An NXTX begins (R204, R361): it takes a pending place of its port, or waits for one. -/
def State.startSend (s : State) (g : Nat) (f : Fifo) (c : Cmd) : State :=
  let s := s.setTile g ((s.tile g).touch s.now (fifoRank f) (lineOfAddr c.es.toNat))
  let t := s.tile g
  match t.frameOf c.es.toNat with
  | none => s.setCmd g f { c with trouble := some (0x04, nameEs c.w) }
  | some (port, bs) =>
    let q := Store.get [] s.txq port
    if 256 ≤ q.length then s.setCmd g f { c with due := s.now + 1 }
    else
      let launch := c.ed.toNat
      let x : TxFrame := { launch := launch, order := s.fresh, late := decide (launch ≠ 0 ∧ launch < s.tai), bytes := bs,
                           src := some (g, f, s.fresh) }
      let lines : List Int := (List.range ((bs.length + 63) / 64 + 1)).map (fun (k : Nat) => lineOfAddr c.es.toNat + k)
      let s := (s.setTile g (t.touchLines s.now (fifoRank f) lines)).chargeLines g lines
      let s := s.charge g 13 (lines.length - 1)
      let s := { s with txq := Store.put s.txq port (insertFrame x q) }
      let s := (s.setCmd g f { c with started := true, next := x.order }).tick
      if s.sendable port then s.dueOnce (.frameTransmit port) else s

/-- A command goes on after a step: its next one falls due. -/
def State.goOn (s : State) (g : Nat) (f : Fifo) (c : Cmd) : State :=
  (s.setCmd g f { c with asked := false, due := s.nextDue g c }).tick

/-- The first write of a command's plan performed (R191), counted where its source may be read in parts; a fault it meets ends the
plan (R205). -/
def State.stepPlan (s : State) (g : Nat) (f : Fifo) (c : Cmd) : State :=
  match c.plan with
  | [] => s.goOn g f c
  | (_, a) :: rest =>
    if s.actWaits g c a then
      if s.datumTile g then s.setCmd g f { c with plan := [], trouble := some (0x14, c.ed) }
      else s.setCmd g f { c with due := s.now + 1 }
    else
    match s.performAct g f c a with
    | .error e => s.setCmd g f { c with plan := [], trouble := some e }
    | .ok (s', c) => s'.goOn g f { c with plan := rest, next := if c.byLine then c.next + 1 else c.next }

/-- A command reads its source, or the rest of it; in datum mode it performs a write whose clock has come. What a peer has to send
comes later than a datum-mode command can wait for (R103). -/
def State.startAccess (s : State) (g : Nat) (f : Fifo) (c : Cmd) : State :=
  let r := s.takeLines g f { c with plan := [] }
  match r.1.startCommand g f r.2 with
  | .planned s c => if s.datumTile g && decide (s.nextDue g c ≤ s.now) then s.stepPlan g f c else s.goOn g f c
  | .asks ia va =>
    if s.datumTile g then s.setCmd g f { c with trouble := troubleOf 0x14 va }
    else if s.noCredit g ia then s.setCmd g f { c with due := s.now + 1 }
    else
      match s.sendPeer g (fifoCore f) (some f) ia 0 va none c.issued with
      | some s => s
      | none => s.setCmd g f { c with trouble := troubleOf 0x06 va }

/-- The requests of a command's next step go to their banks (R95, R190, R267). -/
def State.askStep (s : State) (g : Nat) (f : Fifo) (c : Cmd) : State :=
  let s := (s.stepAsks g f c (s.stepOf g c)).foldl (fun s e =>
    s.setTile e.1 ((s.tile e.1).ask s.now e.2.1 lineSlack [(e.2.2, .eng g f c.issued)])) s
  s.setCmd g f { c with asked := true }

/-- ENGINE_SECTOR_PERFORMED: a command of FIFO `f` of tile `g` performs its next write (R191); before its first one it reads its
source, and before each its requests go to their banks. -/
def execEngineSectorPerformed (g : Nat) (f : Fifo) (s : State) : Outcome State Fault Refusal :=
  match s.engineMove g f with
  | some (c, .ask) => .next ((s.askStep g f c).dueEngine g)
  | some (c, .access) =>
    let s := if c.op = 0xD3 then s.startSend g f c else if c.readsNow then s.startAccess g f c else s.stepPlan g f c
    .next ((s.followEngine g).dueEngine g)
  | some _ => .next (s.dueEngine g)
  | none => .next s

/-- TRANSFORM_UNIT_WORK: the next unit of a transform of FIFO `f` is read and computed (R200, R260). -/
def execTransformUnitWork (g : Nat) (f : Fifo) (s : State) : Outcome State Fault Refusal :=
  match s.engineMove g f with
  | some (c, .unit) =>
    let r := s.unitOfWork g c
    .next (((r.1.goOn g f r.2).followEngine g).dueEngine g)
  | _ => .next s

/-- The done token of a command (R192): op8 and the first destination line in local scratch; zero for AMO and NXTX
(notes/assumptions 122). -/
def Cmd.doneToken (c : Cmd) : U32 :=
  let own := c.op == 0xC0 || c.op == 0xC2 || decide (0xC4 ≤ c.op ∧ c.op ≤ 0xC6) || isTransform c.op
  BitVec.ofNat 32 (3 * 2 ^ 28 + c.op * 2 ^ 20 + (if own then c.ed.toNat / 64 % 2 ^ 13 else 0))

/-- A token pushed into the place that was reserved for it (R181, R192). -/
def Tile.pushDone (t : Tile) (q : Option Nat) (tok : U32) (now rank : Nat) : Tile :=
  match q with
  | none => t
  | some q => t.setQueue q ({ t.queue q with resv := (t.queue q).resv - 1 }.push tok now rank 0)

/-- A command at the head of its FIFO is complete (R188, R191, R192): its place and its locks are free, its arrivals and
flags are counted, its done token is pushed. -/
def State.completeHead (s : State) (g : Nat) (f : Fifo) (c : Cmd) : State :=
  let t := s.tile g
  let t := if c.w.eb = 0 then t
    else t.updateBarrier s.now (fifoRank f) (c.eb.toNat : Int) c.w.inc.toNat 0
      (c.flags.toNat + (if c.late then 128 else 0))
  let k := t.core (fifoCore f)
  let t := t.setCore (fifoCore f) { k with fflags := k.fflags ||| c.flags }
  let t := t.pushDone c.doneQ c.doneToken s.now 1
  s.setTile g (t.setFifo f (t.fifo f).tail)

/-- ENGINE_COMMAND_COMPLETION: the head of FIFO `f` has its effect, where it has one of its own, and completes; a fault it
meets stays with it (R191, R205). -/
def execEngineCommandCompletion (g : Nat) (f : Fifo) (s : State) : Outcome State Fault Refusal :=
  match s.engineMove g f with
  | some (c, .done) =>
    match s.finishCommand g f c with
    | .error e => .next ((s.setCmd g f { c with trouble := some e }).dueEngine g)
    | .ok (s, c) => .next (((s.completeHead g f c).followEngine g).dueEngine g)
  | _ => .next s

/-- A core stopped by the park that its command caused (R344): what it did is remembered (R340). -/
def Run.parkedRun : Run → Run
  | .running => .waiting (.parked true)
  | .waiting _ => .waiting (.parked false)
  | r => r

/-- An engine fault that parks the task (R344): the issuing core stops issuing unless it is in a handler, and keeps the state
it has (R340); STOP goes out unless one is under way. -/
def State.parkEngine (s : State) (g : Nat) (f : Fifo) (va : U64) : State :=
  let t := s.tile g
  let k := t.core (fifoCore f)
  let t := if k.priv = 0 then t.setCore (fifoCore f) { k with run := k.run.parkedRun } else t
  s.setTile g (t.stopToPark va)

/-- The fault that the head of FIFO `f` has met after issue is taken (R205, R206): its barrier is told, and the task parks, or
the issuing core traps with TPC at the command; a core that STOP has halted takes no trap (R339), and the fault of a task
that is ending is dropped (R227). -/
def State.takeEngineFault (s : State) (g : Nat) (f : Fifo) (c : Cmd) : State :=
  let e := c.trouble.getD (0x14, c.ed)
  let t := s.tile g
  let t := if c.w.eb = 0 then t else t.updateBarrier s.now (fifoRank f) (c.eb.toNat : Int) 0 0 32
  let s := { s.setTile g t with peers := s.peers.filter (fun r => !(r.tile == g && r.fifo == some f)) }
  if t.task.ending.isSome then
    let t := match c.doneQ with
      | some q => t.setQueue q { t.queue q with resv := (t.queue q).resv - 1 }
      | none => t
    ((s.setTile g (t.setFifo f (t.fifo f).tail)).followEngine g).dueEngine g
  else
    let s := s.setCmd g f { c with faulted := true, trouble := none }
    let k := t.core (fifoCore f)
    if k.run.isHalted then s
    else if s.parks g e.1 c.priv then s.parkEngine g f e.2
    else
      let s := s.abandon ⟨g, fifoCore f⟩
      let k := { s.core ⟨g, fifoCore f⟩ with resume := some k.pc, drain := decide (k.run = .draining) }
      (s.setCore ⟨g, fifoCore f⟩ k).trap ⟨g, fifoCore f⟩ e.1 e.2 c.pc true

/-- ENGINE_FAULT: the head of FIFO `f` takes the fault it has met; or a datum-mode command of it cannot keep its clock, and
meets one: it stops, and takes it once the commands before it are complete (R103, R205, R207). -/
def execEngineFault (g : Nat) (f : Fifo) (s : State) : Outcome State Fault Refusal :=
  match s.engineMove g f with
  | some (c, .fault) => .next (s.takeEngineFault g f c)
  | some (c, .late) => .next ((s.setCmd g f { c with plan := [], trouble := some (0x14, c.ed) }).dueEngine g)
  | some _ => .next (s.dueEngine g)
  | none => .next s

end Sys2Proof.Machine
end

