-- ==== Sys2Proof/Machine/Fetch.lean ====
section
/-!
DEFINITION. Fetching a word (R20 to R23, R318): the bytes a task executes, and checks 1 to 4 with the opcode.
-/

namespace Sys2Proof.Machine

/-- What a fetch gives. -/
inductive Fetched
  | word (i : Instr)
  | bad (code : Nat) (tval : U64)
  deriving DecidableEq, Repr

/-- A unit at a place in some memory, or the error that it meets there (R350, R378). -/
def unitAt (hbm host : Memory) (poison : List Nat) (bad : Nat → Bool) : Reach → Except Nat Nat
  | .hbm a => if poison.any (fun p => decide (p * 32 < a + 4 ∧ a < p * 32 + 32)) then .error 0x14 else .ok (Memory.num hbm a 4)
  | .host a => if bad a then .error 0x14 else .ok (Memory.num host a 4)
  | .absent => .error 0x07
  | .broken => .error 0x14
  | _ => .error 0x06

/-- A unit of a peer package's memory (R319, R354): no unit of this model, so a free value (notes/assumptions 14); permission
where no port leads there. -/
def State.peerUnit (s : State) (g ia : Nat) : Except Nat Nat :=
  if (s.routePort g (bitsAt ia 40 8)).isNone then .error 0x06 else .ok (Config.peerUnit (s.tile g).task.uid ia).toNat

/-- A unit at an intermediate address as memory stood at task start (R20), or the fault. Whether a page is there is what its
word says now (R323); a page that was not there when the task started is read as it is now (notes/assumptions 43). -/
def State.snapUnit (s : State) (g ia : Nat) : Except Nat Nat :=
  let k := (s.tile g).task
  match regionOf ia with
  | 0 =>
    match s.ctx k.ctx with
    | none => .error 0x07
    | some c =>
      match c.place [] ia with
      | .absent => .error 0x07
      | .broken => .error 0x14
      | r =>
        match Ctx.place { c with pages := k.snap.pages, twins := k.snap.groups } [] ia, r with
        | .peer ia', _ => s.peerUnit g ia'
        | .absent, .peer ia' => s.peerUnit g ia'
        | .absent, r => unitAt s.hbm s.host s.poison (s.hostLost · 4) r
        | was, _ => unitAt k.snap.hbm k.snap.host k.snap.poison (s.hostLost · 4) was
  | 1 => .ok (if bitsAt ia 0 19 + 4 ≤ 327360 then
      Memory.num (Store.get [] k.snap.tiles (bitsAt ia 19 29)) (bitsAt ia 0 19) 4 else 0)
  | 2 => unitAt k.snap.hbm k.snap.host k.snap.poison (s.hostLost · 4) (.host (bitsAt ia 0 48))
  | 3 => s.peerUnit g ia
  | _ => .error 0x06

/-- The unit at a virtual address, or the fault (R318); TVAL is the unit's address. -/
def State.fetchUnit (s : State) (g : Nat) (va : U64) : Except (Nat × U64) U32 :=
  match s.translate g (s.tile g).task.windows va.toNat .fetch with
  | .error e => .error (e, va)
  | .ok (ia, _) =>
    match s.snapUnit g ia with
    | .error e => .error (e, va)
    | .ok u => .ok (BitVec.ofNat 32 u)

/-- An address lies in [CODE_LO, CODE_HI) (R20). -/
def Core.inCode (k : Core) (va : U64) : Bool := decide (k.codeLo.toNat / 4 * 4 ≤ va.toNat ∧ va.toNat < k.codeHi.toNat / 4 * 4)

/-- Units fetched in order, up to the first fault. -/
def State.fetchUnits (s : State) (g : Nat) : List U64 → Except (Nat × U64) (List U32)
  | [] => .ok []
  | a :: as =>
    match s.fetchUnit g a with
    | .error e => .error e
    | .ok u =>
      match s.fetchUnits g as with
      | .error e => .error e
      | .ok us => .ok (u :: us)

/-- The fetch of a unit counted against its page, as any request is (R318, R324). -/
def State.countUnit (s : State) (g : Nat) (va : U64) : State :=
  match s.translate g (s.tile g).task.windows va.toNat .fetch with
  | .ok (ia, nc) => if regionOf ia = 0 then s.countRequest g (s.tile g).task.ctx ia nc else s
  | .error _ => s

/-- The fetches of the word at a core's program counter counted: of its first unit, and of as many as that asks for. -/
def State.countFetch (s : State) (w : Who) : State :=
  let k := s.core w
  if k.inCode k.pc = false then s
  else
    match s.fetchUnit w.tile k.pc with
    | .error _ => s
    | .ok u =>
      if unitClass u = 3 then s
      else (List.range (wordUnits u)).foldl (fun s j => s.countUnit w.tile (k.pc + 4 * BitVec.ofNat 64 j)) s

/-- The word at a core's program counter, by the order of R23: bound and window of the first unit, tail entry, bounds and
windows of the later units, class bits and opcode. -/
def State.fetch (s : State) (w : Who) : Fetched :=
  let k := s.core w
  if k.inCode k.pc = false then .bad 0x03 k.pc
  else
    match s.fetchUnit w.tile k.pc with
    | .error e => .bad e.1 e.2
    | .ok u =>
      if unitClass u = 3 then .bad 0x02 (BitVec.ofNat 64 u.toNat)
      else
        let later := (List.range (wordUnits u - 1)).map (fun j => k.pc + 4 * BitVec.ofNat 64 (j + 1))
        match later.find? (fun a => !k.inCode a) with
        | some a => .bad 0x03 a
        | none =>
          match s.fetchUnits w.tile later with
          | .error e => .bad e.1 e.2
          | .ok us =>
            match decode (u :: us) with
            | some i => .word i
            | none => .bad 0x01 (BitVec.ofNat 64 u.toNat)

end Sys2Proof.Machine
end

