-- ==== Sys2Proof/Machine/TileEvents.lean ====
section
/-!
DEFINITION. The steps a tile makes of itself: words and matrix words completing (R92, R181), spills and fills ending (R168),
waits ending (R100, R208, R216, R218, R230 to R232), requests from other tiles (R253), and closure (R247).
-/

namespace Sys2Proof.Machine

open Host (Outcome)

/-- A core that waits goes on: its word executes again in this clock. -/
def Core.retry (k : Core) (now : Nat) : Core := { k with run := .running, nextAt := now }

/-- RENDZ of the X-core is over (R209, R215): its next word issues 2 clocks later. -/
def Core.afterRendz (k : Core) (now : Nat) : Core :=
  { k with pc := k.pc + 4, run := .running, held := none, nextAt := now + 2, pend := k.pend ++ [plainPend (now + 1) []] }

/-- STAMPED_ISSUE: the clock of a held word has come (R100). -/
def execStampedIssue (g : Nat) (c : CoreId) (s : State) : Outcome State Fault Refusal :=
  let k := s.core ⟨g, c⟩
  match k.run with
  | .waiting (.stamp t) => if t ≤ s.now then .next (s.setCore ⟨g, c⟩ (k.retry s.now)) else .next s
  | _ => .next s

/-- The head slot of a ring is full; its tail slot is empty (R244). -/
def Tile.headFull (t : Tile) (n : Nat) : Bool := t.slotNow n (t.ring n).h == .full
def Tile.tailEmpty (t : Tile) (n : Nat) : Bool := t.slotNow n (t.ring n).t == .empty

/-- A condition that a word waits for is met, or may be: the word then executes again and makes its own checks (R91, R208).
What has a step of its own is not met here. -/
def State.waitMet (s : State) (g : Nat) : Wait → Bool
  | .res => true
  | .pop q => decide (0 < (s.tile g).poppable q s.now)
  | .push q => decide (0 < ((s.tile g).queue q).places s.now)
  | .full n => (s.tile g).headFull n
  | .empty n => (s.tile g).tailEmpty n
  | .several pops pushes heads tails =>
    pops.any (fun q => decide (0 < (s.tile g).poppable q s.now)) ||
      pushes.any (fun q => decide (0 < ((s.tile g).queue q).places s.now)) ||
      heads.any (s.tile g).headFull || tails.any (s.tile g).tailEmpty
  | .ringWords n => !(s.tile g).ringBusy s.now n
  | .acc n => (s.tile g).mopen.all (fun m => !m.accs.contains n)
  | .accMove n => (s.tile g).accMoves.all (fun m => m.acc != n)
  | .frameFree => s.hasFrame g
  | .array => decide ((s.tile g).arrayFree ≤ s.now)
  | .fifo => true
  | .lock _ => true
  | .opened => (s.tile g).mopen.isEmpty
  | .meet _ => (s.tile g).met
  | .fence => true
  | .credit => true
  | _ => false

/-- WAIT_CONDITION_MET: a waiting word proceeds once its condition is met (R208). RENDZ, which samples the group-abort mark only
as it issues (R221), is over; another word executes again and makes its own checks. -/
def execWaitConditionMet (g : Nat) (c : CoreId) (s : State) : Outcome State Fault Refusal :=
  let k := s.core ⟨g, c⟩
  match k.run with
  | .waiting w =>
    if s.waitMet g w = false then .next s
    else if w = .meet false then .next (s.setCore ⟨g, c⟩ (k.afterRendz s.now))
    else .next (s.setCore ⟨g, c⟩ (k.retry s.now))
  | _ => .next s

/-- BARRIER_REREAD: a WAITB that waits reads its barrier again (R216). A barrier out of range never changes. -/
def execBarrierReread (g : Nat) (c : CoreId) (s : State) : Outcome State Fault Refusal :=
  let k := s.core ⟨g, c⟩
  match k.run with
  | .waiting (.barrier ba) =>
    if inRange ((ba : Int) / 64) then .next (s.setCore ⟨g, c⟩ (k.retry s.now)) else .next s
  | _ => .next s

/-- FUTURE_CELL_RETRY: a PUTF or GETF that waits presents a new request (R218). -/
def execFutureCellRetry (g : Nat) (c : CoreId) (s : State) : Outcome State Fault Refusal :=
  let k := s.core ⟨g, c⟩
  match k.run with
  | .waiting (.cell _) => .next (s.setCore ⟨g, c⟩ (k.retry s.now))
  | _ => .next s

/-- A latch captured (R93). -/
def XRes.capture (x : XRes) (cap : Nat × List U32) : XRes :=
  { x with byp := (List.range 64).foldl (fun m j => Store.set 0 m (64 * cap.1 + j) (cap.2.getD j 0)) x.byp,
           bypValid := addNew cap.1 x.bypValid }

/-- A word of a core completes: its flags are ORed into FFLAGS (R79), its capture is made (R93), its energy is charged
(R346). -/
def State.completePend (s : State) (g : Nat) (c : CoreId) (p : Pend) : State :=
  let t := s.tile g
  let k := t.core c
  let t := t.setCore c { k with fflags := k.fflags ||| p.flags }
  let t := match p.cap with
    | some cap => { t with xr := t.xr.capture cap }
    | none => t
  (s.setTile g t).charge g p.ew.1 p.ew.2

/-- The requests of a core's words that a range lock has held to the clock in which datum mode has them served (R102, R103). -/
def Tile.lateAsks (t : Tile) (c : CoreId) (now : Nat) : List Ask :=
  t.asks.filter (fun a => askCore a.rank == some c && !a.isFar && decide (a.by_ < now) && t.lockHeld a)

/-- The walk registers and LFSRs that a word has advanced, as they were before it, where no later word has changed them since
(R9, R128). -/
def XRes.unstep (x : XRes) (j : VJob) : XRes :=
  { x with w := j.walks.foldl (fun w e => if Store.get 0 w e.1 = e.2.2 then Store.set 0 w e.1 e.2.1 else w) x.w,
           lfsr := if j.steps = some x.lfsr then j.vin.lfsr else x.lfsr }

/-- A word that cannot keep its declared clock has no effect (R103, R128): its requests and its result are gone. -/
def Tile.dropWord (t : Tile) (c : CoreId) (issued : Nat) : Tile :=
  let k := t.core c
  let t := match (t.vjobs.find? (fun j => j.issued == issued)).filter (fun _ => c == .X) with
    | some j => { t with xr := t.xr.unstep j }
    | none => t
  { t.setCore c { k with pend := k.pend.filter (fun p => !p.askedAt issued) } with
    asks := t.asks.filter (fun a => !(askCore a.rank == some c && a.since == issued)),
    vjobs := t.vjobs.filter (fun j => !(c == .X && j.issued == issued)),
    queues := t.queues.map (fun (e : Nat × Queue) =>
      (e.1, { e.2 with toks := e.2.toks.filter (fun k => !(k.rank == 3 && k.issued == issued && pusher e.1 == c)) })) }

/-- WORD_COMPLETION: the words of a core whose latency has elapsed complete (R92). In datum mode a word whose scratch access
would come later than its declared figure meets an uncorrectable memory error in that clock (R103). -/
def execWordCompletion (g : Nat) (c : CoreId) (s : State) : Outcome State Fault Refusal :=
  let late := if s.datumTile g then (s.tile g).lateAsks c s.now else []
  let s := s.setTile g (late.foldl (fun t a => t.dropWord c a.since) (s.tile g))
  let k := s.core ⟨g, c⟩
  let done := k.pend.filter (fun p => decide (p.due ≤ s.now))
  let s := s.setCore ⟨g, c⟩ { k with pend := k.pend.filter (fun p => !decide (p.due ≤ s.now)) }
  let s := done.foldl (fun s p => s.completePend g c p) s
  match late with
  | a :: _ => if (s.tile g).task.ending.isSome then .next (s.followEngine g)
              else .next (s.trap ⟨g, c⟩ 0x14 (lineAddr a.line) a.pc false)
  | [] => .next (s.followEngine g)

/-- The accumulator that the done token of a matrix word names: 0 for MOWN (R181). -/
def MOpen.token (m : MOpen) : U32 :=
  let acc := if 14 ≤ m.op then 0 else m.w.acc.toNat
  BitVec.ofNat 32 (3 * 2 ^ 28 + m.op % 2 ^ 8 * 2 ^ 6 + acc)

/-- A matrix word completes: slots, flags, token, energy (R181, R244, R346). A slot that it frees is seen as free once what the
X-core did before the word is performed (R245). -/
def State.completeMatrix (s : State) (g : Nat) (m : MOpen) : State :=
  let t := s.tile g
  let free := fun (t : Tile) (e : Nat × Nat) =>
    let r := t.ring e.1
    t.setRing e.1 { r.setSlot e.2 .empty with held := Store.put r.held e.2 (.X, m.issued) }
  let t := m.release.foldl free t
  let t := m.fill.foldl (fun t e => Tile.setRing t e.1 ((Tile.ring t e.1).setSlot e.2 .full)) t
  let lines := m.slot.map (fun e => e.1)
  let t := { t with x := { t.x with fflags := t.x.fflags ||| m.flags }, mopen := t.mopen.erase m }
  ((s.setTile g (t.pushDone m.doneQ m.token s.now 0)).chargeLines g lines).charge g m.ew.1 m.ew.2

/-- A command that was issued no later than a matrix word locks a line that the word waits to read or to fill (R189). -/
def Tile.slotLocked (t : Tile) (m : MOpen) : Bool :=
  t.cmds.any (fun c => decide (c.issued ≤ m.issued) &&
    (m.held.any (inRanges c.dstLock) || m.slot.any (fun e => inRanges c.dstLock e.1 || inRanges c.srcLock e.1)))

/-- The slot's lines that a matrix word fills are free for it (R119, R189): no command that came first locks them, and no
earlier word of the X-core has yet to reach them. -/
def Tile.slotClear (t : Tile) (m : MOpen) : Bool :=
  !t.slotLocked m && m.slot.all (fun e =>
    t.asks.all (fun a => askCore a.rank != some .X || decide (m.issued ≤ a.since) || decide ((a.line : Int) ≠ e.1)) &&
    t.vjobs.all (fun j => decide (m.issued ≤ j.issued) || !j.owes e.1))

/-- The clocks within which the banks serve the lines of a slot where none waits: of 257, nine stand in one bank (R94, R178). -/
def epilogueTime : Nat := 9

/-- The epilogue of a matrix word makes its requests (R96, R177): the banks have served them by its completion. -/
def Tile.beginEpilogue (t : Tile) (now : Nat) (m : MOpen) : Tile :=
  if m.slot.isEmpty ∨ m.put.isSome ∨ now + epilogueTime < m.due ∨ t.slotClear m = false then t
  else
    let t := t.ask now rankEpilogue (m.due - 1 - now) (m.slot.map (fun e => (e.1, .put [((e.1 * 64).toNat, e.2)])))
    { t with mopen := t.mopen.map (fun k => if k = m then { k with put := some now } else k) }

/-- The slot's lines of a matrix word are written (R177, R267). -/
def Tile.epilogueServed (t : Tile) (m : MOpen) : Bool :=
  m.slot.isEmpty || (m.put.isSome && t.asks.all (fun a => a.rank != rankEpilogue || !m.fills a.line))

/-- A matrix word may complete: its clock has come, it has read its lines, its slot's lines are written, and the transfers of
its accumulators have ended (R168, R180). -/
def Tile.matrixDone (t : Tile) (now : Nat) (m : MOpen) : Bool :=
  decide (m.due ≤ now) && m.held.isEmpty && t.epilogueServed m && t.accMoves.all (fun v => !m.accs.contains v.acc)

/-- A matrix word of datum mode whose lines a range lock holds past its declared clock, where no engine step of the clock frees
them (R103). -/
def State.matrixLate (s : State) (g : Nat) (m : MOpen) : Bool :=
  s.datumTile g && decide (m.due ≤ s.now) && (s.tile g).slotLocked m &&
    (s.engineMove g .load).isNone && (s.engineMove g .store).isNone

/-- It completes at its clock all the same, so that its token, its pops and its fills are never lost (R181): it reads and writes
its lines then, and the X-core takes an uncorrectable memory error (R103; notes/assumptions 101). -/
def State.lateMatrix (s : State) (g : Nat) (m : MOpen) : State :=
  let lines := m.held ++ m.slot.map (fun e => e.1)
  let t := s.tile g
  let t := if m.held.isEmpty then t else t.computeHeld m m.due
  let m := (t.mopen.find? (fun k => k.issued == m.issued)).getD m
  let t := m.slot.foldl (fun t e => t.setLine e.1 e.2) t
  let s := (s.setTile g t).completeMatrix g m
  if t.task.ending.isSome then s else s.trap ⟨g, .X⟩ 0x14 (lineAddr (lines.headD 0)) m.pc false

/-- M_WORD_COMPLETION: the matrix words of a tile whose clock has come complete (R181), or are late (R103); an ending task
that has drained ends (R227). -/
def execMWordCompletion (g : Nat) (s : State) : Outcome State Fault Refusal :=
  let done := (s.tile g).mopen.filter ((s.tile g).matrixDone s.now)
  let s := done.foldl (fun s m => s.completeMatrix g m) s
  match (s.tile g).mopen.find? (s.matrixLate g) with
  | some m => .next ((s.lateMatrix g m).followEngine g)
  | none => .next (s.followEngine g)

/-- A spill or fill charged to the owner it serves (R346): the task of the tile, or another owner's context by its entry
for the tile (R347). -/
def State.chargeMove (s : State) (g : Nat) (k : Option Task) : State :=
  match k with
  | none => s
  | some k =>
    if (s.tile g).task.live && (s.tile g).task.ctx == k.ctx then s.charge g 9 1
    else
      match s.ctx k.ctx, s.partOf g with
      | some c, some (_, p) =>
        let a := c.cfg.ebase + 32 * g
        s.writePhys a (leBytes 8 (energyPlus (BitVec.ofNat 64 (Memory.num s.hbm a 8)) (Store.get 0 p.enw 9).toNat).toNat)
      | _, _ => s

/-- The owner that a transfer serves is still there: the tile's task, or an activation that its X-core is in (R168, R263). -/
def Tile.keepsOwner (t : Tile) (o : Owner) : Bool :=
  t.task.live && (match o with
    | .nobody => false
    | .task u => u == t.task.uid
    | .handler u l => u == t.task.uid && decide (l ≤ t.x.priv.toNat))

/-- ACCUMULATOR_SPILL_END: the image stands in its owner's save area; then the owner whose use called for the spill has its image
filled, or takes the accumulator empty (R168, R264); a spill made for a task that resumes elsewhere leaves it without owner
(R343). -/
def execAccumulatorSpillEnd (g n : Nat) (s : State) : Outcome State Fault Refusal :=
  match (s.tile g).accMoves.find? (fun m => m.acc == n && !m.fill && decide (m.at_ ≤ s.now)) with
  | none => .next s
  | some m =>
    let s := s.chargeMove g (s.holder g ((s.tile g).ownerOf n))
    let s := s.writeImage g n
    let t := s.tile g
    let t := ({ t with accMoves := t.accMoves.erase m }).freeAcc n
    let s := s.setTile g t
    if t.keepsOwner m.who = false then .next s
    else if t.task.images.contains (m.who, n) then .next (s.startMove g n true m.who)
    else .next (s.setTile g (t.setOwner n m.who))

/-- ACCUMULATOR_FILL_END: the accumulator holds the image of the owner that the fill serves again (R168). -/
def execAccumulatorFillEnd (g n : Nat) (s : State) : Outcome State Fault Refusal :=
  match (s.tile g).accMoves.find? (fun m => m.acc == n && m.fill && decide (m.at_ ≤ s.now)) with
  | none => .next s
  | some m =>
    let t := s.tile g
    let s := s.setTile g { t with accMoves := t.accMoves.erase m }
    .next ((if t.keepsOwner m.who then s.readImage g n m.who else s).charge g 9 1)

/-- The reply to a global word is there (R121). -/
def State.answer (s : State) (w : Who) (r : Reply) : State :=
  match (s.core w).glob with
  | none => s
  | some gl => s.setCore w { s.core w with glob := some { gl with reply := r } }

/-- REMOTE_SCRATCH_REQUEST: request `k` of those in flight reaches the tile that it names (R253): it stands at its bank; out of
range it is latched, and answered at once. -/
def execRemoteScratchRequest (k : Nat) (s : State) : Outcome State Fault Refusal :=
  match s.remote[k]? with
  | none => .next s
  | some r =>
    let s := { s with remote := s.remote.eraseIdx k }
    let h := s.remoteTarget r.who.1 r.ia r.bytes
    if h.2 then .next (s.askFar h.1 r) else .next ((s.latchRemote h.1 r.ia).answer ⟨r.who.1, r.who.2⟩ (.done 0))

/-- A host flow entry arms a ring of the tile (R237, R359). -/
def State.hostArmed (s : State) (g : Nat) : Bool :=
  s.dev.any (fun e => decide (0x3000000 ≤ e.1 ∧ e.1 < 0x3004000 ∧ e.1 % 16 = 8) &&
    decide (bit e.2.toNat 63 = 1 ∧ bit e.2.toNat 59 = 1 ∧ bitsAt e.2.toNat 46 10 = g))

/-- A wait is tile-local (R208, R237). -/
def State.localWait (s : State) (g : Nat) (c : CoreId) : Wait → Bool
  | .pop q => !(c == .L && q == 5 && (!(s.tile g).armed.isEmpty || s.hostArmed g))
  | .several pops _ _ _ => !(c == .L && pops.contains 5 && (!(s.tile g).armed.isEmpty || s.hostArmed g))
  | .push _ => true
  | .full _ => true
  | .empty _ => true
  | .ringWords _ => true
  | .acc _ => true
  | .array => true
  | .fifo => true
  | .lock _ => true
  | .barrier _ => true
  | .cell _ => true
  | .meet _ => true
  | _ => false

/-- A tile issues nothing in this clock for power (R385). -/
def State.throttled (s : State) (g : Nat) : Bool := decide (s.now % 16 < (s.tile g).throttle) && !s.datumTile g

/-- What core `c` of tile `g` waits for is there: a place of its FIFO, an open line, or another condition (R188, R189). -/
def State.waitOver (s : State) (g : Nat) (c : CoreId) : Wait → Bool
  | .fifo => decide (((s.tile g).fifo (match c with | .S => .store | _ => .load)).length < 32)
  | .lock l => !(s.tile g).writeLocked l
  | w => s.waitMet g w

/-- A core is idle or in a tile-local wait; one whose wait is over, and that power alone holds, counts as running (R385). -/
def State.stuck (s : State) (g : Nat) (c : CoreId) : Bool :=
  match (s.core ⟨g, c⟩).run with
  | .idle => true
  | .waiting w => s.localWait g c w && !(s.throttled g && s.waitOver g c w)
  | _ => false

/-- A FIFO is empty for the closure count: a MARK without its pair at its head counts as none (R273). -/
def emptyFifo : List Cmd → Bool
  | [] => true
  | c :: _ => c.op == 256

/-- The tile makes no progress in this clock (R247): a handler of the X-core counts as running, and a scratch access that is
not performed as a word that is not complete. -/
def State.lost (s : State) (g : Nat) : Bool :=
  let t := s.tile g
  let quiet := fun (k : Core) => k.pend.all (fun p => decide (p.due ≤ s.now)) && k.glob.isNone
  t.task.live && t.task.ending.isNone && s.stuck g .L && s.stuck g .X && s.stuck g .S && quiet t.l && quiet t.x && quiet t.s &&
    t.x.priv == 0 && t.asks.all (fun a => (askCore a.rank).isNone) && t.vjobs.isEmpty && emptyFifo t.loadQ &&
      emptyFifo t.storeQ && t.mopen.isEmpty && s.remote.all (fun r => r.who.1 != g) &&
    s.peers.all (fun r => r.tile != g)

/-- The closure byte of a core (R247). -/
def State.closureByte (s : State) (w : Who) : Nat :=
  match (s.core w).run with
  | .idle => 64
  | .waiting _ =>
    match s.fetchUnit w.tile (s.core w).pc with
    | .ok u => 128 + bitsAt u.toNat 24 6
    | .error _ => 128
  | _ => 0

/-- A wait on a slot of ring `n`; on tokens or a place of queue `n`. -/
def Wait.onRing (n : Nat) : Wait → Bool
  | .full m => m == n
  | .empty m => m == n
  | .several _ _ heads tails => heads.contains n || tails.contains n
  | _ => false

def Wait.onQueue (n : Nat) : Wait → Bool
  | .pop q => q == n
  | .push q => q == n
  | .several pops pushes _ _ => pops.contains n || pushes.contains n
  | _ => false

/-- TVAL of closure (R247). -/
def State.closureTval (s : State) (g : Nat) : U64 :=
  let waits := [CoreId.L, .X, .S].filterMap (fun c => match (s.core ⟨g, c⟩).run with | .waiting w => some w | _ => none)
  let rings := (List.range 8).filter (fun n => waits.any (Wait.onRing n))
  let queues := (List.range 8).filter (fun n => waits.any (Wait.onQueue n))
  let mask := fun (ns : List Nat) => ns.foldl (fun a n => a + 2 ^ n) 0
  BitVec.ofNat 64 (mask rings * 2 ^ 40 + mask queues * 2 ^ 32 + s.closureByte ⟨g, .L⟩ * 2 ^ 16
    + s.closureByte ⟨g, .X⟩ * 2 ^ 8 + s.closureByte ⟨g, .S⟩)

/-- CLOSURE: with this clock the closure count reaches CLOSURE_WINDOW, and the X-core takes the fault (R247). -/
def execClosure (g : Nat) (s : State) : Outcome State Fault Refusal :=
  let t := s.tile g
  if t.closureCount + 1 < t.closureWin.toNat ∨ s.lost g = false then .next s
  else .next (s.trap ⟨g, .X⟩ 0x0A (s.closureTval g) t.x.pc false)

/-- A word that waited proceeds past its wait in this clock, its register `a` read now, a token popped where that is a
port (R30, R208). -/
def State.proceed (s : State) (w : Who) (a : Nat) : State :=
  let t := (takeUses w.core s.now (s.tile w.tile) [(a, false)]).1
  let k := t.core w.core
  s.setTile w.tile (t.setCore w.core { k with pc := k.pc + 4, run := .running, held := none, nextAt := s.now,
                                               pend := k.pend ++ [plainPend s.now []] })

/-- TIMED_WAIT_RELEASE: the time of a WAITD or a WAITT has come (R231). -/
def execTimedWaitRelease (g : Nat) (c : CoreId) (s : State) : Outcome State Fault Refusal :=
  match (s.core ⟨g, c⟩).run with
  | .waiting (.datum n a) => if n ≤ s.now then .next (s.proceed ⟨g, c⟩ a) else .next s
  | .waiting (.tai n a) => if n ≤ s.tai then .next (s.proceed ⟨g, c⟩ a) else .next s
  | _ => .next s

/-- FRAME_ORIGIN: the pending origin of a partition has come (R230). -/
def execFrameOrigin (p : Nat) (s : State) : Outcome State Fault Refusal :=
  match Store.find s.parts p with
  | none => .next s
  | some pt =>
    match pt.pendOrg with
    | none => .next s
    | some o =>
      if s.now < o then .next s
      else
        let s := { s with parts := Store.put s.parts p { pt with frameOrg := BitVec.ofNat 64 o, pendOrg := none } }
        .next (pt.tiles.foldl (fun s g =>
          match (s.core ⟨g, .X⟩).run with
          | .waiting (.origin o' a) => if o' ≤ s.now then s.proceed ⟨g, .X⟩ a else s
          | _ => s) s)

/-- A core's SSTEP is released (R232). -/
def State.passSstep (s : State) (w : Who) : State :=
  let k := s.core w
  let s := s.setCore w { k with arrived := false }
  match k.run with
  | .waiting (.sstep _ a) => s.proceed w a
  | _ => s

/-- SSTEP_RELEASE: the superstep barrier of a partition is released (R232). -/
def execSstepRelease (p : Nat) (s : State) : Outcome State Fault Refusal :=
  match Store.find s.parts p with
  | none => .next s
  | some pt =>
    match pt.sstepAt with
    | none => .next s
    | some r =>
      if s.now < r then .next s
      else
        .next (pt.tiles.foldl (fun s g => ((s.passSstep ⟨g, .L⟩).passSstep ⟨g, .X⟩).passSstep ⟨g, .S⟩)
          { s with parts := Store.put s.parts p { pt with sstepAt := none } })

/-- SSTEP_DEADLINE: a core that waits in SSTEP has arrived once its accesses are performed; or its deadline passes without the
release (R232, R275). -/
def execSstepDeadline (g : Nat) (c : CoreId) (s : State) : Outcome State Fault Refusal :=
  let k := s.core ⟨g, c⟩
  match k.run with
  | .waiting (.sstep dl _) =>
    let k := { k with arrived := k.arrived || (s.tile g).accessesDone c s.now }
    let s := s.setCore ⟨g, c⟩ k
    if s.sstepLate g dl then .next (s.trap ⟨g, c⟩ 0x0B (missTval 5 dl) k.pc false) else .next s
  | _ => .next s

/-- A tile has arrived at the superstep (R232): each core that is not idle has issued SSTEP, and both FIFOs are empty. -/
def Tile.atSstep (t : Tile) : Bool :=
  !t.task.live || ([t.l, t.x, t.s].all (fun k => k.run == .idle || k.arrived) && t.loadQ.isEmpty && t.storeQ.isEmpty)

end Sys2Proof.Machine
end

