-- ==== Sys2Proof/Machine/Cards.lean ====
section
/-!
DEFINITION. Work reaching the tiles (R301 to R315): what the hub reads for a card, doorbells and card queues, acceptance and
refusal, dealing in free mode, task start, and the rounds of datum mode.
-/

namespace Sys2Proof.Machine

open Host (Outcome)

/-- What a read of the hub gives: bytes; an absent page with the address and the page; or a fault code. -/
inductive HubGot
  | data (bs : List Byte)
  | absent (va page : Nat)
  | bad (code : Nat)
  deriving DecidableEq, Repr

/-- One line that the hub reads for a context (R301, R311). What a peer page gives is not this package's: free bytes
(notes/assumptions 14). -/
def State.hubLine (s : State) (x : Nat) (ws : Store (BitVec 128)) (va : Nat) : HubGot :=
  match hubTranslate ws va .read with
  | .error e => .bad e
  | .ok ia =>
    match s.reach x [] ia with
    | .absent => .absent va (pageOf ia)
    | .peer _ => .data (s.peerBytes va 64)
    | r =>
      match s.readReach r 64 with
      | some bs => .data bs
      | none => .bad 0x14

/-- `n` lines that the hub reads, up to the first that gives no data. -/
def State.hubRead (s : State) (x : Nat) (ws : Store (BitVec 128)) (va : Nat) : Nat → HubGot
  | 0 => .data []
  | n + 1 =>
    match s.hubLine x ws va with
    | .data bs =>
      match s.hubRead x ws (va + 64) n with
      | .data cs => .data (bs ++ cs)
      | e => e
    | e => e

/-- A range that begins in window `w` lies in regions the hub reaches (R301, R319). -/
def hubSpan (w va n : Nat) : Bool :=
  let a := windowMap w va
  let ok := fun (ia : Nat) => match hubReach ia with | .ok _ => true | .error _ => false
  decide (a + n ≤ 2 ^ 52) && regionOf a == regionOf (a + n - 1) && ok a && ok (a + n - 1)

/-- `n` bytes from `va` lie in windows that allow the access (R303): window by window, a lower-numbered one taking over
where it begins (R318). -/
def hubCovers (ws : List Nat) (need : Need) : Nat → Nat → Nat → Bool
  | 0, _, n => n == 0
  | fuel + 1, va, n =>
    if n = 0 then true
    else
      match ws.find? (fun w => windowCovers w va) with
      | none => false
      | some w =>
        let before := (ws.takeWhile (fun v => !windowCovers v va)).filter windowValid
        let stop := (before.map (fun v => bitsAt v 0 38 * 2 ^ 16)).foldl
          (fun a b => if va < b then min a b else a) ((bitsAt w 38 38 + 1) * 2 ^ 16)
        let len := min n (stop - va)
        windowAllows w need && hubSpan w va len && hubCovers ws need fuel (va + len) (n - len)

/-- The windows that a card's reads and writes use (R317). -/
def Ctx.windowsOf (x : Ctx) (c : Card) : Store (BitVec 128) := enabledWindows x.cfg.vw c.windows

/-- A range of a card's lies in its enabled windows (R303): eight windows cut it into at most 17 pieces. -/
def Ctx.inWindows (x : Ctx) (c : Card) (need : Need) (va n : Nat) : Bool :=
  hubCovers ((x.windowsOf c).map (fun e => e.2.toNat)) need 20 va n

/-- A card as the hub reads it, with the address it was appended by (R301, R304, R305). -/
def Card.ofBytes (x : Nat) (va : Option U64) (bs : List Byte) : Card :=
  { ctx := x, img := leNat bs, va := va, ids := [], fresh := 0, returned := [], redeal := [], parked := [], discards := [],
    retired := 0,
    exited := 0, lost := 0, redeals := 0, akind := 0, acode := 0, arec := 0, tend := 0, tlaunch := 0, state := 1,
    cause := 0, heldWr := [] }

/-- A reserved field of a card is not zero (R301). -/
def Card.reservedSet (c : Card) : Bool :=
  decide (bitsAt c.img 704 320 ≠ 0) || decide (bitsAt c.img 568 8 ≠ 0) || decide (bit c.img 519 ≠ 0) ||
    decide (bitsAt c.img 166 26 ≠ 0)

/-- The status address passes checks 3 and 4 (R303). -/
def Card.statusOk (c : Card) (x : Ctx) : Bool := decide (c.status % 64 = 0) && x.inWindows c .write c.status 64

/-- The cause of the first check of R303 that a card fails. -/
def State.refusal (s : State) (x : Ctx) (c : Card) : Option Nat :=
  let reads := fun (va n : Nat) => x.inWindows c .read va n
  if c.reservedSet then some 1
  else if c.count = 0 ∨ (c.datum = false ∧ c.minchunk = 0) then some 2
  else if c.entry % 4 ≠ 0 ∨ c.records % 64 ≠ 0 ∨ c.status % 64 ≠ 0 ∨ c.parcels % 128 ≠ 0 ∨ c.consts % 64 ≠ 0 ∨
      c.codebook % 64 ≠ 0 then some 3
  else if reads c.records (c.count * (64 * c.size)) = false ∨ (c.parcels ≠ 0 ∧ reads c.parcels 128 = false) ∨
      (c.consts ≠ 0 ∧ reads c.consts 1024 = false) ∨ (c.codebook ≠ 0 ∧ reads c.codebook 4096 = false) ∨
      c.statusOk x = false then some 4
  else
    match Store.find s.parts c.partition with
    | none => some 5
    | some p =>
      if p.grants.contains c.ctx = false ∨ p.datum ≠ c.datum then some 5
      else if c.datum ∧ c.frame = 0 then some 6
      else none

/-- Cards accepted and not complete (R305). -/
def State.openCards (s : State) : List (Nat × Card) := s.cards.filter (fun e => e.2.state == 1 || e.2.state == 2)

/-- The tiles of a partition. -/
def State.partTiles (s : State) (p : Nat) : List Nat :=
  match Store.find s.parts p with
  | some pt => pt.tiles
  | none => []

/-- Reservations of the datum-mode partitions that hold a card (R383), in mW. -/
def State.reserved (s : State) : Nat :=
  (s.openCards.filter (fun e => e.2.datum)).foldl (fun a e => a + 6750 * (s.partTiles e.2.partition).length) 0

/-- The hub may accept the next card of a context (R305); a datum-mode card only at a period boundary, within the power
limit (R383). -/
def State.mayAccept (s : State) (x : Nat) (c : Card) (boundary : Bool) : Bool :=
  let mine := s.openCards.filter (fun e => e.2.partition == c.partition)
  decide ((s.openCards.filter (fun e => e.2.ctx == x)).length < 16) &&
    (if c.datum then
       boundary && mine.isEmpty && decide (s.reserved + 6750 * (s.partTiles c.partition).length ≤ 1000 * s.plim)
     else mine.all (fun e => !e.2.datum))

/-- The next card of a context's queue as it stands in memory; none where the queue is empty. -/
def State.nextCardOf (s : State) (x : Nat) : Option (Ctx × Option Card) :=
  match s.ctx x with
  | none => none
  | some c =>
    if c.qHead = c.qTail then none
    else
      let slot := c.qHead.toNat % 2 ^ c.cfg.qlog
      some (c, (s.readPhys (c.cfg.qbase + 128 * slot) 128).map (Card.ofBytes x (Store.find c.slotVa slot)))

/-- A card is ready to be accepted now. -/
def State.canAccept (s : State) (x : Nat) (boundary : Bool) : Bool :=
  match s.nextCardOf x with
  | none => false
  | some (_, none) => true
  | some (_, some c) => s.mayAccept x c boundary

/-- The head of a context's queue has been taken (R304). -/
def Ctx.taken (c : Ctx) : Ctx := { c with qHead := c.qHead + 1, slotVa := c.slotVa.erase (c.qHead.toNat % 2 ^ c.cfg.qlog) }

/-- The hub takes the next card of a context (R303, R305, R307): refused with its cause, dropped unrecorded where the status
address fails, or accepted; a datum card opens its first round, 65,536 clocks ahead at the least, on the tiles that are in
service (R313, R314, R379). A card that cannot be read for an uncorrectable error is dropped unrecorded (notes/assumptions 15). -/
def State.accept (s : State) (x : Nat) (boundary : Bool) : State :=
  match s.nextCardOf x with
  | none => s
  | some (cx, none) => (State.countRefused (s.setCtx x cx.taken) x).emit (.msix 1)
  | some (cx, some c) =>
    if s.mayAccept x c boundary = false then s
    else
      let s := s.setCtx x cx.taken
      if c.statusOk cx = false then (s.countRefused x).emit (.msix 1)
      else
        let n := s.nextCard
        let s := { s with nextCard := n + 1 }
        match s.refusal cx c with
        | some k => (s.writeStatus n { c with state := 4, cause := k }).emit (.msix 1)
        | none =>
          let s := s.writeStatus n c
          match Store.find s.parts c.partition with
          | some pt =>
            if c.datum then
              { s with parts := Store.put s.parts c.partition
                         { pt with round := some (n, pt.tiles.filter (fun g => (s.tile g).inService), 0, s.now + 65536, []) } }
            else s
          | none => s

/-- CARD_ACCEPTANCE: the hub accepts the next card of a context (R305). -/
def execCardAcceptance (x : Nat) (s : State) : Outcome State Fault Refusal := .next (s.accept x false)

/-- TAIL_DOORBELL: the hub takes the value as the tail, but never more than head + Q (R304); during bring-up the write is
dropped (R387). -/
def execTailDoorbell (x : Nat) (v : U32) (s : State) : Outcome State Fault Refusal :=
  match if s.rising then none else s.ctx x with
  | none => .next s
  | some c =>
    let q := 2 ^ c.cfg.qlog
    .next (s.setCtx x { c with qTail := if q < (v - c.qHead).toNat then c.qHead + BitVec.ofNat 32 q else v })

/-- APPEND_DOORBELL: the card at a virtual address is copied into the slot at the tail, or dropped and counted (R304), one behind
an uncorrectable error too (notes/assumptions 15); during bring-up the write is dropped (R387). -/
def execAppendDoorbell (x : Nat) (va : U64) (s : State) : Outcome State Fault Refusal :=
  match if s.rising then none else s.ctx x with
  | none => .next s
  | some c =>
    let c := { c with appDb := va }
    let s := s.setCtx x c
    if va.toNat % 128 ≠ 0 ∨ c.queueFull then .next (s.countRefused x)
    else
      match s.hubRead x c.cfg.vw va.toNat 2 with
      | .data bs => .next (s.appendCard x c va bs)
      | _ => .next (s.countRefused x)

/-- A ready task of a card: a saved one, or a record that is to start again (R311, R343). -/
inductive Ready
  | saved (uid : Nat)
  | unstarted (record : Nat)
  deriving DecidableEq, Repr

/-- The oldest ready task of card `n` (R343). -/
def State.readyTask (s : State) (n : Nat) (c : Card) : Option Ready :=
  let a := (s.saved.filter (fun e => e.2.ready && e.2.dealt.isNone && e.2.tile.task.card == n)).map
    (fun e => (e.2.seq, Ready.saved e.1))
  let b := (c.parked.filter (fun p => p.ready)).map (fun p => (p.seq, Ready.unstarted p.record))
  ((a ++ b).foldl (fun (best : Option (Nat × Ready)) e =>
    match best with
    | some z => if z.1 ≤ e.1 then best else some e
    | none => some e) none).map (fun e => e.2)

/-- A card has something to deal now (R308). -/
def State.dealable (s : State) (n : Nat) (c : Card) : Bool :=
  (c.state == 1 || c.state == 2) && !c.datum && decide (c.start ≤ s.tai) &&
    ((s.readyTask n c).isSome || !c.redeal.isEmpty || !c.returned.isEmpty || decide (c.fresh < c.count))

/-- The cards of a partition that have something to deal. -/
def State.waitingCards (s : State) (p : Nat) : List (Nat × Card) :=
  s.cards.filter (fun e => e.2.partition == p && s.dealable e.1 e.2)

/-- The first card of a list with the least of some number; lists of cards rise by their number. -/
def leastBy (f : Nat × Card → Nat) (l : List (Nat × Card)) : Option (Nat × Card) :=
  l.foldl (fun best e =>
    match best with
    | some z => if f e < f z then some e else best
    | none => some e) none

/-- The card that a request of partition `p` gets (R308): the highest priority, the context next after the last one dealt
at it, the lowest where none was (notes/assumptions 72), that context's oldest card. -/
def State.choose (s : State) (p : Nat) : Option (Nat × Card) :=
  let ws := s.waitingCards p
  match leastBy (fun e => 7 - e.2.prio) ws with
  | none => none
  | some top =>
    let level := ws.filter (fun e => e.2.prio == top.2.prio)
    match Store.find s.lastCtx top.2.prio with
    | none => leastBy (fun e => e.2.ctx) level
    | some last => leastBy (fun e => if last < e.2.ctx then e.2.ctx - last - 1 else e.2.ctx + 4096 - last) level

/-- How many tiles of a partition are in service (R308). -/
def State.inService (s : State) (p : Nat) : Nat :=
  ((s.partTiles p).filter (fun g => (s.tile g).inService)).length

/-- The size of a chunk (R308). -/
def chunkSize (remaining minchunk d tiles : Nat) : Nat :=
  min remaining (max minchunk ((remaining + d * tiles - 1) / (d * tiles)))

/-- How many elements of a list run on from `r`. -/
def runFrom (r : Nat) : List Nat → Nat
  | [] => 0
  | a :: as => if a = r then runFrom (r + 1) as + 1 else 0

/-- The chunk of returned and undealt records, the lowest first (R309), and the card without them. -/
def Card.chunk (c : Card) (tiles : Nat) : List Nat × Card :=
  let size := chunkSize (c.returned.length + (c.count - c.fresh)) c.minchunk c.divisor tiles
  match c.returned with
  | [] => ((List.range size).map (c.fresh + ·), { c with fresh := c.fresh + size })
  | r :: _ =>
    let back := min size (runFrom r c.returned)
    let more := if back = c.returned.length ∧ r + back = c.fresh then min (size - back) (c.count - c.fresh) else 0
    ((List.range (back + more)).map (r + ·), { c with returned := c.returned.drop back, fresh := c.fresh + more })

/-- A tile holds no task and no undealt record, and none is on its way to it (R308). -/
def State.idleTile (s : State) (g : Nat) : Bool :=
  let t := s.tile g
  t.inService && !t.task.live && t.chunk.isEmpty && s.saved.all (fun e => e.2.dealt != some g)

/-- The hub's write for a card's first deal (R307). -/
def State.firstDeal (s : State) (n : Nat) (c : Card) : State :=
  if c.state = 1 then s.writeStatus n { c with state := 2, tlaunch := s.tai } else s.setCard n c

/-- The hub deals to tile `g` from card `n` (R308 to R311, R343): a ready task first, then a record to be dealt again, then
returned and undealt records. -/
def State.deal (s : State) (g p n : Nat) (c : Card) : State :=
  let s := { s with lastCtx := Store.put s.lastCtx c.prio c.ctx }
  let give := fun (s : State) (rs : List Nat) => s.setTile g { s.tile g with chunk := rs.map (fun r => (r, n)) }
  match s.readyTask n c with
  | some (.saved uid) =>
    match Store.find s.saved uid with
    | some v => State.firstDeal { s with saved := Store.put s.saved uid { v with dealt := some g } } n c
    | none => s
  | some (.unstarted r) => give (s.firstDeal n { c with parked := c.parked.filter (fun q => q.record != r) }) [r]
  | none =>
    match c.redeal with
    | r :: rest => give (s.firstDeal n { c with redeal := rest }) [r]
    | [] =>
      let q := c.chunk (s.inService p)
      give (s.firstDeal n q.2) q.1

/-- DEAL_REQUEST: a tile of a free-mode partition that has nothing asks, and the hub deals (R308). -/
def execDealRequest (g : Nat) (s : State) : Outcome State Fault Refusal :=
  match s.partOf g with
  | none => .next s
  | some (p, pt) =>
    if pt.datum ∨ s.idleTile g = false then .next s
    else
      match s.choose p with
      | none => .next s
      | some (n, c) => .next (s.deal g p n c)

/-- Records in ascending order with one more. -/
def insertRecord (r : Nat) : List Nat → List Nat
  | [] => [r]
  | a :: as => if r < a then r :: a :: as else if r = a then a :: as else a :: insertRecord r as

/-- The records of a tile's chunk that have not started return to their card (R309). -/
def State.returnChunk (s : State) (g : Nat) : State :=
  let t := s.tile g
  let s := t.chunk.foldl (fun s e =>
    match s.card e.2 with
    | some c => s.setCard e.2 { c with returned := insertRecord e.1 c.returned }
    | none => s) s
  s.setTile g { s.tile g with chunk := [] }

/-- PD0 as it must read (R254). -/
def argumentParcel : Nat := 0x4000BA000

/-- A valid descriptor in itself (R255). -/
def parcelOk (d : Nat) : Bool :=
  let base := bitsAt d 0 13
  let len := bitsAt d 13 13
  let ty := bitsAt d 26 4
  decide (base % 31 = 0 ∧ len % 31 = 0 ∧ len ≠ 0 ∧ base + len ≤ 5115) &&
    (if bit d 32 = 0 then decide (ty = 0) else decide (ty ≠ 15)) &&
    (decide (bit d 33 = 0) || (decide (bit d 32 = 1) && decide (3 ≤ ty ∧ ty ≤ 6)))

/-- Two parcels share a line. -/
def parcelsMeet (a b : Nat) : Bool :=
  decide (bitsAt a 0 13 < bitsAt b 0 13 + bitsAt b 13 13 ∧ bitsAt b 0 13 < bitsAt a 0 13 + bitsAt a 13 13)

/-- A parcel table keeps every rule of R255. -/
def parcelTableOk (ds : List Nat) : Bool :=
  let live := ds.filter (fun d => bit d 34 == 1)
  ds.all (fun d => decide (bitsAt d 35 29 = 0 ∧ bitsAt d 30 2 = 0)) && decide (ds.headD 0 = argumentParcel) &&
    live.all parcelOk &&
    (List.range live.length).all (fun i => (List.range i).all (fun j => !parcelsMeet (live.getD i 0) (live.getD j 0)))

/-- The 16 descriptors of an image (R254). -/
def parcelsOf (bs : List Byte) : List Nat := (List.range 16).map (fun n => bitsAt (leNat bs) (64 * n) 64)

/-- What a task's set-up reads (R311), in order: record, parcel table, constants, codebooks; or why it cannot start. -/
inductive Setup
  | ok (record : List Byte) (pds : List Nat) (consts book : List Byte)
  | absent (va page : Nat)
  | bad (code : Nat)
  deriving DecidableEq, Repr

/-- The set-up of record `i` of a card (R311). -/
def State.setup (s : State) (x : Ctx) (c : Card) (i : Nat) : Setup :=
  let read := fun (va n : Nat) => if va = 0 then HubGot.data [] else s.hubRead c.ctx (x.windowsOf c) va n
  match s.hubRead c.ctx (x.windowsOf c) ((c.records + 64 * c.size * i) % 2 ^ 64) c.size with
  | .absent va p => .absent va p
  | .bad e => .bad e
  | .data rec_ =>
    match read c.parcels 2 with
    | .absent va p => .absent va p
    | .bad e => .bad e
    | .data ps =>
      let pds := if c.parcels = 0 then argumentParcel :: List.replicate 15 0 else parcelsOf ps
      if parcelTableOk pds = false then .bad 0x04
      else
        match read c.consts 16 with
        | .absent va p => .absent va p
        | .bad e => .bad e
        | .data cs =>
          match read c.codebook 64 with
          | .absent va p => .absent va p
          | .bad e => .bad e
          | .data bs => .ok rec_ pds cs bs

/-- A core as task start leaves it, with its fetch bounds and vector from the context record (R235, R333). -/
def coreAtStart (tvec lo hi : U64) : Core :=
  { Core.idle with tvec := tvec, codeLo := codeBound lo.toNat, codeHi := codeBound hi.toNat }

/-- The context's entry for a tile is loaded (R333, R347). -/
def State.loadEntry (s : State) (g x : Nat) : State :=
  match s.ctx x with
  | none => s
  | some c =>
    let a := c.cfg.ebase + 32 * g
    s.setTile g { s.tile g with
      energy := energyWord (Memory.num s.hbm a 8), oorAddr := BitVec.ofNat 64 (Memory.num s.hbm (a + 8) 8),
      oorFlag := decide (bit (Memory.num s.hbm (a + 16) 1) 0 = 1), oorWhen := (0, 0) }

/-- Memory as a task's fetch sees it from now on (R20). -/
def State.snapshot (s : State) (x : Nat) : Snapshot :=
  { hbm := s.hbm, poison := s.poison, host := s.host,
    pages := (match s.ctx x with | some c => c.pages | none => []),
    groups := (match s.ctx x with | some c => c.twins | none => []),
    tiles := s.tiles.map (fun (e : Nat × Tile) => (e.1, e.2.scratch)) }

/-- Words of an image loaded as CBLD loads them (R161). -/
def imageStore (bs : List Byte) : Store U32 :=
  putWords [] 0 ((List.range (bs.length / 4)).map (fun i => leNat ((bs.drop (4 * i)).take 4)))

/-- The tile as task start leaves it (R235, R311): the X-core alone, its first word no earlier than `first`. -/
def Tile.started (t : Tile) (x : Ctx) (c : Card) (k : Task) (rec_ : List Byte) (consts book : List Byte) (first : Nat) :
    Tile :=
  let core := fun (v l h : U64 × U64 × U64 → U64) => coreAtStart (v x.cfg.tvec) (l x.cfg.codeLo) (h x.cfg.codeHi)
  let xc := core (·.2.1) (·.2.1) (·.2.1)
  { t.vacated with
    l := core (·.2.2) (·.2.2) (·.2.2), s := core (·.1) (·.1) (·.1),
    x := { xc with run := .running, pc := BitVec.ofNat 64 c.entry, nextAt := first },
    scratch := Memory.setBytes [] 0 rec_, task := k, ageLimit := clampAge x.cfg.age,
    closureWin := clampClosure x.cfg.closure,
    xr := { XRes.idle with c := imageStore consts, cb := imageStore book,
                           lfsr := (List.range 64).map (laneSeed (BitVec.ofNat 32 c.seed) k.recIndex) } }

/-- The TASK_IDs that a task of record `i` of a card may not have (R311): those of live tasks, and the record's last one. -/
def State.takenIds (s : State) (c : Card) (i : Nat) : List U32 :=
  ((s.tiles.filter (fun (e : Nat × Tile) => e.2.task.live)).map (fun (e : Nat × Tile) => e.2.task.taskId)) ++
    s.saved.map (fun (e : Nat × Saved) => e.2.tile.task.taskId) ++ (Store.find c.ids i).toList

/-- The TASK_ID that the hub assigns (R311): its own value, or the next one up that may be had (notes/assumptions 7). -/
def newTaskId (uid : Nat) (taken : List U32) : U32 :=
  (((List.range (taken.length + 1)).map (fun k => Config.taskId uid + BitVec.ofNat 32 k)).find?
    (fun v => !taken.contains v)).getD (Config.taskId uid)

/-- The task that record `i` of card `n` becomes (R311). -/
def State.newTask (s : State) (x : Ctx) (c : Card) (n i : Nat) (pds : List Nat) : Task :=
  { Task.absent with
    live := true, uid := s.nextUid, ctx := c.ctx, card := n, taskId := newTaskId s.nextUid (s.takenIds c i),
      recIndex := BitVec.ofNat 64 i,
    frameLen := BitVec.ofNat 32 c.frame, windows := x.windowsOf c,
    pds := ((List.range 16).map (fun j => (j, BitVec.ofNat 64 (pds.getD j 0)))).filter (fun e => e.2 != 0),
    keep := c.keep, prio := c.prio, since := s.now }

/-- The first clock of a new task's first word (R236): in datum mode the origin of its round. -/
def State.firstClock (s : State) (g : Nat) : Nat :=
  match s.partOf g with
  | some (_, pt) =>
    match pt.round with
    | some (_, _, _, o, _) => if pt.datum then o else s.now + 1 + Config.freeLatency s.fresh
    | none => s.now + 1 + Config.freeLatency s.fresh
  | none => s.now + 1 + Config.freeLatency s.fresh

/-- TASK_START: the next record of a tile's chunk starts (R235, R311), or fails to: parked on an absent page, refused for
its parcel table, lost for a window, or dealt again after an uncorrectable error; in datum mode lost (R315). -/
def execTaskStart (g : Nat) (s : State) : Outcome State Fault Refusal :=
  let t := s.tile g
  match t.chunk with
  | [] => .next s
  | (i, n) :: rest =>
    if t.task.live ∨ t.inService = false then .next s
    else
      let s := s.setTile g { t with chunk := rest }
      match s.card n with
      | none => .next s
      | some c =>
        match s.ctx c.ctx with
        | none => .next s
        | some x =>
          match s.setup x c i with
          | .absent va p =>
            if c.datum then .next (s.noteEnd ⟨g, n, i, 2, 0x07, false⟩)
            else
              let s := s.setCard n { c with parked := c.parked ++ [⟨i, BitVec.ofNat 64 va, p, false, s.nextUid⟩] }
              .next (State.returnChunk { s with nextUid := s.nextUid + 1 } g)
          | .bad code =>
            .next (s.noteEnd ⟨g, n, i, if code = 0x14 ∧ c.datum = false then 3 else 2, code, false⟩)
          | .ok rec_ pds consts book =>
            let k := s.newTask x c n i pds
            let s := s.setCard n { c with ids := Store.put c.ids i k.taskId }
            let s := s.setTile g ((s.tile g).started x c k rec_ consts book (s.firstClock g))
            let s := State.loadEntry { s with nextUid := s.nextUid + 1, fresh := s.fresh + 1 } g c.ctx
            .next (s.setTile g { s.tile g with task := { (s.tile g).task with snap := s.snapshot c.ctx } })

/-- A round may be dealt now (R314): 4,096 clocks before its origin; the first round's origin waits for the card's start. -/
def State.roundDue (s : State) (pt : Part) : Bool :=
  match pt.round with
  | none => false
  | some (n, _, k, o, open_) =>
    match s.card n with
    | none => false
    | some c =>
      let at_ := s.now + 4096
      let tai := match s.ptpPend with
        | some t => if t.1 ≤ at_ then taiOf t at_ else taiOf s.ptp at_
        | none => taiOf s.ptp at_
      open_.isEmpty && decide (o ≤ at_) && (decide (k ≠ 0) || decide (c.start ≤ tai))

/-- The records of a datum round dealt, record i to tile i mod T (R313, R314). -/
def State.dealRound (s : State) (p : Nat) : State :=
  match Store.find s.parts p with
  | none => s
  | some pt =>
    if s.roundDue pt = false then s
    else
      match pt.round with
      | none => s
      | some (n, tiles, k, o, _) =>
        match s.card n with
        | none => s
        | some c =>
          let o := if k = 0 then s.now + 4096 else o
          let given := (List.range tiles.length).filterMap (fun j =>
            let i := k * tiles.length + j
            if i < c.count then some (tiles.getD j 0, i) else none)
          let s := if k = 0 then s.firstDeal n c else s
          let pt := { pt with round := some (n, tiles, k, o, given.map (fun e => e.1)), origins := o :: pt.origins }
          given.foldl (fun s e =>
            let t := s.tile e.1
            if t.inService then (s.setTile e.1 { t with chunk := [(e.2, n)] }).due (.taskStart e.1) else s)
            { s with parts := Store.put s.parts p pt }

/-- ROUND_DEAL: a datum round is dealt (R314). -/
def execRoundDeal (p : Nat) (s : State) : Outcome State Fault Refusal := .next (s.dealRound p)

/-- ROUND_ORIGIN: the origin of a round has come (R314): FRAME_ORG takes it, whether or not a task of the round is left, and
the records of retired tiles are lost (R315). -/
def execRoundOrigin (p : Nat) (s : State) : Outcome State Fault Refusal :=
  match Store.find s.parts p with
  | none => .next s
  | some pt =>
    if pt.origins.contains s.now = false then .next s
    else
      let s := { s with parts := Store.put s.parts p
                          { pt with frameOrg := BitVec.ofNat 64 s.now, origins := pt.origins.filter (· != s.now) } }
      match pt.round with
      | none => .next s
      | some (n, tiles, k, o, open_) =>
        if open_.isEmpty ∨ s.now ≠ o then .next s
        else
        .next ((tiles.filter (fun g => open_.contains g && !(s.tile g).inService)).foldl (fun s g =>
          s.noteEnd ⟨g, n, k * tiles.length + tiles.idxOf g, 2, 0x14, false⟩) s)

end Sys2Proof.Machine
end

