-- ==== Sys2Proof/Machine/Frame.lean ====
section
/-!
DEFINITION. Task frames (R259, R340, R343): what a save writes in memory for a task, and what a resumption reads back.
-/

namespace Sys2Proof.Machine

/-- The state a core halts from (R237). -/
def Run.kept : Run → Kept
  | .idle => .idle
  | .running => .running
  | .waiting (.parked true) => .running
  | .waiting _ => .waiting
  | .draining => .draining
  | .halted k => k

/-- A line of a task's scratch is kept across a save (R259): it lies in a valid parcel of the keep-set. -/
def Task.keepsLine (k : Task) (l : Nat) : Bool :=
  k.pds.any (fun e => decide (bit k.keep e.1 = 1) && decide (bit e.2.toNat 34 = 1) &&
    decide (bitsAt e.2.toNat 0 13 ≤ l ∧ l < bitsAt e.2.toNat 0 13 + bitsAt e.2.toNat 13 13))

/-- Words of 64 bits, or of 32, as bytes. -/
def dwords (ws : List Nat) : List Byte := (ws.map (leBytes 8)).flatten
def swords (ws : List Nat) : List Byte := (ws.map (leBytes 4)).flatten

/-- The two-bit code of a core's state in line 0 of a task frame (R340). -/
def Core.stateCode (k : Core) : Nat :=
  match k.run.kept with
  | .idle => 0
  | .running => 1
  | .waiting => 2
  | .draining => 3

/-- The code of a slot's state in a task frame: only empty and full cross a STOP (R244, R340). -/
def slotCode : Slot → Nat
  | .empty => 0
  | .writing => 1
  | .full => 2
  | .reading => 3

/-- The two frame lines of a queued command (R340): units, the registers read at issue, the shape record. -/
def Cmd.frameLines (c : Cmd) : List (List Byte) :=
  let us := if c.op = 256 then (encode (.mark (BitVec.ofNat 5 c.mark))).map (·.toNat) else (encodeE c.op c.w).map (·.toNat)
  let units := swords us
  [(units ++ List.replicate (32 - units.length) 0) ++ dwords [c.ed.toNat, c.es.toNat, c.eh.toNat, c.eb.toNat],
   leBytes 64 c.shape]

/-- The lines of a task frame, but for kept scratch (R340), as runs of bytes from a line on. The card's virtual address is
not stated for a card that stands in a queue slot: a free value (notes/assumptions 16). -/
def Tile.frameRuns (t : Tile) (kind : Nat) (fault : U64) (cardVa : U64) : List (Nat × List Byte) :=
  let cores := [t.l, t.x, t.s]
  let codes := t.l.stateCode + t.x.stateCode * 4 + t.s.stateCode * 16
  let csrs := fun (k : Core) => dwords [k.pc.toNat, k.fflags.toNat, k.frm.toNat, k.priv.toNat, k.tpc.toNat, k.tcause.toNat,
    k.tval.toNat, k.tstatus.toNat, k.codeLo.toNat, k.codeHi.toNat, k.tvec.toNat, 0, 0, 0, 0, 0]
  let queue := fun (q : Nat) => swords ((List.range 16).map (fun i => (((t.queue q).toks.map Token.tok).getD i 0).toNat))
  let q8 := List.range 8
  [(0, dwords [t.task.taskId.toNat, t.task.recIndex.toNat, cardVa.toNat, fault.toNat]
      ++ [BitVec.ofNat 8 kind, BitVec.ofNat 8 codes] ++ leBytes 2 t.l.marks ++ leBytes 2 t.s.marks
      ++ leBytes 2 t.task.groupMask.toNat ++ List.replicate 24 0),
   (1, ((List.range 16).map (fun k => (cores.map (fun c => leBytes 2 (Store.get 0 c.gbars k))).flatten)).flatten
      ++ List.replicate 32 0),
   (3, (cores.map (fun c => dwords ((List.range 32).map (fun n => (c.reg n).toNat)))).flatten),
   (15, (cores.map csrs).flatten),
   (21, dwords [t.ageLimit.toNat, t.closureWin.toNat, t.task.frameLen.toNat, t.task.keep, 0, 0, 0, 0]),
   (22, dwords ((List.range 16).map (fun n => (Store.get 0 t.task.pds n).toNat))),
   (24, dwords (q8.map (t.xr.mask ·))),
   (25, dwords ((List.range 16).map (fun n => (t.xr.walk n).toNat))),
   (27, swords (t.xr.lfsr.map (·.toNat))),
   (31, (q8.map (fun n => leBytes 64 (t.ring n).image)).flatten),
   (39, (q8.map (fun n =>
      let r := t.ring n
      [BitVec.ofNat 8 r.h, BitVec.ofNat 8 r.t]
        ++ leBytes 16 ((List.range 64).foldl (fun a i => a + slotCode (r.slot i) * 4 ^ i) 0))).flatten
      ++ List.replicate 48 0),
   (42, (q8.map queue).flatten),
   (50, q8.map (fun q => BitVec.ofNat 8 (t.queue q).toks.length) ++ q8.map (fun q => BitVec.ofNat 8 (t.queue q).resv)
      ++ List.replicate 48 0),
   (64, swords ((List.range 256).map (fun i => (Store.get 0 t.xr.c i).toNat))),
   (80, swords ((List.range 1024).map (fun i => (Store.get 0 t.xr.cb i).toNat))),
   (144, (t.loadQ.map (fun c => (Cmd.frameLines c).flatten)).flatten),
   (208, (t.storeQ.map (fun c => (Cmd.frameLines c).flatten)).flatten),
   (272, swords ((List.range 24576).map (fun i => (Store.get 0 t.xr.v i).toNat)))]

/-- The lines of scratch that a save writes (R259, R340). -/
def Tile.keptLines (t : Tile) : List Nat := (List.range 5115).filter t.task.keepsLine

/-- How many lines a save or a restore of a task moves (R346). -/
def Tile.frameCount (t : Tile) : Nat :=
  (t.frameRuns 0 0 0).foldl (fun a r => a + r.2.length / 64) 0 + t.keptLines.length

/-- The lines of a saved task written to its frame (R340). -/
def State.writeFrame (s : State) (c : Ctx) (f : Nat) (t : Tile) (kind : Nat) (fault : U64) : State :=
  let va := ((s.card t.task.card).bind (fun d => d.va)).getD (Config.freeValue s.fresh)
  let s := (t.frameRuns kind fault va).foldl (fun s r => s.writePhys (frameAddr c f r.1) r.2) s.tick
  t.keptLines.foldl (fun s l => s.writePhys (frameAddr c f (1808 + l)) (t.line (l : Nat))) s

/-- Numbers of `n` bytes by their place in a memory, in one pass. -/
def Memory.units (n : Nat) (m : Memory) : Store Nat :=
  m.foldr (fun c acc =>
    let v := c.2.toNat * 256 ^ (c.1 % n)
    match acc with
    | [] => [(c.1 / n, v)]
    | (k, w) :: rest => if k = c.1 / n then (k, w + v) :: rest else (c.1 / n, v) :: acc) []

/-- The cells of a memory from `a` on, `n` bytes, by their distance from `a`. -/
def Memory.part (m : Memory) (a n : Nat) : Memory :=
  (m.filter (fun c => decide (a ≤ c.1 ∧ c.1 < a + n))).map (fun c => (c.1 - a, c.2))

/-- A slot's state as a frame's code gives it. -/
def slotOf (v : Nat) : Slot := if v = 1 then .writing else if v = 2 then .full else if v = 3 then .reading else .empty

/-- A core's state as a frame's code gives it. -/
def keptOf (v : Nat) : Kept := if v = 0 then .idle else if v = 1 then .running else if v = 2 then .waiting else .draining

/-- Numbers that are not zero, by place. -/
def listed (n : Nat) (f : Nat → Nat) : Store U64 :=
  ((List.range n).map (fun i => (i, BitVec.ofNat 64 (f i)))).filter (fun e => e.2 != 0)

/-- Core `i` of a frame, from the bytes of its first 51 lines (R340). -/
def Core.fromFrame (k : Core) (m : Memory) (i : Nat) : Core :=
  let reg := fun (n : Nat) => Memory.num m (192 + 256 * i + 8 * n) 8
  let csr := fun (n : Nat) => Memory.num m (960 + 128 * i + 8 * n) 8
  let w := fun (n : Nat) => BitVec.ofNat 64 (csr n)
  { k with
    run := .halted (keptOf (bitsAt (Memory.num m 33 1) (2 * i) 2)),
    pc := w 0, fflags := BitVec.ofNat 5 (csr 1), frm := BitVec.ofNat 3 (csr 2), priv := BitVec.ofNat 2 (csr 3), tpc := w 4,
    tcause := BitVec.ofNat 8 (csr 5), tval := w 6, tstatus := BitVec.ofNat 64 (csr 7 % 32), codeLo := codeBound (csr 8),
      codeHi := codeBound (csr 9), tvec := w 10,
    regs := (listed 32 reg).erase 0,
    marks := if i = 0 then Memory.num m 34 2 else if i = 2 then Memory.num m 36 2 else k.marks,
    gbars := ((List.range 16).map (fun g => (g, Memory.num m (64 + 6 * g + 2 * i) 2))).filter (fun e => e.2 != 0) }

/-- Ring `n` of a frame: its image, positions and slot states (R340). -/
def ringFromFrame (m : Memory) (n : Nat) : Ring :=
  match ringOfImage (Memory.num m (1984 + 64 * n) 64) with
  | none => Ring.unset
  | some r =>
    let st := Memory.num m (2498 + 18 * n) 16
    (List.range r.nslots).foldl (fun r i => r.setSlot i (slotOf (bitsAt st (2 * i) 2)))
      { r with h := Memory.num m (2496 + 18 * n) 1, t := Memory.num m (2497 + 18 * n) 1 }

/-- Queue `q` of a frame: its tokens in standing order, and its reserved places (R340). -/
def queueFromFrame (m : Memory) (q : Nat) : Queue :=
  { toks := (List.range (min 16 (Memory.num m (3200 + q) 1))).map (fun i =>
      { tok := BitVec.ofNat 32 (Memory.num m (2688 + 64 * q + 4 * i) 4), pushAt := 0, rank := 0 }),
    resv := Memory.num m (3208 + q) 1, freed := [] }

/-- A queued command as its two lines of the frame, whose doublewords are `w`, give it; what they do not hold, and a command
that they do not give, is the package's own copy (notes/assumptions 67). -/
def Cmd.fromFrame (c : Cmd) (w : Nat → Nat) : Cmd :=
  let us := (List.range 8).map (fun j => BitVec.ofNat 32 (bitsAt (w (j / 2)) (32 * (j % 2)) 32))
  let reg := fun (n : Nat) => BitVec.ofNat 64 (w (4 + n))
  match decode (us.take (wordUnits (us.headD 0))) with
  | some (.mark n) => if c.op = 256 then { c with mark := n.toNat } else c
  | some i =>
    match engineParts i with
    | some (op, e) =>
      if c.op = 256 then c
      else { c with op := op, w := e, ed := reg 0, es := reg 1, eh := reg 2, eb := reg 3,
                    shape := (List.range 8).foldl (fun a n => a + w (8 + n) * 2 ^ (64 * n)) 0 }
    | none => c
  | none => c

/-- A FIFO as the lines of a frame give it, each command known by its place. -/
def fifoFromFrame (q : List Cmd) (m : Store Nat) : List Cmd :=
  (List.range q.length).filterMap (fun i => (q[i]?).map (fun c => c.fromFrame (fun n => Store.get 0 m (16 * i + n))))

/-- Words of 32 bits of a frame from word `a` on, by register and lane or by number. -/
def wordsFrom (m : Store Nat) (a n : Nat) : Store U32 :=
  (m.filter (fun e => decide (a ≤ e.1 ∧ e.1 < a + n))).map (fun e => (e.1 - a, BitVec.ofNat 32 e.2))

/-- A saved task's tile as the cells of its frame give it (R340, R343). -/
def Tile.fromFrame (t : Tile) (f : Memory) : Tile :=
  let m := f.filter (fun c => decide (c.1 < 3264))
  let ws := Memory.units 4 (f.filter (fun c => decide (4096 ≤ c.1 ∧ c.1 < 9216 ∨ 17408 ≤ c.1 ∧ c.1 < 115712)))
  let num := Memory.num m
  let k := { t.task with
    taskId := BitVec.ofNat 32 (num 0 8), recIndex := BitVec.ofNat 64 (num 8 8), groupMask := BitVec.ofNat 16 (num 38 2),
    frameLen := BitVec.ofNat 32 (num 1360 8), keep := num 1368 8 % 2 ^ 16, pds := listed 16 (fun n => num (1408 + 8 * n) 8) }
  { t with
    task := k, l := t.l.fromFrame m 0, x := t.x.fromFrame m 1, s := t.s.fromFrame m 2,
    ageLimit := BitVec.ofNat 11 (num 1344 8), closureWin := BitVec.ofNat 32 (num 1352 8),
    xr := { t.xr with
      m := (listed 8 (fun n => num (1536 + 8 * n) 8)).erase 0, w := listed 16 (fun n => num (1600 + 8 * n) 8 % 2 ^ 52),
      lfsr := (List.range 64).map (fun j => BitVec.ofNat 32 (num (1728 + 4 * j) 4)),
      c := wordsFrom ws 1024 256, cb := wordsFrom ws 1280 1024, v := wordsFrom ws 4352 24576 },
    rings := ((List.range 8).map (fun n => (n, ringFromFrame m n))).filter (fun e => e.2.isSet),
    queues := ((List.range 8).map (fun q => (q, queueFromFrame m q))).filter (fun e => e.2 != Queue.fresh),
    loadQ := fifoFromFrame t.loadQ (Memory.units 8 (Memory.part f 9216 4096)),
    storeQ := fifoFromFrame t.storeQ (Memory.units 8 (Memory.part f 13312 4096)),
    scratch := (Memory.part f 115712 327360).filter (fun c => k.keepsLine (c.1 / 64)) }

/-- A line of its frame that a resumption reads for a task (R340). -/
def Task.readsFrame (k : Task) (l : Nat) : Bool :=
  decide (l < 51) || decide (64 ≤ l ∧ l < 1808) || (decide (1808 ≤ l ∧ l < 6923) && k.keepsLine (l - 1808))

/-- A frame from which a resumption would read poison (R378). -/
def State.framePoisoned (s : State) (base : Nat) (k : Task) : Bool :=
  s.poison.any (fun p => decide (base ≤ 32 * p ∧ 32 * p < base + 2 ^ 21) && k.readsFrame ((32 * p - base) / 64))

end Sys2Proof.Machine
end

