-- ==== Sys2Proof/Machine/Preempt.lean ====
section
/-!
DEFINITION. Moving tasks on and off tiles (R336 to R345): choosing a victim, the STOP's way through the triple, the drain,
the save with its task frame, and resumption.
-/

namespace Sys2Proof.Machine

open Host (Outcome)

/-- The hub sends STOP to a tile (R337): it stands at the L-core's in0. -/
def State.sendStop (s : State) (g : Nat) : State :=
  let t := s.tile g
  s.setTile g { t with stop := some none, l := { t.l with stopIn := true } }

/-- A tile whose task may be sent a STOP: no STOP under way, not ending. -/
def Tile.stoppable (t : Tile) : Bool := t.task.live && t.stop.isNone && t.task.ending.isNone

/-- The task of a tile has been resident for the quantum of its context, which is not 0 (R336). -/
def State.quantumOver (s : State) (g : Nat) : Bool :=
  (s.ctx (s.tile g).task.ctx).any (fun c => decide (c.cfg.quantum ≠ 0 ∧ (s.tile g).task.since + c.cfg.quantum * 1024 ≤ s.now))

/-- QUANTUM_EXPIRY: a task has been resident for its context's quantum (R336). -/
def execQuantumExpiry (g : Nat) (s : State) : Outcome State Fault Refusal :=
  let t := s.tile g
  match s.ctx t.task.ctx with
  | none => .next s
  | some c =>
    if t.task.live ∧ c.cfg.quantum ≠ 0 ∧ t.task.since + c.cfg.quantum * 1024 ≤ s.now then
      .next (s.setTile g { t with task := { t.task with expired := true } })
    else .next s

/-- A tile's task may make way for a card (R336): by priority, or by its quantum; its context must have a free task frame
(notes/assumptions 44). -/
def State.victim (s : State) (g : Nat) (c : Card) : Bool :=
  let t := s.tile g
  t.stoppable && s.frameToGive g &&
    (decide (t.task.prio < c.prio) || (t.task.prio == c.prio && t.task.ctx != c.ctx && t.task.expired && s.quantumOver g))

/-- Of two victims the one that is taken first (R336): the lower priority, then the later start, then the lower tile. -/
def State.sooner (s : State) (g h : Nat) : Bool :=
  let a := (s.tile g).task
  let b := (s.tile h).task
  decide (a.prio < b.prio) || (a.prio == b.prio && (decide (b.since < a.since) || (a.since == b.since && decide (g < h))))

/-- The first of a card's victims on some tiles (R336). -/
def State.firstVictim (s : State) (gs : List Nat) (c : Card) : Option Nat :=
  (gs.filter (fun g => s.victim g c)).foldl (fun best g =>
    match best with
    | none => some g
    | some b => if s.sooner g b then some g else best) none

/-- The tile that makes way in partition `p` now, if any, and the card that it makes way for (R336): no tile is idle, and of the
cards that wait, and for which no victim is on its way, one has a victim. -/
def State.pickVictim (s : State) (p : Nat) : Option (Nat × Nat) :=
  match Store.find s.parts p with
  | none => none
  | some pt =>
    if pt.datum ∨ pt.tiles.any s.idleTile then none
    else
      let served := fun (n : Nat) => pt.tiles.any (fun g => (s.tile g).stop.isSome && (s.tile g).stopFor == some n)
      let ws := s.waitingCards p
      let byPrio := ([7, 6, 5, 4, 3, 2, 1, 0].map (fun q => ws.filter (fun e => e.2.prio == q))).flatten
      (byPrio.filter (fun e => !served e.1)).findSome? (fun e => (s.firstVictim pt.tiles e.2).map (fun g => (g, e.1)))

/-- PREEMPTION: the hub sends STOP to the victim (R336, R337). -/
def execPreemption (p : Nat) (s : State) : Outcome State Fault Refusal :=
  match s.pickVictim p with
  | none => .next s
  | some (g, n) =>
    let s := s.sendStop g
    .next (s.setTile g { s.tile g with stopFor := some n })

/-- STOP is taken by a core (R337, R338): it stops issuing and abandons its wait; arming ends with the L-core's taking
(R359). -/
def State.takeStop (s : State) (w : Who) : State :=
  let s := s.abandon w
  let t := s.tile w.tile
  let k := t.core w.core
  let t := { t.setCore w.core { k with run := .halted k.run.kept, held := none, arrived := false } with struck := some s.now }
  s.setTile w.tile (if w.core = .L then { t with armed := [] } else t)

/-- The head of a FIFO cannot move of itself: there is none, it has faulted, or it is a MARK whose partner is not placed
and that its partner's idleness or draining has not paired (R273, R339). -/
def Tile.headStill (t : Tile) (f : Fifo) : Bool :=
  match t.fifo f with
  | [] => true
  | c :: _ => c.faulted || (c.op == 256 && !c.paired && (t.fifo (otherFifo f)).all (fun d => !(d.op == 256 && d.next == c.next)))

/-- A FIFO is settled (R339): its head cannot move, or waits for what the other FIFO's still head holds up. -/
def Tile.settled (t : Tile) (g : Nat) (f : Fifo) : Bool :=
  t.headStill f ||
    (t.headStill (otherFifo f) &&
      (match t.fifo f with
       | [] => true
       | c :: _ => c.op == 256 || !t.afterMarks f c ||
         !c.linesLet c.nextMove (c.stepLines t g c.nextMove) (fun l => !t.lockedOut f c l)))

/-- A halted core may pass STOP on (R338): its FIFO settled, its words complete. -/
def Tile.mayHalt (t : Tile) (g : Nat) (c : CoreId) (now : Nat) : Bool :=
  (t.core c).pend.all (fun p => decide (p.due ≤ now)) && t.accessesDone c now &&
    (match c with
     | .L => t.settled g .load
     | .X => t.mopen.isEmpty
     | .S => t.settled g .store)

/-- A draining core whose FIFO has emptied stays idle (R338). -/
def Tile.keptAtHalt (t : Tile) (c : CoreId) (k : Kept) : Kept :=
  if k == .draining && (match c with | .L => t.loadQ.isEmpty | .S => t.storeQ.isEmpty | .X => true) then .idle else k

/-- CORE_HALT: a core that has taken STOP halts and passes it on, L to X to S, and S back to the L-core (R337, R338). -/
def execCoreHalt (g : Nat) (c : CoreId) (s : State) : Outcome State Fault Refusal :=
  let t := s.tile g
  let k := t.core c
  match k.run with
  | .halted kept =>
    if k.stopIn = false ∨ t.mayHalt g c s.now = false then .next s
    else
      let t := t.setCore c { k with stopIn := false, run := .halted (t.keptAtHalt c kept) }
      let t := match c with
        | .L => { t with x := { t.x with stopIn := true } }
        | .X => { t with s := { t.s with stopIn := true } }
        | .S => t
      .next (s.setTile g t)
  | _ => .next s

/-- STOP_TAKEN: a core at which STOP stands takes it at its word boundary (R338): held in a handler, and until the reply of
a global word; a word that would issue in this clock is fetched and framed first, and its fault comes before. -/
def execStopTaken (g : Nat) (c : CoreId) (s : State) : Outcome State Fault Refusal :=
  let k := s.core ⟨g, c⟩
  if k.stopIn = false ∨ k.priv ≠ 0 ∨ k.glob.isSome ∨ k.run.isHalted then .next s
  else if k.run = .running ∧ k.nextAt ≤ s.now ∧ s.forkHeld ⟨g, c⟩ = false then
    match s.fetch ⟨g, c⟩ with
    | .bad code tval => .next (s.trap ⟨g, c⟩ code tval k.pc false)
    | .word _ => .next (s.takeStop ⟨g, c⟩)
  else if k.run = .idle ∧ c ≠ .X then execCoreHalt g c (s.takeStop ⟨g, c⟩)
  else .next (s.takeStop ⟨g, c⟩)

/-- A core as a save keeps it: nothing in flight. -/
def Core.parked (k : Core) : Core :=
  { k with pend := [], glob := none, held := none, stopIn := false, resume := none, drain := false, arrived := false,
           forked := none }

/-- The tile's task as a save keeps it (R340): kept scratch, queues in standing order; accumulators stay on the tile, latches
are lost (R93), arming and claims have ended. -/
def Tile.parkedTile (t : Tile) : Tile :=
  let still := fun (u : Queue) =>
    { u with toks := u.toks.map (fun k => { k with pushAt := 0, rank := 0, issued := 0 }), freed := [] }
  { t with
    l := t.l.parked, x := t.x.parked, s := t.s.parked, xr := { t.xr with byp := [], bypValid := [] },
    scratch := t.scratch.filter (fun c => t.task.keepsLine (c.1 / 64)), acc := [], accTag := [], accOwner := [],
    accMoves := [], queues := t.queues.map (fun (e : Nat × Queue) => (e.1, still e.2)), mopen := [], arrayFree := 0,
    rings := t.rings.map (fun (e : Nat × Ring) => (e.1, { e.2 with held := [] })), barUpds := [], asks := [], served := [],
    vjobs := [], stirred := [], charges := 0, struck := none, stop := none, stopFor := none, armed := [], claims := [],
      chunk := [] }

/-- The page that a task's faulting address lies in (R343). -/
def faultPage (ws : Store (BitVec 128)) (va : U64) : Nat :=
  match windowFor ws va.toNat with
  | some w => pageOf (windowMap w va.toNat)
  | none => 0

/-- Entries of a die's shadow pool in use (R341). -/
def State.poolUsed (s : State) (die : Nat) : Nat := (s.saved.filter (fun e => e.2.pool == some die)).length

/-- STOP has returned to the L-core, and every claimed slot has filled (R340, R360). -/
def Tile.mayBeSaved (t : Tile) : Bool :=
  t.task.live && t.task.ending.isNone && t.claims.isEmpty &&
    [t.l, t.x, t.s].all (fun k => k.run.isHalted && !k.stopIn)

/-- TASK_SAVE: the save sequencer writes the task frame and leaves the tile empty (R340, R341): a pre-empted task's lines
to the shadow pool where it has room, to the frame otherwise; its chunk returns to the card (R309), the context's entry is
stored (R347). Without a free frame the save waits. A park whose page an update has meanwhile made present is ready
(R343). -/
def execTaskSave (g : Nat) (s : State) : Outcome State Fault Refusal :=
  let t := s.tile g
  let k := t.task
  match t.stop, s.ctx k.ctx with
  | some park, some c =>
    match t.mayBeSaved, k.frame.orElse (fun _ => c.lowFrame) with
    | true, some f =>
      let kind := if park.isSome then 1 else 0
      let va := park.getD 0
      let die := dieOf g
      let pool := if kind = 0 ∧ s.poolUsed die < (s.devGet (0x4000 + 8 * die)).toNat % 256 then some die else none
      let s := s.charge g 15 t.frameCount
      let s := (s.storeEntry g).setCtx k.ctx { c with frames := if c.frames.contains f then c.frames else f :: c.frames }
      let s := if pool.isNone then s.writeFrame c f t kind va else s
      let s := s.returnChunk g
      let v : Saved :=
        { tile := { t.parkedTile with task := { k with frame := some f, resumed := false } }, kind := kind, fault := va,
          home := g, frame := f, pool := pool,
          ready := kind == 0 || !pageAbsent (Store.get 0 c.pages (faultPage k.windows va)).toNat,
          dealt := none, seq := s.nextUid }
      let s := { s with saved := Store.put s.saved k.uid v, nextUid := s.nextUid + 1,
                        turn := s.turn.filter (fun w => w.tile != g),
                        parts := s.parts.map (fun (e : Nat × Part) => (e.1, { e.2 with wanted := e.2.wanted.erase g })) }
      .next (s.setTile g (s.tile g).vacated)
    | _, _ => .next s
  | _, _ => .next s

/-- A core as resumption leaves it (R343): a waiting one re-issues its word. -/
def Core.resumed (k : Core) (first : Nat) (empty : Bool) : Core :=
  let run : Run := match k.run.kept with
    | .idle => .idle
    | .draining => if empty then .idle else .draining
    | _ => .running
  { k with run := run, nextAt := first }

/-- The tile with a saved task restored (R259, R343): accumulators are the tile's own; FIFOs replay; the closure count is
0. -/
def Tile.restored (t : Tile) (v : Saved) (ws : Store (BitVec 128)) (now first : Nat) : Tile :=
  let o := v.tile
  { o with
    acc := t.acc, accTag := t.accTag, accOwner := t.accOwner, accMoves := t.accMoves, inService := t.inService,
    throttle := t.throttle, chunk := t.chunk, closureCount := 0, stop := none,
    loadQ := replayed now false o.loadQ, storeQ := replayed now false o.storeQ,
    l := o.l.resumed first o.loadQ.isEmpty, x := o.x.resumed first true, s := o.s.resumed first o.storeQ.isEmpty,
    task := { o.task with windows := ws, since := now, expired := false, resumed := true } }

/-- Accumulators of task `uid` that tiles other than `g` hold (R343): tile and accumulator. -/
def State.accsElsewhere (s : State) (g uid : Nat) : List (Nat × Nat) :=
  ((s.tiles.filter (fun (e : Nat × Tile) => e.1 != g)).map (fun (e : Nat × Tile) =>
    (e.2.accOwner.filter (fun o => Owner.isOf uid o.2)).map (fun o => (e.1, o.1)))).flatten

/-- A saved task discarded (R333, R378): its frame and accumulators are free, its twin groups drop their shadows, it leaves its
groups, and the hub is to record the end: in the place of the tile that it left, or of the one whose failure ends it (R306,
R379). -/
def State.dropSaved (s : State) (uid kind code : Nat) (at_ : Option Nat := none) : State :=
  match Store.find s.saved uid with
  | none => s
  | some v =>
    let k := v.tile.task
    let s := k.twins.foldl (fun s grp => s.flip k.ctx grp false false s.now) { s with saved := s.saved.erase uid }
    let s := (s.freeFrame k.ctx (some v.frame)).leaveAll v.home uid
    let s := { s with tiles := s.tiles.map (fun (e : Nat × Tile) => (e.1, e.2.dropOwners (Owner.isOf uid))) }
    s.noteEnd ⟨at_.getD v.home, k.card, k.recIndex.toNat, kind, code, true⟩

/-- A task discarded for an uncorrectable error where it is saved (R378, R310, R312). -/
def State.discardSaved (s : State) (uid : Nat) (at_ : Option Nat := none) : State :=
  match Store.find s.saved uid with
  | none => s
  | some v => s.dropSaved uid (if s.datumTile v.home then 2 else 3) 0x14 at_

/-- A saved task as it is to be restored (R341, R343): from its frame as memory holds it now, or from its entry of a shadow
pool, which the package alone holds. -/
def State.savedAs (s : State) (c : Ctx) (v : Saved) : Saved :=
  if v.pool.isSome then v else { v with tile := v.tile.fromFrame (Memory.part s.hbm (frameAddr c v.frame 0) (2 ^ 21)) }

/-- TASK_RESUMPTION: the saved task `k` that was dealt to tile `g` (R343): accumulators that other tiles hold are spilled
first (R264); then the task is restored, its windows loaded afresh (R317), and its frame goes back once it holds no image
(R341). From a shadow pool it runs within 21,600 clocks (R16, R341); poison in its frame discards it (R378). -/
def execTaskResumption (g k : Nat) (s : State) : Outcome State Fault Refusal :=
  match Store.find s.saved k with
  | none => .next s
  | some v =>
    if v.dealt ≠ some g ∨ (s.tile g).task.live ∨ (s.tile g).inService = false then .next s
    else
      match s.ctx v.tile.task.ctx, s.card v.tile.task.card with
      | some c, some card =>
        let away := s.accsElsewhere g k
        if away ≠ [] then
          .next (away.foldl (fun s e =>
            if (s.tile e.1).accMoves.any (fun m => m.acc == e.2) then s else s.startMove e.1 e.2 false .nobody) s)
        else if v.pool.isNone ∧ s.framePoisoned (frameAddr c v.frame 0) v.tile.task then .next (s.discardSaved k)
        else
          let late := Config.freeLatency s.fresh
          let first := s.now + 1 + (if v.pool.isSome then late % 21600 else late)
          let v := s.savedAs c v
          let s := { s.tick with saved := s.saved.erase k }
          let s := s.setTile g ((s.tile g).restored v (c.windowsOf card) s.now first)
          let s := (s.loadEntry g v.tile.task.ctx).charge g 15 v.tile.frameCount
          .next (s.returnFrame g)
      | _, _ => .next s

end Sys2Proof.Machine
end

