-- ==== Sys2Proof/Machine/Hub.lean ====
section
/-!
DEFINITION. The hub towards system software: the monument record (R381), hub commands (R332, R333, R352), context records,
the DXU (R323, R325, R328), the PTP triple (R362), device registers (R351) and host memory accesses (R349, R268).
-/

namespace Sys2Proof.Machine

open Host (Outcome)

/-- An entry appended to the monument record, complete in flash within 50 ms (R382), or the marker written where the record is
full (R381); `fields` are its bits above the time. -/
def State.appendMonument (s : State) (kind fields : Nat) : State :=
  if s.monument.length < 4096 then
    { s with monument := s.monument ++ [BitVec.ofNat 128 (kind * 2 ^ 120 + fields + s.tai)],
             flashing := s.flashing ++ [s.now + 135000000] }
  else s.writePhys (serviceFrame 0 + 0x30000) (leBytes 16 (0xFF * 2 ^ 120))

/-- The fields of a tile's entries (R381). -/
def tileEntry (g spare : Nat) : Nat := dieOf g * 2 ^ 110 + spare * 2 ^ 105 + g * 2 ^ 95

/-- Saved tasks that a test picks. -/
def State.savedWhere (s : State) (f : Saved → Bool) : List Nat := (s.saved.filter (fun e => f e.2)).map (fun e => e.1)

/-- Fields of HUBCMD (R352). -/
def hubOp (v : U64) : Nat := bitsAt v.toNat 56 8
def hubCtx (v : U64) : Nat := bitsAt v.toNat 44 12
def hubPart (v : U64) : Nat := bitsAt v.toNat 36 8
def hubDatum (v : U64) : Bool := decide (bit v.toNat 35 = 1)
def hubTile (v : U64) : Nat := bitsAt v.toNat 0 10
def hubReserved (v : U64) : Bool := decide (bitsAt v.toNat 10 25 ≠ 0)

/-- The hub takes a command: HUBRES[63] is 1 (R352). -/
def State.hubFree (s : State) : Bool := decide (bit (s.devGet 0x1010).toNat 63 = 1)

/-- A hub command begins: HUBCMD holds it, HUBRES reads 0, and the status is known (R352). -/
def State.hubBegin (s : State) (v : U64) (status : Nat) : State :=
  { (s.devSet 0x1000 (BitVec.ofNat 64 (bitsAt v.toNat 35 29 * 2 ^ 35 + bitsAt v.toNat 0 10))).devSet 0x1010 0 with hubBusy := some status }

/-- A write to HUBCMD whose operation is `op` (R352): dropped while a command is in progress; else the command runs, with
status 0 done, 1 bad argument or 2 refused. -/
def State.hubRun (s : State) (op : Nat) (v : U64) (run : State → Nat × State) : Outcome State Fault Refusal :=
  if s.hubFree = false ∨ hubOp v ≠ op ∨ hubReserved v then .next s
  else
    let r := run s
    .next (r.2.hubBegin v r.1)

/-- HUBCMD: a write with an unassigned operation or a reserved bit set ends with status 1; one while a command is in
progress, or before bring-up has ended, is dropped (R352, R387). -/
def execHubcmd (v : U64) (s : State) : Outcome State Fault Refusal :=
  if s.hubFree ∧ (hubOp v = 0 ∨ 9 < hubOp v ∨ hubReserved v) then .next (s.hubBegin v 1) else .next s

/-- HUB_COMMAND_DONE: HUBRES reads done and the status, and the host is told (R348, R352). -/
def execHubCommandDone (s : State) : Outcome State Fault Refusal :=
  match s.hubBusy with
  | none => .next s
  | some st => .next ({ s.devSet 0x1010 (BitVec.ofNat 64 (2 ^ 63 + st)) with hubBusy := none }.emit (.msix 2))

/-- A context record's fields (R333); the triples hold S, X and L. -/
def ctxRecOf (v : Nat) : CtxRec :=
  let w := fun (lo : Nat) => BitVec.ofNat 64 (bitsAt v lo 64)
  { ebase := bitsAt v 1984 64, fbase := bitsAt v 1920 64, closure := bitsAt v 1888 32, quantum := bitsAt v 1856 32,
    nframes := bitsAt v 1840 16, qlog := bitsAt v 1832 8, mig := bitsAt v 1816 16, age := bitsAt v 1792 11,
    qbase := bitsAt v 1728 64, cbase := bitsAt v 1664 64, tbase := bitsAt v 1600 64,
    tvec := (w 1536, w 1472, w 1408), codeHi := (w 1344, w 1280, w 1216), codeLo := (w 1152, w 1088, w 1024),
    vw := ((List.range 8).map (fun n => (n, BitVec.ofNat 128 (bitsAt v (128 * n) 128)))).filter (fun e => e.2 != 0) }

/-- The Reset column of a context record (R333). -/
def ctxResetRecord : Nat := 65536 * 2 ^ 1888 + 4 * 2 ^ 1832 + 4096 * 2 ^ 1816 + 64 * 2 ^ 1792

/-- A record that an update refuses (R333). -/
def ctxRecBad (v : Nat) : Bool :=
  let r := ctxRecOf v
  decide (bitsAt v 1803 13 ≠ 0) || decide (r.qlog < 4 ∨ 16 < r.qlog) || decide (r.fbase % 2 ^ 21 ≠ 0) ||
    decide (r.qbase % (128 * 2 ^ r.qlog) ≠ 0) || decide (r.cbase % 2 ^ 22 ≠ 0) || decide (r.tbase % 2 ^ 22 ≠ 0)

/-- A physical range that a stack holds whole (R333, R373). -/
def physOk (a n : Nat) : Bool := decide (a < 2 ^ 40) && decide (a % 2 ^ 36 + n ≤ 64 * 10 ^ 9)

/-- The translation words that a table in memory holds (R320): only listed bytes can make one. -/
def State.readTable (s : State) (tbase : Nat) : Store U64 :=
  let cells := s.hbm.filter (fun c => decide (tbase ≤ c.1 ∧ c.1 < tbase + 2 ^ 22))
  ((cells.map (fun c => (c.1 - tbase) / 8)).eraseDups).map (fun p => (p, BitVec.ofNat 64 (Memory.num cells (tbase + 8 * p) 8)))

/-- A context with its record at an address (R304, R327, R333). -/
def newCtx (addr : Nat) (r : CtxRec) (pages : Store U64) : Ctx :=
  { recAddr := addr, cfg := r, qHead := 0, qTail := 0, refused := 0, dxuPage := 0, dxuAck := 0, appDb := 0, dxuWord := 0,
    acks := [], slotVa := [], pages := pages, twins := [], settle := [], frames := [] }

/-- CREATE_CONTEXT: hub command 1 writes the record's reset values (R333, R352). -/
def execCreateContext (v : U64) (s : State) : Outcome State Fault Refusal :=
  s.hubRun 1 v fun s =>
    let a := (s.devGet 0x1008).toNat
    if (s.ctx (hubCtx v)).isSome then (2, s)
    else if a % 256 ≠ 0 ∨ physOk a 256 = false then (1, s)
    else
      let s := s.writePhys a (leBytes 256 ctxResetRecord)
      (0, s.setCtx (hubCtx v) (newCtx a (ctxRecOf ctxResetRecord) (s.readTable 0)))

/-- UPDATE_CONTEXT: hub command 2 puts the record as it stands into force, or refuses it (R316, R333). A new translation
array is read; words of the old one stay in force where the base stays (notes/assumptions 17). -/
def execUpdateContext (v : U64) (s : State) : Outcome State Fault Refusal :=
  s.hubRun 2 v fun s =>
    match s.ctx (hubCtx v) with
    | none => (1, s)
    | some c =>
      match s.readPhys c.recAddr 256 with
      | none => (2, s)
      | some bs =>
        if ctxRecBad (leNat bs) then (2, s)
        else
          let r := ctxRecOf (leNat bs)
          let pages := if r.tbase = c.cfg.tbase then c.pages else s.readTable r.tbase
          (0, s.setCtx (hubCtx v) { c with cfg := r, pages := pages })

/-- The frames that a migration in progress has taken go back (R374). -/
def State.cancelMig (s : State) (m : Mig) : State :=
  let s := { s with migs := s.migs.erase m }.setFree m.stack m.frame true
  if bit m.old.toNat 15 = 1 then s.setFree m.stack (m.frame + 1) true else s

/-- A context's end (R333): its cards and tasks are discarded, its frames and shadow pool entries free. -/
def State.destroyCtx (s : State) (x : Nat) : State :=
  let cards := (s.cards.filter (fun e => e.2.ctx == x)).map (fun e => e.1)
  let part := fun (pt : Part) => { pt with
    grants := pt.grants.erase x, round := pt.round.bind (fun r => if cards.contains r.1 then none else some r) }
  let s := { s with cards := s.cards.filter (fun e => e.2.ctx != x),
                    parts := s.parts.map (fun (e : Nat × Part) => (e.1, part e.2)),
                    tiles := s.tiles.map (fun (e : Nat × Tile) =>
                      (e.1, { e.2 with chunk := e.2.chunk.filter (fun r => !cards.contains r.2) })) }
  let live := (s.tiles.filter (fun (e : Nat × Tile) => e.2.task.live && e.2.task.ctx == x)).map (fun (e : Nat × Tile) => e.1)
  let s := live.foldl (fun s g => s.endTask g 2 0) s
  let s := (s.savedWhere (fun v => v.tile.task.ctx == x)).foldl (fun s u => s.dropSaved u 2 0) s
  let s := (s.migs.filter (fun m => m.ctx == x)).foldl (fun s m => s.cancelMig m) s
  { s with ctxs := s.ctxs.erase x }

/-- DESTROY_CONTEXT: hub command 3 (R333, R352). -/
def execDestroyContext (v : U64) (s : State) : Outcome State Fault Refusal :=
  s.hubRun 3 v fun s => if (s.ctx (hubCtx v)).isNone then (1, s) else (0, s.destroyCtx (hubCtx v))

/-- A partition holds an accepted card that is not complete. -/
def State.holdsCard (s : State) (p : Nat) : Bool := s.openCards.any (fun e => e.2.partition == p)

/-- A partition holds a running, parked or saved task (R352). -/
def State.holdsTask (s : State) (p : Nat) : Bool :=
  (s.partTiles p).any (fun g => (s.tile g).task.live || !(s.tile g).chunk.isEmpty) ||
    s.saved.any (fun e => (s.partTiles p).contains e.2.home)

/-- The tiles of a partition image: bit g for tile g (R352). -/
def imageTiles (v : Nat) : List Nat := (List.range 640).filter (fun g => bit v g == 1)

/-- The weights of a partition image (R352). -/
def imageWeights (v : Nat) : Store U32 :=
  ((List.range 16).map (fun n => (n, BitVec.ofNat 32 (bitsAt v (1024 + 32 * n) 32)))).filter (fun e => e.2 != 0)

/-- A partition just defined. -/
def newPart (tiles : List Nat) (datum : Bool) (enw : Store U32) : Part :=
  { tiles := tiles, datum := datum, enw := enw, grants := [], frameOrg := 0, pendOrg := none, groups := [],
    sstepAt := none, round := none, origins := [], wanted := [] }

/-- DEFINE_PARTITION: hub command 4 defines a partition, or redefines its tiles, mode and weights (R332, R352). -/
def execDefinePartition (v : U64) (s : State) : Outcome State Fault Refusal :=
  s.hubRun 4 v fun s =>
    let p := hubPart v
    let a := (s.devGet 0x1008).toNat
    match if physOk a 256 then s.readPhys a 256 else none with
    | none => (1, s)
    | some bs =>
      let img := leNat bs
      let tiles := imageTiles img
      let old := Store.find s.parts p
      if old.isSome ∧ (s.holdsCard p ∨ s.holdsTask p) then (2, s)
      else if hubDatum v ∧ old.any (fun pt => decide (1 < pt.grants.length)) then (2, s)
      else if s.parts.any (fun e => e.1 != p && e.2.tiles.any tiles.contains) then (2, s)
      else
        let pt := match old with
          | some pt => { pt with tiles := tiles, datum := hubDatum v, enw := imageWeights img }
          | none => newPart tiles (hubDatum v) (imageWeights img)
        (0, { s with parts := Store.put s.parts p pt })

/-- GRANT: hub command 5 (R332, R352). -/
def execGrant (v : U64) (s : State) : Outcome State Fault Refusal :=
  s.hubRun 5 v fun s =>
    match Store.find s.parts (hubPart v), s.ctx (hubCtx v) with
    | some pt, some _ =>
      if pt.datum ∧ pt.grants.any (· != hubCtx v) then (2, s)
      else (0, { s with parts := Store.put s.parts (hubPart v) { pt with grants := addNew (hubCtx v) pt.grants } })
    | _, _ => (1, s)

/-- REVOKE: hub command 6 (R352). -/
def execRevoke (v : U64) (s : State) : Outcome State Fault Refusal :=
  s.hubRun 6 v fun s =>
    match Store.find s.parts (hubPart v), s.ctx (hubCtx v) with
    | some pt, some _ =>
      (0, { s with parts := Store.put s.parts (hubPart v) { pt with grants := pt.grants.erase (hubCtx v) } })
    | _, _ => (1, s)

/-- The lowest-numbered spare of a die that is neither used nor faulty (R380, R387). -/
def State.freeSpare (s : State) (die : Nat) : Option Nat := (List.range 16).find? (fun n => !s.spares.contains (die, n))

/-- A retired tile takes the lowest-numbered unused spare of its die, where one is left (R380). -/
def State.mapSpare (s : State) (g : Nat) : State :=
  match s.freeSpare (dieOf g) with
  | some n =>
    if (s.tile g).inService ∨ s.deadDies.contains (dieOf g) then s
    else State.appendMonument { s.setTile g Tile.idle with spares := s.spares ++ [(dieOf g, n)] } 1 (tileEntry g n)
  | none => s

/-- The first record of card `n` that has not ended, where none of them is on a tile or saved (R307): of those returned, to be
dealt again, parked or undealt, of the records `held` in chunks, or, of a datum card, of its next round. -/
def State.firstOpen (s : State) (n : Nat) (c : Card) (held : List (Nat × Nat)) : Nat :=
  let rounds := s.parts.filterMap (fun e => match e.2.round with
    | some (m, tiles, k, _, _) => if m = n then some (k * tiles.length) else none
    | none => none)
  (c.returned ++ c.redeal ++ c.parked.map (fun p => p.record) ++ (held.filter (fun e => e.2 == n)).map (fun e => e.1)).foldl min
    (rounds.headD c.fresh)

/-- A card's end at a partition reset (R332): every record that has not ended is lost with code 0x13. -/
def State.resetCard (s : State) (n : Nat) (held : List (Nat × Nat)) : State :=
  match s.card n with
  | none => s
  | some c =>
    if c.state ≠ 1 ∧ c.state ≠ 2 then s
    else
      let c := if c.akind = 0 then { c with akind := 2, acode := 0x13, arec := s.firstOpen n c held } else c
      s.writeStatus n { c with lost := c.count - c.retired - c.exited, tend := s.tai, state := 3, fresh := c.count,
                               returned := [], redeal := [], parked := [] }

/-- A partition reset (R332, R18, R380): its tasks and cards end, its groups, origins and weights are gone, the notice queue
is empty, spares are mapped. -/
def State.resetPart (s : State) (p : Nat) : State :=
  let tiles := s.partTiles p
  let held := (tiles.map (fun g => (s.tile g).chunk)).flatten
  let s := tiles.foldl (fun s g => s.setTile g { s.tile g with chunk := [] }) s
  let s := (tiles.filter (fun g => (s.tile g).task.live)).foldl (fun s g => s.endTask g 2 0x13) s
  let s := ((s.savedWhere (fun v => tiles.contains v.home)).foldl (fun s u => s.dropSaved u 2 0x13) s).recordEnds
  let s := ((s.openCards.filter (fun e => e.2.partition == p)).map (fun e => e.1)).foldl (fun s n => s.resetCard n held) s
  let clear := fun (pt : Part) => { newPart pt.tiles pt.datum [] with grants := pt.grants }
  let s := { s with parts := s.parts.map (fun (e : Nat × Part) => if e.1 = p then (e.1, clear e.2) else e),
                    aborts := s.aborts.filter (fun a => a.2.1 != p) }
  let s := ((s.devSet 0x2010 0).devSet 0x2018 0).devSet 0x2020 0
  tiles.foldl (fun s g => s.mapSpare g) s

/-- PARTITION_RESET: hub command 7 (R332, R352). -/
def execPartitionReset (v : U64) (s : State) : Outcome State Fault Refusal :=
  s.hubRun 7 v fun s =>
    if (Store.find s.parts (hubPart v)).isNone then (1, s) else (0, s.resetPart (hubPart v))

/-- Tiles of a partition sent STOP at system software's request (R336). -/
def State.saveTiles (s : State) (p : Nat) (gs : List Nat) : State :=
  gs.foldl (fun s g =>
    if (s.tile g).stoppable then
      match Store.find s.parts p with
      | some pt => State.sendStop { s with parts := Store.put s.parts p { pt with wanted := addNew g pt.wanted } } g
      | none => s
    else s) s

/-- SAVE_TILE: hub command 8 requests the save of a tile (R336, R352). -/
def execSaveTile (v : U64) (s : State) : Outcome State Fault Refusal :=
  s.hubRun 8 v fun s =>
    match s.partOf (hubTile v) with
    | none => (1, s)
    | some (p, pt) => if pt.datum ∧ s.holdsCard p then (2, s) else (0, s.saveTiles p [hubTile v])

/-- SAVE_PARTITION: hub command 9 requests the save of a partition (R336, R352). -/
def execSavePartition (v : U64) (s : State) : Outcome State Fault Refusal :=
  s.hubRun 9 v fun s =>
    match Store.find s.parts (hubPart v) with
    | none => (1, s)
    | some pt => if pt.datum ∧ s.holdsCard (hubPart v) then (2, s) else (0, s.saveTiles (hubPart v) pt.tiles)

/-- Status writes that the hub holds for a card are performed, in order, where the page is present now (R306). -/
def State.flushHeld (s : State) (n : Nat) : State :=
  match s.card n with
  | none => s
  | some c =>
    if c.heldWr.isEmpty ∨ s.statusReach c = .absent then s
    else c.heldWr.foldl (fun s bs => s.putStatus n { c with heldWr := [] } bs) s

/-- DXU_UPDATE: a write to DXUWORD applies a translation word to the page that DXUPAGE names (R323); it makes ready the
tasks parked on that page (R311, R343) and lets held status writes go (R306). -/
def execDxuUpdate (x : Nat) (w : U64) (s : State) : Outcome State Fault Refusal :=
  match s.ctx x with
  | none => .next s
  | some c =>
    let p := c.dxuPage
    let s := (s.setCtx x { c with dxuWord := w, acks := c.acks ++ [s.now] }).setPage x p w
    let wake := fun (v : Saved) =>
      if v.kind = 1 ∧ v.tile.task.ctx = x ∧ faultPage v.tile.task.windows v.fault = p ∧ pageAbsent w.toNat = false then
        { v with ready := true }
      else v
    let name := fun (d : Card) =>
      if d.ctx = x then { d with parked := d.parked.map (fun q => if q.page = p then { q with ready := true } else q) } else d
    let s := { s with saved := s.saved.map (fun (e : Nat × Saved) => (e.1, wake e.2)),
                      cards := s.cards.map (fun (e : Nat × Card) => (e.1, name e.2)) }
    .next (((s.cards.filter (fun e => e.2.ctx == x)).map (fun e => e.1)).foldl (fun s n => s.flushHeld n) s)

/-- A global word of a context that was issued by clock `at_` is open, or a request of a tile of it at a peer (R323). -/
def State.openSince (s : State) (x at_ : Nat) : Bool :=
  s.tiles.any (fun (e : Nat × Tile) => e.2.task.ctx == x &&
    ([e.2.l, e.2.x, e.2.s].any (fun k => k.glob.any (fun gl => decide (gl.since ≤ at_))) ||
      s.peers.any (fun r => r.tile == e.1 && decide (r.since ≤ at_))))

/-- How many of a context's updates may be acknowledged now, in their order: those before which no request translated under the
old entry is open (R323; notes/assumptions 18). -/
def State.ackable (s : State) (x : Nat) (c : Ctx) : Nat :=
  (c.acks.takeWhile (fun at_ => decide (at_ < s.now) && !s.openSince x at_)).length

/-- DXU_UPDATE_ACK: an update is acknowledged (R323), the oldest first. -/
def execDxuUpdateAck (x : Nat) (s : State) : Outcome State Fault Refusal :=
  match s.ctx x with
  | none => .next s
  | some c =>
    if s.ackable x c = 0 then .next s else .next (s.setCtx x { c with acks := c.acks.tail, dxuAck := c.dxuAck + 1 })

/-- MIGRATION_COMPLETE: the copy of a page ends (R325, R374): the word switches, the counters are zero, the old frames are
free. A page that system software has moved meanwhile keeps its word. -/
def execMigrationComplete (x page : Nat) (s : State) : Outcome State Fault Refusal :=
  match s.migs.find? (fun m => m.ctx == x && m.page == page && decide (m.due ≤ s.now)), s.ctx x with
  | some m, some c =>
    let w := Store.get 0 c.pages page
    let pair := bit w.toNat 15 = 1
    if bitsAt w.toNat 62 2 ≠ 1 ∨ bitsAt w.toNat 43 19 ≠ bitsAt m.old.toNat 43 19 ∨ bit w.toNat 15 ≠ bit m.old.toNat 15 then
      .next (s.cancelMig m)
    else
      let old := pageStack w.toNat
      let f := pageFrame w.toNat
      let s := { s with migs := s.migs.erase m }
      let s := s.copyPhys (old * 2 ^ 36 + f * 2 ^ 21) (m.stack * 2 ^ 36 + m.frame * 2 ^ 21) (if pair then 2 ^ 22 else 2 ^ 21)
      let s := s.setPage x page (putBits (putBits w 58 4 m.stack) 43 15 m.frame)
      let s := (s.writePhys (c.cfg.cbase + 8 * page) (leBytes 8 0)).setFree old f true
      .next (if pair then s.setFree old (f + 1) true else s)
  | _, _ => .next s

/-- A context's pages belong to datum mode: it has a datum-mode partition (R329). -/
def State.datumCtx (s : State) (x : Nat) : Bool := s.parts.any (fun e => e.2.datum && e.2.grants.contains x)

/-- TWIN_SETTLEMENT: the settlement of a group's last flip is complete (R328, R329). -/
def execTwinSettlement (x grp : Nat) (s : State) : Outcome State Fault Refusal :=
  match s.ctx x with
  | none => .next s
  | some c =>
    match Store.find c.settle grp with
    | none => .next s
    | some t => if s.now < t then .next s else .next (s.settleGroup x grp (s.datumCtx x))

/-- PTPCOMMIT: a write of 1 commits the staged triple, or is refused (R362). -/
def execPtpcommit (v : U64) (s : State) : Outcome State Fault Refusal :=
  if v ≠ 1 then .next s
  else
    let d := (s.devGet 0x3000).toNat
    let old := bitsAt (s.devGet 0x3018).toNat 0 1
    if d ≤ s.now + 1024 ∨ s.ptpPend.isSome then .next (s.devSet 0x3018 (BitVec.ofNat 64 (2 + old)))
    else
      .next ({ s with ptpPend := some (d, (s.devGet 0x3008).toNat, (s.devGet 0x3010).toNat) }.devSet 0x3018 1)

/-- The committed triple takes effect at its anchor, for every use of TAI time in the clock (R362). -/
def State.takeTriple (s : State) : State :=
  match s.ptpPend with
  | none => s
  | some t =>
    if s.now < t.1 then s
    else { s with ptp := t, ptpPend := none }.devSet 0x3018 (BitVec.ofNat 64 (2 * bit (s.devGet 0x3018).toNat 1))

/-- PTP_TRIPLE_EFFECT: the committed triple takes effect at its anchor (R362). -/
def execPtpTripleEffect (s : State) : Outcome State Fault Refusal := .next s.takeTriple

/-- SHADOW: a die's shadow pool is sized, unless the value is above 192 or an entry is in use (R351). -/
def execShadow (n : Nat) (v : U64) (s : State) : Outcome State Fault Refusal :=
  if 4 ≤ n ∨ 192 < v.toNat ∨ s.poolUsed n ≠ 0 then .next s else .next (s.devSet (0x4000 + 8 * n) v)

/-- NQSTAT: writing 1 to bit 63 clears the overflow bit (R351). -/
def execNqstat (v : U64) (s : State) : Outcome State Fault Refusal :=
  if bit v.toNat 63 = 1 then .next (s.devSet 0x2020 (BitVec.ofNat 64 (bitsAt (s.devGet 0x2020).toNat 0 63))) else .next s

/-- The address of an entry of a host ring: 1,024 entries of 10,240 bytes (R351). -/
def hostEntry (base i : Nat) : Nat := (base + i % 1024 * 10240) % 2 ^ 48

/-- The next frame of the host transmit ring taken into its port's pending sends (R351, R361); an entry whose line 0 is
malformed is passed over (notes/assumptions 19). -/
def State.takeHostFrame (s : State) : State :=
  if s.htxHead = (s.devGet 0x3208).toNat then s
  else
    let a := hostEntry (s.devGet 0x3200).toNat s.htxHead
    let n := Memory.num s.host a 2
    let port := Memory.num s.host (a + 2) 1
    if n < 60 ∨ 9216 < n ∨ 2 ≤ port then { s with htxHead := (s.htxHead + 1) % 2 ^ 64 }
    else
      let q := Store.get [] s.txq port
      if 256 ≤ q.length then s
      else
        let x : TxFrame := { launch := 0, order := s.htxHead, late := false, bytes := Memory.bytes s.host (a + 64) n, src := none }
        { s with txq := Store.put s.txq port (insertFrame x q), htxHead := (s.htxHead + 1) % 2 ^ 64 }

/-- The frames of the host transmit ring that its ports have room for: at most the ring's 1,024. -/
def State.takeHostFrames (s : State) : State := (List.range 1024).foldl (fun s _ => s.takeHostFrame) s

/-- HTXTAIL: the host advances its transmit ring (R351). -/
def execHtxtail (v : U64) (s : State) : Outcome State Fault Refusal := .next (s.devSet 0x3208 v).takeHostFrames

/-- A device register that stores what is written, and its width (R351). -/
def regWidth (off : Nat) : Option Nat :=
  if 0x3000000 ≤ off ∧ off < 0x3004000 then some 64
  else if 0x4000000 ≤ off ∧ off < 0x4002000 then some 40
  else if 0x5000000 ≤ off ∧ off < 0x5000200 then some 64
  else
    match off with
    | 0x100 => some 8
    | 0x1008 => some 64
    | 0x2000 => some 64
    | 0x2008 => some 5
    | 0x2010 => some 32
    | 0x3000 => some 64
    | 0x3008 => some 64
    | 0x3010 => some 64
    | 0x3020 => some 32
    | 0x3100 => some 64
    | 0x3108 => some 64
    | 0x3118 => some 64
    | 0x3200 => some 64
    | _ => none

/-- The flow that an offset holds the upper doubleword of. -/
def flowUpper (off : Nat) : Option Nat :=
  if 0x3000000 ≤ off ∧ off < 0x3004000 ∧ off % 16 = 8 then some ((off - 0x3000000) / 16) else none

/-- The bits of a device register that are not reserved (R6): of the lower half of a flow entry, all but the lowest 16 (R359). -/
def regValue (off n v : Nat) : Nat :=
  if 0x3000000 ≤ off ∧ off < 0x3004000 ∧ off % 16 = 0 then bitsAt v 16 48 * 2 ^ 16 else bitsAt v 0 n

/-- REGISTER_WRITE: a host write to a device register without behaviour of its own (R351): stored in its width, or dropped;
a flow that the host arms anew counts from 0 (R360); an access that is not 8-aligned ends in an error. -/
def execRegisterWrite (off : Nat) (v : U64) (s : State) : Outcome State Fault Refusal :=
  if off % 8 ≠ 0 then .next (s.emit .hostError)
  else if 0x1000000 ≤ off ∧ off < 0x1000000 + 0x1000 * 4096 then
    let x := (off - 0x1000000) / 0x1000
    match s.ctx x with
    | some c => if (off - 0x1000000) % 0x1000 = 0x20 then .next (s.setCtx x { c with dxuPage := bitsAt v.toNat 0 19 }) else .next s
    | none => .next s
  else
    match regWidth off with
    | none => .next s
    | some n =>
      let s' := s.devSet off (BitVec.ofNat 64 (regValue off n v.toNat))
      match flowUpper off with
      | some f =>
        if bit v.toNat 59 = 1 ∧ bit (s.devGet off).toNat 59 = 0 then .next { s' with flowSeq := s'.flowSeq.erase f } else .next s'
      | none => .next s'

/-- A host write of a value to a device register over CXL.io is the event of that register (R348, R351, R352). -/
def State.writeRegister (s : State) (off : Nat) (v : U64) : Outcome State Fault Refusal :=
  if 0x1000000 ≤ off ∧ off < 0x1000000 + 0x1000 * 4096 then
    let x := (off - 0x1000000) / 0x1000
    match (off - 0x1000000) % 0x1000 with
    | 0x00 => execTailDoorbell x (BitVec.ofNat 32 v.toNat) s
    | 0x08 => execAppendDoorbell x v s
    | 0x28 => execDxuUpdate x v s
    | _ => execRegisterWrite off v s
  else if 0x4000 ≤ off ∧ off < 0x4020 ∧ off % 8 = 0 then execShadow ((off - 0x4000) / 8) v s
  else
    match off with
    | 0x1000 =>
      if hubReserved v then execHubcmd v s
      else
        match hubOp v with
        | 1 => execCreateContext v s
        | 2 => execUpdateContext v s
        | 3 => execDestroyContext v s
        | 4 => execDefinePartition v s
        | 5 => execGrant v s
        | 6 => execRevoke v s
        | 7 => execPartitionReset v s
        | 8 => execSaveTile v s
        | 9 => execSavePartition v s
        | _ => execHubcmd v s
    | 0x2020 => execNqstat v s
    | 0x3018 => execPtpcommit v s
    | 0x3208 => execHtxtail v s
    | _ => execRegisterWrite off v s

/-- A host read of a device register over CXL.io (R348, R351). Reading NQSTAT ends the lost-notice count (R18). -/
def State.hostRegister (s : State) (off : Nat) : State :=
  let s' := s.emit (.hostRead (leBytes 8 (s.devRead off).toNat) false)
  if off = 0x2020 then s'.devSet 0x2020 (BitVec.ofNat 64 (bit (s.devGet 0x2020).toNat 63 * 2 ^ 63)) else s'

/-- Lines of host memory that hold `n` bytes from an address. -/
def hostLines (h n : Nat) : List Nat := (List.range ((h % 64 + n + 63) / 64)).map (fun k => h / 64 + k)

/-- HOST_MEMORY_ACCESS: an access of the host at `h`, of `len` bytes read, or of bytes written.
hdm: in the HDM range, untranslated and uncounted; beyond a stack's bytes it has no effect (R349).
bar0: a device register, by 8 bytes at a multiple of 8 (R348, R351); a write is the register's own event.
own: its own memory, which device reads of region 2 see (R281); what it writes whole answers no more with an error.
refuse: the host comes to answer accesses to some lines of its memory with an error or poison, or, with bytes, to answer them
again (R350). -/
def execHostMemoryAccess (place : HostPlace) (len : Nat) (wr : Option (List Byte)) (s : State) :
    Outcome State Fault Refusal :=
  match place, wr with
  | .hdm h, some bs => if physOk h bs.length then .next (s.writePhys h bs) else .next (s.emit .hostError)
  | .hdm h, none =>
    if physOk h len then
      match s.readPhys h len with
      | some bs => .next (s.emit (.hostRead bs false))
      | none => .next (s.emit (.hostRead (Memory.bytes s.hbm h len) true))
    else .next (s.emit (.hostRead [] true))
  | .bar0 h, some bs =>
    if bs.length ≠ 8 ∨ h % 8 ≠ 0 then .next (s.emit .hostError)
    else s.writeRegister h (BitVec.ofNat 64 (leNat bs))
  | .bar0 h, none => if len ≠ 8 ∨ h % 8 ≠ 0 then .next (s.emit .hostError) else .next (s.hostRegister h)
  | .own h, some bs =>
    .next { s.writeHost h bs with
                   hostBad := s.hostBad.filter (fun l => !decide (h ≤ l * 64 ∧ l * 64 + 64 ≤ h + bs.length)) }
  | .own h, none => .next (s.emit (.hostRead (Memory.bytes s.host h len) (s.hostLost h len)))
  | .refuse h, none => .next { s with hostBad := (hostLines h len).foldl (fun l n => addNew n l) s.hostBad }
  | .refuse h, some _ => .next { s with hostBad := s.hostBad.filter (fun l => !(hostLines h len).contains l) }

end Sys2Proof.Machine
end

