-- ==== Sys2Proof/Machine/Links.lean ====
section
/-!
DEFINITION. What arrives from and leaves by the Ustik Link and the Ethernet ports: inbound windows and replies (R353 to R356),
received frames, their claims and fills (R358 to R360), and pending sends (R361).
-/

namespace Sys2Proof.Machine

open Host (Outcome)

/-- A count raised by one; it saturates (R377). -/
def State.countUp (s : State) (k : Nat) : State :=
  { s with counts := Store.set 0 s.counts k (min (Store.get 0 s.counts k + 1) (2 ^ 64 - 1)) }

/-- The keys of the error counts: link errors of a port (R353), of a stack (R377), of a die (R386). -/
def linkKey (port : Nat) : Nat := port
def stackKey (stack n : Nat) : Nat := 1000 + 4 * stack + n
def dieKey (die n : Nat) : Nat := 2000 + 4 * die + n

/-- A device register that counts raised by one, up to its width (R351). -/
def State.devCount (s : State) (off width : Nat) : State :=
  s.devSet off (BitVec.ofNat 64 (min ((s.devGet off).toNat + 1) (2 ^ width - 1)))

/-- An inbound window's four doublewords (R354). -/
def State.inwin (s : State) (j n : Nat) : Nat := (s.devGet (0x5000000 + 32 * j + 8 * n)).toNat

/-- The entry matches a peer address from a peer (R354). -/
def State.inwinMatches (s : State) (src a j : Nat) : Bool :=
  decide (bit (s.inwin j 0) 63 = 1) &&
    (decide (bitsAt (s.inwin j 0) 0 8 = 0xFF) || decide (bitsAt (s.inwin j 0) 0 8 = src)) &&
    decide (bitsAt (s.inwin j 1) 0 40 ≤ a ∧ a ≤ bitsAt (s.inwin j 2) 0 40)

/-- Where an inbound request at peer address `a` leads (R354): context and intermediate address, for the first matching
entry, if it allows the access. -/
def State.inbound (s : State) (src a : Nat) (wr : Bool) : Option (Nat × Nat) :=
  match (List.range 16).find? (s.inwinMatches src a) with
  | none => none
  | some j =>
    if bit (s.inwin j 0) (if wr then 62 else 61) = 0 then none
    else some (bitsAt (s.inwin j 0) 44 12, (a - bitsAt (s.inwin j 1) 0 40 + s.inwin j 3) % 2 ^ 52)

/-- The die of a Ustik Link port (R353). -/
def portDie (port : Nat) : Nat := port / 32

/-- One line of an inbound request of a peer at its place, or none where it is refused (R253, R354): a read gives its bytes. -/
def State.inboundAt (s : State) (by_ : HostWriter) (port x ia n : Nat) (wr : Option (List Byte)) :
    Option (State × List Byte) :=
  match regionOf ia with
  | 0 =>
    if bitsAt ia 40 8 ≠ 0 then none
    else
      let s := s.countFrom (portDie port) x ia false
      match s.reach x [] ia, wr with
      | .hbm a, some bs => some (s.writePhys a bs, [])
      | .hbm a, none => (s.readPhys a n).map (fun bs => (s, bs))
      | .host a, w =>
        match w with
        | some bs => if s.hostBroken a n then none else some (s.writeReach by_ (.host a) bs, [])
        | none => if s.hostLost a n then none else some (s, Memory.bytes s.host a n)
      | _, _ => none
  | 1 =>
    let h := bitsAt ia 19 29
    if 640 ≤ h then none
    else if (s.tile h).task.live = false then some (s, List.replicate n 0)
    else
      match wr with
      | none => some (s.remoteRead h ia n)
      | some bs => some (s.remoteWrite h ia bs, [])
  | _ => none

/-- Lines of an inbound request in ascending order, up to the first that is refused (R354, R356); the third part says
whether none was. -/
def State.inboundLines (s : State) (by_ : HostWriter) (port src a : Nat) (wr : Bool) : List (Nat × List Byte) →
  State × List Byte × Bool
  | [] => (s, [], true)
  | (o, bs) :: ls =>
    match s.inbound src (a + o) wr with
    | none => (s, [], false)
    | some (x, ia) =>
      match s.inboundAt by_ port x ia bs.length (if wr then some bs else none) with
      | none => (s, [], false)
      | some (s, got) =>
        let r := s.inboundLines by_ port src a wr ls
        (r.1, got ++ r.2.1, r.2.2)

/-- A message cut into its lines: offsets and bytes (R353). -/
def messageLines (bs : List Byte) : List (Nat × List Byte) :=
  (List.range ((bs.length + 63) / 64)).map (fun k => (64 * k, (bs.drop (64 * k)).take 64))

/-- A reply leaves by the port it answers, in flits (R353): class 1; kind 0 acknowledge, 1 data, 2 refuse. -/
def State.reply (s : State) (port src tag kind : Nat) (payload : List Byte) : State :=
  s.emitFlits port (1 * 2 ^ 62 + kind * 2 ^ 58 + src % 256 * 2 ^ 50 + (s.devGet 0x100).toNat % 256 * 2 ^ 42
    + tag % 4096 * 2 ^ 30) payload

/-- PEER_WRITE: an inbound write is performed, and acknowledged once the host has acknowledged what of it went to host memory;
or it is refused (R268, R354, R356). Nothing comes by a port left down (R387). -/
def execPeerWrite (port src tag a : Nat) (data : List Byte) (s : State) : Outcome State Fault Refusal :=
  if s.downPorts.contains port then .next s
  else
    let me := HostWriter.peer port src tag
    let r := s.inboundLines me port src a true (messageLines data)
    if r.2.2 then .next (if r.1.hostAcks.contains me then r.1 else r.1.reply port src tag 0 [])
    else .next (State.reply { r.1 with hostAcks := r.1.hostAcks.map (fun h => if h = me then .hub else h) } port src tag 2 [])

/-- PEER_READ: an inbound read is answered with data, or refused (R354). Nothing comes by a port left down (R387). -/
def execPeerRead (port src tag a len : Nat) (s : State) : Outcome State Fault Refusal :=
  if s.downPorts.contains port then .next s
  else
    let r := s.inboundLines .hub port src a false (messageLines (List.replicate len 0))
    .next (if r.2.2 then r.1.reply port src tag 1 r.2.1 else r.1.reply port src tag 2 [])

/-- HOST_ACKNOWLEDGE: the host acknowledges the oldest write of the device to its memory (R268); a peer's message of which it
was the last has its acknowledge (R356). -/
def execHostAcknowledge (s : State) : Outcome State Fault Refusal :=
  match s.hostAcks with
  | [] => .next s
  | h :: rest =>
    let s := { s with hostAcks := rest }
    match h with
    | .peer port src tag => .next (if rest.contains h then s else s.reply port src tag 0 [])
    | _ => .next s

/-- A reply to a global word (R121, R354): its data, or permission where the peer refused. -/
def State.replyWord (s : State) (r : PeerReq) (kind : Nat) (data : List Byte) : State :=
  let k := s.core ⟨r.tile, r.core⟩
  match k.glob with
  | none => s
  | some gl =>
    let rep := if kind = 2 then Reply.fault 0x06 else .done (BitVec.ofNat 64 (leNat (data.take 8)))
    let s := if kind = 2 then s else s.charge r.tile 13 1
    s.setCore ⟨r.tile, r.core⟩ { k with glob := some { gl with reply := rep } }

/-- A reply to a command of a FIFO (R191, R205): an acknowledge counts its sectors, data are kept for its reading, a refusal
ends its work. -/
def State.replyCommand (s : State) (r : PeerReq) (f : Fifo) (kind : Nat) (data : List Byte) : State :=
  match ((s.tile r.tile).fifo f).find? (fun c => c.issued == r.issued) with
  | none => s
  | some c =>
    let s :=
      match kind with
      | 0 => s.sectors r.tile f c r.sect
      | 1 => s.setCmd r.tile f { c with fetched := c.fetched ++ [(r.va, data)] }
      | _ => s.setCmd r.tile f { c with plan := [], trouble := troubleOf 0x06 r.va }
    s.dueEngine r.tile

/-- PEER_REPLY: an acknowledge, data or a refusal reaches its requester (R356). A datum-mode transfer that needed a second
replay has failed, whatever the reply (R355). -/
def execPeerReply (port tag kind : Nat) (data : List Byte) (s : State) : Outcome State Fault Refusal :=
  match s.peers.find? (fun r => r.port == port && r.tag == tag) with
  | none => .next s
  | some r =>
    if s.datumTile r.tile ∧ 2 ≤ r.replays then .next s
    else
      let s := { s with peers := s.peers.erase r }
      .next (match r.fifo with
        | none => s.replyWord r kind data
        | some f => s.replyCommand r f kind data)

/-- LINK_REPLAY: flits of a message are sent again (R355). -/
def execLinkReplay (port tag : Nat) (s : State) : Outcome State Fault Refusal :=
  .next { s with peers := s.peers.map (fun r =>
    if r.port = port ∧ r.tag = tag then { r with replays := r.replays + 1 } else r) }

/-- CONTROL_FLIT: a flit of the reserved class is dropped and counted (R353). What a barrier or an abort flit of another
package does here is not stated: nothing (notes/assumptions 10). -/
def execControlFlit (port : Nat) (hdr : U64) (s : State) : Outcome State Fault Refusal :=
  if bitsAt hdr.toNat 62 2 = 3 then .next (s.countUp (linkKey port)) else .next s

/-- A number read with its first byte the highest, as network headers are (notes/assumptions 20). -/
def beNat (bs : List Byte) : Nat := bs.foldl (fun a b => a * 256 + b.toNat) 0

/-- Bytes `n` at `o` of a frame as a header field. -/
def fieldAt (bs : List Byte) (o n : Nat) : Nat := beNat ((bs.drop o).take n)

/-- A frame has an 802.1Q tag, and where its EtherType and its payload stand (notes/assumptions 20). -/
def frameTagged (bs : List Byte) : Bool := fieldAt bs 12 2 == 0x8100
def frameBody (bs : List Byte) : Nat := if frameTagged bs then 18 else 14
def frameType (bs : List Byte) : Nat := fieldAt bs (frameBody bs - 2) 2

/-- The UDP destination port of a frame, if it carries one (notes/assumptions 20). -/
def framePort (bs : List Byte) : Option Nat :=
  let o := frameBody bs
  if frameType bs = 0x0800 ∧ fieldAt bs (o + 9) 1 = 17 ∧ fieldAt bs (o + 6) 2 % 0x2000 = 0 then
    some (fieldAt bs (o + fieldAt bs o 1 % 16 * 4 + 2) 2)
  else if frameType bs = 0x86DD ∧ fieldAt bs (o + 6) 1 = 17 then some (fieldAt bs (o + 42) 2)
  else none

/-- A flow entry matches a frame of a port (R359). -/
def flowMatches (e port : Nat) (bs : List Byte) : Bool :=
  decide (bit e 127 = 1) && decide (bit e (125 + port) = 1) && decide (bitsAt e 16 48 = fieldAt bs 0 6) &&
    decide (bitsAt e 64 16 = frameType bs) &&
    (decide (bit e 97 = 0) || (frameTagged bs && decide (bitsAt e 98 12 = fieldAt bs 14 2 % 4096))) &&
    (decide (bit e 96 = 0) || decide (framePort bs = some (bitsAt e 80 16)))

/-- The flow that a frame matches: the lowest-numbered entry (R359). Only written registers can be valid. -/
def State.flowOf (s : State) (port : Nat) (bs : List Byte) : Option Nat :=
  ((s.dev.filter (fun e => decide (0x3000000 ≤ e.1 ∧ e.1 < 0x3004000 ∧ e.1 % 16 = 8))).map
    (fun e => (e.1 - 0x3000000) / 16)).find? (fun f => flowMatches (s.flowEntry f) port bs)

/-- The trailer of a received frame (R360), as a number. -/
def trailer (rxts now seq len flow port trunc : Nat) : Nat :=
  rxts * 2 ^ 192 + now * 2 ^ 128 + seq % 2 ^ 64 * 2 ^ 64 + len * 2 ^ 32 + flow * 2 ^ 22 + port * 2 ^ 21 + trunc * 2 ^ 20

/-- A frame delivered to the host receive ring, or dropped and counted when it is full (R351, R359). -/
def State.toHost (s : State) (port flow seq : Nat) (bs : List Byte) : State :=
  let head := (s.devGet 0x3108).toNat
  let tail := (s.devGet 0x3110).toNat
  if (tail + 2 ^ 64 - head) % 2 ^ 64 < 1024 then
    let a := hostEntry (s.devGet 0x3100).toNat tail
    let s := s.writeReach .hub (.host a) (leBytes 64 (trailer s.tai s.now seq bs.length flow port 0) ++ bs)
    s.devSet 0x3110 (BitVec.ofNat 64 (tail + 1))
  else s.devCount 0x3118 64

/-- The ring that a flow is bound to on the tile of its entry (R359). -/
def State.boundRing (s : State) (f : Nat) : Option Nat :=
  let e := s.flowEntry f
  if bit e 123 = 1 then some (bitsAt e 120 3)
  else ((s.tile (bitsAt e 110 10)).armed.find? (fun b => b.1 == f)).map (fun b => b.2)

/-- The slot that a frame of flow `f` may claim (R360): its ring and slot, where slot t is empty and q5 has a place. -/
def State.claimable (s : State) (f : Nat) : Option (Nat × Nat) :=
  let t := s.tile (bitsAt (s.flowEntry f) 110 10)
  match s.boundRing f with
  | none => none
  | some n =>
    let r := t.ring n
    if t.task.live && r.isSet && decide (2 ≤ r.lps) && t.tailEmpty n && decide (0 < (t.queue 5).places s.now) then some (n, r.t)
    else none

/-- A frame claims a slot (R360): slot t becomes writing and t advances, a place of q5 is reserved, and bytes and trailer go to
the banks as requests from outside the tile. It fills 1,080 clocks later; in free mode no earlier. -/
def State.claim (s : State) (g n slot flow seq port : Nat) (bs : List Byte) : State :=
  let t := s.tile g
  let r := t.ring n
  let room := (r.lps - 1) * 64
  let first := (r.base + slot * r.lps) * 64
  let tr := trailer s.tai s.now seq bs.length flow port (if room < bs.length then 1 else 0)
  let parts := (messageLines (bs.take room)).map (fun e => (first + e.1, e.2)) ++ [(first + room, leBytes 64 tr)]
  let fill := s.now + 1080 + (if s.datumTile g then 0 else Config.freeLatency s.fresh)
  let q := t.queue 5
  let t := t.ask s.now rankRemote 1079 (parts.map (fun e => (((e.1 / 64 : Nat) : Int), .put [e])))
  let t := { t with claims := t.claims ++ [(n, slot, fill)] }
  let t := (t.setRing n { r.setSlot slot .writing with t := r.after slot }).setQueue 5 { q with resv := q.resv + 1 }
  let lines := (min room bs.length + 63) / 64 + 1
  ((s.setTile g t).charge g 13 (lines - 1)).tick

/-- FRAME_RECEIVE: a frame is dropped by its MAC, delivered to the host, or claims a slot of its flow's ring (R358 to
R360). -/
def execFrameReceive (port : Nat) (fcsOk : Bool) (bytes : List Byte) (s : State) : Outcome State Fault Refusal :=
  let stat := fun (n : Nat) => Outcome.next (s.devCount (0x6000000 + 0x100 * port + 8 * n) 64)
  if 2 ≤ port ∨ s.downPorts.contains (128 + port) then .next s
  else if fcsOk = false then stat 0
  else if bytes.length < 60 ∨ 9216 < bytes.length then stat 1
  else if frameType bytes = 0x8808 then stat 2
  else
    match s.flowOf port bytes with
    | none =>
      let s := s.devCount (0x6000000 + 0x100 * port + 24) 64
      .next (s.tick.toHost port (bitsAt (Config.freeValue s.fresh).toNat 0 10) (Config.freeValue (s.fresh + 1)).toNat bytes).tick
    | some f =>
      let e := s.flowEntry f
      let seq := Store.get 0 s.flowSeq f
      let s := { s with flowSeq := Store.put s.flowSeq f (seq + 1) }
      if bit e 124 = 1 then .next (s.toHost port f seq bytes)
      else
        match s.claimable f with
        | some (n, slot) => .next (s.claim (bitsAt e 110 10) n slot f seq port bytes)
        | none => .next (s.devCount (0x3020000 + 8 * f) 32)

/-- Nothing written from outside the tile stands at the banks for a slot (R360). -/
def Tile.slotWritten (t : Tile) (n slot : Nat) : Bool :=
  let r := t.ring n
  t.asks.all (fun a => a.rank != rankRemote || !a.isPut || !inRanges [(r.base + slot * r.lps, r.lps)] a.line)

/-- INGEST_SLOT_FILL: the claimed slot `n` mod 64 of ring `n` div 64 becomes full, and its token enters q5 (R238, R360). -/
def execIngestSlotFill (g n : Nat) (s : State) : Outcome State Fault Refusal :=
  let t := s.tile g
  match t.claims.find? (fun c => c.1 == n / 64 && c.2.1 == n % 64 && decide (c.2.2 ≤ s.now) && t.slotWritten c.1 c.2.1) with
  | none => .next s
  | some c =>
    let r := t.ring c.1
    let tok := BitVec.ofNat 32 (c.1 * 2 ^ 25 + c.2.1 * 2 ^ 19 + (r.base + c.2.1 * r.lps))
    let t := ({ t with claims := t.claims.erase c }.setRing c.1 (r.setSlot c.2.1 .full)).pushDone (some 5) tok s.now 2
    .next (s.setTile g t)

/-- The NXTX whose frame leaves (R361): it holds the transmit timestamp, and completes once the last byte has left. -/
def State.sentCommand (s : State) (x : TxFrame) (last : Nat) : State :=
  match x.src with
  | none => s.writeReach .hub (.host ((hostEntry (s.devGet 0x3200).toNat x.order + 8) % 2 ^ 48)) (leBytes 8 s.tai)
  | some (g, f, n) =>
    match ((s.tile g).fifo f).find? (fun c => c.op == 0xD3 && c.started && !c.sent && c.next == n) with
    | none => s
    | some c => s.setCmd g f { c with sent := true, late := x.late, next := s.tai, due := last }

/-- Clocks that a port takes to send a frame and its FCS at 800 Gb/s (R358, R361; notes/assumptions 21). -/
def sendTime (n : Nat) : Nat := ((n + 4) * 27 + 999) / 1000

/-- FRAME_TRANSMIT: the first pending send of a port leaves, once its launch time has come and the port is idle (R361); nothing
leaves by a port left down (R387). -/
def execFrameTransmit (port : Nat) (s : State) : Outcome State Fault Refusal :=
  match Store.get [] s.txq port with
  | [] => .next s
  | x :: rest =>
    if s.tai < x.launch ∨ s.now < Store.get 0 s.txFree port ∨ s.downPorts.contains (128 + port) then .next s
    else
      let last := s.now + sendTime x.bytes.length
      let s := { s with txq := Store.put s.txq port rest, txFree := Store.put s.txFree port last }
      .next ((s.emit (.frame port x.bytes)).sentCommand x last).takeHostFrames

end Sys2Proof.Machine
end

