-- ==== Sys2Proof/Machine/Power.lean ====
section
/-!
DEFINITION. Errors, repair, power and bring-up (R375 to R387): background work, uncorrectable errors and machine checks,
telemetry, the apportioner, the monument record in flash, and package reset.
-/

namespace Sys2Proof.Machine

open Host (Outcome)

/-- A complete pass of the patrol scrub over a stack is counted (R375, R377). -/
def State.scrubPass (s : State) (stack : Nat) : State := s.countUp (stackKey stack 3)

/-- A pseudo-channel of a stack is retrained, which is counted (R375, R377). -/
def State.retrained (s : State) (stack : Nat) : State := s.countUp (stackKey stack 2)

/-- A SerDes lane is recalibrated (R18, R375): its calibration is the implementation's own (notes/assumptions 9). -/
def State.recalibrated (s : State) (lane : Nat) : State :=
  { s.tick with calib := Store.put s.calib lane (Config.calibration s.fresh) }

/-- PATROL_SCRUB: a word is read and checked; what it corrects and a pass that ends are counted (R376, R377). -/
def execPatrolScrub (p : ScrubPlace) (s : State) : Outcome State Fault Refusal :=
  match p with
  | .tile g corrected => .next (if corrected then s.countUp (dieKey (dieOf g) 0) else s)
  | .dieCache die corrected => .next (if corrected then s.countUp (dieKey die 1) else s)
  | .stack n corrected passEnd =>
    let s := if corrected then s.countUp (stackKey n 0) else s
    .next (if passEnd then s.scrubPass n else s)

/-- REFRESH: HBM refresh alters no architectural value (R376). -/
def execRefresh (_stack : Nat) (s : State) : Outcome State Fault Refusal := .next s

/-- RETRAINING: a pseudo-channel of a stack is retrained, which is counted (R375, R377). -/
def execRetraining (stack : Nat) (s : State) : Outcome State Fault Refusal := .next (s.retrained stack)

/-- RECALIBRATION: a SerDes lane is recalibrated, with no architectural value altered (R375, R376). -/
def execRecalibration (lane : Nat) (s : State) : Outcome State Fault Refusal := .next (s.recalibrated lane)

/-- A frame retired (R378, R381): an entry of kind 3, unless it already has one; it is retired too where the record is full. -/
def State.retireFrame (s : State) (stack frame : Nat) : State :=
  if s.frameRetired stack frame then s
  else
    let s := if s.monument.length < 4096 then s else { s with badFrames := (stack % 16, frame % 2 ^ 15) :: s.badFrames }
    s.appendMonument 3 (frame % 2 ^ 15 * 2 ^ 80 + stack % 16 * 2 ^ 76)

/-- An accumulator that a saved task owns on a failing tile (R379): spilled to its save area at once, or the task discarded
where it holds an uncorrectable word. -/
def State.rescue (s : State) (g : Nat) (bad : List Nat) (n : Nat) : State :=
  let o := (s.tile g).ownerOf n
  let s := if bad.contains n then s.discardSaved o.uid (some g) else (s.chargeMove g (s.holder g o)).writeImage g n
  s.setTile g ((s.tile g).freeAcc n)

/-- A machine check (R379): the resident task is discarded, the accumulators of others are spilled, the tile leaves service
with its undealt records returned, and an entry of kind 2 is appended. -/
def State.machineCheck (s : State) (g : Nat) (bad : List Nat) : State :=
  let s := if (s.tile g).task.live then s.endTask g 3 0x14 else s
  let s := ((s.tile g).accOwner.map (fun e => e.1)).foldl (fun s n => s.rescue g bad n) s
  let s := if s.datumTile g then s.setTile g { s.tile g with chunk := [] } else s.returnChunk g
  let away := fun (v : Saved) => if v.dealt = some g then { v with dealt := none } else v
  let s := { s with saved := s.saved.map (fun (e : Nat × Saved) => (e.1, away e.2)),
                    parts := s.parts.map (fun (e : Nat × Part) => (e.1, { e.2 with wanted := e.2.wanted.erase g })) }
  State.appendMonument { s.setTile g { s.tile g with inService := false } with broken := s.broken ++ [g] } 2 (tileEntry g 0)

/-- The virtual address at which a command meets an error of HBM: its next write, or its source. -/
def Cmd.atAddr (c : Cmd) : Nat :=
  match c.plan with
  | (_, .glob va _ _) :: _ => va
  | _ => if outward c.op || c.op == 0xCF then c.ed.toNat else c.es.toNat

/-- UNCORRECTABLE_ERROR: the fate of each place (R378), with MSI-X vector 3. -/
def execUncorrectableError (p : ErrPlace) (s : State) : Outcome State Fault Refusal :=
  let s := s.emit (.msix 3)
  match p with
  | .tileSram g bad => .next ((s.countUp (dieKey (dieOf g) 2)).machineCheck g bad)
  | .cacheClean die => .next (s.countUp (dieKey die 1))
  | .cacheModified die sectors lines =>
    let s := s.countUp (dieKey die 2)
    .next { s with poison := sectors.foldl (fun l p => addNew p l) s.poison,
                   hostPoison := lines.foldl (fun l p => addNew (2 * p + 1) (addNew (2 * p) l)) s.hostPoison }
  | .shadowEntry uid =>
    match (Store.find s.saved uid).bind (fun v => v.pool) with
    | none => .next s
    | some die => .next ((s.countUp (dieKey die 2)).discardSaved uid)
  | .hbmWord g c stack frame =>
    let s := (s.countUp (stackKey stack 1)).retireFrame stack frame
    let k := s.core ⟨g, c⟩
    match k.glob with
    | none => .next s
    | some gl => .next (s.setCore ⟨g, c⟩ { k with glob := some { gl with reply := .fault 0x14, write := none } })
  | .hbmCommand g f stack frame =>
    let s := (s.countUp (stackKey stack 1)).retireFrame stack frame
    match (s.tile g).fifo f with
    | [] => .next s
    | c :: _ =>
      if c.op = 256 ∨ c.faulted then .next s
      else .next ((s.setCmd g f { c with plan := [], trouble := troubleOf 0x14 c.atAddr }).dueEngine g)
  | .savedFrame uid =>
    match Store.find s.saved uid with
    | none => .next s
    | some v =>
      match s.ctx v.tile.task.ctx with
      | none => .next s
      | some c => .next ((s.countUp (stackKey (frameAddr c v.frame 0 / 2 ^ 36) 1)).discardSaved uid)
  | .hbmScrub sector =>
    let a := sector * 32
    let s := { s.countUp (stackKey (a / 2 ^ 36) 1) with poison := addNew sector s.poison }
    .next (s.retireFrame (a / 2 ^ 36) (a % 2 ^ 36 / 2 ^ 21))

/-- Tiles of a die out of service (R386). -/
def State.deadTiles (s : State) (die : Nat) : Nat :=
  (s.tiles.filter (fun (e : Nat × Tile) => dieOf e.1 == die && !e.2.inService)).length

/-- A count of an error field, within its width. -/
def State.errCount (s : State) (k width : Nat) : Nat := min (Store.get 0 s.counts k) (2 ^ width - 1)

/-- The reservations in W (R386): how a part of a watt is rounded is not stated (notes/assumptions 22). -/
def State.reservedWatts (s : State) : Nat :=
  s.reserved / 1000 + (if s.reserved % 1000 = 0 then 0 else (Config.freeValue s.fresh).toNat % 2)

/-- Line 0 of the telemetry block (R386). -/
def State.telemetryPackage (s : State) (seq : Nat) : Nat :=
  Config.sensor s.fresh % 2 ^ 32 * 2 ^ 224 + s.reservedWatts % 2 ^ 32 * 2 ^ 192
    + Config.sensor (s.fresh + 1) % 2 ^ 32 * 2 ^ 160 + s.plim * 2 ^ 128 + s.tai * 2 ^ 64 + seq

/-- Line 1 + d of the telemetry block (R386). -/
def State.telemetryDie (s : State) (d : Nat) : Nat :=
  s.errCount (dieKey d 2) 32 * 2 ^ 224 + s.errCount (dieKey d 1) 32 * 2 ^ 192 + s.errCount (dieKey d 0) 32 * 2 ^ 160
    + (16 - (s.spares.filter (fun e => e.1 == d)).length) * 2 ^ 144 + s.deadTiles d * 2 ^ 128
    + Config.sensor (s.fresh + 2 + 2 * d) % 2 ^ 32 * 2 ^ 96 + Config.sensor (s.fresh + 3 + 2 * d) % 2 ^ 32 * 2 ^ 64
    + s.errCount (dieKey d 3) 64

/-- A stack's counts (R377). -/
def State.stackCounts (s : State) (n : Nat) : Nat :=
  s.errCount (stackKey n 3) 64 * 2 ^ 192 + s.errCount (stackKey n 2) 64 * 2 ^ 128 + s.errCount (stackKey n 1) 64 * 2 ^ 64
    + s.errCount (stackKey n 0) 64

/-- TELEMETRY_WRITE: the hub makes the sequence count odd; or, where it is, writes the telemetry block, with the count even and
larger, and the stack counts (R377, R386). -/
def execTelemetryWrite (s : State) : Outcome State Fault Refusal :=
  let seq := (s.telSeq + 1) % 2 ^ 64
  if seq % 2 = 1 then .next { s.writePhys (serviceFrame 0 + 0x11000) (leBytes 8 seq) with telSeq := seq }
  else
  let block := s.telemetryPackage seq :: (List.range 4).map (fun d => s.telemetryDie d)
  let s' := s.writePhys (serviceFrame 0 + 0x11000) ((block.map (leBytes 64)).flatten)
  let s' := (List.range 16).foldl (fun (a : State) n => a.writePhys (serviceFrame n + 0x1000) (leBytes 32 (s.stackCounts n))) s'
  .next { s' with telSeq := seq, fresh := s.fresh + 10 }

/-- PL as the power control word gives it (R384). -/
def State.readPlim (s : State) : Nat := min 3600 (max 600 (Memory.num s.hbm (serviceFrame 0 + 0x10000) 2 % 2 ^ 12))

/-- Datum cards that the boundary lets in (R383), for contexts in ascending order; a context holds 16 cards at most. -/
def State.acceptDatum (s : State) : State :=
  (s.ctxs.map (fun e => e.1)).foldl (fun s x =>
    (List.range 16).foldl (fun (s : State) _ => if s.canAccept x true then s.accept x true else s) s) s

/-- A number entered in ascending order. -/
def insertNat (d : Nat) : List Nat → List Nat
  | [] => [d]
  | a :: as => if d ≤ a then d :: a :: as else a :: insertNat d as

/-- The level of water-filling over ascending demands (R383): a share as numerator and denominator; none where every demand
is met. -/
def fillLevel : List Nat → Nat → Option (Nat × Nat)
  | [], _ => none
  | d :: ds, r => if d * (ds.length + 1) ≤ r then fillLevel ds (r - d) else some (r, ds.length + 1)

/-- A throttle level holds a tile to its grant (R385): `st` its static power, `d` its demand, grant the lesser of `d` and
the level's share. -/
def levelHolds (st d q : Nat) (share : Option (Nat × Nat)) : Bool :=
  let p : Int := 16 * (st : Int) + (16 - q : Nat) * ((d : Int) - (st : Int))
  decide (p ≤ 16 * (d : Int)) &&
    (match share with
     | none => true
     | some (r, n) => decide (p * (n : Int) ≤ 16 * (r : Int)))

/-- The throttle level of a free-mode tile (R385). -/
def throttleLevel (st d : Nat) (share : Option (Nat × Nat)) : Nat :=
  ((List.range 13).find? (fun q => levelHolds st d q share)).getD 12

/-- The tiles of free-mode partitions in service (R383). -/
def State.freeTiles (s : State) : List Nat :=
  ((s.parts.filter (fun e => !e.2.datum)).map (fun e => e.2.tiles.filter (fun g => (s.tile g).inService))).flatten

/-- The boundary of a period (R383 to R385): PL is read, waiting datum cards are accepted, and the power left is dealt among the
free-mode tiles as throttle levels; a datum-mode tile has none. Static power, demand and the dies' guardbands, set afresh, are
the hub's own (R375; notes/assumptions 9). -/
def State.beginPeriod (s : State) : State :=
  let s := State.acceptDatum { s with plim := s.readPlim }
  let demand := fun (g : Nat) => Config.demandPower (s.fresh + g)
  let tiles := s.freeTiles
  let share := fillLevel (tiles.foldl (fun l g => insertNat (demand g) l) []) (1000 * s.plim - s.reserved)
  let calm := { s with tiles := s.tiles.map (fun (e : Nat × Tile) => (e.1, { e.2 with throttle := 0 })) }
  let s' := tiles.foldl (fun (a : State) g =>
    let q := throttleLevel (Config.staticPower g) (demand g) share
    let a := a.setTile g { a.tile g with throttle := q }
    if q = 0 then a else a.countUp (dieKey (dieOf g) 3)) calm
  { s' with fresh := s.fresh + 644, guardband := bringUpBands (s.fresh + 640) }

/-- APPORTIONER_PERIOD: the boundary of a period (R383 to R385). -/
def execApportionerPeriod (s : State) : Outcome State Fault Refusal := .next s.beginPeriod

/-- A range of physical memory as nothing was ever written to it. -/
def State.clearPhys (s : State) (a n : Nat) : State :=
  { s with hbm := s.hbm.filter (fun c => !decide (a ≤ c.1 ∧ c.1 < a + n)),
           poison := s.poison.filter (fun p => !decide (a ≤ p * 32 ∧ p * 32 < a + n)) }

/-- The mirror of the monument record rewritten in stack 0's service frame (R382). -/
def State.writeMirror (s : State) : State :=
  (s.clearPhys (serviceFrame 0 + 0x20000) 0x10000).writePhys (serviceFrame 0 + 0x20000)
    ((s.monument.map (fun e => leBytes 16 e.toNat)).flatten)

/-- The marker entry as a bring-up leaves it (R381): written where the record is full, otherwise zero. -/
def State.writeMarker (s : State) : State :=
  s.writePhys (serviceFrame 0 + 0x30000) (leBytes 16 (if s.monument.length < 4096 then 0 else 0xFF * 2 ^ 120))

/-- The oldest append still under way is complete in flash, and the mirror is rewritten (R382). -/
def State.flashed (s : State) : State :=
  if s.flashing.isEmpty then s else { s with flashing := s.flashing.tail }.writeMirror

/-- MONUMENT_FLASH_COMPLETE: an append is complete in flash, within 50 ms of its event (R382). -/
def execMonumentFlashComplete (s : State) : Outcome State Fault Refusal := .next s.flashed

/-- How many entries of a kind the record holds for a tile (R381). -/
def entriesOf (m : List (BitVec 128)) (kind g : Nat) : Nat :=
  (m.filter (fun e => decide (bitsAt e.toNat 120 8 = kind ∧ bitsAt e.toNat 95 10 = g))).length

/-- The tiles that the record keeps out of service (R380, R387): retired more often than spared. -/
def retiredTiles (m : List (BitVec 128)) : List Nat :=
  (List.range 640).filter (fun g => entriesOf m 1 g < entriesOf m 2 g)

/-- Spares that the record has used: die and index (R381). -/
def usedSpares (m : List (BitVec 128)) : List (Nat × Nat) :=
  (m.filter (fun e => decide (bitsAt e.toNat 120 8 = 1))).map (fun e => (bitsAt e.toNat 110 2, bitsAt e.toNat 105 5))

/-- Tiles whose part machine checks have found faulty more often than the record says, since a power loss has lost its entry:
self-test finds them again (R382). -/
def State.foundAgain (s : State) : List Nat :=
  s.broken.eraseDups.filter (fun g => decide (entriesOf s.monument 2 g < (s.broken.filter (· == g)).length))

/-- Some tiles taken out of service. -/
def State.shut (s : State) (gs : List Nat) : State :=
  gs.foldl (fun s g => s.setTile g { s.tile g with inService := false }) s

/-- A tile that self-test finds faulty (R387): retired and spared at once, where a spare is left. -/
def State.selfTest (s : State) (g : Nat) : State := ((s.shut [g]).appendMonument 2 (tileEntry g 0)).mapSpare g

/-- An error count, which outlasts a package reset: every count but a die's throttled periods (R377, R386, R387). -/
def isErrorKey (k : Nat) : Bool := [0, 1, 2, 3].all (fun d => k != dieKey d 3)

/-- The package after a reset (R387): all state ends but the part's (the record, its spares and what it keeps out of
service) and the error counts; the host's memory, what has left the package and the model's own counter and inputs are
not the package's. Self-test finds the tiles and spares of `found`, and again what the record has lost (R382); dies whose HBM
training fails stay out of service, guardbands are set, and ports whose training fails stay down. The lanes keep their calibration
(notes/assumptions 115). The hub takes no command until bring-up has ended. -/
def State.bringUp (s : State) (found : BringUp) : State :=
  let again := s.foundAgain
  let kept := { State.reset with
    host := s.host, hostBad := s.hostBad, hostPoison := s.hostPoison, badFrames := s.badFrames, out := s.out,
      fresh := s.fresh + 4, agenda := s.agenda,
    counts := s.counts.filter (fun e => isErrorKey e.1), monument := s.monument,
    flashing := s.flashing.map (fun t => t - s.now), spares := (usedSpares s.monument ++ found.spares).eraseDups,
    broken := s.broken ++ found.tiles, downPorts := found.ports, guardband := bringUpBands s.fresh, calib := s.calib,
    rising := true }
  let s := kept.shut (retiredTiles kept.monument)
  let s := ((again ++ found.tiles).eraseDups.filter (fun g => (s.tile g).inService)).foldl (fun s g => s.selfTest g) s
  let s := { s.shut ((List.range 640).filter (fun g => found.dies.contains (dieOf g))) with deadDies := found.dies }
  (s.devSet 0x1010 0).writeMirror.writeMarker

/-- Bring-up ends (R387): the hub takes commands. -/
def State.risen (s : State) : State := { s.devSet 0x1010 0x8000000000000000 with rising := false }

/-- PACKAGE_RESET: power-on, a CXL conventional reset or link-down (R387). -/
def execPackageReset (test : SelfTest) (train : Training) (s : State) : Outcome State Fault Refusal :=
  .next (s.bringUp ⟨test, train⟩)

/-- THERMAL_TRIP: a junction temperature of a die reaches the trip point (R386): an entry of kind 4, then a package reset. -/
def execThermalTrip (trip : Nat × BringUp) (s : State) : Outcome State Fault Refusal :=
  .next ((s.appendMonument 4 0).bringUp trip.2)

/-- POWER_LOSS: counts, guardbands and calibration end, and entries not complete in flash are lost (R18, R382). -/
def execPowerLoss (s : State) : Outcome State Fault Refusal :=
  .next { s with powered := false, counts := [], guardband := [], calib := [], badFrames := [],
                 monument := s.monument.take (s.monument.length - s.flashing.length), flashing := [] }

end Sys2Proof.Machine
end

