-- ==== Sys2Proof/Machine/VecDone.lean ====
section
/-!
DEFINITION. The end of a vector word that reaches scratch (R125, R127, R159, R161): its result once the banks have served the
lines it reads, and the lines it writes.
-/

namespace Sys2Proof.Machine

/-- What each vector word does, by its plan (R125); VGATH, VSCAT, VTOS and CBLD have ends of their own. -/
def vectorPlan (x : XRes) (r : U64) : Instr → Option (VWord × VPlan)
  | .vadd w => some (w, planVadd w)
  | .vsub w => some (w, planVsub w)
  | .vmul w => some (w, planVmul w)
  | .vfma w => some (w, planVfma w)
  | .vfms w => some (w, planVfms w)
  | .vfnma w => some (w, planVfnma w)
  | .vdiv w => some (w, planVdiv w)
  | .vsqrt w => some (w, planVsqrt w)
  | .vrcp w => some (w, planVrcp w)
  | .vrsq w => some (w, planVrsq w)
  | .vfexp2 w => some (w, planVfexp2 w)
  | .vflog2 w => some (w, planVflog2 w)
  | .vmin w => some (w, planVmin w)
  | .vmax w => some (w, planVmax w)
  | .vabs w => some (w, planVabs w)
  | .vneg w => some (w, planVneg w)
  | .vrndi w => some (w, planVrndi w)
  | .vscalb w => some (w, planVscalb w)
  | .vgetexp w => some (w, planVgetexp w)
  | .vgetmant w => some (w, planVgetmant w)
  | .vclass w => some (w, planVclass w)
  | .vmov w => some (w, planVmov w)
  | .vcmp w => some (w, planVcmp w)
  | .vsel w => some (w, planVsel w)
  | .vmaskop w => some (w, planVmaskop w)
  | .viadd w => some (w, planViadd w)
  | .visub w => some (w, planVisub w)
  | .vimul w => some (w, planVimul w)
  | .vimin w => some (w, planVimin w)
  | .vimax w => some (w, planVimax w)
  | .vand w => some (w, planVand w)
  | .vor w => some (w, planVor w)
  | .vxor w => some (w, planVxor w)
  | .vshl w => some (w, planVshl w)
  | .vshr w => some (w, planVshr w)
  | .vsra w => some (w, planVsra w)
  | .viminu w => some (w, planViminu w)
  | .vimaxu w => some (w, planVimaxu w)
  | .vcmul w => some (w, planVcmul w)
  | .vcmac w => some (w, planVcmac w)
  | .vradd w => some (w, planVradd w)
  | .vrmax w => some (w, planVrmax w)
  | .vrmin w => some (w, planVrmin w)
  | .vramax w => some (w, planVramax w)
  | .vscan w => some (w, planVscan w)
  | .vlfsrRead w => some (w, planVlfsrRead w)
  | .vlfsrWrite w => some (w, planVlfsrWrite w)
  | .vlfsrAdvance w => some (w, planVlfsrAdvance w)
  | .vlfsrReseed w => some (w, planVlfsrReseed r w)
  | .vcvt w => some (w, planVcvt w)
  | .vamaxb w => some (w, planVamaxb w)
  | .vqnt w => some (w, planVqnt w)
  | .vdqnt w => some (w, planVdqnt w)
  | .vlqdec w => some (w, planVlqdec x w)
  | .vhad w => some (w, planVhad w)
  | .vpack w => some (w, planVpack w)
  | .vunpk w => some (w, planVunpk w)
  | .vperm w => some (w, planVperm w)
  | .vshuf w => some (w, planVshuf w)
  | .vslide w => some (w, planVslide w)
  | .vbcast w => some (w, planVbcast w)
  | .vcomp w => some (w, planVcomp w)
  | .vexpd w => some (w, planVexpd w)
  | _ => none

/-- Its lines are read: no request of its is left that reads one. -/
def Tile.jobRead (t : Tile) (j : VJob) : Bool :=
  t.asks.all (fun a => a.since != j.issued || a.rank != rankVector || a.isGive)

/-- The contents of line `k` that the word read at its only operand. -/
def VJob.line (j : VJob) (k : Nat) : Nat := (j.got.find? (fun g => g.2.1 == k)).elim 0 (fun g => g.2.2)

/-- The lines of that operand. -/
def VJob.lines (j : VJob) : List Int := (j.reads.head?).elim [] (fun r => r.2)

/-- A word whose lines are read gets its result, in a clock that ends (R91, R125, R158, R160, R161). -/
def Tile.jobDone (t : Tile) (now : Nat) (j : VJob) : Tile :=
  let ended := fun (t : Tile) => t.mapJob j.issued (fun j => { j with out := some (now + 1, [], []) })
  match j.word with
  | .vtos w => ended (t.setCore .X (t.x.setReg (bitsAt w.b.toNat 0 5) (vtosValue w (j.elems 1 (typeOf w) 64))))
  | .vgath w =>
    let o := gatherOut w j.vin j.lines j.line
    let t := t.putGather w o
    ended { t with x := t.x.mapAsked j.issued (fun q => q.result 0 (gatherCap w j.vin o)) }
  | .cbldConst _ => ended { t with xr := t.xr.loadConsts (j.elems 1 13 256) }
  | .cbldCodebook w => ended { t with xr := t.xr.loadBook (w.h.x3.toNat - 1) (j.elems 1 13 256) }
  | i =>
    match vectorPlan t.xr t.task.recIndex i with
    | none => ended t
    | some (w, p) => t.jobResult j p w ((p.ud.parse 0 w.h.lits.length w.d.toNat).getD .unused) now

/-- Line `k` of a word's destination written: the elements of the lanes that it writes (R37, R125). -/
def Tile.jobLine (t : Tile) (j : VJob) (k : Nat) (els : List Nat) (wr : List Bool) : Tile :=
  let l := j.writes.getD k (-1)
  match j.word with
  | .vscat w => t.scatterLine w j.vin l
  | i =>
  match vectorPlan t.xr t.task.recIndex i with
  | none => t
  | some (_, p) =>
    t.setLine l (patchLine p.ud.ty (t.line l) (k * min 64 (512 / typeBits p.ud.ty)) els wr)

/-- Line `k` of its destination may be written at the end of clock `now`: its bank has granted it, its result is seen from
the next clock on, and no earlier word has yet to write it (R92, R127). -/
def Tile.jobMay (t : Tile) (now : Nat) (j : VJob) (k : Nat) : Bool :=
  j.given.contains k && j.out.any (fun o => decide (o.1 ≤ now + 1)) &&
    t.vjobs.all (fun i => decide (j.issued ≤ i.issued) || !i.owes (j.writes.getD k (-1))) &&
    t.mopen.all (fun m => decide (j.issued ≤ m.issued) || !m.fills (j.writes.getD k (-1)))

/-- Every line of a word's destination that may be written is written; in datum mode, where they are written in one clock, all or
none (R102, R128). -/
def Tile.jobWrites (t : Tile) (now issued : Nat) (datum : Bool) : Tile :=
  match t.vjobs.find? (fun j => j.issued == issued) with
  | none => t
  | some j =>
    match j.out with
    | none => t
    | some o =>
      let may := j.todo.filter (t.jobMay now j)
      let ks := if datum && decide (may.length < j.todo.length) then [] else may
      let t := ks.foldl (fun t k => t.jobLine j k o.2.1 o.2.2) t
      t.mapJob issued (fun j => { j with todo := j.todo.filter (fun k => !ks.contains k) })

/-- The end of a clock for the vector words that reach scratch: results, lines, and the words that are over, in program
order. -/
def Tile.finishJobs (t : Tile) (now : Nat) (datum : Bool) : Tile :=
  let t := t.vjobs.foldl (fun u j => if j.out.isNone && u.jobRead j then u.jobDone now j else u) t
  let t := (t.vjobs.map (fun j => j.issued)).foldl (fun u n => u.jobWrites now n datum) t
  { t with vjobs := t.vjobs.filter (fun j => j.out.isNone || !j.todo.isEmpty) }

end Sys2Proof.Machine
end

