-- ==== Sys2Proof/Machine/Tick.lean ====
section
/-!
DEFINITION. The clock (R98): what a clock's end counts and charges, and the events and the cores of the next clock, in the
model's order (notes/assumptions 3).
-/

namespace Sys2Proof.Machine

open Host (Outcome)

/-- The tiles that hold a task, ascending. -/
def State.liveTiles (s : State) : List Nat :=
  (s.tiles.filter (fun (e : Nat × Tile) => e.2.task.live)).map (fun (e : Nat × Tile) => e.1)

/-- A partition whose tiles have all arrived at their superstep is released 96 clocks on (R232). -/
def State.armSstep (s : State) (pt : Part) : Part :=
  let open_ := pt.tiles.any (fun g => [(s.tile g).l, (s.tile g).x, (s.tile g).s].any (fun k => k.arrived))
  if pt.datum && pt.sstepAt.isNone && open_ && pt.tiles.all (fun g => (s.tile g).atSstep) then
    { pt with sstepAt := some (s.now + 96) }
  else pt

/-- The closure count and the residency of a tile at the end of a clock (R247, R346). -/
def State.countTile (s : State) (g : Nat) : State :=
  let t := s.tile g
  let s := (s.setTile g { t with closureCount := if s.lost g then t.closureCount + 1 else 0 }).charge g 0 1
  s.setTile g (s.tile g).payCharges

/-- Frames whose clock has come while their port still sends leave late (R361). -/
def State.markLate (s : State) (port : Nat) : State :=
  if s.now < Store.get 0 s.txFree port then
    { s with txq := Store.put s.txq port ((Store.get [] s.txq port).map (fun x =>
        if x.launch ≤ s.tai then { x with late := true } else x)) }
  else s

/-- A line granted to a command that reads it, kept as it stands (R267). -/
def State.capture (s : State) (g : Nat) (f : Fifo) (issued tile line v : Nat) : State :=
  match ((s.tile g).fifo f).find? (fun c => c.issued == issued && c.asked) with
  | some c => if c.readsNow || (c.unitsLeft && c.plan.isEmpty) then s.setCmd g f { c with got := c.got ++ [(tile, line, v)] } else s
  | none => s

/-- A request that its bank has served, as the tile stood before (R121, R253, R346): the energy of its line, the reply to a
global word, and the line that a command reads. -/
def State.granted (s : State) (g : Nat) (t : Tile) (x : Ask) : State :=
  let s := match x.payer g with
    | some h => s.charge h 10 1
    | none => s
  match x.act with
  | .far who c ea n _ => s.answer ⟨who, c⟩ (.done (BitVec.ofNat 64 (t.readAt (ea : Int) n)))
  | .eng who f n => s.capture who f n g x.line (leNat (t.line (x.line : Int)))
  | _ => s

/-- A word that meets a fault as its bank serves it has no effect, and its core takes the fault, with TPC at the word (R32, R222;
notes/assumptions 93). -/
def State.refuse (s : State) (g : Nat) (t : Tile) (x : Ask) : State :=
  match t.refusal x, askCore x.rank with
  | some e, some c =>
    let s := s.setTile g ((s.tile g).dropWord c x.since)
    if t.task.ending.isSome then s else s.trap ⟨g, c⟩ e.1 e.2 x.pc false
  | _, _ => s

/-- An MFILL that finds no image in its lines, which were held as it issued, faults as it reads them (R178; notes/assumptions
111). -/
def State.refuseFill (s : State) (g : Nat) (m : MOpen) : State :=
  let s := s.setTile g ((s.tile g).dropFill m)
  if (s.tile g).task.ending.isSome then s
  else s.trap ⟨g, .X⟩ 0x04 (operandTval 3 (0x40 + m.w.acc.toNat)) m.pc false

/-- Nothing of a tile waits for its banks. -/
def Tile.banksQuiet (t : Tile) : Bool :=
  t.asks.isEmpty && t.served.isEmpty && t.vjobs.isEmpty && t.mopen.all (fun m => m.held.isEmpty && m.slot.isEmpty)

/-- The banks of tile `g` grant, and what they served is performed: requests, lines that matrix words waited for, and vector
words whose lines are there (R97, R102, R127). -/
def State.grantTile (s : State) (g : Nat) : State :=
  let t := s.tile g
  if t.banksQuiet then s
  else
    let datum := s.datumTile g
    let t := t.mopen.foldl (fun t m => t.beginEpilogue s.now m) t
    let served := t.asks.filter (t.serves s.now datum)
    let u := t.arbitrate s.now datum
    let bad := u.mopen.filter u.fillRefused
    let u := (u.mopen.filter (fun m => !m.held.isEmpty)).foldl (fun u m => u.readHeld s.now datum m) u
    let s := s.setTile g (u.finishJobs s.now datum)
    let s := served.foldl (fun s x => s.granted g t x) s
    let s := served.foldl (fun s x => s.refuse g t x) s
    bad.foldl (fun s m => s.refuseFill g m) s

/-- The banks of every tile grant (R97, R102). -/
def State.grantBanks (s : State) : State := s.tiles.foldl (fun s (e : Nat × Tile) => s.grantTile e.1) s

/-- A step of a command whose requests the banks have now granted is made in the same clock (R190, R267). -/
def State.engineServed (s : State) (g : Nat) (f : Fifo) : State :=
  match s.engineMove g f with
  | some (c, m) =>
    if c.asked = false then s
    else
      let r := match m with
        | .unit => execTransformUnitWork g f s
        | .done => execEngineCommandCompletion g f s
        | _ => execEngineSectorPerformed g f s
      match r with
      | .next s => s
      | _ => s
  | none => s

/-- The steps of commands whose requests the banks have granted in a clock, load FIFO first. -/
def State.engineGrants (s : State) : State :=
  s.tiles.foldl (fun s (e : Nat × Tile) =>
    if e.2.cmds.any (fun c => c.asked) then (s.engineServed e.1 .load).engineServed e.1 .store else s) s

/-- Rounds of datum mode that may be dealt in the clock in which the round before has ended (R314). -/
def State.dealRounds (s : State) : State :=
  s.parts.foldl (fun s (e : Nat × Part) => if s.roundDue e.2 then s.dealRound e.1 else s) s

/-- The end of a clock: banks grant, counters that crossed are acted on, tasks end, rounds that may are dealt, and arrivals and
charges are counted. -/
def State.endClock (s : State) : State :=
  let s := s.grantBanks.engineGrants.settleCrossings.refuseRetires.endTasks.dealRounds
  let s := { s with parts := s.parts.map (fun (e : Nat × Part) => (e.1, s.armSstep e.2)) }
  let s := s.liveTiles.foldl (fun s g => s.countTile g) s
  (s.markLate 0).markLate 1

/-- A telemetry write every 100 periods, and its second half a clock later (R375, R386). -/
def State.hubClocks (s : State) : List Instr :=
  if s.now % 2700000 = 0 ∨ s.telSeq % 2 = 1 then [.telemetryWrite] else []

/-- Background work at the least rates of R375: a pseudo-channel of each stack retrained every 2^26 clocks, 64 of them in turn;
a pass of the patrol scrub over each stack every 24 hours; a lane recalibrated every period, the lanes in turn
(notes/assumptions 9). Appends whose time in flash is over are complete (R382). -/
def State.background (s : State) : State :=
  let s := if s.now % 2 ^ 26 = 0 then (List.range 16).foldl State.retrained s else s
  let s := if s.now % 233280000000000 = 0 then (List.range 16).foldl State.scrubPass s else s
  let s := if s.now % 27000 = 0 then s.recalibrated (s.now / 27000 % 280) else s
  (s.flashing.filter (fun t => decide (t ≤ s.now))).foldl (fun s _ => s.flashed) s

/-- Events of partition `p`: aborts, releases and origins (R220, R221, R230, R232, R314). -/
def State.partEvents (s : State) (p : Nat) (pt : Part) : List Instr :=
  ((s.aborts.filter (fun a => decide (a.1 ≤ s.now) && a.2.1 == p)).map (fun a => Instr.groupAbortMarking p a.2.2)) ++
    ((pt.groups.filter (fun e => e.2.release.any (fun r => decide (r ≤ s.now)))).map (fun e => .groupBarrierRelease p e.1)) ++
    (if pt.pendOrg.any (fun o => decide (o ≤ s.now)) then [.frameOrigin p] else []) ++
    (if pt.sstepAt.any (fun r => decide (r ≤ s.now)) then [.sstepRelease p] else []) ++
    (match pt.round with
     | none => []
     | some _ => if s.roundDue pt then [.roundDeal p] else []) ++
    (if pt.origins.contains s.now then [.roundOrigin p] else [])

/-- Events of a tile's words, transfers and commands (R92, R168, R181, R191, R121, R360). -/
def State.workEvents (s : State) (g : Nat) : List Instr :=
  let t := s.tile g
  let cores := [CoreId.L, .X, .S]
  ((cores.filter (fun c => (t.core c).pend.any (fun p => decide (p.due ≤ s.now)) ||
      (s.datumTile g && !(t.lateAsks c s.now).isEmpty))).map (fun c => .wordCompletion g c)) ++
    (if t.mopen.any (fun m => decide (m.due ≤ s.now)) then [.mWordCompletion g] else []) ++
    ((t.accMoves.filter (fun m => decide (m.at_ ≤ s.now))).map (fun m =>
      if m.fill then .accumulatorFillEnd g m.acc else .accumulatorSpillEnd g m.acc)) ++
    (s.engineEvent g .load).toList ++ (s.engineEvent g .store).toList ++
    ((cores.filter (fun c => (t.core c).glob.any (fun gl => (gl.reply != .pending || (s.datumTile g &&
      t.asks.any (t.heldFar c))) && decide (gl.due ≤ s.now)))).map
      (fun c => .globalAccessCompletion g c)) ++
    ((t.claims.filter (fun c => decide (c.2.2 ≤ s.now))).map (fun c => .ingestSlotFill g (64 * c.1 + c.2.1)))

/-- A core that waits or does nothing takes the STOP that stands at its in0; one that runs does so where it would issue
(R337, R338). -/
def State.stops (s : State) (w : Who) : Bool :=
  let k := s.core w
  k.stopIn && k.priv == 0 && k.glob.isNone && !k.run.isHalted && k.run != .running

/-- Events that move a task on or off tile `g` (R336 to R344, R308, R311). -/
def State.moveEvents (s : State) (g : Nat) : List Instr :=
  let t := s.tile g
  let cores := [CoreId.L, .X, .S]
  let q := match s.ctx t.task.ctx with
    | some c => c.cfg.quantum
    | none => 0
  (if t.task.live ∧ t.task.expired = false ∧ q ≠ 0 ∧ t.task.since + q * 1024 ≤ s.now then [.quantumExpiry g] else []) ++
    ((cores.filter (fun c => s.stops ⟨g, c⟩)).map (fun c => .stopTaken g c)) ++
    ((cores.filter (fun c => (t.core c).run.isHalted && (t.core c).stopIn && t.mayHalt g c s.now)).map (fun c => .coreHalt g c)) ++
    (if t.stop.isSome && t.mayBeSaved then [.taskSave g] else []) ++
    (if t.task.live then []
     else if t.inService = false then []
     else
       ((s.saved.filter (fun e => e.2.dealt == some g)).map (fun e => .taskResumption g e.1)) ++
         (if t.chunk.isEmpty then [] else [.taskStart g]))

/-- The requests for work that may be met, in the order of their arrival at the hub (R308). -/
def State.dealEvents (s : State) : List Instr :=
  (s.asking.filter (fun g => (s.partOf g).any (fun e => (s.choose e.1).isSome))).map (fun g => .dealRequest g)

/-- Pre-emption in partition `p` (R336). -/
def State.dispatchEvents (s : State) (p : Nat) (pt : Part) : List Instr :=
  if pt.datum then []
  else
    (if (s.pickVictim p).isSome then [.preemption p] else [])

/-- Events of a context at the hub (R305, R323, R328). -/
def State.ctxEvents (s : State) (x : Nat) (c : Ctx) : List Instr :=
  (if s.canAccept x false then [.cardAcceptance x] else []) ++ List.replicate (s.ackable x c) (.dxuUpdateAck x) ++
    ((c.settle.filter (fun e => decide (e.2 ≤ s.now))).map (fun e => .twinSettlement x e.1))

/-- Events of the Ethernet ports (R361). -/
def State.portEvents (s : State) (port : Nat) : List Instr :=
  if s.sendable port then [.frameTransmit port] else []

/-- What falls due as a clock begins. -/
def State.clockEvents (s : State) : List Instr :=
  s.hubClocks ++ (s.parts.map (fun (e : Nat × Part) => s.partEvents e.1 e.2)).flatten ++
    (s.tiles.map (fun (e : Nat × Tile) => s.workEvents e.1)).flatten ++
    List.replicate s.remote.length (.remoteScratchRequest 0) ++ s.portEvents 0 ++ s.portEvents 1 ++
    (s.ctxs.map (fun (e : Nat × Ctx) => s.ctxEvents e.1 e.2)).flatten ++
    (s.tiles.map (fun (e : Nat × Tile) => s.moveEvents e.1)).flatten ++
    (s.parts.map (fun (e : Nat × Part) => s.dispatchEvents e.1 e.2)).flatten ++ s.dealEvents ++
    ((s.migs.filter (fun m => decide (m.due ≤ s.now))).map (fun m => .migrationComplete m.ctx m.page)) ++
    (if s.hubBusy.isSome then [.hubCommandDone] else [])

/-- The barrier that a core waits for was changed in the clock before, or its cell written: its word asks again (R216, R218). -/
def State.askAgain (s : State) (w : Who) : State :=
  let again := fun (every : Bool) (a : Nat) (o : Outcome State Fault Refusal) =>
    if (s.tile w.tile).stirred.any (fun e => e.1 == a / 16 && (e.2 || every)) then (match o with | .next s' => s' | _ => s) else s
  match (s.core w).run with
  | .waiting (.barrier ba) => again false ba (execBarrierReread w.tile w.core s)
  | .waiting (.cell ca) => again true ca (execFutureCellRetry w.tile w.core s)
  | _ => s

/-- Every word of tile `g` that waits for a barrier or a cell written in the clock before asks again. -/
def State.askTile (s : State) (g : Nat) : State :=
  if (s.tile g).stirred.isEmpty then s
  else
    let s := ((s.askAgain ⟨g, .L⟩).askAgain ⟨g, .X⟩).askAgain ⟨g, .S⟩
    s.setTile g { s.tile g with stirred := [] }

/-- The requests for work at the hub (R308): those that wait, then those of this clock by ascending tile. -/
def State.requests (s : State) : List Nat :=
  let idle := ((s.parts.filter (fun e => !e.2.datum)).map (fun e => e.2.tiles.filter s.idleTile)).flatten
  s.asking.filter idle.contains ++ (idle.filter (fun g => !s.asking.contains g)).foldl (fun l g => insertNat g l) []

/-- The beginning of a clock: the triple of its anchor and the grants of its period are in force (R362, R383); cores that have
drained are idle, barriers and cells that were written are asked again, tiles
ask for work, events fall due, and the cores of tiles that power does not hold back may act (R237, R308, R385). -/
def State.openClock (s : State) : State :=
  let s := s.takeTriple
  let s := (if s.now % 27000 = 0 then s.beginPeriod else s).background
  let s := s.liveTiles.foldl (fun s g =>
    let t := s.tile g
    if t.task.ending.isSome || t.l.run == .draining || t.s.run == .draining then s.followEngine g else s) s
  let s := s.tiles.foldl (fun s (e : Nat × Tile) => s.askTile e.1) s
  let s := { s with asking := s.requests }
  { s with agenda := s.agenda ++ s.clockEvents, later := [],
           turn := ((s.liveTiles.filter (fun g => !s.throttled g)).map (fun g => [⟨g, .L⟩, ⟨g, .X⟩, ⟨g, .S⟩])).flatten }

/-- DATUM_TICK: the clock ends and the next begins (R98). -/
def execDatumTick (s : State) : Outcome State Fault Refusal :=
  let s := s.endClock
  .next (State.openClock { s with now := s.now + 1 })

end Sys2Proof.Machine
end

