-- ==== Sys2Proof/Machine/Dispatch.lean ====
section
/-!
DEFINITION. One arm per instruction of the opcode table: its meaning, in Machine/<Family>.lean.
-/

namespace Sys2Proof.Machine

open Host (Outcome)

/-- What an instruction does in a state. -/
def exec (i : Instr) (s : State) : Host.Outcome State Fault Refusal :=
  match i with
  | .add d a b => Sys2Proof.Machine.execAdd d a b s
  | .sub d a b => Sys2Proof.Machine.execSub d a b s
  | .and d a b => Sys2Proof.Machine.execAnd d a b s
  | .or d a b => Sys2Proof.Machine.execOr d a b s
  | .xor d a b => Sys2Proof.Machine.execXor d a b s
  | .andn d a b => Sys2Proof.Machine.execAndn d a b s
  | .orn d a b => Sys2Proof.Machine.execOrn d a b s
  | .xnor d a b => Sys2Proof.Machine.execXnor d a b s
  | .shl d a b => Sys2Proof.Machine.execShl d a b s
  | .shr d a b => Sys2Proof.Machine.execShr d a b s
  | .sra d a b => Sys2Proof.Machine.execSra d a b s
  | .rotr d a b => Sys2Proof.Machine.execRotr d a b s
  | .rotl d a b => Sys2Proof.Machine.execRotl d a b s
  | .mul d a b => Sys2Proof.Machine.execMul d a b s
  | .mulh d a b => Sys2Proof.Machine.execMulh d a b s
  | .mulhu d a b => Sys2Proof.Machine.execMulhu d a b s
  | .div d a b => Sys2Proof.Machine.execDiv d a b s
  | .divu d a b => Sys2Proof.Machine.execDivu d a b s
  | .rem d a b => Sys2Proof.Machine.execRem d a b s
  | .remu d a b => Sys2Proof.Machine.execRemu d a b s
  | .min d a b => Sys2Proof.Machine.execMin d a b s
  | .max d a b => Sys2Proof.Machine.execMax d a b s
  | .minu d a b => Sys2Proof.Machine.execMinu d a b s
  | .maxu d a b => Sys2Proof.Machine.execMaxu d a b s
  | .slt d a b => Sys2Proof.Machine.execSlt d a b s
  | .sltu d a b => Sys2Proof.Machine.execSltu d a b s
  | .seq d a b => Sys2Proof.Machine.execSeq d a b s
  | .sne d a b => Sys2Proof.Machine.execSne d a b s
  | .clz d a => Sys2Proof.Machine.execClz d a s
  | .ctz d a => Sys2Proof.Machine.execCtz d a s
  | .popc d a => Sys2Proof.Machine.execPopc d a s
  | .brev d a => Sys2Proof.Machine.execBrev d a s
  | .sextb d a => Sys2Proof.Machine.execSextb d a s
  | .sexth d a => Sys2Proof.Machine.execSexth d a s
  | .sextw d a => Sys2Proof.Machine.execSextw d a s
  | .addw d a b => Sys2Proof.Machine.execAddw d a b s
  | .subw d a b => Sys2Proof.Machine.execSubw d a b s
  | .sel d a b => Sys2Proof.Machine.execSel d a b s
  | .addi d a imm => Sys2Proof.Machine.execAddi d a imm s
  | .andi d a imm => Sys2Proof.Machine.execAndi d a imm s
  | .ori d a imm => Sys2Proof.Machine.execOri d a imm s
  | .xori d a imm => Sys2Proof.Machine.execXori d a imm s
  | .shli d a k => Sys2Proof.Machine.execShli d a k s
  | .shri d a k => Sys2Proof.Machine.execShri d a k s
  | .srai d a k => Sys2Proof.Machine.execSrai d a k s
  | .slti d a imm => Sys2Proof.Machine.execSlti d a imm s
  | .sltui d a imm => Sys2Proof.Machine.execSltui d a imm s
  | .muli d a imm => Sys2Proof.Machine.execMuli d a imm s
  | .lih d imm => Sys2Proof.Machine.execLih d imm s
  | .extr d a l p => Sys2Proof.Machine.execExtr d a l p s
  | .extru d a l p => Sys2Proof.Machine.execExtru d a l p s
  | .insr d a l p => Sys2Proof.Machine.execInsr d a l p s
  | .br a b c o => Sys2Proof.Machine.execBr a b c o s
  | .loop a o => Sys2Proof.Machine.execLoop a o s
  | .j o => Sys2Proof.Machine.execJ o s
  | .call o => Sys2Proof.Machine.execCall o s
  | .jr a imm => Sys2Proof.Machine.execJr a imm s
  | .callr a imm => Sys2Proof.Machine.execCallr a imm s
  | .ldsB d a imm => Sys2Proof.Machine.execLdsB d a imm s
  | .ldsBu d a imm => Sys2Proof.Machine.execLdsBu d a imm s
  | .ldsH d a imm => Sys2Proof.Machine.execLdsH d a imm s
  | .ldsHu d a imm => Sys2Proof.Machine.execLdsHu d a imm s
  | .ldsW d a imm => Sys2Proof.Machine.execLdsW d a imm s
  | .ldsWu d a imm => Sys2Proof.Machine.execLdsWu d a imm s
  | .ldsD d a imm => Sys2Proof.Machine.execLdsD d a imm s
  | .stsB d a imm => Sys2Proof.Machine.execStsB d a imm s
  | .stsH d a imm => Sys2Proof.Machine.execStsH d a imm s
  | .stsW d a imm => Sys2Proof.Machine.execStsW d a imm s
  | .stsD d a imm => Sys2Proof.Machine.execStsD d a imm s
  | .ldgW d a imm => Sys2Proof.Machine.execLdgW d a imm s
  | .ldgWu d a imm => Sys2Proof.Machine.execLdgWu d a imm s
  | .ldgD d a imm => Sys2Proof.Machine.execLdgD d a imm s
  | .stgW d a imm => Sys2Proof.Machine.execStgW d a imm s
  | .stgD d a imm => Sys2Proof.Machine.execStgD d a imm s
  | .csrrd d c => Sys2Proof.Machine.execCsrrd d c s
  | .csrwr d a c => Sys2Proof.Machine.execCsrwr d a c s
  | .csrset d a c => Sys2Proof.Machine.execCsrset d a c s
  | .csrclr d a c => Sys2Proof.Machine.execCsrclr d a c s
  | .qpop d y k t => Sys2Proof.Machine.execQpop d y k t s
  | .qpush a r k t => Sys2Proof.Machine.execQpush a r k t s
  | .qpeek d k => Sys2Proof.Machine.execQpeek d k s
  | .qcnt d o k => Sys2Proof.Machine.execQcnt d o k s
  | .fork d a e => Sys2Proof.Machine.execFork d a e s
  | .rendz => Sys2Proof.Machine.execRendz s
  | .waitb d a imm => Sys2Proof.Machine.execWaitb d a imm s
  | .arrive a n => Sys2Proof.Machine.execArrive a n s
  | .barinit d a => Sys2Proof.Machine.execBarinit d a s
  | .join d g => Sys2Proof.Machine.execJoin d g s
  | .leave d g => Sys2Proof.Machine.execLeave d g s
  | .gbar g => Sys2Proof.Machine.execGbar g s
  | .putf d a imm => Sys2Proof.Machine.execPutf d a imm s
  | .getf d a imm => Sys2Proof.Machine.execGetf d a imm s
  | .ringset a n => Sys2Proof.Machine.execRingset a n s
  | .ringopTail d n => Sys2Proof.Machine.execRingopTail d n s
  | .ringopFill n => Sys2Proof.Machine.execRingopFill n s
  | .ringopHead d n => Sys2Proof.Machine.execRingopHead d n s
  | .ringopFree n => Sys2Proof.Machine.execRingopFree n s
  | .ringopCount d n => Sys2Proof.Machine.execRingopCount d n s
  | .ringopReset n => Sys2Proof.Machine.execRingopReset n s
  | .illegal d a b => Sys2Proof.Machine.execIllegal d a b s
  | .nop => Sys2Proof.Machine.execNop s
  | .trap a => Sys2Proof.Machine.execTrap a s
  | .eret => Sys2Proof.Machine.execEret s
  | .halt => Sys2Proof.Machine.execHalt s
  | .exit a => Sys2Proof.Machine.execExit a s
  | .fence k sc => Sys2Proof.Machine.execFence k sc s
  | .mark n => Sys2Proof.Machine.execMark n s
  | .brk => Sys2Proof.Machine.execBrk s
  | .retire => Sys2Proof.Machine.execRetire s
  | .sstep a => Sys2Proof.Machine.execSstep a s
  | .frame a => Sys2Proof.Machine.execFrame a s
  | .waitt a => Sys2Proof.Machine.execWaitt a s
  | .waitd a => Sys2Proof.Machine.execWaitd a s
  | .abortg a => Sys2Proof.Machine.execAbortg a s
  | .abchk => Sys2Proof.Machine.execAbchk s
  | .launch d a => Sys2Proof.Machine.execLaunch d a s
  | .vmov w => Sys2Proof.Machine.execVmov w s
  | .vadd w => Sys2Proof.Machine.execVadd w s
  | .vsub w => Sys2Proof.Machine.execVsub w s
  | .vmul w => Sys2Proof.Machine.execVmul w s
  | .vfma w => Sys2Proof.Machine.execVfma w s
  | .vfms w => Sys2Proof.Machine.execVfms w s
  | .vfnma w => Sys2Proof.Machine.execVfnma w s
  | .vmin w => Sys2Proof.Machine.execVmin w s
  | .vmax w => Sys2Proof.Machine.execVmax w s
  | .vabs w => Sys2Proof.Machine.execVabs w s
  | .vneg w => Sys2Proof.Machine.execVneg w s
  | .vrcp w => Sys2Proof.Machine.execVrcp w s
  | .vrsq w => Sys2Proof.Machine.execVrsq w s
  | .vsqrt w => Sys2Proof.Machine.execVsqrt w s
  | .vdiv w => Sys2Proof.Machine.execVdiv w s
  | .vfexp2 w => Sys2Proof.Machine.execVfexp2 w s
  | .vflog2 w => Sys2Proof.Machine.execVflog2 w s
  | .vrndi w => Sys2Proof.Machine.execVrndi w s
  | .vscalb w => Sys2Proof.Machine.execVscalb w s
  | .vgetexp w => Sys2Proof.Machine.execVgetexp w s
  | .vgetmant w => Sys2Proof.Machine.execVgetmant w s
  | .vclass w => Sys2Proof.Machine.execVclass w s
  | .vcmp w => Sys2Proof.Machine.execVcmp w s
  | .vsel w => Sys2Proof.Machine.execVsel w s
  | .vmaskop w => Sys2Proof.Machine.execVmaskop w s
  | .viadd w => Sys2Proof.Machine.execViadd w s
  | .visub w => Sys2Proof.Machine.execVisub w s
  | .vimul w => Sys2Proof.Machine.execVimul w s
  | .vimin w => Sys2Proof.Machine.execVimin w s
  | .vimax w => Sys2Proof.Machine.execVimax w s
  | .vand w => Sys2Proof.Machine.execVand w s
  | .vor w => Sys2Proof.Machine.execVor w s
  | .vxor w => Sys2Proof.Machine.execVxor w s
  | .vshl w => Sys2Proof.Machine.execVshl w s
  | .vshr w => Sys2Proof.Machine.execVshr w s
  | .vsra w => Sys2Proof.Machine.execVsra w s
  | .viminu w => Sys2Proof.Machine.execViminu w s
  | .vimaxu w => Sys2Proof.Machine.execVimaxu w s
  | .vcmul w => Sys2Proof.Machine.execVcmul w s
  | .vcmac w => Sys2Proof.Machine.execVcmac w s
  | .vradd w => Sys2Proof.Machine.execVradd w s
  | .vrmax w => Sys2Proof.Machine.execVrmax w s
  | .vrmin w => Sys2Proof.Machine.execVrmin w s
  | .vramax w => Sys2Proof.Machine.execVramax w s
  | .vscan w => Sys2Proof.Machine.execVscan w s
  | .vlfsrRead w => Sys2Proof.Machine.execVlfsrRead w s
  | .vlfsrWrite w => Sys2Proof.Machine.execVlfsrWrite w s
  | .vlfsrAdvance w => Sys2Proof.Machine.execVlfsrAdvance w s
  | .vlfsrReseed w => Sys2Proof.Machine.execVlfsrReseed w s
  | .vcvt w => Sys2Proof.Machine.execVcvt w s
  | .vamaxb w => Sys2Proof.Machine.execVamaxb w s
  | .vqnt w => Sys2Proof.Machine.execVqnt w s
  | .vdqnt w => Sys2Proof.Machine.execVdqnt w s
  | .vlqdec w => Sys2Proof.Machine.execVlqdec w s
  | .vhad w => Sys2Proof.Machine.execVhad w s
  | .vpack w => Sys2Proof.Machine.execVpack w s
  | .vunpk w => Sys2Proof.Machine.execVunpk w s
  | .vperm w => Sys2Proof.Machine.execVperm w s
  | .vshuf w => Sys2Proof.Machine.execVshuf w s
  | .vslide w => Sys2Proof.Machine.execVslide w s
  | .vbcast w => Sys2Proof.Machine.execVbcast w s
  | .vgath w => Sys2Proof.Machine.execVgath w s
  | .vscat w => Sys2Proof.Machine.execVscat w s
  | .vcomp w => Sys2Proof.Machine.execVcomp w s
  | .vexpd w => Sys2Proof.Machine.execVexpd w s
  | .vtos w => Sys2Proof.Machine.execVtos w s
  | .cbldConst w => Sys2Proof.Machine.execCbldConst w s
  | .cbldCodebook w => Sys2Proof.Machine.execCbldCodebook w s
  | .mma w => Sys2Proof.Machine.execMma w s
  | .mmaq w => Sys2Proof.Machine.execMmaq w s
  | .mmal w => Sys2Proof.Machine.execMmal w s
  | .mmas w => Sys2Proof.Machine.execMmas w s
  | .mzero w => Sys2Proof.Machine.execMzero w s
  | .mlda w => Sys2Proof.Machine.execMlda w s
  | .msta w => Sys2Proof.Machine.execMsta w s
  | .mcopy w => Sys2Proof.Machine.execMcopy w s
  | .mtrn w => Sys2Proof.Machine.execMtrn w s
  | .mscal w => Sys2Proof.Machine.execMscal w s
  | .madd w => Sys2Proof.Machine.execMadd w s
  | .mred w => Sys2Proof.Machine.execMred w s
  | .mspill w => Sys2Proof.Machine.execMspill w s
  | .mfill w => Sys2Proof.Machine.execMfill w s
  | .mownClaim w => Sys2Proof.Machine.execMownClaim w s
  | .mownRelease w => Sys2Proof.Machine.execMownRelease w s
  | .cpy w => Sys2Proof.Machine.execCpy w s
  | .cpyo w => Sys2Proof.Machine.execCpyo w s
  | .cpyg w => Sys2Proof.Machine.execCpyg w s
  | .cpys w => Sys2Proof.Machine.execCpys w s
  | .cpyr w => Sys2Proof.Machine.execCpyr w s
  | .cpyq w => Sys2Proof.Machine.execCpyq w s
  | .cpydq w => Sys2Proof.Machine.execCpydq w s
  | .pref w => Sys2Proof.Machine.execPref w s
  | .cflush w => Sys2Proof.Machine.execCflush w s
  | .xfft w => Sys2Proof.Machine.execXfft w s
  | .xifft w => Sys2Proof.Machine.execXifft w s
  | .xhad w => Sys2Proof.Machine.execXhad w s
  | .xexp w => Sys2Proof.Machine.execXexp w s
  | .xtrl w => Sys2Proof.Machine.execXtrl w s
  | .transformUnitWork g f => Sys2Proof.Machine.execTransformUnitWork g f s
  | .sacc w => Sys2Proof.Machine.execSacc w s
  | .amo w => Sys2Proof.Machine.execAmo w s
  | .publ w => Sys2Proof.Machine.execPubl w s
  | .disc w => Sys2Proof.Machine.execDisc w s
  | .lxfer w => Sys2Proof.Machine.execLxfer w s
  | .nxtx w => Sys2Proof.Machine.execNxtx w s
  | .nxarm w => Sys2Proof.Machine.execNxarm w s
  | .stampedIssue g c => Sys2Proof.Machine.execStampedIssue g c s
  | .waitConditionMet g c => Sys2Proof.Machine.execWaitConditionMet g c s
  | .wordCompletion g c => Sys2Proof.Machine.execWordCompletion g c s
  | .globalAccessCompletion g c => Sys2Proof.Machine.execGlobalAccessCompletion g c s
  | .engineSectorPerformed g f => Sys2Proof.Machine.execEngineSectorPerformed g f s
  | .engineCommandCompletion g f => Sys2Proof.Machine.execEngineCommandCompletion g f s
  | .engineFault g f => Sys2Proof.Machine.execEngineFault g f s
  | .mWordCompletion g => Sys2Proof.Machine.execMWordCompletion g s
  | .accumulatorSpillEnd g n => Sys2Proof.Machine.execAccumulatorSpillEnd g n s
  | .accumulatorFillEnd g n => Sys2Proof.Machine.execAccumulatorFillEnd g n s
  | .remoteScratchRequest k => Sys2Proof.Machine.execRemoteScratchRequest k s
  | .barrierReread g c => Sys2Proof.Machine.execBarrierReread g c s
  | .futureCellRetry g c => Sys2Proof.Machine.execFutureCellRetry g c s
  | .datumTick => Sys2Proof.Machine.execDatumTick s
  | .closure g => Sys2Proof.Machine.execClosure g s
  | .timedWaitRelease g c => Sys2Proof.Machine.execTimedWaitRelease g c s
  | .frameOrigin p => Sys2Proof.Machine.execFrameOrigin p s
  | .groupBarrierRelease p k => Sys2Proof.Machine.execGroupBarrierRelease p k s
  | .groupAbortMarking p k => Sys2Proof.Machine.execGroupAbortMarking p k s
  | .sstepRelease p => Sys2Proof.Machine.execSstepRelease p s
  | .sstepDeadline g c => Sys2Proof.Machine.execSstepDeadline g c s
  | .preemption p => Sys2Proof.Machine.execPreemption p s
  | .quantumExpiry g => Sys2Proof.Machine.execQuantumExpiry g s
  | .stopTaken g c => Sys2Proof.Machine.execStopTaken g c s
  | .coreHalt g c => Sys2Proof.Machine.execCoreHalt g c s
  | .taskSave g => Sys2Proof.Machine.execTaskSave g s
  | .taskResumption g k => Sys2Proof.Machine.execTaskResumption g k s
  | .tailDoorbell x v => Sys2Proof.Machine.execTailDoorbell x v s
  | .appendDoorbell x va => Sys2Proof.Machine.execAppendDoorbell x va s
  | .cardAcceptance x => Sys2Proof.Machine.execCardAcceptance x s
  | .dealRequest g => Sys2Proof.Machine.execDealRequest g s
  | .taskStart g => Sys2Proof.Machine.execTaskStart g s
  | .roundDeal p => Sys2Proof.Machine.execRoundDeal p s
  | .roundOrigin p => Sys2Proof.Machine.execRoundOrigin p s
  | .createContext v => Sys2Proof.Machine.execCreateContext v s
  | .updateContext v => Sys2Proof.Machine.execUpdateContext v s
  | .destroyContext v => Sys2Proof.Machine.execDestroyContext v s
  | .definePartition v => Sys2Proof.Machine.execDefinePartition v s
  | .grant v => Sys2Proof.Machine.execGrant v s
  | .revoke v => Sys2Proof.Machine.execRevoke v s
  | .partitionReset v => Sys2Proof.Machine.execPartitionReset v s
  | .saveTile v => Sys2Proof.Machine.execSaveTile v s
  | .savePartition v => Sys2Proof.Machine.execSavePartition v s
  | .hubCommandDone => Sys2Proof.Machine.execHubCommandDone s
  | .dxuUpdate x w => Sys2Proof.Machine.execDxuUpdate x w s
  | .dxuUpdateAck x => Sys2Proof.Machine.execDxuUpdateAck x s
  | .migrationComplete x page => Sys2Proof.Machine.execMigrationComplete x page s
  | .twinSettlement x grp => Sys2Proof.Machine.execTwinSettlement x grp s
  | .ptpcommit v => Sys2Proof.Machine.execPtpcommit v s
  | .ptpTripleEffect => Sys2Proof.Machine.execPtpTripleEffect s
  | .shadow n v => Sys2Proof.Machine.execShadow n v s
  | .nqstat v => Sys2Proof.Machine.execNqstat v s
  | .htxtail v => Sys2Proof.Machine.execHtxtail v s
  | .registerWrite off v => Sys2Proof.Machine.execRegisterWrite off v s
  | .hostMemoryAccess place len wr => Sys2Proof.Machine.execHostMemoryAccess place len wr s
  | .peerWrite port src tag a data => Sys2Proof.Machine.execPeerWrite port src tag a data s
  | .peerRead port src tag a len => Sys2Proof.Machine.execPeerRead port src tag a len s
  | .peerReply port tag kind data => Sys2Proof.Machine.execPeerReply port tag kind data s
  | .linkReplay port tag => Sys2Proof.Machine.execLinkReplay port tag s
  | .frameReceive port fcsOk bytes => Sys2Proof.Machine.execFrameReceive port fcsOk bytes s
  | .ingestSlotFill g n => Sys2Proof.Machine.execIngestSlotFill g n s
  | .frameTransmit port => Sys2Proof.Machine.execFrameTransmit port s
  | .apportionerPeriod => Sys2Proof.Machine.execApportionerPeriod s
  | .telemetryWrite => Sys2Proof.Machine.execTelemetryWrite s
  | .patrolScrub p => Sys2Proof.Machine.execPatrolScrub p s
  | .refresh stack => Sys2Proof.Machine.execRefresh stack s
  | .retraining stack => Sys2Proof.Machine.execRetraining stack s
  | .recalibration lane => Sys2Proof.Machine.execRecalibration lane s
  | .uncorrectableError p => Sys2Proof.Machine.execUncorrectableError p s
  | .monumentFlashComplete => Sys2Proof.Machine.execMonumentFlashComplete s
  | .thermalTrip trip => Sys2Proof.Machine.execThermalTrip trip s
  | .powerLoss => Sys2Proof.Machine.execPowerLoss s
  | .packageReset test train => Sys2Proof.Machine.execPackageReset test train s
  | .hostAcknowledge => Sys2Proof.Machine.execHostAcknowledge s
  | .controlFlit port hdr => Sys2Proof.Machine.execControlFlit port hdr s
  | .hubcmd v => Sys2Proof.Machine.execHubcmd v s

end Sys2Proof.Machine
end

