-- ==== Sys2Proof/Machine/Arbiter.lean ====
section
/-!
DEFINITION. What a step of the machine is (notes/assumptions 3): an input or event that is due, a core that may act in this
clock, or the end of the clock; the issue of a word with the checks that come before a STOP (R22, R338, R345).
-/

namespace Sys2Proof.Machine

open Host (Outcome)

/-- A fault `code` of a word at issue is one of the checks of R23: the checks on operands are those of vector words, of matrix
words up to their ring fields, of the fields of an engine command (R182), and of the ring field of RINGOP. FORK of a started
core is no such check (R214). -/
def r23Fault (i : Instr) (code : Nat) (tval : U64) (c : CoreId) : Bool :=
  match code with
  | 0x01 =>
    match i with
    | .fork d a e => c != .X || decide (e = 0 ∨ (bit e.toNat 0 = 0 ∧ a ≠ 0) ∨ (bit e.toNat 1 = 0 ∧ d ≠ 0))
    | _ => true
  | 0x04 =>
    match i with
    | .ringopTail _ _ | .ringopFill _ | .ringopHead _ _ | .ringopFree _ | .ringopCount _ _ | .ringopReset _ => true
    | _ => (engineParts i).any (fun e => decide (ewordOperand (euseOf e.1) e.2 = some tval)) ||
        (decide (bitsAt (headUnit i).toNat 30 2 = 1 ∧ bitsAt (headUnit i).toNat 22 8 < 0xC0)) ||
        (decide (bitsAt (headUnit i).toNat 30 2 = 2) && decide (tval.toNat % 2 ^ 20 < 0x40))
  | 0x08 => true
  | 0x11 => true
  | _ => false

/-- A word issued while STOP stands at its core (R338): if a check of R23 fails its fault is taken, otherwise STOP is. -/
def State.issueOrStop (s : State) (i : Instr) : Outcome State Fault Refusal :=
  match exec i s with
  | .next s' =>
    let k := s'.core s.cur
    if k.priv = 1 ∧ r23Fault i k.tcause.toNat k.tval s.cur.core then .next s'
    else execStopTaken s.cur.tile s.cur.core s
  | o => o

/-- The word at the issuing core's program counter, fetched and decoded, or the fault of that (R20 to R23). -/
def State.issueWord (s : State) : Outcome State Fault Refusal :=
  match s.fetch s.cur with
  | .bad code tval => .next ((s.countFetch s.cur).trap s.cur code tval s.me.pc false)
  | .word i =>
    let s := s.countFetch s.cur
    if s.me.stopIn && s.me.priv == 0 then s.issueOrStop i else exec i s

/-- The hub's answer to a word that waits for it has come: the word has its effect (R208); where it still cannot, it goes on
waiting. -/
def State.answered (s : State) (w : Who) : Outcome State Fault Refusal :=
  match State.issueWord { s with cur := w } with
  | .next s' =>
    match (s'.core w).run with
    | .waiting _ => .next s
    | _ => .next s'
  | o => o

/-- What ends the wait of a core (R91, R100, R208, R220, R231, R232); waits that other events end stay as they are. -/
def State.wake (s : State) (w : Who) (r : Wait) : Outcome State Fault Refusal :=
  match r with
  | .stamp _ => execStampedIssue w.tile w.core s
  | .datum _ _ => execTimedWaitRelease w.tile w.core s
  | .tai _ _ => execTimedWaitRelease w.tile w.core s
  | .sstep _ _ => execSstepDeadline w.tile w.core s
  | .gbar k _ => .next (s.sampleGbar w k)
  | .hub c => if c ≤ s.now then s.answered w else .next s
  | _ => execWaitConditionMet w.tile w.core s

/-- How often the next word of a core gives way to the other cores of its tile in a clock: one that ends the task to every other,
one that delivers an abort to those that may fault or take STOP (R345), one that a bank serves in its turn to those whose
requests of the clock its bank may have to grant first (R97). -/
def State.givesWay (s : State) (w : Who) : Nat :=
  let marked := if (s.tile w.tile).task.abortMark then 2 else 0
  let atBank := if s.datumTile w.tile then 0 else 1
  match (s.core w).run with
  | .running =>
    if s.now < (s.core w).nextAt ∨ s.forkHeld w then 0
    else
      match s.fetch w with
      | .word (.exit _) => 3
      | .word .halt => if w.core = .X then 3 else 0
      | .word .retire => 3
      | .word (.waitb _ _ _) => atBank
      | .word (.putf _ _ _) => atBank
      | .word (.getf _ _ _) => atBank
      | .word .abchk => marked
      | .word .rendz => marked
      | .word (.gbar _) => marked
      | _ => 0
  | .waiting (.meet true) => 3
  | .waiting (.bank _ _ _) => 1
  | .waiting (.gbar _ _) => marked
  | _ => 0

/-- A core gives way now. -/
def State.yields (s : State) (w : Who) (rest : List Who) : Bool :=
  rest.any (fun v => v.tile == w.tile) && decide ((s.later.filter (· == w)).length < s.givesWay w)

/-- A core's turn put behind those of the other cores of its tile. -/
def State.giveWay (s : State) (w : Who) (rest : List Who) : State :=
  { s with turn := rest.takeWhile (fun v => v.tile == w.tile) ++ w :: rest.dropWhile (fun v => v.tile == w.tile),
           later := w :: s.later }

/-- The turn of a core: it issues its word where it runs or where the bank at which the word waits grants it, or its wait
ends, after which it acts again; otherwise it has had its turn. -/
def State.act (s : State) (w : Who) (rest : List Who) : Outcome State Fault Refusal :=
  if s.yields w rest then .next (s.giveWay w rest)
  else
  match (s.core w).run with
  | .running =>
    if s.now < (s.core w).nextAt ∨ s.forkHeld w then .next { s with turn := rest }
      else State.issueWord { s with turn := rest, cur := w }
  | .waiting (.bank l since wr) =>
    let x : Ask := { since := since, rank := rankScalar w.core, line := l, act := if wr then .put [] else .look }
    if (s.tile w.tile).grants s.now x then State.issueWord { s with turn := rest, cur := w } else .next { s with turn := rest }
  | .waiting r =>
    match s.wake w r with
    | .next s' => if (s'.core w).run = .waiting r then .next { s with turn := rest } else .next s'
    | o => o
  | _ => .next { s with turn := rest }

/-- Nothing is left to do in the clock: bring-up ends, before which DATUM does not run (R387), a closure whose count is reached
is taken, or the clock ends (R247, R98). -/
def State.quiet (s : State) : Outcome State Fault Refusal :=
  if s.rising then .next s.risen
  else
  match s.liveTiles.find? (fun g => s.lost g && decide ((s.tile g).closureWin.toNat ≤ (s.tile g).closureCount + 1)) with
  | some g => execClosure g s
  | none => execDatumTick s

/-- An input or event of the agenda, as opposed to a word of a program. -/
def isEvent (i : Instr) : Bool := (encode i).isEmpty

/-- A frame claims its slot after the slot changes of its clock (R360). -/
def afterCores : Instr → Bool
  | .frameReceive _ _ _ => true
  | _ => false

/-- A frame received by port 0, which claims before port 1 (R360). -/
def ofPort0 : Instr → Bool
  | .frameReceive p _ _ => p == 0
  | _ => false

/-- The first instruction of a list that a test picks, and the others. -/
def takeFirst (f : Instr → Bool) : List Instr → Option (Instr × List Instr)
  | [] => none
  | i :: is => if f i then some (i, is) else (takeFirst f is).map (fun r => (r.1, i :: r.2))

/-- The input or event that comes next: the oldest that is due; received frames once the cores of the clock have acted, port 0's
first (R360). -/
def State.nextEvent (s : State) : Option (Instr × List Instr) :=
  match takeFirst (fun i => !afterCores i) s.agenda with
  | some r => some r
  | none =>
    if s.powered && !s.turn.isEmpty then none
    else
      match takeFirst ofPort0 s.agenda with
      | some r => some r
      | none => takeFirst afterCores s.agenda

/-- An access of the host to the package, which comes over CXL (R348). -/
def overCxl : Instr → Bool
  | .hostMemoryAccess (.hdm _) _ _ => true
  | .hostMemoryAccess (.bar0 _) _ _ => true
  | _ => false

/-- An event is taken: one that is no event is dropped, an access of the host too where the CXL port is down (R387), and without
power a package reset acts (R387), and what the host does to its own memory. -/
def State.takeEvent (s : State) (i : Instr) : Outcome State Fault Refusal :=
  if isEvent i = false ∨ (s.downPorts.contains 130 ∧ overCxl i) then .next s
  else if s.powered then exec i s
  else
    match i with
    | .packageReset _ _ => exec i s
    | .hostMemoryAccess (.own _) _ _ => exec i s
    | .hostMemoryAccess (.refuse _) _ _ => exec i s
    | _ => .next s

/-- One step of the machine. -/
def State.advance (s : State) : Outcome State Fault Refusal :=
  match s.nextEvent, s.turn with
  | some (i, rest), _ => State.takeEvent { s with agenda := rest } i
  | none, w :: more => if s.powered then s.act w more else .fault .powerOff
  | none, [] => if s.powered then s.quiet else .fault .powerOff

/-- A window that lets a task read, write and fetch host memory at its own addresses: every address, region 2 (R316). -/
def hostWindow : BitVec 128 := BitVec.ofNat 128 (15 * 2 ^ 124 + 2 ^ 33 * 2 ^ 76 + (2 ^ 32 - 1) * 2 ^ 38)

/-- A core that runs code in [0, 64 Ki) from 0. -/
def codeCore : Core := { Core.idle with run := .running, codeHi := 0x10000 }

/-- A task on tile 0 whose fetch reads some bytes from host memory (R20, R318). -/
def codeTask (bs : List Byte) : Task :=
  { Task.absent with
    live := true, uid := 1, windows := [(0, hostWindow)], snap := { Task.absent.snap with host := Memory.setBytes [] 0 bs } }

/-- The core that a word is placed at: engine commands run on the L-core, all else on the X-core (R15). -/
def homeCore (w : Nat) : CoreId := if bitsAt w 30 2 = 1 ∧ 0xC0 ≤ bitsAt w 22 8 then .L else .X

/-- A tile that holds nothing but a task with some bytes of code before one of its cores. -/
def codeTile (bs : List Byte) (c : CoreId) : Tile :=
  { Tile.idle with task := codeTask bs }.setCore c codeCore

/-- A program's word placed where the next step fetches (notes/assumptions 6). -/
def State.placeWord (s : State) (nbits w : Nat) : State :=
  { s.setTile 0 (codeTile (leBytes (nbits / 8) w) (homeCore w)) with agenda := [], turn := [⟨0, homeCore w⟩] }

end Sys2Proof.Machine
end

