-- ==== Sys2Proof/Machine/Step.lean ====
section
/-!
DEFINITION. The step of the machine, and a state whose next step runs a given word.
-/

namespace Sys2Proof.Machine

open Host (Outcome)

/-- One step (notes/assumptions 3). -/
def step (s : State) : Host.Outcome State Fault Refusal := s.advance

/-- The state with an instruction stored where `step` fetches its next one: a task on tile 0 whose core is the next to act
(notes/assumptions 6). -/
def State.withFetchWord (s : State) (nbits w : Nat) : State := s.placeWord nbits w

end Sys2Proof.Machine
end

