-- ==== Sys2Proof/Safety.lean ====
section
/-!
DEFINITION. The terms in which statements about the machine are made: what a word leaves as it was, and the invariant of
the machine's memories.
-/

namespace Sys2Proof.Machine

/-- Every byte of HBM, of host memory and of every tile's scratch reads the same. -/
def SameBytes (s t : State) : Prop :=
  (∀ a, Memory.byte t.hbm a = Memory.byte s.hbm a) ∧ (∀ a, Memory.byte t.host a = Memory.byte s.host a) ∧
    ∀ g a, Memory.byte (t.tile g).scratch a = Memory.byte (s.tile g).scratch a

/-- Every byte reads the same but those of tile `g`'s scratch in [`lo`, `lo + n`). -/
def SameBytesBut (s t : State) (g lo n : Nat) : Prop :=
  (∀ a, Memory.byte t.hbm a = Memory.byte s.hbm a) ∧ (∀ a, Memory.byte t.host a = Memory.byte s.host a) ∧
    ∀ h a, (h ≠ g ∨ a < lo ∨ lo + n ≤ a) → Memory.byte (t.tile h).scratch a = Memory.byte (s.tile h).scratch a

/-- A tile with other queues. -/
def Tile.withQueues (t : Tile) (q : Store Queue) : Tile := { t with queues := q }

/-- Of the issuing core, nothing differs but its program counter, its registers, what it runs or waits for, and the words
in flight: its flags, its rounding mode, its mode and its trap registers are as they were. -/
def OnlyFlow (s t : State) : Prop :=
  t.me = { s.me with pc := t.me.pc, regs := t.me.regs, run := t.me.run, held := t.me.held, nextAt := t.me.nextAt,
                     pend := t.me.pend }

/-- A scalar word left everything as it was but register `d` of its core (none for 0), its core's program counter and
words in flight, and its tile's queues: the rest of the tile, other tiles and the rest of the package are the same. -/
def OnlyRegister (s t : State) (d : Nat) : Prop :=
  t = s.setMyTile ((s.myTile.withQueues t.myTile.queues).setCore s.cur.core t.me) ∧ OnlyFlow s t ∧
    (∀ n, n ≠ d → t.me.reg n = s.me.reg n) ∧ SameBytes s t

/-- The result of a word stands where its destination says: in register `d`, nowhere for s0, or as a token at the end of
the port's queue, pushed `lat - 1` clocks after the issue (R30). `s` is the state the word issued in, `s'` that after
its pops. -/
def Landed (s s' t : State) (d : Nat) (v : U64) (lat : Nat) : Prop :=
  if d < 28 then t.me.reg d = (if d = 0 then 0 else v) ∧ t.myTile.queues = s'.myTile.queues
  else ∃ q, outQueue s.cur.core (d - 28) = some q ∧
    t.myTile.queue q = (s'.myTile.queue q).push (v.truncate 32) (s.now + lat - 1) 3 s.now

/-- The word has issued: its core goes on at `npc`, its next word no earlier than clock `next`, and its result is
visible to later words `lat` clocks after the issue, or later where it waits at a bank (R91, R92). -/
def Issued (s t : State) (npc : U64) (next lat : Nat) (res : List Res) : Prop :=
  t.me.pc = npc ∧ t.me.nextAt = next ∧ t.me.run = .running ∧
    ∃ asks, t.me.pend = s.me.pend ++ [⟨res, s.now + lat, 0, none, (1, 1), asks⟩]

/-- A word with result `v` runs: it issues, its result lands, and nothing else differs. `s'` is the state after its pops. -/
def Runs (i : Instr) (s s' : State) (d : Nat) (v : U64) (lat : Nat) : Prop :=
  ∃ t, exec i s = .next t ∧ Issued s t (s.me.pc + 4) (s.now + 1) lat (regRes d) ∧ Landed s s' t d v lat ∧
    OnlyRegister s t d

/-- A result that may not be pushed: its destination is a port and its type is above 4 (R32). -/
def MayNotPush (d : Nat) (v : U64) : Prop := 28 ≤ d ∧ 5 ≤ v.toNat / 2 ^ 28 % 16

/-- A word without a result runs: its core goes on at `npc`, its next word no earlier than clock `next`, and nothing else
differs. `s'` is the state after its pops. -/
def Goes (i : Instr) (s s' : State) (npc : U64) (next : Nat) : Prop :=
  ∃ t, exec i s = .next t ∧ Issued s t npc next 1 [] ∧ t.myTile.queues = s'.myTile.queues ∧ OnlyRegister s t 0

/-- A word that reaches its tile's scratch left everything as it was but register `d` (none for 0), its core's flow, and its
tile's queues, scratch, requests and service at the banks, out-of-range latch and charges. -/
def OnlyScratch (s t : State) (d : Nat) : Prop :=
  t = s.setMyTile t.myTile ∧
    t.myTile = { (s.myTile.withQueues t.myTile.queues).setCore s.cur.core t.me with
      scratch := t.myTile.scratch, oorFlag := t.myTile.oorFlag, oorAddr := t.myTile.oorAddr,
      oorWhen := t.myTile.oorWhen, charges := t.myTile.charges, asks := t.myTile.asks, served := t.myTile.served,
      stirred := t.myTile.stirred } ∧
    OnlyFlow s t ∧ ∀ n, n ≠ d → t.me.reg n = s.me.reg n

/-- A byte address that a program reaches (R118, R250). -/
def Reached (ea : Int) : Prop := 0 ≤ ea ∧ ea / 64 ≤ 5114

/-- The out-of-range latch after an access at a byte address (R118, R252): it keeps the first address. -/
def Latched (s t : State) (ea : Int) : Prop :=
  (Reached ea → t.myTile.oorFlag = s.myTile.oorFlag ∧ t.myTile.oorAddr = s.myTile.oorAddr) ∧
    (¬ Reached ea → t.myTile.oorFlag = true ∧ (s.myTile.oorFlag = false → t.myTile.oorAddr = BitVec.ofInt 64 ea))

/-- A store of some bytes at a byte address of the issuing tile: those bytes read back where they are reached, nothing is
written elsewhere, and nothing at all out of range (R118). -/
def Stored (s t : State) (ea : Int) (bs : List Byte) : Prop :=
  (Reached ea → Memory.bytes t.myTile.scratch ea.toNat bs.length = bs ∧ SameBytesBut s t s.cur.tile ea.toNat bs.length) ∧
    (¬ Reached ea → SameBytes s t)

/-- A request of the issuing core's word for the line of a byte address stands at its bank, behind those that stood there; where
the address is out of range there is none (R91, R95, R118). -/
def Asked (s t : State) (ea : Int) (act : BankAct) : Prop :=
  (Reached ea → t.myTile.asks = s.myTile.asks ++
    [⟨s.now, rankScalar s.cur.core, (ea / 64).toNat, s.myTile.asks.length, act, s.now + 3, s.me.pc⟩]) ∧
    (¬ Reached ea → t.myTile.asks = s.myTile.asks)

/-- A scalar word leaves a request at a bank and goes on; no byte of memory has changed (R91, R119). -/
def Leaves (s t : State) (ea : Int) (act : BankAct) (lat : Nat) (res : List Res) : Prop :=
  Issued s t (s.me.pc + 4) (s.now + 1) lat res ∧ Asked s t ea act ∧ Latched s t ea ∧ SameBytes s t

/-- The only request at the banks of a tile, which its bank serves at the end of clock `now` (R96, R97, R102): no range lock and
no access that it follows holds it; in free mode its bank has served nothing in the clock; in datum mode this is the last clock
that keeps its declared figure. -/
def ServedAlone (t : Tile) (now : Nat) (datum : Bool) (x : Ask) : Prop :=
  t.asks = [x] ∧ t.eligible x = true ∧ (datum = true → x.by_ ≤ now) ∧
    (datum = false → x.line % 31 ∉ t.served ∧ ∀ c l since wr, (t.core c).run ≠ .waiting (.bank l since wr))

/-- The bytes of a tile's scratch from `a` on are `bs`, and every other is as it was. -/
def Written (t u : Tile) (a : Nat) (bs : List Byte) : Prop :=
  Memory.bytes u.scratch a bs.length = bs ∧
    ∀ b, (b < a ∨ a + bs.length ≤ b) → Memory.byte u.scratch b = Memory.byte t.scratch b

/-- The bank of a byte address serves the issuing core's word in this clock (R97, R216 to R218): in free mode its request is the
one that the bank grants; in datum mode, where the word never waits, no range lock holds it, and no line of an earlier word of
the X-core is left to be written there (R234). -/
def BankServes (s : State) (ea : Int) (writes : Bool) : Prop :=
  Reached ea → (s.datumTile s.cur.tile = false → s.myTile.grants s.now (s.coreAsk ea writes) = true) ∧
    (s.datumTile s.cur.tile = true → s.myTile.lockHeld (s.coreAsk ea writes) = false ∧
      (s.cur.core = .X → s.myTile.unwritten s.now (ea / 64) = false))

/-- In free mode a bank that grants another request, or none, makes the word wait there; its request keeps its age (R97). -/
def BankWaits (i : Instr) (s : State) (ea : Int) (writes : Bool) : Prop :=
  Reached ea → s.datumTile s.cur.tile = false → s.myTile.grants s.now (s.coreAsk ea writes) = false →
    exec i s = .next (s.mapMe fun k => { k with run := .waiting (.bank (ea / 64).toNat (s.me.asked s.now) writes) })

/-- Tile `g` stands in partition `p` and in no other (R332). -/
def InPart (s : State) (g p : Nat) (pt : Part) : Prop :=
  s.partOf g = some (p, pt) ∧ ∀ e ∈ s.parts, e.2.tiles.contains g → e.1 = p

/-- What a CSR holds once `v` is written to it (R39, R40); of CLOSURE_WINDOW, for values that its 32 bits hold. -/
def csrStored (n v : Nat) : Nat :=
  if 0x90 ≤ n ∧ n ≤ 0x9F then v % 2 ^ 32
  else if 0x100 ≤ n ∧ n ≤ 0x10F then v % 2 ^ 52
  else if n = 0 then v % 32
  else if n = 1 then v % 8
  else if n = 0x22 then v % 2 ^ 32
  else if n = 0x30 then min (max v 8) 1024
  else if n = 0x31 then max v 256
  else if n = 0x40 then v % 2
  else if n = 0x51 then v % 256
  else if n = 0x54 then v % 32
  else if n = 0x60 ∨ n = 0x61 then v / 4 * 4
  else if n = 0x80 then v / 2 ^ 63 * 2 ^ 63 + v % 2 ^ 48
  else v

/-- Where a register of the context stands in the context's record: its byte and its bytes (R18, R333). -/
def recordField (c : CoreId) (n : Nat) : Option (Nat × Nat) :=
  let k := match c with | .L => 0 | .X => 1 | .S => 2
  if n = 0x30 then some (224, 2)
  else if n = 0x31 then some (236, 4)
  else if n = 0x50 then some (176 + 8 * k, 8)
  else if n = 0x60 then some (128 + 8 * k, 8)
  else if n = 0x61 then some (152 + 8 * k, 8)
  else none

/-- After CSR `n` was written no byte of host memory or scratch differs, and of HBM only the register's field in the record of
the task's context, which holds the new value (R18). -/
def RecordKept (s t : State) (n : Nat) : Prop :=
  (∀ a, Memory.byte t.host a = Memory.byte s.host a) ∧
    (∀ g a, Memory.byte (t.tile g).scratch a = Memory.byte (s.tile g).scratch a) ∧
    match recordField s.cur.core n, s.ctx s.myTile.task.ctx, s.myTile.task.live with
    | some e, some c, true => Memory.num t.hbm (c.recAddr + e.1) e.2 = t.readCsr s.cur n ∧
        ∀ a, (a < c.recAddr + e.1 ∨ c.recAddr + e.1 + e.2 ≤ a) → Memory.byte t.hbm a = Memory.byte s.hbm a
    | _, _, _ => ∀ a, Memory.byte t.hbm a = Memory.byte s.hbm a

/-- The registers that a word of two sources, one source or none names, in the order a, b, d (R30). -/
def uses2 (d a b : BitVec 5) : List (Nat × Bool) := [(a.toNat, false), (b.toNat, false), (d.toNat, true)]
def uses1 (d a : BitVec 5) : List (Nat × Bool) := [(a.toNat, false), (d.toNat, true)]
def uses0 (d : BitVec 5) : List (Nat × Bool) := [(d.toNat, true)]

/-- The registers that an ALU word names (R105 to R111); SEL and INSR also read d, which may be no port. -/
def aluUses : Instr → Option (List (Nat × Bool))
  | .add d a b | .sub d a b | .and d a b | .or d a b | .xor d a b | .andn d a b | .orn d a b | .xnor d a b
  | .shl d a b | .shr d a b | .sra d a b | .rotr d a b | .rotl d a b | .mul d a b | .mulh d a b | .mulhu d a b
  | .div d a b | .divu d a b | .rem d a b | .remu d a b | .min d a b | .max d a b | .minu d a b | .maxu d a b
  | .slt d a b | .sltu d a b | .seq d a b | .sne d a b | .addw d a b | .subw d a b => some (uses2 d a b)
  | .clz d a | .ctz d a | .popc d a | .brev d a | .sextb d a | .sexth d a | .sextw d a => some (uses1 d a)
  | .addi d a _ | .andi d a _ | .ori d a _ | .xori d a _ | .slti d a _ | .sltui d a _ | .muli d a _ => some (uses1 d a)
  | .shli d a _ | .shri d a _ | .srai d a _ => some (uses1 d a)
  | .lih d _ => some (uses0 d)
  | .extr d a l p | .extru d a l p => if 64 < p.toNat + (l.toNat + 1) then none else some (uses1 d a)
  | .sel d a b =>
    if 28 ≤ d.toNat then none else some [(a.toNat, false), (b.toNat, false), (d.toNat, false), (d.toNat, true)]
  | .insr d a l p =>
    if 64 < p.toNat + (l.toNat + 1) ∨ 28 ≤ d.toNat then none
    else some [(a.toNat, false), (d.toNat, false), (d.toNat, true)]
  | _ => none

/-- What each ALU-R word of two sources computes, and its latency (R106, R107, R92). -/
def aluRows : List ((BitVec 5 → BitVec 5 → BitVec 5 → Instr) × (U64 → U64 → U64) × Nat) :=
  [(.add, fun x y => x + y, 1), (.sub, fun x y => x - y, 1), (.and, fun x y => x &&& y, 1),
   (.or, fun x y => x ||| y, 1), (.xor, fun x y => x ^^^ y, 1), (.andn, fun x y => x &&& ~~~y, 1),
   (.orn, fun x y => x ||| ~~~y, 1), (.xnor, fun x y => ~~~(x ^^^ y), 1),
   (.shl, fun x y => BitVec.ofNat 64 (x.toNat * 2 ^ (y.toNat % 64)), 1),
   (.shr, fun x y => BitVec.ofNat 64 (x.toNat / 2 ^ (y.toNat % 64)), 1),
   (.sra, fun x y => BitVec.ofInt 64 (x.toInt / 2 ^ (y.toNat % 64)), 1),
   (.rotr, fun x y => x >>> (y.toNat % 64) ||| x <<< (64 - y.toNat % 64), 1),
   (.rotl, fun x y => x <<< (y.toNat % 64) ||| x >>> (64 - y.toNat % 64), 1),
   (.mul, fun x y => BitVec.ofNat 64 (x.toNat * y.toNat), 3),
   (.mulh, fun x y => BitVec.extractLsb' 64 64 (x.signExtend 128 * y.signExtend 128), 3),
   (.mulhu, fun x y => BitVec.extractLsb' 64 64 (x.setWidth 128 * y.setWidth 128), 3),
   (.div, fun x y => if y = 0 then BitVec.allOnes 64 else x.sdiv y, 20),
   (.divu, fun x y => if y = 0 then BitVec.allOnes 64 else x.udiv y, 20),
   (.rem, fun x y => if y = 0 then x else x.srem y, 20),
   (.remu, fun x y => if y = 0 then x else x.umod y, 20),
   (.min, fun x y => if x.toInt ≤ y.toInt then x else y, 1), (.max, fun x y => if y.toInt ≤ x.toInt then x else y, 1),
   (.minu, fun x y => if x.toNat ≤ y.toNat then x else y, 1), (.maxu, fun x y => if y.toNat ≤ x.toNat then x else y, 1),
   (.slt, fun x y => if x.toInt < y.toInt then 1 else 0, 1), (.sltu, fun x y => if x.toNat < y.toNat then 1 else 0, 1),
   (.seq, fun x y => if x = y then 1 else 0, 1), (.sne, fun x y => if x = y then 0 else 1, 1),
   (.addw, fun x y => (x.truncate 32 + y.truncate 32).signExtend 64, 1),
   (.subw, fun x y => (x.truncate 32 - y.truncate 32).signExtend 64, 1)]

/-- What each ALU-R word of one source computes (R108). -/
def unaryRows : List ((BitVec 5 → BitVec 5 → Instr) × (U64 → U64)) :=
  [(.clz, fun x => if x = 0 then 64 else BitVec.ofNat 64 (63 - Nat.log2 x.toNat)),
   (.ctz, fun x => if x = 0 then 64 else BitVec.ofNat 64 (Nat.log2 (x &&& -x).toNat)),
   (.popc, fun x => BitVec.ofNat 64 ((List.range 64).map (fun i => x.toNat / 2 ^ i % 2)).sum),
   (.brev, fun x => BitVec.ofNat 64 ((List.range 64).map (fun i => x.toNat / 2 ^ i % 2 * 2 ^ (63 - i))).sum),
   (.sextb, fun x => (x.truncate 8).signExtend 64), (.sexth, fun x => (x.truncate 16).signExtend 64),
   (.sextw, fun x => (x.truncate 32).signExtend 64)]

/-- What each word of a sign-extended immediate computes, and its latency (R109, R92). -/
def immediateRows : List ((BitVec 5 → BitVec 5 → BitVec 14 → Instr) × (U64 → U64 → U64) × Nat) :=
  [(.addi, fun x m => x + m, 1), (.andi, fun x m => x &&& m, 1), (.ori, fun x m => x ||| m, 1),
   (.xori, fun x m => x ^^^ m, 1), (.slti, fun x m => if x.toInt < m.toInt then 1 else 0, 1),
   (.sltui, fun x m => if x.toNat < m.toNat then 1 else 0, 1), (.muli, fun x m => x * m, 3)]

/-- What each shift by an immediate computes (R109). -/
def shiftRows : List ((BitVec 5 → BitVec 5 → BitVec 6 → Instr) × (U64 → Nat → U64)) :=
  [(.shli, fun x k => BitVec.ofNat 64 (x.toNat * 2 ^ k)), (.shri, fun x k => BitVec.ofNat 64 (x.toNat / 2 ^ k)),
   (.srai, fun x k => BitVec.ofInt 64 (x.toInt / 2 ^ k))]

/-- Where the result of a word with sources `srcs` stops it (R30, R32, R91): with its sources there it waits for what its
destination lacks, unless the result may not be pushed, which faults with the token whether its port has a place or not. -/
def ResultStops (i : Instr) (srcs : List Nat) (d : Nat) (f : List U64 → U64) : Prop :=
  ∀ (s s' : State) (vs : List U64), s.take (srcs.map (·, false)) = .ok s' vs →
    (∀ w, s.take (srcs.map (·, false) ++ [(d, true)]) = .waits w → ¬ MayNotPush d (f vs) →
      exec i s = .next (s.mapMe fun k => { k with run := .waiting w })) ∧
    ((28 ≤ d → (outQueue s.cur.core (d - 28)).isSome = true) → MayNotPush d (f vs) →
      exec i s = s.fault 0x08 (BitVec.ofNat 64 ((f vs).toNat % 2 ^ 32)))

/-- The field forms that R104 and R111 make illegal: a bit-field past bit 63, and a port that SEL or INSR would read and
write. -/
def aluIllegal : Instr → Prop
  | .extr _ _ l p => 64 < p.toNat + (l.toNat + 1)
  | .extru _ _ l p => 64 < p.toNat + (l.toNat + 1)
  | .insr d _ l p => 64 < p.toNat + (l.toNat + 1) ∨ 28 ≤ d.toNat
  | .sel d _ _ => 28 ≤ d.toNat
  | _ => False

/-- A long word may go on in this clock: in free mode, where its stamp is ignored, or in the clock of its stamp (R27, R99
to R101). -/
def Due (s : State) (stamp : Option (BitVec 30)) : Prop :=
  s.datumTile s.cur.tile = false ∨ ∃ st, stamp = some st ∧ (s.me.held = some s.now ∨
    (s.me.held = none ∧ (s.frameOrg s.cur.tile).toNat + st.toNat = s.now ∧ st.toNat < s.myTile.task.frameLen.toNat))

/-- The operand is strided (R35). -/
def strided : Opnd → Bool
  | .walk _ _ _ => true
  | _ => false

/-- A vector word reads its destination: a fused or inserting word does, and one that captures inactive lanes (R125). -/
def readsD (w : VWord) (p : VPlan) : Bool :=
  p.ud.isRead || (w.h.capEn == 1 && w.h.nowb == 0 && w.h.mask != 0 && p.ud != .no)

/-- What a vector word computes with at issue (R125); D where it reads it. -/
def vectorIn (s : State) (w : VWord) (p : VPlan) (f : Fields) : VIn :=
  { act := lanesOf (s.myTile.xr.mask w.h.mask.toNat), a := s.myTile.elems w.h.lits p.ua.ty f.a,
    b := s.myTile.elems w.h.lits p.ub.ty f.b, d := if readsD w p then s.myTile.elems w.h.lits p.ud.ty f.d else [],
    bx := s.me.fieldValue f.b,
    rm := s.me.rounding w.h.rnd.toNat, sat := decide (w.h.sat = 1), lfsr := s.myTile.xr.lfsr }

/-- A vector word of the X-core may issue: its head and its fields `f` are legal, its clock has come, and nothing that it could
wait for is on its way (R23, R91, R127). -/
def VectorReady (s : State) (w : VWord) (p : VPlan) (f : Fields) : Prop :=
  p.ok5 = true ∧ s.cur.core = .X ∧ Due s w.h.stamp ∧
    checkFields (s.myTile.latchLost s.now) p.ctlOk w.h.lits.length p.ud p.ua p.ub w = .ok f ∧
    (∀ r, s.me.pending s.now r = false) ∧ ∀ rd wr, s.myTile.linesPending s.now rd wr = false

/-- The first operand of a vector word that breaks its domain rule, if one does (R128, R146). -/
def domainOf (s : State) (p : VPlan) (f : Fields) : Option Nat :=
  domainField s.myTile.task p.domain (s.myTile.xr.opndLines f.d p.ud.lines) (s.myTile.xr.opndLines f.a p.ua.lines)
    (s.myTile.xr.opndLines f.b p.ub.lines)

/-- A vector word left everything as it was but the X-core's flow, its vector resources, and what its tile keeps of requests, of
words that reach lines and of the out-of-range latch; no scalar register, constant, codebook row, latch or byte of memory
differs. -/
def OnlyVector (s t : State) : Prop :=
  t = s.setMyTile t.myTile ∧
    t.myTile = { s.myTile with
      x := t.me, xr := t.myTile.xr, oorFlag := t.myTile.oorFlag, oorAddr := t.myTile.oorAddr, oorWhen := t.myTile.oorWhen,
      asks := t.myTile.asks, vjobs := t.myTile.vjobs } ∧
    OnlyFlow s t ∧ t.me.regs = s.me.regs ∧ t.myTile.xr.c = s.myTile.xr.c ∧ t.myTile.xr.cb = s.myTile.xr.cb ∧
    t.myTile.xr.byp = s.myTile.xr.byp ∧ t.myTile.xr.bypValid = s.myTile.xr.bypValid

/-- A long word has issued with its words in flight followed by `p`. -/
def LongIssued (s t : State) (npc : U64) (p : Pend) : Prop :=
  t.me.pc = npc ∧ t.me.nextAt = s.now + 1 ∧ t.me.run = .running ∧ t.me.pend = s.me.pend ++ [p]

/-- The strided operands that a vector word reads, by position, and the lines that it writes (R35, R125). -/
def vectorReads (s : State) (w : VWord) (p : VPlan) (f : Fields) : List (Nat × List Int) :=
  [(0, if readsD w p then s.myTile.xr.opndLines f.d p.ud.lines else []), (1, s.myTile.xr.opndLines f.a p.ua.lines),
    (2, s.myTile.xr.opndLines f.b p.ub.lines)].filter (fun r => !r.2.isEmpty)
def vectorWrites (s : State) (w : VWord) (p : VPlan) (f : Fields) : List Int :=
  if w.h.nowb = 1 ∨ p.ud = .no then [] else s.myTile.xr.opndLines f.d p.ud.lines

/-- Every line that a word reaches is out of range. -/
def NoLine (reads : List (Nat × List Int)) (writes : List Int) : Prop :=
  (∀ r ∈ reads, ∀ l ∈ r.2, ¬ (0 ≤ l ∧ l ≤ 5114)) ∧ ∀ l ∈ writes, ¬ (0 ≤ l ∧ l ≤ 5114)

/-- A vector word leaves a request for each line in range, and is kept until its lines are written (R95, R127); its registers
and the LFSRs are as they were. -/
def JobLeft (s t : State) (i : Instr) (v : VIn) (reads : List (Nat × List Int)) (writes : List Int) : Prop :=
  (∃ j, t.myTile.vjobs = s.myTile.vjobs ++ [j] ∧ j.issued = s.now ∧ j.word = i ∧ j.vin = v ∧ j.reads = reads ∧
    j.writes = writes ∧ j.got = [] ∧ j.given = []) ∧
    (∃ asks, t.myTile.asks = s.myTile.asks ++ asks ∧ (∀ x ∈ asks, x.since = s.now ∧ x.rank = rankVector) ∧
      asks.map (fun x => ((x.line : Int), x.act)) = (lineAsks reads writes).filter (fun l => decide (0 ≤ l.1 ∧ l.1 ≤ 5114))) ∧
    t.myTile.xr.v = s.myTile.xr.v ∧ t.myTile.xr.m = s.myTile.xr.m ∧ t.myTile.xr.lfsr = s.myTile.xr.lfsr

/-- A vector word that delivers `o` runs: its walks have moved, and nothing else of the package differs (R36, R92). Where it
reaches no line in range, the lanes that it writes stand in its destination, unless nowb is 1, the LFSRs stand at `o.lfsr` where
it steps them, and its flags and its capture come with its completion (R79, R93, R125); where it reaches one, its requests stand
at the banks. -/
def VectorRuns (i : Instr) (s : State) (w : VWord) (p : VPlan) (f : Fields) (o : VOut) : Prop :=
  ∃ t q put, exec i s = .next t ∧ LongIssued s t (s.afterLong w.h) q ∧
    q.due = s.now + p.lat + (if strided f.a || strided f.b || (strided f.d && readsD w p) then 4 else 0) ∧
    t.myTile.xr.w = (((s.myTile.xr.post f.d p.ud.lines).post f.a p.ua.lines).post f.b p.ub.lines).w ∧ OnlyVector s t ∧
    put = (if w.h.nowb = 1 then s.myTile else s.myTile.putElems p.ud.ty f.d o.new o.wr) ∧
    (NoLine (vectorReads s w p f) (vectorWrites s w p f) → q.flags = o.flags ∧
      q.cap = (if w.h.capEn = 1 then some (w.h.capN.toNat, captured (w.h.nowb == 1) o (vectorIn s w p f).d) else none) ∧
      t.myTile.xr.v = put.xr.v ∧ t.myTile.xr.m = put.xr.m ∧
      t.myTile.xr.lfsr = (if p.usesLfsr (s.me.rounding w.h.rnd.toNat) then o.lfsr else s.myTile.xr.lfsr) ∧
      t.myTile.asks = s.myTile.asks ∧ t.myTile.vjobs = s.myTile.vjobs) ∧
    (¬ NoLine (vectorReads s w p f) (vectorWrites s w p f) →
      JobLeft s t i (vectorIn s w p f) (vectorReads s w p f) (vectorWrites s w p f))

/-- The end of a word that left requests (R125, R127): with its lines read, its result is what the word computes of what it
computed with at issue, the elements of its strided operands being those of the lines. -/
def VectorEnds (i : Instr) (s : State) (w : VWord) (p : VPlan) : Prop :=
  ∀ (s0 : State) (f : Fields) (j : VJob), j.word = i → j.vin = vectorIn s0 w p f →
    p.ud.parse 0 w.h.lits.length w.d.toNat = some f.d →
    s.myTile.jobDone s.now j = s.myTile.jobResult j p w f.d s.now

/-- What a vector word of some form does (R23, R125 to R128): an illegal head, a long word without a stamp in datum mode and a
core that is not the X-core raise illegal instruction with the word's first unit, an illegal field illegal operand with its
position and bits, a broken domain rule domain with the operand; otherwise the word runs as `plan` computes, at once, or with
its lines. -/
def VectorMeansWhere (mk : VWord → Instr) (form : VWord → Prop) (plan : State → VWord → VPlan) : Prop :=
  ∀ (s : State) (w : VWord) (p : VPlan), form w → p = plan s w →
    (p.ok5 = false ∨ s.unstamped w.h.stamp = true ∨ s.cur.core ≠ .X → exec (mk w) s = s.fault 0x01 (headUnit (mk w))) ∧
    (∀ pos, p.ok5 = true → s.unstamped w.h.stamp = false → s.cur.core = .X →
      checkFields (s.myTile.latchLost s.now) p.ctlOk w.h.lits.length p.ud p.ua p.ub w = .error pos →
      exec (mk w) s = s.fault 0x04 (operandTval pos (fieldOf w pos))) ∧
    (∀ f pos, VectorReady s w p f → domainOf s p f = some pos →
      exec (mk w) s = s.fault 0x0C (operandTval pos (fieldOf w pos))) ∧
    (∀ f, VectorReady s w p f → domainOf s p f = none → VectorRuns (mk w) s w p f (p.run (vectorIn s w p f))) ∧
    VectorEnds (mk w) s w p

/-- What a vector word does in every form. -/
def VectorMeans (mk : VWord → Instr) (plan : State → VWord → VPlan) : Prop := VectorMeansWhere mk (fun _ => True) plan

/-- One exact value with its flags, rounded to type `t` in the mode of the word (R76, R130). -/
def rounded (t : Nat) (i : VIn) (l : U32) (v : FVal × Flags) : Nat × Flags :=
  ((roundTo v.1 t i.rm i.sat l).1, (roundTo v.1 t i.rm i.sat l).2 ||| v.2)

/-- What a matrix word reads at issue (R165, R166): the lines at the heads of its rings, and its per-row scales. -/
def matrixIn (s : State) (p : MPlan) (w : MWord) : MRead := p.gather s.myTile w (s.me.rounding p.rnd)

/-- A ring of a matrix word: set, with `n` lines a slot at least. -/
def RingFits (t : Tile) (r n : Nat) : Prop := (t.ring r).isSet = true ∧ n ≤ (t.ring r).lps

/-- A matrix word of the X-core may issue: its fields and its rings are legal, its clock has come, nothing that it could wait
for is on its way, its accumulators are its own or nobody's, the records of its rings are legal, and the checks of R174 hold
(R23, R91, R166, R168, R169, R174, R185). -/
def MatrixReady (s : State) (w : MWord) (p : MPlan) : Prop :=
  p.ok5 = true ∧ s.cur.core = .X ∧ w.resv = 0 ∧ w.tC ≠ 3 ∧ w.init ≠ 3 ∧ w.scA ≠ 3 ∧ w.scB ≠ 3 ∧ Due s (mstamp w) ∧
    (p.named = true → w.acc.toNat < 48) ∧ (∀ n, p.source = some n → n < 48) ∧
    (∀ q, outQueue .X w.dport.toNat = some q → w.den = 1 → 0 < (s.myTile.queue q).places s.now) ∧ w.dport.toNat < 3 ∧
    (∀ c r, (s.myTile.core c).pending s.now r = false) ∧ s.myTile.mopen = [] ∧ s.myTile.accMoves = [] ∧
    s.myTile.arrayFree ≤ s.now ∧ (∀ l, s.myTile.lineHeld s.now l = false) ∧ (∀ rd wr, s.myTile.lineOwed s.now rd wr = false) ∧
    (∀ n ∈ p.accs, s.myTile.ownerOf n = s.myTile.user ∨
      (s.myTile.ownerOf n = .nobody ∧ (s.myTile.user, n) ∉ s.myTile.task.images)) ∧ p.rings.Nodup ∧
    (∀ e ∈ p.reads, RingFits s.myTile e.ring e.lines ∧
      s.myTile.slotNow e.ring (s.myTile.ring e.ring).h = .full) ∧
    (∀ e, p.fill = some e → RingFits s.myTile e.1 e.2 ∧ s.myTile.slotNow e.1 (s.myTile.ring e.1).t = .empty) ∧
    p.badRecord s.myTile = none ∧
    (∀ e ∈ p.doms, s.myTile.ringSpectral (s.myTile.ring e.2) = p.want s.myTile) ∧
    (p.tags = true → ∀ n ∈ p.rd, s.myTile.tagOf n = w.tC.toNat) ∧
    (∀ e ∈ p.axes, s.myTile.ringColumns (s.myTile.ring e.2.1) = e.2.2) ∧
    (∀ r ∈ p.srows, (s.myTile.ring r).shape ≠ 0x1FFF) ∧ p.refuse (matrixIn s p w) = false

/-- A matrix word that delivers `o` runs (R167, R177, R180, R181, R244): its accumulators are its own and hold their new
elements and tags, the slot it fills is writing and gets its lines with the completion, the slots it pops are being read, and it
is open until its latency has passed; no other accumulator, no scalar register, no byte of scratch and no other state of the
package differs. -/
def MatrixRuns (i : Instr) (s : State) (p : MPlan) (o : MOut) : Prop :=
  ∃ t q m, exec i s = .next t ∧ LongIssued s t (s.me.pc + 24) q ∧ t.myTile.mopen = [m] ∧ m.due = s.now + p.lat ∧
    m.flags = o.flags ∧ t.myTile.arrayFree = s.now + p.occ ∧ t.myTile.xr.lfsr = o.lfsr ∧
    (∀ n v tag, o.accs = [(n, some (v, tag))] → t.myTile.tagOf n = tag ∧
      ∀ k, k < 4096 → (t.myTile.accElems n).getD k 0 = v.getD k 0 % 2 ^ 32) ∧
    (∀ n, n ∉ o.accs.map (fun a => a.1) → t.myTile.accElems n = s.myTile.accElems n ∧
      t.myTile.tagOf n = s.myTile.tagOf n) ∧
    (∀ n, t.myTile.ownerOf n = if n ∈ p.accs then s.myTile.user else s.myTile.ownerOf n) ∧
    (∀ e ∈ p.reads, t.myTile.ring e.ring = if e.pop then
      { (s.myTile.ring e.ring).setSlot (s.myTile.ring e.ring).h .reading with
        h := ((s.myTile.ring e.ring).h + 1) % (s.myTile.ring e.ring).nslots } else s.myTile.ring e.ring) ∧
    (∀ r n, p.fill = some (r, n) → t.myTile.ring r = { (s.myTile.ring r).setSlot (s.myTile.ring r).t .writing with
        t := ((s.myTile.ring r).t + 1) % (s.myTile.ring r).nslots } ∧
      m.slot = o.slot.mapIdx (fun k b =>
        ((((s.myTile.ring r).base + (s.myTile.ring r).t * (s.myTile.ring r).lps + k : Nat) : Int), b))) ∧
    (p.fill = none → m.slot = []) ∧ m.held = [] ∧ t.myTile.scratch = s.myTile.scratch ∧ t.me.regs = s.me.regs ∧ OnlyFlow s t ∧
    t = s.setMyTile t.myTile

/-- An engine word of the L-core or the S-core may take its place: its fields are legal, its clock has come, its registers,
record and index stream can be read, its FIFO and its done port have a place, and the command passes the checks of R187. -/
def EngineReady (s : State) (op : Nat) (w : EWord) : Prop :=
  ewordCodes op w = true ∧ s.cur.core ≠ .X ∧ (op = 0xD4 → s.cur.core = .L) ∧ ewordOperand (euseOf op) w = none ∧
    (w.doneEn = 1 → ∃ q, outQueue s.cur.core w.donePort.toNat = some q ∧ 0 < (s.myTile.queue q).places s.now) ∧
    Due s w.h.stamp ∧ (∀ r, s.me.pending s.now r = false) ∧
    (∀ l, s.myTile.writeLocked l = false ∧ s.myTile.writeLeft s.cur.core s.now l = false) ∧
    (s.myTile.fifo (fifoOf s.cur.core)).length < 32 ∧
    (gathers op = true → s.datumTile s.cur.tile = false → s.me.held.getD (s.now + w.count.toNat) ≤ s.now) ∧
    s.checkCommand s.cur.tile (s.command op w) = none

/-- Command `c` stands alone in the FIFOs of tile `g`, in FIFO `f`; it has met no fault, nothing of it is at a peer, no word of
the tile has yet to reach a line, and the clock of its next step has come (R188, R189, R207). -/
def EngineAlone (s : State) (g : Nat) (f : Fifo) (c : Cmd) : Prop :=
  (s.tile g).fifo f = [c] ∧ (s.tile g).fifo (otherFifo f) = [] ∧ (s.tile g).task.live = true ∧
    (s.core ⟨g, fifoCore f⟩).run.isHalted = false ∧ c.op ≠ 256 ∧ c.faulted = false ∧ c.trouble = none ∧ c.due ≤ s.now ∧
    s.peers = [] ∧ (s.tile g).atBanks = [] ∧ (s.tile g).vjobs = [] ∧ (s.tile g).mopen = []

/-- The requests of the next step of a command are granted (R190): in free mode they were made, and none is left; in datum mode
there are none. -/
def EngineGranted (s : State) (g : Nat) (f : Fifo) (c : Cmd) : Prop :=
  s.asksOpen g f c = false ∧ (s.datumTile g = true ∨ c.asked = true)

/-- The hub has taken a command: HUBCMD holds it but for its reserved bits, HUBRES reads 0, and it will end with `status` (R6,
R352). -/
def Hubbed (t : State) (v : U64) (status : Nat) : Prop :=
  (∀ j, j < 64 → (t.devGet 0x1000).getLsbD j = (!decide (10 ≤ j ∧ j < 35) && v.getLsbD j)) ∧ t.devGet 0x1010 = 0 ∧
  t.hubBusy = some status

/-- Command `op` of HUBCMD, free of reserved bits, while the hub is idle (R352). -/
def HubTakes (s : State) (op : Nat) (v : U64) : Prop := s.hubFree = true ∧ hubOp v = op ∧ hubReserved v = false

/-- Every memory of the package stands in its canonical form (notes/assumptions 1). -/
def MemoriesCanonical (s : State) : Prop :=
  Memory.wf s.hbm = true ∧ Memory.wf s.host = true ∧ (∀ e ∈ s.tiles, Memory.wf e.2.scratch = true) ∧
    ∀ e ∈ s.saved, Memory.wf e.2.tile.scratch = true

end Sys2Proof.Machine
end

