-- ==== Sys2Proof/Certificates/Slice0/Obligations.lean ====
section
/-!
DEFINITION. The statements for the provers: the spec's rules about what words, events and the machine do.
-/

open Sys2Proof Sys2Proof.Machine

/-- R106 to R108: what each ALU-R word writes. A word whose registers can be read and whose result may be pushed runs, with
the result of the table and the latency of R92, and leaves all else as it was. -/
def Obligations.AluResults : Prop :=
  (∀ row ∈ aluRows,
    ∀ (s s' : State) (d a b : BitVec 5) (x y : U64), s.take (uses2 d a b) = .ok s' [x, y] →
      ¬ MayNotPush d.toNat (row.2.1 x y) → Runs (row.1 d a b) s s' d.toNat (row.2.1 x y) row.2.2) ∧
  (∀ row ∈ unaryRows,
    ∀ (s s' : State) (d a : BitVec 5) (x : U64), s.take (uses1 d a) = .ok s' [x] →
      ¬ MayNotPush d.toNat (row.2 x) → Runs (row.1 d a) s s' d.toNat (row.2 x) 1) ∧
  (∀ (s s' : State) (d a b : BitVec 5) (x y c : U64), d.toNat < 28 →
    s.take [(a.toNat, false), (b.toNat, false), (d.toNat, false), (d.toNat, true)] = .ok s' [x, y, c] →
    Runs (.sel d a b) s s' d.toNat (if c = 0 then y else x) 1)

/-- R109 to R111: what the immediate forms, LIH and the bit-field words write. -/
def Obligations.ImmediateResults : Prop :=
  (∀ row ∈ immediateRows,
    ∀ (s s' : State) (d a : BitVec 5) (i : BitVec 14) (x : U64), s.take (uses1 d a) = .ok s' [x] →
      ¬ MayNotPush d.toNat (row.2.1 x (BitVec.ofInt 64 i.toInt)) →
      Runs (row.1 d a i) s s' d.toNat (row.2.1 x (BitVec.ofInt 64 i.toInt)) row.2.2) ∧
  (∀ row ∈ shiftRows,
    ∀ (s s' : State) (d a : BitVec 5) (k : BitVec 6) (x : U64), s.take (uses1 d a) = .ok s' [x] →
      ¬ MayNotPush d.toNat (row.2 x k.toNat) → Runs (row.1 d a k) s s' d.toNat (row.2 x k.toNat) 1) ∧
  (∀ (s s' : State) (d : BitVec 5) (i : BitVec 19), s.take (uses0 d) = .ok s' [] →
    ¬ MayNotPush d.toNat (BitVec.ofInt 64 (i.toInt * 2 ^ 13)) →
    Runs (.lih d i) s s' d.toNat (BitVec.ofInt 64 (i.toInt * 2 ^ 13)) 1) ∧
  (∀ (s s' : State) (d a : BitVec 5) (l p : BitVec 6) (x : U64), p.toNat + (l.toNat + 1) ≤ 64 →
    s.take (uses1 d a) = .ok s' [x] →
    (¬ MayNotPush d.toNat ((x <<< (63 - p.toNat - l.toNat)).sshiftRight (63 - l.toNat)) →
      Runs (.extr d a l p) s s' d.toNat ((x <<< (63 - p.toNat - l.toNat)).sshiftRight (63 - l.toNat)) 1) ∧
    (¬ MayNotPush d.toNat ((x <<< (63 - p.toNat - l.toNat)) >>> (63 - l.toNat)) →
      Runs (.extru d a l p) s s' d.toNat ((x <<< (63 - p.toNat - l.toNat)) >>> (63 - l.toNat)) 1)) ∧
  (∀ (s s' : State) (d a : BitVec 5) (l p : BitVec 6) (x old : U64), p.toNat + (l.toNat + 1) ≤ 64 → d.toNat < 28 →
    s.take [(a.toNat, false), (d.toNat, false), (d.toNat, true)] = .ok s' [x, old] →
    ∃ v : U64, Runs (.insr d a l p) s s' d.toNat v 1 ∧ ∀ j, v.getLsbD j =
      if p.toNat ≤ j ∧ j < p.toNat + (l.toNat + 1) then x.getLsbD (j - p.toNat) else old.getLsbD j)

/-- R23, R30, R32, R91, R104, R111: where an ALU word stops. A word that names an unconnected port faults with the port, a word
whose sources are not ready, or whose register result has no port, waits and takes nothing, and the illegal forms raise illegal
instruction with the word's unit. A result that may not be pushed faults, whether its port has a place or not. -/
def Obligations.AluStops : Prop :=
  (∀ i us, aluUses i = some us → ∀ (s : State) p, s.take us = .dead p → exec i s = s.fault 0x08 (BitVec.ofNat 64 p)) ∧
  (∀ i us, aluUses i = some us → ∀ (s : State) w, s.take us = .waits w →
    ((∀ u ∈ us, u.2 = true → u.1 < 28) ∨ ∃ w', s.take (us.filter fun u => !u.2) = .waits w') →
    exec i s = .next (s.mapMe fun k => { k with run := .waiting w })) ∧
  (∀ i, aluIllegal i → ∀ s : State, exec i s = s.fault 0x01 (headUnit i)) ∧
  (∀ row ∈ aluRows, ∀ (d a b : BitVec 5), ResultStops (row.1 d a b) [a.toNat, b.toNat] d.toNat
    fun vs => row.2.1 (vs.getD 0 0) (vs.getD 1 0)) ∧
  (∀ row ∈ unaryRows, ∀ (d a : BitVec 5), ResultStops (row.1 d a) [a.toNat] d.toNat fun vs => row.2 (vs.getD 0 0)) ∧
  (∀ row ∈ immediateRows, ∀ (d a : BitVec 5) (i : BitVec 14), ResultStops (row.1 d a i) [a.toNat] d.toNat
    fun vs => row.2.1 (vs.getD 0 0) (BitVec.ofInt 64 i.toInt)) ∧
  (∀ row ∈ shiftRows, ∀ (d a : BitVec 5) (k : BitVec 6), ResultStops (row.1 d a k) [a.toNat] d.toNat
    fun vs => row.2 (vs.getD 0 0) k.toNat) ∧
  (∀ (d : BitVec 5) (i : BitVec 19), ResultStops (.lih d i) [] d.toNat fun _ => BitVec.ofInt 64 (i.toInt * 2 ^ 13)) ∧
  (∀ (d a : BitVec 5) (l p : BitVec 6), p.toNat + (l.toNat + 1) ≤ 64 →
    ResultStops (.extr d a l p) [a.toNat] d.toNat
      (fun vs => (vs.getD 0 0 <<< (63 - p.toNat - l.toNat)).sshiftRight (63 - l.toNat)) ∧
    ResultStops (.extru d a l p) [a.toNat] d.toNat fun vs => (vs.getD 0 0 <<< (63 - p.toNat - l.toNat)) >>> (63 - l.toNat))

/-- R30, R91: what reading a word's registers gives. Where no register is a port, the word reads its registers once their
writers are done, and takes nothing; where one is a connected in-port with a token that may be popped, it takes the head
token, zero-extended, and frees its place from the next clock. -/
def Obligations.RegistersRead : Prop :=
  (∀ (s : State) (us : List (Nat × Bool)), (∀ u ∈ us, u.1 < 28 ∧ s.me.pending s.now (.s u.1) = false) →
    ∃ s', s.take us = .ok s' ((us.filter (fun u => !u.2)).map (fun u => s.me.reg u.1)) ∧ ∀ g, s'.tile g = s.tile g) ∧
  (∀ (s : State) (us : List (Nat × Bool)), (∀ u ∈ us, u.1 < 28) → (∃ u ∈ us, s.me.pending s.now (.s u.1) = true) →
    s.take us = .waits .res) ∧
  (∀ (s : State) (n q : Nat), 28 ≤ n → inQueue s.cur.core (n - 28) = some q → 0 < s.myTile.poppable q s.now →
    ∃ s', s.take [(n, false)] = .ok s' [((s.myTile.queue q).head).setWidth 64] ∧
      s'.myTile.queue q = (s.myTile.queue q).pop s.now ∧ ∀ r, r ≠ q → s'.myTile.queue r = s.myTile.queue r) ∧
  (∀ (s : State) (n q : Nat), 28 ≤ n → inQueue s.cur.core (n - 28) = some q → s.myTile.poppable q s.now = 0 →
    s.take [(n, false)] = .waits (.pop q)) ∧
  (∀ (s s' : State) (us : List (Nat × Bool)) (vs : List U64), s.take us = .ok s' vs →
    s' = s.setMyTile (s.myTile.withQueues s'.myTile.queues))

/-- R112: BR and LOOP, with the delay of R116. -/
def Obligations.BranchResults : Prop :=
  (∀ (s s' : State) (a b : BitVec 5) (c : BitVec 3) (o : BitVec 11) (x y : U64) (taken : Bool),
    ((c, taken) ∈ [((0 : BitVec 3), decide (x = y)), (1, decide (x ≠ y)), (2, decide (x.toInt < y.toInt)),
      (3, decide (y.toInt ≤ x.toInt)), (4, decide (x.toNat < y.toNat)), (5, decide (y.toNat ≤ x.toNat))]) →
    s.take [(a.toNat, false), (b.toNat, false)] = .ok s' [x, y] →
    Goes (.br a b c o) s s' (if taken then s.me.pc + BitVec.ofInt 64 (4 * o.toInt) else s.me.pc + 4)
      (if taken then s.now + 2 else s.now + 1)) ∧
  (∀ (s s' : State) (a : BitVec 5) (o : BitVec 11) (x : U64), 1 ≤ a.toNat → a.toNat < 28 →
    s.take [(a.toNat, false)] = .ok s' [x] →
    ∃ t, exec (.loop a o) s = .next t ∧ t.me.reg a.toNat = x - 1 ∧ OnlyRegister s t a.toNat ∧
      Issued s t (if x = 1 then s.me.pc + 4 else s.me.pc + BitVec.ofInt 64 (4 * o.toInt))
        (if x = 1 then s.now + 1 else s.now + 2) 1 [.s a.toNat]) ∧
  (∀ (s : State) (a : BitVec 5) (o : BitVec 11), a = 0 ∨ 28 ≤ a.toNat →
    exec (.loop a o) s = s.fault 0x01 (headUnit (.loop a o))) ∧
  (∀ (s : State) (a b : BitVec 5) (c : BitVec 3) (o : BitVec 11), 6 ≤ c.toNat →
    exec (.br a b c o) s = s.fault 0x01 (headUnit (.br a b c o)))

/-- R113, R114: jumps and calls: their bit pictures, where they go and when; the link stands in s27, and a misaligned target
faults with nothing written. -/
def Obligations.JumpResults : Prop :=
  (∀ o : BitVec 24, decode [(0x12#8 ++ o : BitVec 32)] = some (.j o) ∧ decode [(0x13#8 ++ o : BitVec 32)] = some (.call o)) ∧
  (∀ (d a : BitVec 5) (i : BitVec 14),
    decode [(0x14#8 ++ d ++ a ++ i : BitVec 32)] = (if d = 0 then some (.jr a i) else none) ∧
    decode [(0x15#8 ++ d ++ a ++ i : BitVec 32)] = (if d = 0 then some (.callr a i) else none)) ∧
  (∀ (s : State) (o : BitVec 24), Goes (.j o) s s (s.me.pc + BitVec.ofInt 64 (4 * o.toInt)) (s.now + 2)) ∧
  (∀ (s s' : State) (o : BitVec 24), s.take [(27, true)] = .ok s' [] →
    ∃ t, exec (.call o) s = .next t ∧ t.me.reg 27 = s.me.pc + 4 ∧ OnlyRegister s t 27 ∧
      Issued s t (s.me.pc + BitVec.ofInt 64 (4 * o.toInt)) (s.now + 2) 1 [.s 27]) ∧
  (∀ (s s' : State) (a : BitVec 5) (i : BitVec 14) (x : U64), s.take [(a.toNat, false)] = .ok s' [x] →
    ((x + BitVec.ofInt 64 (4 * i.toInt)).toNat % 4 = 0 →
      Goes (.jr a i) s s' (x + BitVec.ofInt 64 (4 * i.toInt)) (s.now + 2)) ∧
    ((x + BitVec.ofInt 64 (4 * i.toInt)).toNat % 4 ≠ 0 →
      exec (.jr a i) s = s.fault 0x0E (x + BitVec.ofInt 64 (4 * i.toInt)))) ∧
  (∀ (s s' : State) (a : BitVec 5) (i : BitVec 14) (x : U64), s.take [(a.toNat, false), (27, true)] = .ok s' [x] →
    ((x + BitVec.ofInt 64 (4 * i.toInt)).toNat % 4 = 0 →
      ∃ t, exec (.callr a i) s = .next t ∧ t.me.reg 27 = s.me.pc + 4 ∧ OnlyRegister s t 27 ∧
        Issued s t (x + BitVec.ofInt 64 (4 * i.toInt)) (s.now + 2) 1 [.s 27]) ∧
    ((x + BitVec.ofInt 64 (4 * i.toInt)).toNat % 4 ≠ 0 →
      exec (.callr a i) s = s.fault 0x0E (x + BitVec.ofInt 64 (4 * i.toInt))))

/-- R91, R117, R118, R119: the scratch loads. An aligned load of a line that a program reaches issues, whatever holds the line,
with its request at the bank, and delivers when the bank serves it the bytes that are there, little-endian and extended: into
its register, or into the token that stands for it in its out-port's queue; nothing else changes. Out of range it delivers zero
and latches the first such address; a misaligned one faults with nothing done. -/
def Obligations.ScratchLoads : Prop :=
  ∀ row ∈ ([(.ldsB, 1, true, fun v => (BitVec.ofNat 8 v).signExtend 64), (.ldsBu, 1, false, fun v => BitVec.ofNat 64 v),
      (.ldsH, 2, true, fun v => (BitVec.ofNat 16 v).signExtend 64), (.ldsHu, 2, false, fun v => BitVec.ofNat 64 v),
      (.ldsW, 4, true, fun v => (BitVec.ofNat 32 v).signExtend 64), (.ldsWu, 4, false, fun v => BitVec.ofNat 64 v),
      (.ldsD, 8, false, fun v => BitVec.ofNat 64 v)] :
      List ((BitVec 5 → BitVec 5 → BitVec 14 → Instr) × Nat × Bool × (Nat → U64))),
    (∀ (s s' : State) (d a : BitVec 5) (i : BitVec 14) (x : U64) (ea : Int), s.take (uses1 d a) = .ok s' [x] →
      ea = x.toNat + i.toInt →
      (ea % row.2.1 = 0 → Reached ea →
        ∃ t, exec (row.1 d a i) s = .next t ∧
          Leaves s t ea (.load ea.toNat row.2.1 row.2.2.1 d.toNat) 4 (regRes d.toNat) ∧ OnlyScratch s t 0 ∧
          (28 ≤ d.toNat → Landed s s' t d.toNat 0 4) ∧ (d.toNat < 28 → t.myTile.queues = s'.myTile.queues)) ∧
      (ea % row.2.1 = 0 → ¬ Reached ea →
        ∃ t, exec (row.1 d a i) s = .next t ∧ Issued s t (s.me.pc + 4) (s.now + 1) 4 (regRes d.toNat) ∧
          Landed s s' t d.toNat 0 4 ∧ Latched s t ea ∧ SameBytes s t ∧ OnlyScratch s t d.toNat) ∧
      (ea % row.2.1 ≠ 0 → exec (row.1 d a i) s = s.fault 0x0E (BitVec.ofInt 64 ea))) ∧
    (∀ (t u : Tile) (now : Nat) (datum : Bool) (x : Ask) (ea d : Nat) (c : CoreId) (v : U64), ServedAlone t now datum x →
      x.act = .load ea row.2.1 row.2.2.1 d → x.rank = rankScalar c → ea % row.2.1 = 0 → Reached ea →
      u = t.arbitrate now datum → v = row.2.2.2 (Memory.num t.scratch ea row.2.1) →
      u.asks = [] ∧ u.scratch = t.scratch ∧ (∀ e, e ≠ c → u.core e = t.core e) ∧
        u.core c = { t.core c with regs := (u.core c).regs } ∧
        (d < 28 → (u.core c).reg d = (if d = 0 then 0 else v) ∧ u.queues = t.queues) ∧
        (∀ n, n ≠ d → (u.core c).reg n = (t.core c).reg n) ∧
        (∀ q k, 28 ≤ d → v.toNat / 2 ^ 28 % 16 < 5 → (t.queue q).toks = [k] → k.rank = 3 → k.issued = x.since →
          pusher q = c → (u.queue q).toks = [{ k with tok := v.truncate 32 }]))

/-- R91, R117, R118, R119: the scratch stores. An aligned store issues, whatever holds its line, with its request at the bank,
and no byte has changed then; when the bank serves it its bytes stand, little-endian, at the effective address, and no other
byte has changed. Out of range it is dropped; a misaligned one faults with nothing done. -/
def Obligations.ScratchStores : Prop :=
  ∀ row ∈ ([(.stsB, 1), (.stsH, 2), (.stsW, 4), (.stsD, 8)] : List ((BitVec 5 → BitVec 5 → BitVec 14 → Instr) × Nat)),
    (∀ (s s' : State) (d a : BitVec 5) (i : BitVec 14) (x v : U64) (ea : Int),
      s.take [(a.toNat, false), (d.toNat, false)] = .ok s' [x, v] → ea = x.toNat + i.toInt →
      (ea % row.2 = 0 →
        ∃ t, exec (row.1 d a i) s = .next t ∧ Leaves s t ea (.put [(ea.toNat, leBytes row.2 v.toNat)]) 4 [] ∧
          t.myTile.queues = s'.myTile.queues ∧
          OnlyScratch s t 0) ∧
      (ea % row.2 ≠ 0 → exec (row.1 d a i) s = s.fault 0x0E (BitVec.ofInt 64 ea))) ∧
    (∀ (t u : Tile) (now ea : Nat) (datum : Bool) (x : Ask) (c : CoreId) (bs : List Byte), ServedAlone t now datum x →
      x.act = .put [(ea, bs)] → x.rank = rankScalar c → bs.length = row.2 → ea % row.2 = 0 → Reached ea →
      u = t.arbitrate now datum →
      u.asks = [] ∧ Written t u ea bs ∧ u.queues = t.queues ∧ ∀ e, u.core e = t.core e)

/-- R102, R103, R120 to R122: a global word whose address translates begins its access and blocks its core; it has written no
register when it does. A store of free mode to a page of its own die's HBM, outside the twin groups, leaves its bytes there; one
of datum mode changes no byte of it before its declared clock, 480 after the issue, a load's being 640. An address that does not
translate or is misaligned faults. -/
def Obligations.GlobalWords : Prop :=
  ∀ row ∈ ([(.ldgW, 0, 4, true), (.ldgWu, 1, 4, true), (.ldgD, 2, 8, true), (.stgW, 3, 4, false), (.stgD, 4, 8, false)] :
      List ((BitVec 5 → BitVec 5 → BitVec 14 → Instr) × Nat × Nat × Bool)),
    ∀ (s s' : State) (d a : BitVec 5) (i : BitVec 14) (x : U64) (vs : List U64) (va : U64),
      s.take [(a.toNat, false), (d.toNat, row.2.2.2)] = .ok s' (x :: vs) → va = x + BitVec.ofInt 64 i.toInt →
      (va.toNat % row.2.2.1 ≠ 0 → exec (row.1 d a i) s = s.fault 0x0E va) ∧
      (∀ e, va.toNat % row.2.2.1 = 0 →
        s.translate s.cur.tile s.myTile.task.windows va.toNat (if row.2.2.2 then .read else .write) = .error e →
        exec (row.1 d a i) s = s.fault e va) ∧
      (∀ ia nc, va.toNat % row.2.2.1 = 0 →
        s.translate s.cur.tile s.myTile.task.windows va.toNat (if row.2.2.2 then .read else .write) = .ok (ia, nc) →
        (regionOf ia = 15 → row.2.2.1 = 8) → s.awaitsCredit s.cur.tile ia = false →
        ∃ t gl, exec (row.1 d a i) s = .next t ∧ t.me.run = .waiting .global ∧ t.me.glob = some gl ∧
          gl.kind = row.2.1 ∧ gl.d = d.toNat ∧ gl.va = va ∧ t.me.pc = s.me.pc ∧ t.me.regs = s.me.regs ∧
          t.me.fflags = s.me.fflags ∧ t.me.priv = s.me.priv ∧
          (s.datumTile s.cur.tile = true → regionOf ia = 0 → gl.due = s.now + (if row.2.2.2 then 640 else 480)) ∧
          (s.datumTile s.cur.tile = true → row.2.2.2 = false → regionOf ia = 0 →
            gl.write = some (ia, nc, leBytes row.2.2.1 (vs.getD 0 0).toNat) ∧ gl.reply = .done 0 ∧ SameBytes s t) ∧
          (∀ p c, s.datumTile s.cur.tile = false → row.2.2.2 = false → regionOf ia = 0 → s.ctx s.myTile.task.ctx = some c →
            c.place s.myTile.task.twins ia = .hbm p → s.twinGroup s.myTile.task.ctx ia = none →
            bitsAt (Store.get 0 c.pages (pageOf ia)).toNat 60 2 = dieOf s.cur.tile →
            Memory.bytes t.hbm p row.2.2.1 = leBytes row.2.2.1 (vs.getD 0 0).toNat ∧ gl.reply = .done 0 ∧ gl.write = none))

/-- R9, R32, R102, R103, R120, R121, R344: a global word's completion. With its data there and its clock come, a load writes its
extended value to its register, or pushes it through its out-port, and a store writes none, and the core goes on behind the
word; nothing else differs. A store of datum mode, which its word held, leaves its bytes then. A fault writes nothing: what the
word took at issue is given back, and the core traps, also where the out-port refuses the token of a load. A page that is absent
parks the task instead, in free mode at PRIV 0 with a task frame free: the core stops at its word, and STOP goes out with the
address. -/
def Obligations.GlobalCompletion : Prop :=
  (∀ (s : State) (g : Nat) (c : CoreId) (gl : Glob) (data v : U64), (s.core ⟨g, c⟩).glob = some gl → gl.due ≤ s.now →
    (s.tile g).task.ending = none → gl.reply = .done data → gl.write = none →
    ((gl.kind, v) ∈ [(0, (data.truncate 32).signExtend 64), (1, (data.truncate 32).setWidth 64), (2, data)] ∨
      (3 ≤ gl.kind ∧ v = (s.core ⟨g, c⟩).reg gl.d)) →
    (gl.d < 28 ∨ 3 ≤ gl.kind →
      ∃ t, exec (.globalAccessCompletion g c) s = .next t ∧
        (gl.kind ≤ 2 → (t.core ⟨g, c⟩).reg gl.d = (if gl.d = 0 then 0 else v)) ∧
        (∀ n, n ≠ gl.d ∨ 3 ≤ gl.kind → (t.core ⟨g, c⟩).reg n = (s.core ⟨g, c⟩).reg n) ∧
        (t.core ⟨g, c⟩).pc = (s.core ⟨g, c⟩).pc + 4 ∧ (t.core ⟨g, c⟩).run = .running ∧ (t.core ⟨g, c⟩).glob = none ∧
        t = s.setTile g ((s.tile g).setCore c (t.core ⟨g, c⟩)) ∧ SameBytes s t) ∧
    (∀ q, gl.kind ≤ 2 → 28 ≤ gl.d → outQueue c (gl.d - 28) = some q → v.toNat / 2 ^ 28 % 16 < 5 →
      ∃ t, exec (.globalAccessCompletion g c) s = .next t ∧
        ((t.tile g).queue q).toks = insertToken ⟨v.truncate 32, s.now - 1, 3, s.now⟩ ((s.tile g).queue q).toks ∧
        ((t.tile g).queue q).resv = ((s.tile g).queue q).resv - 1 ∧
        (∀ r, r ≠ q → (t.tile g).queue r = (s.tile g).queue r) ∧ (t.core ⟨g, c⟩).regs = (s.core ⟨g, c⟩).regs ∧
        (t.core ⟨g, c⟩).pc = (s.core ⟨g, c⟩).pc + 4 ∧ (t.core ⟨g, c⟩).run = .running ∧ (t.core ⟨g, c⟩).glob = none ∧
        SameBytes s t) ∧
    (gl.kind ≤ 2 → 28 ≤ gl.d → 5 ≤ v.toNat / 2 ^ 28 % 16 → exec (.globalAccessCompletion g c) s = .next
      ((s.setTile g ((s.tile g).giveBack c gl)).trap ⟨g, c⟩ 0x08 (BitVec.ofNat 64 (v.toNat % 2 ^ 32)) (s.core ⟨g, c⟩).pc
        false))) ∧
  (∀ (s : State) (g : Nat) (c : CoreId) (gl : Glob) (ia p : Nat) (nc : Bool) (bs : List Byte) (x : Ctx),
    (s.core ⟨g, c⟩).glob = some gl → gl.due ≤ s.now → (s.tile g).task.ending = none → gl.write = some (ia, nc, bs) →
    3 ≤ gl.kind → regionOf ia = 0 → s.datumTile g = true → s.ctx (s.tile g).task.ctx = some x →
    x.place (s.tile g).task.twins ia = .hbm p → s.twinGroup (s.tile g).task.ctx ia = none →
    ∃ t, exec (.globalAccessCompletion g c) s = .next t ∧ Memory.bytes t.hbm p bs.length = bs ∧
      (∀ a, (a < p ∨ p + bs.length ≤ a) → Memory.byte t.hbm a = Memory.byte s.hbm a) ∧ t.host = s.host ∧
      (t.core ⟨g, c⟩).regs = (s.core ⟨g, c⟩).regs ∧ (t.core ⟨g, c⟩).pc = (s.core ⟨g, c⟩).pc + 4 ∧
      (t.core ⟨g, c⟩).run = .running ∧ (t.core ⟨g, c⟩).glob = none) ∧
  (∀ (s u : State) (g : Nat) (c : CoreId) (gl : Glob) (code : Nat), (s.core ⟨g, c⟩).glob = some gl → gl.due ≤ s.now →
    (s.tile g).task.ending = none → gl.reply = .fault code → gl.write = none →
    u = s.setTile g ((s.tile g).giveBack c gl) →
    ((code ≠ 0x07 ∨ (s.core ⟨g, c⟩).priv ≠ 0 ∨ s.datumTile g = true ∨ u.frameToGive g = false) →
      exec (.globalAccessCompletion g c) s = .next (u.trap ⟨g, c⟩ code gl.va (s.core ⟨g, c⟩).pc false)) ∧
    (code = 0x07 → (s.core ⟨g, c⟩).priv = 0 → s.datumTile g = false → u.frameToGive g = true →
      ∃ t, exec (.globalAccessCompletion g c) s = .next t ∧ (t.core ⟨g, c⟩).run = .waiting .global ∧
        (t.core ⟨g, c⟩).glob = none ∧ (t.core ⟨g, c⟩).pc = (s.core ⟨g, c⟩).pc ∧ (t.core ⟨g, c⟩).regs = (s.core ⟨g, c⟩).regs ∧
        ((∀ va, (s.tile g).stop ≠ some (some va)) → (t.tile g).stop = some (some gl.va)) ∧
        ((s.tile g).stop = none → (t.tile g).l.stopIn = true) ∧ (t.tile g).queues = (u.tile g).queues ∧ SameBytes s t)) ∧
  (∀ (t : Tile) (c : CoreId) (gl : Glob) (q : Nat) (k : U32),
    (gl.undo = [] → (gl.kind ≤ 2 → gl.d < 28) → t.giveBack c gl = t) ∧
    (gl.undo = [(q, k)] → (gl.kind ≤ 2 → gl.d < 28) →
      ((t.giveBack c gl).queue q).toks = ⟨k, 0, 0, 0⟩ :: (t.queue q).toks)) ∧
  (∀ (s : State) (g : Nat) (c : CoreId) (gl : Glob), (s.core ⟨g, c⟩).glob = some gl →
    (s.now < gl.due ∨ (gl.reply = .pending ∧ gl.write = none ∧ s.datumTile g = false)) →
    exec (.globalAccessCompletion g c) s = .next s)

/-- R18, R39, R40, R123, R124: reading and writing control registers. A word that may access its register reads the old value,
zero-extended, into d, and leaves in the register what the register holds of the new value; every other control register is as
it was, and a register of the context stands in its record too. A word that names FFLAGS issues once no earlier word of its core
that may raise flags is left. Of CLOSURE_WINDOW a value past its 32 bits is not stated: what it leaves there is the model's
choice (notes/assumptions 13). That a write to a register of the context reaches the bytes of its record in HBM at once is
its reading of R18 (notes/assumptions 95). -/
def Obligations.CsrResults : Prop :=
  (∀ (s s' : State) (d : BitVec 5) (c : BitVec 14) (r : CsrRow), csrRow c.toNat = some r → r.readAt ≤ s.me.priv.toNat →
    (csrIsWalk c.toNat = true → s.cur.core = .X) →
    (c = 0 → s.me.pending s.now .fflags = false ∧ (s.cur.core = .X → ∀ m ∈ s.myTile.mopen, m.raises = false)) →
    s.take (uses0 d) = .ok s' [] → ¬ MayNotPush d.toNat (BitVec.ofNat 64 (s.readCsr s.cur c.toNat)) →
    Runs (.csrrd d c) s s' d.toNat (BitVec.ofNat 64 (s.readCsr s.cur c.toNat)) 1) ∧
  (∀ row ∈ ([(.csrwr, fun _ x => x), (.csrset, fun old x => old ||| x), (.csrclr, fun old x => old &&& ~~~x)] :
      List ((BitVec 5 → BitVec 5 → BitVec 14 → Instr) × (U64 → U64 → U64))),
    ∀ (s s' : State) (d a : BitVec 5) (c : BitVec 14) (r : CsrRow) (l : Nat) (x old : U64), csrRow c.toNat = some r →
      r.writeAt = some l → l ≤ s.me.priv.toNat → (d ≠ 0 → r.readAt ≤ s.me.priv.toNat) →
      (csrIsWalk c.toNat = true → s.cur.core = .X) →
      (c = 0 → s.me.pending s.now .fflags = false ∧ (s.cur.core = .X → ∀ m ∈ s.myTile.mopen, m.raises = false)) →
      (0x90 ≤ c.toNat ∧ c.toNat ≤ 0x9F → ∃ p pt, InPart s s.cur.tile p pt) →
      s.take (uses1 d a) = .ok s' [x] → old = BitVec.ofNat 64 (s.readCsr s.cur c.toNat) →
      (c = 1 → (row.2 old x).toNat % 8 < 6) → ¬ MayNotPush d.toNat old →
      ∃ t, exec (row.1 d a c) s = .next t ∧ Issued s t (s.me.pc + 4) (s.now + 1) 1 (regRes d.toNat) ∧
        Landed s s' t d.toNat old 1 ∧
        ((c = 0x31 → (row.2 old x).toNat < 2 ^ 32) →
          t.readCsr s.cur c.toNat = csrStored c.toNat (row.2 old x).toNat) ∧
        (∀ m, m ≠ c.toNat → t.readCsr s.cur m = s.readCsr s.cur m) ∧
        (∀ n, n ≠ d.toNat → t.me.reg n = s.me.reg n) ∧ RecordKept s t c.toNat) ∧
  (∀ (s : State) (i : Instr) (d a : BitVec 5), i ∈ [Instr.csrrd d 0, .csrwr d a 0, .csrset d a 0, .csrclr d a 0] →
    d.toNat < 28 → a.toNat < 28 →
    (s.me.pending s.now .fflags = true ∨ (s.cur.core = .X ∧ ∃ m ∈ s.myTile.mopen, m.raises = true)) →
    exec i s = .next (s.mapMe fun k => { k with run := .waiting .res }))

/-- R40, R123: what a CSR word may not do. An unassigned number and a write to a read-only register raise illegal
instruction, a level too low raises privilege, and WALK0 to WALK15 exist on the X-core alone; TVAL is the word's unit. A write
that would leave 6 or 7 in FRM raises illegal operand with the a field, and writes neither d nor FRM. -/
def Obligations.CsrStops : Prop :=
  (∀ (s : State) (d : BitVec 5) (c : BitVec 14), d.toNat < 28 → csrRow c.toNat = none →
    exec (.csrrd d c) s = s.fault 0x01 (headUnit (.csrrd d c))) ∧
  (∀ (s : State) (d : BitVec 5) (c : BitVec 14) (r : CsrRow), d.toNat < 28 → csrRow c.toNat = some r →
    (csrIsWalk c.toNat = true → s.cur.core = .X) → s.me.priv.toNat < r.readAt →
    exec (.csrrd d c) s = s.fault 0x11 (headUnit (.csrrd d c))) ∧
  (∀ ctor ∈ [Instr.csrwr, Instr.csrset, Instr.csrclr], ∀ (s : State) (d a : BitVec 5) (c : BitVec 14),
    d.toNat < 28 → a.toNat < 28 → (csrIsWalk c.toNat = true → s.cur.core = .X) →
    (csrRow c.toNat = none → exec (ctor d a c) s = s.fault 0x01 (headUnit (ctor d a c))) ∧
    (∀ r, csrRow c.toNat = some r → r.writeAt = none → exec (ctor d a c) s = s.fault 0x01 (headUnit (ctor d a c))) ∧
    (∀ r l, csrRow c.toNat = some r → r.writeAt = some l → s.me.priv.toNat < l →
      exec (ctor d a c) s = s.fault 0x11 (headUnit (ctor d a c)))) ∧
  (∀ (s : State) (d a : BitVec 5) (c : BitVec 14), csrIsWalk c.toNat = true → s.cur.core ≠ .X →
    ∀ i ∈ [Instr.csrrd d c, .csrwr d a c, .csrset d a c, .csrclr d a c], exec i s = s.fault 0x01 (headUnit i)) ∧
  (∀ row ∈ ([(.csrwr, fun _ x => x), (.csrset, fun old x => old ||| x), (.csrclr, fun old x => old &&& ~~~x)] :
      List ((BitVec 5 → BitVec 5 → BitVec 14 → Instr) × (U64 → U64 → U64))),
    ∀ (s s' : State) (d a : BitVec 5) (x : U64), s.take (uses1 d a) = .ok s' [x] →
      6 ≤ (row.2 (s.me.frm.setWidth 64) x).toNat % 8 → exec (row.1 d a 1) s = s.fault 0x04 (operandTval 1 a.toNat))

/-- R211 to R213, R239: the token words. A token can be popped only once the pushing core's earlier requests at the banks have
been served. -/
def Obligations.TokenResults : Prop :=
  (∀ (s s' : State) (d : BitVec 5) (y : BitVec 1) (k : BitVec 2) (ty : BitVec 4) (q : Nat) (x : U64),
    inQueue s.cur.core k.toNat = some q → 0 < s.myTile.poppable q s.now →
    s.take [(28 + k.toNat, false), (d.toNat, true)] = .ok s' [x] → ¬ MayNotPush d.toNat x →
    ((y = 1 ∧ ty = 0) ∨ (y = 0 ∧ ty.toNat < 5 ∧ (s.myTile.queue q).head.toNat / 2 ^ 28 = ty.toNat)) →
    Runs (.qpop d y k ty) s s' d.toNat x 1) ∧
  (∀ (s : State) (d : BitVec 5) (k : BitVec 2) (ty : BitVec 4) (q : Nat), d.toNat < 28 →
    inQueue s.cur.core k.toNat = some q → 0 < s.myTile.poppable q s.now → ty.toNat < 5 →
    (s.myTile.queue q).head.toNat / 2 ^ 28 ≠ ty.toNat →
    exec (.qpop d 0 k ty) s = s.fault 0x09 ((s.myTile.queue q).head.setWidth 64)) ∧
  (∀ (s s' : State) (a : BitVec 5) (k : BitVec 2) (ty : BitVec 4) (x : U64), ty.toNat < 5 →
    s.take [(a.toNat, false), (28 + k.toNat, true)] = .ok s' [x] →
    Runs (.qpush a 0 k ty) s s' (28 + k.toNat) (BitVec.ofNat 64 (ty.toNat * 2 ^ 28 + x.toNat % 2 ^ 28)) 1) ∧
  (∀ (s s' : State) (a : BitVec 5) (k : BitVec 2) (x : U64), x.toNat / 2 ^ 28 % 16 < 5 →
    s.take [(a.toNat, false), (28 + k.toNat, true)] = .ok s' [x] →
    Runs (.qpush a 1 k 0) s s' (28 + k.toNat) ((x.truncate 32).setWidth 64) 1) ∧
  (∀ (s s' : State) (d : BitVec 5) (k : BitVec 2) (q : Nat) (v : U64), inQueue s.cur.core k.toNat = some q →
    s.take (uses0 d) = .ok s' [] →
    v = (if s.myTile.poppable q s.now = 0 then BitVec.allOnes 64 else (s.myTile.queue q).head.setWidth 64) →
    ¬ MayNotPush d.toNat v → Runs (.qpeek d k) s s' d.toNat v 1) ∧
  (∀ (t : Tile) (q now : Nat) (k : Token) (ks : List Token) (x : Ask), (t.queue q).toks = k :: ks → k.rank = 3 →
    x ∈ t.asks → askCore x.rank = some (pusher q) → x.since < k.issued → t.poppable q now = 0) ∧
  (∀ (s s' : State) (d : BitVec 5) (o : BitVec 1) (k : BitVec 2) (q : Nat) (v : U64),
    ((o = 0 ∧ inQueue s.cur.core k.toNat = some q ∧ v = BitVec.ofNat 64 (s.myTile.poppable q s.now)) ∨
      (o = 1 ∧ outQueue s.cur.core k.toNat = some q ∧ v = BitVec.ofNat 64 ((s.myTile.queue q).places s.now))) →
    s.take (uses0 d) = .ok s' [] → ¬ MayNotPush d.toNat v → Runs (.qcnt d o k) s s' d.toNat v 1)

/-- R214, R275: FORK on the X-core starts idle cores at aligned entries, in PRIV 0, their registers and flags kept; their first
word issues two clocks later at the earliest. A started core and a misaligned entry fault. That FORK is a release, before whose
acquire, the first word of a started core, the X-core's earlier accesses are performed, so that the turns of a started core pass
until they are, is R275 as notes/assumptions 92 reads it. -/
def Obligations.ForkStarts : Prop :=
  (∀ (s s' : State) (d a : BitVec 5) (x y : U64), s.cur.core = .X →
    s.take [(a.toNat, false), (d.toNat, false)] = .ok s' [x, y] → s.myTile.l.run = .idle → s.myTile.s.run = .idle →
    x.toNat % 4 = 0 → y.toNat % 4 = 0 →
    ∃ t, exec (.fork d a 3) s = .next t ∧ Issued s t (s.me.pc + 4) (s.now + 1) 1 [] ∧
      t.myTile.l.run = .running ∧ t.myTile.l.pc = x ∧ t.myTile.l.priv = 0 ∧ t.myTile.l.nextAt = s.now + 2 ∧
      t.myTile.l.forked = some s.now ∧ t.myTile.s.forked = some s.now ∧
      t.myTile.l.regs = s.myTile.l.regs ∧ t.myTile.l.fflags = s.myTile.l.fflags ∧ t.myTile.l.frm = s.myTile.l.frm ∧
      t.myTile.s.run = .running ∧ t.myTile.s.pc = y ∧ t.myTile.s.priv = 0 ∧ t.myTile.s.nextAt = s.now + 2 ∧
      t.myTile.s.regs = s.myTile.s.regs ∧ t.myTile.s.fflags = s.myTile.s.fflags ∧ t.myTile.s.frm = s.myTile.s.frm ∧
      t.me.regs = s.me.regs ∧ OnlyFlow s t ∧ SameBytes s t) ∧
  (∀ (s s' : State) (a : BitVec 5) (x : U64), s.cur.core = .X → s.take [(a.toNat, false)] = .ok s' [x] →
    (s.myTile.l.run = .idle → x.toNat % 4 = 0 → ∃ t, exec (.fork 0 a 1) s = .next t ∧ t.myTile.l.run = .running ∧
      t.myTile.l.pc = x ∧ t.myTile.l.nextAt = s.now + 2 ∧ t.myTile.l.forked = some s.now ∧ t.myTile.s = s.myTile.s ∧
      t.me.regs = s.me.regs ∧ OnlyFlow s t ∧ SameBytes s t) ∧
    (s.myTile.s.run = .idle → x.toNat % 4 = 0 → ∃ t, exec (.fork a 0 2) s = .next t ∧ t.myTile.s.run = .running ∧
      t.myTile.s.pc = x ∧ t.myTile.s.nextAt = s.now + 2 ∧ t.myTile.s.forked = some s.now ∧ t.myTile.l = s.myTile.l ∧
      t.me.regs = s.me.regs ∧ OnlyFlow s t ∧ SameBytes s t) ∧
    (s.myTile.l.run ≠ .idle → exec (.fork 0 a 1) s = s.fault 0x01 (headUnit (.fork 0 a 1))) ∧
    (s.myTile.s.run ≠ .idle → exec (.fork a 0 2) s = s.fault 0x01 (headUnit (.fork a 0 2))) ∧
    (s.myTile.l.run = .idle → x.toNat % 4 ≠ 0 → exec (.fork 0 a 1) s = s.fault 0x0E x) ∧
    (s.myTile.s.run = .idle → x.toNat % 4 ≠ 0 → exec (.fork a 0 2) s = s.fault 0x0E x)) ∧
  (∀ (s : State) (w : Who) (rest : List Who) (c : Nat), s.agenda = [] → s.turn = w :: rest → s.powered = true →
    (s.core w).run = .running → (s.core w).forked = some c → (s.tile w.tile).performed .X c = false →
    step s = .next { s with turn := rest }) ∧
  (∀ (s : State) (d a : BitVec 5) (e : BitVec 2), s.cur.core ≠ .X →
    exec (.fork d a e) s = s.fault 0x01 (headUnit (.fork d a e)))

/-- R215, R221, R275, R345: RENDZ and HALT. On the X-core RENDZ goes on once the other cores are idle and the open words
complete, the next word two clocks later, and waits before; on the L-core and the S-core both end the core's program: it is idle
once its FIFO is empty and its accesses are performed, and drains until then. RENDZ samples the group-abort mark first, and is
overtaken by a fault or STOP of its tile in the same clock. That the accesses are performed before the core is idle, of which
R215 says nothing, is R275 as notes/assumptions 92 reads it; that the abort gives way within a clock is R345 as 107 reads it. -/
def Obligations.RendezvousAndHalt : Prop :=
  (∀ s : State, s.cur.core = .X → s.delivers = false → s.myTile.met = true →
    Goes .rendz s s (s.me.pc + 4) (s.now + 2)) ∧
  (∀ s : State, s.cur.core = .X → s.delivers = false → s.myTile.met = false →
    exec .rendz s = .next (s.mapMe fun k => { k with run := .waiting (.meet false) })) ∧
  (∀ i ∈ [Instr.rendz, Instr.halt], ∀ s : State, s.cur.core ≠ .X → (i = .rendz → s.delivers = false) →
    ∃ t, exec i s = .next t ∧ t.me.pc = s.me.pc + 4 ∧ t.me.regs = s.me.regs ∧ t.me.fflags = s.me.fflags ∧ SameBytes s t ∧
      t.me.run = (if (match s.cur.core with | .S => s.myTile.storeQ | _ => s.myTile.loadQ) = [] ∧
        s.myTile.accessesDone s.cur.core s.now = true then .idle else .draining)) ∧
  (∀ s : State, s.delivers = true ↔ s.myTile.task.abortMark = true ∧ s.myTile.struck ≠ some s.now ∧
    ∀ x ∈ s.myTile.asks, (s.myTile.refusal x).isSome = true →
      s.myTile.serves s.now (s.datumTile s.cur.tile) x = false) ∧
  (∀ s : State, s.delivers = true → exec .rendz s = .next (s.beginEnd s.cur.tile 3 0x13 s.now))

/-- R91, R216, R217, R277, R278: the barrier words. BARINIT and ARRIVE issue, whatever holds the barrier's line, with their
request at its bank, and no byte has changed then; when the bank serves it, which it does after the core's earlier accesses,
BARINIT has written a barrier of phase 0 with its counts, and ARRIVE has taken its count from one. WAITB goes on with the phase
once it differs from d's, four clocks later, and waits at the bank and for the phase before, which is a schedule miss in datum
mode; there, where it does not wait, it finds the barrier as the stores leave it that stand at the bank before it. Reserved
bits, a misaligned address, a decrement of 0 and a port as d of WAITB fault. -/
def Obligations.BarrierWords : Prop :=
  (∀ (s s' : State) (d a : BitVec 5) (x v : U64), s.take [(a.toNat, false), (d.toNat, false)] = .ok s' [x, v] →
    (x.toNat % 16 = 0 → v.toNat / 2 ^ 56 = 0 →
      ∃ t, exec (.barinit d a) s = .next t ∧ t.myTile.queues = s'.myTile.queues ∧ OnlyScratch s t 0 ∧
        Leaves s t x.toNat (.init x.toNat
          (v.toNat % 2 ^ 24 * (2 ^ 100 + 2 ^ 76) + v.toNat / 2 ^ 24 % 2 ^ 32 * (2 ^ 44 + 2 ^ 12))) 1 []) ∧
    (x.toNat % 16 = 0 → v.toNat / 2 ^ 56 ≠ 0 → exec (.barinit d a) s = s.fault 0x04 (operandTval 0 d.toNat)) ∧
    (x.toNat % 16 ≠ 0 → exec (.barinit d a) s = s.fault 0x0E x)) ∧
  (∀ (s s' : State) (a : BitVec 5) (n : BitVec 14) (x : U64), n ≠ 0 → s.take [(a.toNat, false)] = .ok s' [x] →
    (x.toNat % 16 = 0 → ∃ t, exec (.arrive a n) s = .next t ∧ t.myTile.queues = s'.myTile.queues ∧ OnlyScratch s t 0 ∧
      Leaves s t x.toNat (.lower x.toNat n.toNat) 1 []) ∧
    (x.toNat % 16 ≠ 0 → exec (.arrive a n) s = s.fault 0x0E x)) ∧
  (∀ (s : State) (a : BitVec 5), exec (.arrive a 0) s = s.fault 0x01 (headUnit (.arrive a 0))) ∧
  (∀ (t u : Tile) (now ba n : Nat) (datum : Bool) (x : Ask) (c : CoreId), x.rank = rankScalar c → ba % 16 = 0 →
    Reached ba → u = t.arbitrate now datum →
    (ServedAlone t now datum x → x.act = .init ba n → n < 2 ^ 128 → u.asks = [] ∧ Written t u ba (leBytes 16 n)) ∧
    (ServedAlone t now datum x → x.act = .lower ba n → (∀ b, Store.find t.barUpds ba = some b → b.clock ≠ now) →
      u.asks = [] ∧ Written t u ba (leBytes 16 (barrierUpdate (Memory.num t.scratch ba 16) n 0 0))) ∧
    (t.asks = [x] → t.performed c x.since = false → (x.act = .init ba n ∨ x.act = .lower ba n) →
      (∀ b, Store.find t.barUpds ba = some b → b.clock ≠ now) → u.asks = [x] ∧ u.scratch = t.scratch)) ∧
  (∀ (s s' : State) (d a : BitVec 5) (i : BitVec 14) (x old : U64) (ba : Int) (ph : Nat), d.toNat < 28 →
    s.take [(a.toNat, false), (d.toNat, false), (d.toNat, true)] = .ok s' [x, old] → ba = x.toNat + i.toInt →
    ((Reached ba ∧ ph = Memory.num (s.found ba).scratch ba.toNat 16 / 2 ^ 124) ∨ (¬ Reached ba ∧ ph = 0)) →
    (ba % 16 = 0 → BankServes s ba false → ph ≠ old.toNat % 16 →
      ∃ t, exec (.waitb d a i) s = .next t ∧ Landed s s' t d.toNat (BitVec.ofNat 64 ph) 4 ∧
        Issued s t (s.me.pc + 4) (s.now + 4) 4 (regRes d.toNat) ∧ Latched s t ba ∧ SameBytes s t ∧
        OnlyScratch s t d.toNat) ∧
    (ba % 16 = 0 → BankServes s ba false → ph = old.toNat % 16 → s.datumTile s.cur.tile = false →
      ∃ t, exec (.waitb d a i) s = .next t ∧ t.me = { s.me with run := .waiting (.barrier ba.toNat) } ∧ Latched s t ba ∧
        SameBytes s t ∧ OnlyScratch s t 0) ∧
    (ba % 16 = 0 → BankServes s ba false → ph = old.toNat % 16 → s.datumTile s.cur.tile = true → s.me.priv.toNat < 2 →
      ∃ t, exec (.waitb d a i) s = .next t ∧ t.me.tcause = 0x0B ∧ t.me.tpc = s.me.pc ∧ t.me.regs = s.me.regs ∧
        t.me.tval.toNat = 5 * 2 ^ 32 + ((s.now : Int) - (s.frameOrg s.cur.tile).toNat) % 2 ^ 30 ∧ SameBytes s t) ∧
    (ba % 16 = 0 → BankWaits (.waitb d a i) s ba false) ∧
    (ba % 16 ≠ 0 → exec (.waitb d a i) s = s.fault 0x0E (BitVec.ofInt 64 ba))) ∧
  (∀ (s : State) (d a : BitVec 5) (i : BitVec 14), 28 ≤ d.toNat →
    exec (.waitb d a i) s = s.fault 0x01 (headUnit (.waitb d a i)))

/-- R118, R218, R234: the future cells. PUTF fills an empty cell with d's value and sets its full bit, once its core's earlier
writes are performed; GETF takes the value of a full cell, clears the bit and goes on four clocks later; in free mode either
waits, for the bank, for those writes and for the other, and in datum mode a cell in the wrong state is a schedule miss. There,
where it does not wait, either finds the cell as the stores leave it that stand at the bank before it, and what it writes follows
them there. Out of range PUTF is dropped and GETF delivers 0; a misaligned cell faults. -/
def Obligations.FutureCells : Prop :=
  (∀ (s s' : State) (d a : BitVec 5) (i : BitVec 14) (x v : U64) (ca : Int),
    s.take [(a.toNat, false), (d.toNat, false)] = .ok s' [x, v] → ca = x.toNat + i.toInt →
    (ca % 16 = 0 → BankServes s ca true →
      (Reached ca → s.myTile.writesDone s.cur.core s.now = true ∧ s.follows ca = false) →
      (Reached ca → Memory.num (s.found ca).scratch (ca + 8).toNat 8 % 2 = 0) →
      ∃ t, exec (.putf d a i) s = .next t ∧ Issued s t (s.me.pc + 4) (s.now + 1) 1 [] ∧
        t.myTile.queues = s'.myTile.queues ∧ Stored s t ca (leBytes 16 (v.toNat + 2 ^ 64)) ∧ Latched s t ca ∧
        OnlyScratch s t 0) ∧
    (ca % 16 = 0 → BankServes s ca true → s.datumTile s.cur.tile = true → Reached ca →
      (s.myTile.writesDone s.cur.core s.now = false ∨ s.follows ca = true) →
      Memory.num (s.found ca).scratch (ca + 8).toNat 8 % 2 = 0 →
      ∃ t, exec (.putf d a i) s = .next t ∧ Leaves s t ca (.fill ca.toNat (v.toNat + 2 ^ 64)) 1 [] ∧
        t.myTile.queues = s'.myTile.queues ∧ OnlyScratch s t 0) ∧
    (ca % 16 = 0 → s.datumTile s.cur.tile = false → Reached ca → s.myTile.writesDone s.cur.core s.now = false →
      exec (.putf d a i) s = .next (s.mapMe fun k => { k with run := .waiting .fence })) ∧
    (ca % 16 = 0 → BankServes s ca true → Reached ca → Memory.num (s.found ca).scratch (ca + 8).toNat 8 % 2 = 1 →
      (s.datumTile s.cur.tile = false → s.myTile.writesDone s.cur.core s.now = true →
        ∃ t, exec (.putf d a i) s = .next t ∧ t.me = { s.me with run := .waiting (.cell ca.toNat) } ∧
          t.myTile.queues = s.myTile.queues ∧ SameBytes s t) ∧
      (s.datumTile s.cur.tile = true → s.me.priv.toNat < 2 →
        ∃ t, exec (.putf d a i) s = .next t ∧ t.me.tcause = 0x0B ∧ t.me.tval.toNat / 2 ^ 32 = 5 ∧ SameBytes s t)) ∧
    (ca % 16 = 0 → (Reached ca → s.myTile.writesDone s.cur.core s.now = true) → BankWaits (.putf d a i) s ca true) ∧
    (ca % 16 ≠ 0 → exec (.putf d a i) s = s.fault 0x0E (BitVec.ofInt 64 ca))) ∧
  (∀ (s s' : State) (d a : BitVec 5) (i : BitVec 14) (x : U64) (ca : Int), s.take (uses1 d a) = .ok s' [x] →
    ca = x.toNat + i.toInt →
    (∀ v n, ca % 16 = 0 → BankServes s ca true → Reached ca → n = Memory.num (s.found ca).scratch (ca + 8).toNat 8 →
      n % 2 = 1 → v = BitVec.ofNat 64 (Memory.num (s.found ca).scratch ca.toNat 8) → ¬ MayNotPush d.toNat v →
      ∃ t, exec (.getf d a i) s = .next t ∧ Landed s s' t d.toNat v 4 ∧
        Issued s t (s.me.pc + 4) (s.now + 4) 4 (regRes d.toNat) ∧ OnlyScratch s t d.toNat ∧
        (s.follows ca = false → Memory.num t.myTile.scratch (ca + 8).toNat 8 = n - 1 ∧
          SameBytesBut s t s.cur.tile (ca + 8).toNat 8) ∧
        (s.follows ca = true → Asked s t ca (.put [((ca + 8).toNat, leBytes 8 (n - 1))]) ∧ SameBytes s t)) ∧
    (ca % 16 = 0 → ¬ Reached ca →
      ∃ t, exec (.getf d a i) s = .next t ∧ Landed s s' t d.toNat 0 4 ∧ Latched s t ca ∧
        Issued s t (s.me.pc + 4) (s.now + 4) 4 (regRes d.toNat) ∧ OnlyScratch s t d.toNat ∧ SameBytes s t) ∧
    (ca % 16 = 0 → BankServes s ca true → Reached ca → Memory.num (s.found ca).scratch (ca + 8).toNat 8 % 2 = 0 →
      (s.datumTile s.cur.tile = false →
        ∃ t, exec (.getf d a i) s = .next t ∧ t.me = { s.me with run := .waiting (.cell ca.toNat) } ∧
          t.myTile.queues = s.myTile.queues ∧ SameBytes s t) ∧
      (s.datumTile s.cur.tile = true → s.me.priv.toNat < 2 →
        ∃ t, exec (.getf d a i) s = .next t ∧ t.me.tcause = 0x0B ∧ t.me.tval.toNat / 2 ^ 32 = 5 ∧ SameBytes s t)) ∧
    (ca % 16 = 0 → BankWaits (.getf d a i) s ca true) ∧
    (ca % 16 ≠ 0 → exec (.getf d a i) s = s.fault 0x0E (BitVec.ofInt 64 ca)))

/-- R208, R219: JOIN and LEAVE ask the hub, and their core waits 96 clocks for the answer. With the answer JOIN makes the task a
member, sets its bit of GROUP_MASK and delivers the number of members; LEAVE takes the task from its group, clears the bit and
delivers the number that is left. -/
def Obligations.GroupMembership : Prop :=
  (∀ (s s' : State) (d : BitVec 5) (k : BitVec 4), s.take (uses0 d) = .ok s' [] →
    ∀ i ∈ [Instr.join d k, .leave d k],
      ((∀ c, s.me.run ≠ .waiting (.hub c)) →
        exec i s = .next (s.mapMe fun m => { m with run := .waiting (.hub (s.now + 96)) })) ∧
      (∀ c, s.me.run = .waiting (.hub c) → s.now < c →
        exec i s = .next (s.mapMe fun m => { m with run := .waiting (.hub c) }))) ∧
  (∀ (s s' : State) (d : BitVec 5) (k : BitVec 4) (p c n : Nat) (pt : Part), InPart s s.cur.tile p pt →
    s.take (uses0 d) = .ok s' [] → s.me.run = .waiting (.hub c) → c ≤ s.now →
    n = (match Store.find pt.groups k.toNat with
      | none => 1
      | some gr => if s.myTile.task.uid ∈ gr.members then gr.members.length else gr.members.length + 1) →
    ¬ MayNotPush d.toNat (BitVec.ofNat 64 n) →
    ∃ t, exec (.join d k) s = .next t ∧ t.isMember s.cur.tile k.toNat = true ∧ t.memberCount s.cur.tile k.toNat = n ∧
      t.myTile.task.groupMask = s.myTile.task.groupMask ||| (1#16 <<< k.toNat) ∧
      Issued s t (s.me.pc + 4) s.now 0 (regRes d.toNat) ∧ Landed s s' t d.toNat (BitVec.ofNat 64 n) 0 ∧
      (∀ m, m ≠ d.toNat → t.me.reg m = s.me.reg m) ∧ SameBytes s t) ∧
  (∀ (s s' : State) (d : BitVec 5) (k : BitVec 4) (p c n : Nat) (pt : Part), InPart s s.cur.tile p pt →
    s.take (uses0 d) = .ok s' [] → s.me.run = .waiting (.hub c) → c ≤ s.now →
    n = (match Store.find pt.groups k.toNat with
      | none => 0
      | some gr => if s.myTile.task.uid ∈ gr.members then gr.members.length - 1 else gr.members.length) →
    ¬ MayNotPush d.toNat (BitVec.ofNat 64 n) →
    ∃ t, exec (.leave d k) s = .next t ∧ t.memberCount s.cur.tile k.toNat = n ∧
      ((∀ gr, Store.find pt.groups k.toNat = some gr → gr.members.Nodup) → t.isMember s.cur.tile k.toNat = false) ∧
      t.myTile.task.groupMask = s.myTile.task.groupMask &&& ~~~(1#16 <<< k.toNat) ∧
      Issued s t (s.me.pc + 4) s.now 0 (regRes d.toNat) ∧ Landed s s' t d.toNat (BitVec.ofNat 64 n) 0 ∧
      (∀ m, m ≠ d.toNat → t.me.reg m = s.me.reg m) ∧ SameBytes s t)

/-- R220: a member's GBAR of a generation already completed goes on at once. Otherwise, once the core's accesses are performed,
the task's arrival stands in the group and the core waits for the release, which is set 96 clocks on where every other member
that the generation counts has arrived, and is not set where one has not. A release whose clock has come completes its generation
and lets every member core go on that waits for it. A task that is no member may not. -/
def Obligations.GroupBarrier : Prop :=
  (∀ (s : State) (k : BitVec 4) (p : Nat) (pt : Part) (gr : Group), InPart s s.cur.tile p pt →
    Store.find pt.groups k.toNat = some gr → s.myTile.task.uid ∈ gr.members → s.delivers = false →
    (s.nextGeneration s.cur k.toNat gr ≤ gr.done →
      ∃ t, exec (.gbar k) s = .next t ∧ Issued s t (s.me.pc + 4) (s.now + 1) 1 [] ∧
        Store.get 0 t.me.gbars k.toNat = Store.get 0 s.me.gbars k.toNat + 1 ∧ t.me.regs = s.me.regs ∧ SameBytes s t) ∧
    (gr.done < s.nextGeneration s.cur k.toNat gr → s.myTile.accessesDone s.cur.core s.now = false →
      exec (.gbar k) s = .next (s.mapMe fun m => { m with run := .waiting .fence })) ∧
    (∀ gen, gen = s.nextGeneration s.cur k.toNat gr → gr.done < gen → s.myTile.accessesDone s.cur.core s.now = true →
      ∃ t gr', exec (.gbar k) s = .next t ∧ t.me = { s.me with run := .waiting (.gbar k.toNat gen) } ∧ SameBytes s t ∧
        t.group s.cur.tile k.toNat = some gr' ∧ gr'.members = gr.members ∧ gr'.done = gr.done ∧
        (s.myTile.task.uid, gen) ∈ gr'.arrived ∧
        (gen = gr.done + 1 → gr.release = [] →
          (∀ u ∈ gr.members, u ≠ s.myTile.task.uid → Store.get 0 gr.base u < gen → (u, gen) ∈ gr.arrived) →
          gr'.release.head? = some (s.now + 96)) ∧
        (∀ u ∈ gr.members, u ≠ s.myTile.task.uid → Store.get 0 gr.base u < gr.done + 1 → (u, gr.done + 1) ∉ gr.arrived →
          gr.release = [] → gr'.release = []))) ∧
  (∀ (s : State) (k : BitVec 4), s.isMember s.cur.tile k.toNat = false →
    exec (.gbar k) s = s.fault 0x04 (operandTval 3 k.toNat)) ∧
  (∀ (s : State) (p k : Nat) (pt : Part) (gr : Group), Store.find s.parts p = some pt →
    Store.find pt.groups k = some gr → pt.tiles.Nodup →
    ∃ t pt' gr', exec (.groupBarrierRelease p k) s = .next t ∧ Store.find t.parts p = some pt' ∧
      Store.find pt'.groups k = some gr' ∧ gr'.members = gr.members ∧ SameBytes s t ∧
      gr'.done = gr.done + (gr.release.filter fun r => decide (r ≤ s.now)).length ∧
      ∀ g c gen, g ∈ pt.tiles → (s.tile g).task.uid ∈ gr.members → (s.tile g).task.abortMark = false →
        (s.core ⟨g, c⟩).run = .waiting (.gbar k gen) →
        (gen ≤ gr'.done → (t.core ⟨g, c⟩).run = .running ∧ (t.core ⟨g, c⟩).pc = (s.core ⟨g, c⟩).pc + 4) ∧
        (gr'.done < gen → t.core ⟨g, c⟩ = s.core ⟨g, c⟩))

/-- R221: a member's ABORTG reaches the hub 48 clocks on; the hub then marks the task of every member, on a tile or saved. ABCHK
discards a marked task and does nothing to another; a core of a marked task that waits in GBAR has its task discarded, unless
the tile has taken a fault or STOP in the clock (R345). -/
def Obligations.GroupAbort : Prop :=
  (∀ (s s' : State) (a : BitVec 5) (x : U64) (p : Nat) (pt : Part), s.take [(a.toNat, false)] = .ok s' [x] →
    s.partOf s.cur.tile = some (p, pt) → x.toNat < 16 → s.isMember s.cur.tile x.toNat = true →
    ∃ t, exec (.abortg a) s = .next t ∧ t.aborts = s.aborts ++ [(s.now + 48, p, x.toNat)] ∧
      Issued s t (s.me.pc + 4) (s.now + 1) 1 [] ∧ t.myTile.queues = s'.myTile.queues ∧ t.me.regs = s.me.regs ∧
      SameBytes s t) ∧
  (∀ (s s' : State) (a : BitVec 5) (x : U64) (p : Nat) (pt : Part), s.take [(a.toNat, false)] = .ok s' [x] →
    s.partOf s.cur.tile = some (p, pt) → (16 ≤ x.toNat ∨ s.isMember s.cur.tile x.toNat = false) →
    exec (.abortg a) s = s.fault 0x04 (operandTval 1 a.toNat)) ∧
  (∀ (s : State) (c p k : Nat) (pt : Part) (gr : Group), s.aborts = [(c, p, k)] → c ≤ s.now →
    Store.find s.parts p = some pt → Store.find pt.groups k = some gr →
    ∃ t, exec (.groupAbortMarking p k) s = .next t ∧ t.aborts = [] ∧ SameBytes s t ∧
      (∀ g ∈ pt.tiles, (s.tile g).task.live = true → (s.tile g).task.uid ∈ gr.members →
        (t.tile g).task = { (s.tile g).task with abortMark := true }) ∧
      (∀ g, g ∉ pt.tiles → t.tile g = s.tile g) ∧ (∀ g c', t.core ⟨g, c'⟩ = s.core ⟨g, c'⟩) ∧
      (∀ u v, Store.find s.saved u = some v → v.tile.task.live = true → v.tile.task.uid ∈ gr.members →
        ∃ v', Store.find t.saved u = some v' ∧ v'.tile.task.abortMark = true)) ∧
  (∀ s : State, s.myTile.task.abortMark = false → Goes .abchk s s (s.me.pc + 4) (s.now + 1)) ∧
  (∀ s : State, s.myTile.task.abortMark = true → s.strikes s.cur.tile = false →
    exec .abchk s = .next (s.beginEnd s.cur.tile 3 0x13 s.now)) ∧
  (∀ (s : State) (w : Who) (k gen : Nat), (s.tile w.tile).task.abortMark = true → s.strikes w.tile = false →
    s.wake w (.gbar k gen) = .next (s.beginEnd w.tile 3 0x13 s.now))

/-- R222, R223, R241, R244: the ring words. RINGSET of a valid image sets the ring with empty slots at position 0; an image that
is none is an illegal operand, and a misaligned one faults. Where a command or an earlier write of the core holds the image's
line, RINGSET goes on with its request at the bank (R91), and the ring is set, or the fault taken, when the bank serves it; that
this comes so late is the model's reading (notes/assumptions 111). FILL and
FREE move the tail and the head and change their slot's state, or overrun; TAIL and HEAD give a slot's address and COUNT
the full slots; RESET empties a set ring; a ring not set is an illegal operand. -/
def Obligations.RingWords : Prop :=
  (∀ (s s' : State) (a : BitVec 5) (n : BitVec 3) (x : U64) (r : Ring), s.take [(a.toNat, false)] = .ok s' [x] →
    x.toNat % 64 = 0 →
    (Reached x.toNat → s.myTile.readLocked (x.toNat / 64 : Nat) = false) →
    s.myTile.writeLeft s.cur.core s.now (x.toNat / 64 : Nat) = false → s.myTile.ringBusy s.now n.toNat = false →
    ringOfImage (leNat (s.myTile.line (x.toNat / 64 : Nat))) = some r →
    ∃ t, exec (.ringset a n) s = .next t ∧ t.myTile.ring n.toNat = r ∧ r.h = 0 ∧ r.t = 0 ∧ r.slots = [] ∧
      (∀ m, m ≠ n.toNat → t.myTile.ring m = s.myTile.ring m) ∧ t.me.regs = s.me.regs ∧ SameBytes s t ∧
      Issued s t (s.me.pc + 4) (s.now + 1) 4 [.ring n.toNat] ∧ Asked s t x.toNat .look ∧ Latched s t x.toNat) ∧
  (∀ (s s' : State) (a : BitVec 5) (n : BitVec 3) (x : U64), s.take [(a.toNat, false)] = .ok s' [x] →
    (x.toNat % 64 ≠ 0 → exec (.ringset a n) s = s.fault 0x0E x) ∧
    (x.toNat % 64 = 0 → s.myTile.ringBusy s.now n.toNat = false →
      s.myTile.imageHeld s.cur.core s.now (x.toNat / 64 : Nat) = false →
      ringOfImage (leNat (s.myTile.line (x.toNat / 64 : Nat))) = none →
      exec (.ringset a n) s = s.fault 0x04 (operandTval 1 a.toNat)) ∧
    (x.toNat % 64 = 0 → s.myTile.ringBusy s.now n.toNat = false → Reached x.toNat →
      (s.myTile.readLocked (x.toNat / 64 : Nat) = true ∨
        s.myTile.writeLeft s.cur.core s.now (x.toNat / 64 : Nat) = true) →
      ∃ t, exec (.ringset a n) s = .next t ∧ Leaves s t x.toNat (.ring n.toNat a.toNat) 4 [.ring n.toNat] ∧
        (∀ m, t.myTile.ring m = s.myTile.ring m) ∧ t.me.regs = s.me.regs)) ∧
  (∀ (s : State) (g n a : Nat) (c : CoreId) (x : Ask), ServedAlone (s.tile g) s.now (s.datumTile g) x →
    (s.tile g).mopen = [] → x.act = .ring n a → x.rank = rankScalar c →
    (∀ r, ringOfImage (leNat ((s.tile g).line x.line)) = some r → ((s.grantTile g).tile g).ring n = r) ∧
    (ringOfImage (leNat ((s.tile g).line x.line)) = none → (s.tile g).task.ending = none →
      (s.core ⟨g, c⟩).priv.toNat < 2 → a < 32 → ((s.grantTile g).tile g).ring n = (s.tile g).ring n ∧
        ((s.grantTile g).core ⟨g, c⟩).tcause.toNat = 0x04 ∧ ((s.grantTile g).core ⟨g, c⟩).tval = operandTval 1 a ∧
        ((s.grantTile g).core ⟨g, c⟩).tpc = x.pc)) ∧
  (∀ (s : State) (n : BitVec 3) (r : Ring), s.myTile.ring n.toNat = r → r.isSet = true →
    (∀ c, (s.myTile.core c).pending s.now (.ring n.toNat) = false) →
    (s.myTile.slotNow n.toNat r.t = .empty → ∃ t, exec (.ringopFill n) s = .next t ∧ t.myTile.ring n.toNat =
      { r.setSlot r.t .full with t := (r.t + 1) % r.nslots, held := Store.put r.held r.t (s.cur.core, s.now) } ∧
      t.me.regs = s.me.regs ∧ SameBytes s t ∧
      Issued s t (s.me.pc + 4) (s.now + 1) 1 []) ∧
    (s.myTile.slotNow n.toNat r.t ≠ .empty → exec (.ringopFill n) s = s.fault 0x12 (BitVec.ofNat 64 (n.toNat * 2 ^ 16))) ∧
    (s.myTile.slotNow n.toNat r.h = .full → ∃ t, exec (.ringopFree n) s = .next t ∧ t.myTile.ring n.toNat =
      { r.setSlot r.h .empty with h := (r.h + 1) % r.nslots, held := Store.put r.held r.h (s.cur.core, s.now) } ∧
      t.me.regs = s.me.regs ∧ SameBytes s t ∧
      Issued s t (s.me.pc + 4) (s.now + 1) 1 []) ∧
    (s.myTile.slotNow n.toNat r.h ≠ .full → exec (.ringopFree n) s = s.fault 0x12 (BitVec.ofNat 64 (n.toNat * 2 ^ 16))) ∧
    (s.myTile.ringBusy s.now n.toNat = false → ∃ t, exec (.ringopReset n) s = .next t ∧ t.myTile.ring n.toNat =
      { r with h := 0, t := 0, slots := [], held := [] } ∧ t.me.regs = s.me.regs ∧ SameBytes s t ∧
      Issued s t (s.me.pc + 4) (s.now + 1) 1 []) ∧
    (∀ (s' : State) (d : BitVec 5), s.take (uses0 d) = .ok s' [] →
      (s.myTile.slotNow n.toNat r.t = .empty → ¬ MayNotPush d.toNat (BitVec.ofNat 64 ((r.base + r.t * r.lps) * 64)) →
        Runs (.ringopTail d n) s s' d.toNat (BitVec.ofNat 64 ((r.base + r.t * r.lps) * 64)) 1) ∧
      (s.myTile.slotNow n.toNat r.h = .full → ¬ MayNotPush d.toNat (BitVec.ofNat 64 ((r.base + r.h * r.lps) * 64)) →
        Runs (.ringopHead d n) s s' d.toNat (BitVec.ofNat 64 ((r.base + r.h * r.lps) * 64)) 1) ∧
      (¬ MayNotPush d.toNat (BitVec.ofNat 64 (s.myTile.fullSlots n.toNat)) →
        Runs (.ringopCount d n) s s' d.toNat (BitVec.ofNat 64 (s.myTile.fullSlots n.toNat)) 1))) ∧
  (∀ (s : State) (d : BitVec 5) (n : BitVec 3), (s.myTile.ring n.toNat).isSet = false →
    ∀ i ∈ [Instr.ringopTail d n, .ringopFill n, .ringopHead d n, .ringopFree n, .ringopCount d n, .ringopReset n],
      exec i s = s.fault 0x04 (operandTval 3 n.toNat))

/-- R334, R335: taking an exception. At PRIV 0 or 1 TPC, TCAUSE and TVAL hold what the fault gives, TSTATUS the level and its
bits, PRIV is one higher, the core runs at TVEC, the X-core once its open matrix words have completed, and the closure count
restarts; on the X-core the latches are lost. Registers, flags and rounding mode, the other tiles and every byte of memory are
as they were. At PRIV 2 the task ends as an EXIT with code 0xDF00 plus the fault code. -/
def Obligations.ExceptionEntry : Prop :=
  (∀ (s t : State) (w : Who) (code : Nat) (tval tpc : U64) (eng : Bool), (s.core w).priv.toNat < 2 → code < 256 →
    t = s.trap w code tval tpc eng →
    (t.core w).tpc = tpc ∧ (t.core w).tcause.toNat = code ∧ (t.core w).tval = tval ∧
      (t.core w).tstatus.toNat = (s.core w).priv.toNat + (if eng then 4 else 0) + (if (s.core w).stopIn then 8 else 0) +
        (if (s.tile w.tile).task.abortMark then 16 else 0) ∧
      (t.core w).priv.toNat = (s.core w).priv.toNat + 1 ∧ (t.core w).pc = (s.core w).tvec ∧
      (t.core w).run = (if w.core = .X ∧ (s.tile w.tile).mopen ≠ [] then .waiting .opened else .running) ∧
      (t.core w).regs = (s.core w).regs ∧ (t.core w).fflags = (s.core w).fflags ∧ (t.core w).frm = (s.core w).frm ∧
      (t.core w).tvec = (s.core w).tvec ∧ (t.core w).codeLo = (s.core w).codeLo ∧ (t.core w).codeHi = (s.core w).codeHi ∧
      (t.tile w.tile).closureCount = 0 ∧ (w.core = .X → (t.tile w.tile).xr.bypValid = []) ∧
      (w.core ≠ .X → (t.tile w.tile).xr = (s.tile w.tile).xr) ∧
      (∀ c, c ≠ w.core → (t.core ⟨w.tile, c⟩).regs = (s.core ⟨w.tile, c⟩).regs ∧
        (t.core ⟨w.tile, c⟩).priv = (s.core ⟨w.tile, c⟩).priv ∧ (t.core ⟨w.tile, c⟩).pc = (s.core ⟨w.tile, c⟩).pc) ∧
      t = s.setTile w.tile (t.tile w.tile) ∧ SameBytes s t) ∧
  (∀ (s : State) (w : Who) (code : Nat) (tval tpc : U64) (eng : Bool), (s.core w).priv.toNat = 2 →
    s.trap w code tval tpc eng = s.beginEnd w.tile 1 (0xDF00 + code) s.now ∧
      ((s.trap w code tval tpc eng).tile w.tile).task.ending = some (1, 0xDF00 + code, s.now) ∧
      (∀ c, ((s.trap w code tval tpc eng).core ⟨w.tile, c⟩).run = .idle) ∧ SameBytes s (s.trap w code tval tpc eng))

/-- R93, R225, R226, R334, R335: NOP does nothing; ILLEGAL, TRAP and BRK raise their exceptions, at PRIV 2 too, where the task
ends (notes/assumptions 37); ERET above PRIV 0 restores the level from TSTATUS and resumes at TPC, or after an engine fault at
the held resume point, with the latches lost, whichever core executes it (notes/assumptions 36), and at PRIV 0 raises privilege.
-/
def Obligations.TrapsAndReturns : Prop :=
  (∀ s : State, Goes .nop s s (s.me.pc + 4) (s.now + 1)) ∧
  (∀ (s : State) (d a b : BitVec 5), exec (.illegal d a b) s =
    .next (s.trap s.cur 0x01 (headUnit (.illegal d a b)) s.me.pc false)) ∧
  (∀ (s s' : State) (a : BitVec 5) (x : U64), s.take [(a.toNat, false)] = .ok s' [x] →
    exec (.trap a) s = .next (s'.trap s.cur 0x17 x (s.me.pc + 4) false)) ∧
  (∀ s : State, exec .brk s = .next (s.trap s.cur 0x16 8 s.me.pc false)) ∧
  (∀ s : State, s.me.priv = 0 → exec .eret s = .next (s.trap s.cur 0x11 (headUnit .eret) s.me.pc false)) ∧
  (∀ s : State, s.me.priv ≠ 0 → s.me.tstatus.toNat % 4 < 3 →
    ∃ t, exec .eret s = .next t ∧ t.me.priv.toNat = s.me.tstatus.toNat % 4 ∧
      t.me.pc = (if s.me.tstatus.toNat / 4 % 2 = 1 then s.me.resume.getD s.me.tpc else s.me.tpc) ∧
      t.me.regs = s.me.regs ∧ t.me.fflags = s.me.fflags ∧ t.me.frm = s.me.frm ∧ t.me.tpc = s.me.tpc ∧
      t.me.tstatus = s.me.tstatus ∧
      (t.me.run = .running ∨ (s.me.drain = true ∧ s.me.tstatus.toNat / 4 % 2 = 1 ∧ t.me.run = .draining)) ∧
      t.myTile.xr.bypValid = [] ∧ SameBytes s t)

/-- R227, R215: EXIT, HALT on the X-core and RETIRE end the task: every core stops issuing, and the task's end stands with
its kind, its code and its clock, in datum mode 652 clocks on for RETIRE, one that publishes nothing too (notes/assumptions 89).
RETIRE waits until the other cores are idle and the open words complete, and is illegal off the X-core. A STOP in progress, or a
fault or STOP of the tile in the clock, comes before the end of the task: the word then has no effect (R19, R345 as
notes/assumptions 48 and 107 read them). -/
def Obligations.TaskEnds : Prop :=
  (∀ (s s' : State) (a : BitVec 5) (x : U64), s.take [(a.toNat, false)] = .ok s' [x] → s.endsNothing s.cur.tile = false →
    ∃ t, exec (.exit a) s = .next t ∧ t.myTile.task.ending = some (1, x.toNat % 2 ^ 16, s.now) ∧
      (∀ c, (t.myTile.core c).run = .idle) ∧ SameBytes s t) ∧
  (∀ s : State, s.cur.core = .X → s.endsNothing s.cur.tile = false →
    ∃ t, exec .halt s = .next t ∧ t.myTile.task.ending = some (1, 0, s.now) ∧
      (∀ c, (t.myTile.core c).run = .idle) ∧ SameBytes s t) ∧
  (∀ s : State, s.cur.core = .X → s.myTile.met = true → s.endsNothing s.cur.tile = false →
    ∃ t, exec .retire s = .next t ∧ (∀ c, (t.myTile.core c).run = .idle) ∧ SameBytes s t ∧
      t.myTile.task.ending = some (0, 0, if s.datumTile s.cur.tile then s.now + 652 else s.now)) ∧
  (∀ s : State, s.cur.core = .X → s.myTile.met = false →
    exec .retire s = .next (s.mapMe fun k => { k with run := .waiting (.meet true) })) ∧
  (∀ (s s' : State) (a : BitVec 5) (x : U64), (s.myTile.stop.isSome = true ∨ s.strikes s.cur.tile = true) →
    s.take [(a.toNat, false)] = .ok s' [x] → exec (.exit a) s = .next s ∧
      (s.cur.core = .X → exec .halt s = .next s ∧ (s.myTile.met = true → exec .retire s = .next s))) ∧
  (∀ s : State, s.cur.core ≠ .X → exec .retire s = s.fault 0x01 (headUnit .retire))

/-- R228, R229: FENCE and MARK. A FENCE goes on once what its kind names is performed, the core's accesses or its commands, at
.sys with their writes to host memory acknowledged, and waits before; kind 3 is illegal. MARK on the X-core does nothing; on the
L-core or the S-core it stands at the end of its FIFO with its number, as one more of its core's marks, or waits where the FIFO
is full. -/
def Obligations.FencesAndMarks : Prop :=
  (∀ (s : State) (k sc : BitVec 2) (ready : Prop), k ≠ 3 →
    ready = ((k ≠ 2 → s.myTile.accessesDone s.cur.core s.now = true ∧
        (sc = 3 → HostWriter.task s.myTile.task.uid s.cur.core false ∉ s.hostAcks)) ∧
      (k ≠ 1 → s.myTile.commandsDone s.cur.core = true ∧
        (sc = 3 → HostWriter.task s.myTile.task.uid s.cur.core true ∉ s.hostAcks))) →
    (ready → Goes (.fence k sc) s s (s.me.pc + 4) (s.now + 1)) ∧
    (¬ ready → exec (.fence k sc) s = .next (s.mapMe fun c => { c with run := .waiting .fence }))) ∧
  (∀ (s : State) (sc : BitVec 2), exec (.fence 3 sc) s = s.fault 0x01 (headUnit (.fence 3 sc))) ∧
  (∀ (s : State) (n : BitVec 5), s.cur.core = .X → Goes (.mark n) s s (s.me.pc + 4) (s.now + 1)) ∧
  (∀ (s : State) (n : BitVec 5) (f : Fifo), s.cur.core = fifoCore f → (s.myTile.fifo f).length < 32 →
    (∀ m ∈ s.myTile.cmds, m.op = 256 → m.next = s.me.marks + 1 → m.mark = n.toNat) →
    ∃ t c, exec (.mark n) s = .next t ∧ t.myTile.fifo f = s.myTile.fifo f ++ [c] ∧ c.op = 256 ∧ c.mark = n.toNat ∧
      c.next = s.me.marks + 1 ∧ t.me.marks = s.me.marks + 1 ∧ Issued s t (s.me.pc + 4) (s.now + 1) 1 [] ∧
      t.me.regs = s.me.regs ∧ SameBytes s t) ∧
  (∀ (s : State) (n : BitVec 5) (f : Fifo), s.cur.core = fifoCore f → 32 ≤ (s.myTile.fifo f).length →
    exec (.mark n) s = .next (s.mapMe fun c => { c with run := .waiting .fifo }))

/-- R230 to R232: SSTEP, FRAME, WAITD and WAITT. SSTEP exists in datum mode alone: it arrives once its core's accesses are
performed and waits for the release, or misses at its deadline. FRAME asks for
an origin at least 64 clocks ahead and waits for it, and the timed waits end at their time. -/
def Obligations.TimedWords : Prop :=
  (∀ (s s' s1 : State) (a : BitVec 5) (x : U64), s.datumTile s.cur.tile = true → s.take [(a.toNat, false)] = .ok s' [x] →
    s1 = s.mapMe (fun k => { k with arrived := k.arrived || s.myTile.accessesDone s.cur.core s.now }) →
    ((x = 0 ∨ s.now < (s.frameOrg s.cur.tile).toNat + x.toNat) →
      exec (.sstep a) s = .next (s1.mapMe fun k => { k with run := .waiting (.sstep x.toNat a.toNat) })) ∧
    (x ≠ 0 → (s.frameOrg s.cur.tile).toNat + x.toNat ≤ s.now →
      exec (.sstep a) s = s1.fault 0x0B (BitVec.ofNat 64 (5 * 2 ^ 32 + x.toNat % 2 ^ 30)))) ∧
  (∀ (s : State) (a : BitVec 5), s.datumTile s.cur.tile = false →
    exec (.sstep a) s = s.fault 0x01 (headUnit (.sstep a))) ∧
  (∀ (s s' : State) (a : BitVec 5) (x : U64) (o p : Nat) (pt : Part), s.cur.core = .X →
    s.take [(a.toNat, false)] = .ok s' [x] →
    o = (if a = 0 then (s.frameOrg s.cur.tile).toNat + s.myTile.task.frameLen.toNat else x.toNat) →
    (o < s.now + 64 → exec (.frame a) s = s.fault 0x0B 0) ∧
    (s.now + 64 ≤ o → s.partOf s.cur.tile = some (p, pt) → (pt.pendOrg = none ∨ pt.pendOrg = some o) →
      ∃ t, exec (.frame a) s = .next t ∧ Store.find t.parts p = some { pt with pendOrg := some o } ∧
        t.me.run = .waiting (.origin o a.toNat) ∧ t.me.pc = s.me.pc ∧ t.me.regs = s.me.regs ∧ SameBytes s t) ∧
    (∀ q, s.now + 64 ≤ o → s.partOf s.cur.tile = some (p, pt) → pt.pendOrg = some q → q ≠ o →
      exec (.frame a) s = s.fault 0x04 (operandTval 1 a.toNat))) ∧
  (∀ (s s' : State) (a : BitVec 5) (x : U64), s.take [(a.toNat, false)] = .ok s' [x] →
    (x.toNat ≤ s.now → Goes (.waitd a) s s' (s.me.pc + 4) (s.now + 1)) ∧
    (s.now < x.toNat → exec (.waitd a) s = .next (s.mapMe fun k => { k with run := .waiting (.datum x.toNat a.toNat) })) ∧
    (x.toNat ≤ s.tai → Goes (.waitt a) s s' (s.me.pc + 4) (s.now + 1)) ∧
    (s.tai < x.toNat → exec (.waitt a) s = .next (s.mapMe fun k => { k with run := .waiting (.tai x.toNat a.toNat) })))

/-- R208, R233, R301, R304: LAUNCH of an aligned card that a free-mode task can read asks the hub and waits for its answer. With
the answer the 128 bytes stand in the slot at the tail of the context's queue, the tail has moved, and the word delivers 0; a
full queue delivers 1 and takes nothing. A card whose page is absent, or that cannot be read, faults: the first as a fault that
does not park (notes/assumptions 51). What a card at a peer holds is free (notes/assumptions 14). -/
def Obligations.Launches : Prop :=
  (∀ (s s' : State) (d a : BitVec 5) (va : U64) (ia x : Nat) (nc : Bool) (c : Ctx) (bs : List Byte), s.cur.core = .X →
    s.datumTile s.cur.tile = false → s.take (uses1 d a) = .ok s' [va] → va.toNat % 128 = 0 → x = s.myTile.task.ctx →
    s.translate s.cur.tile s.myTile.task.windows va.toNat .read = .ok (ia, nc) → (regionOf ia = 0 ∨ regionOf ia = 2) →
    s.ctx x = some c → s.myTile.accessesDone s.cur.core s.now = true →
    (s.reach x s.myTile.task.twins ia = .absent → exec (.launch d a) s = s.fault 0x07 va) ∧
    (s.reach x s.myTile.task.twins ia ≠ .absent → (∀ b, s.reach x s.myTile.task.twins ia ≠ .peer b) →
      s.readReach (s.reach x s.myTile.task.twins ia) 128 = none → exec (.launch d a) s = s.fault 0x14 va) ∧
    (s.reach x s.myTile.task.twins ia ≠ .absent →
      ((∃ b, s.reach x s.myTile.task.twins ia = .peer b ∧ bs = s.peerBytes va.toNat 128) ∨
        ((∀ b, s.reach x s.myTile.task.twins ia ≠ .peer b) ∧
          s.readReach (s.reach x s.myTile.task.twins ia) 128 = some bs)) →
      ((∀ k, s.me.run ≠ .waiting (.hub k)) →
        ∃ k, s.now < k ∧ exec (.launch d a) s = .next (s.tick.mapMe fun m => { m with run := .waiting (.hub k) })) ∧
      (∀ k, s.me.run = .waiting (.hub k) → k ≤ s.now →
        ((c.qTail - c.qHead).toNat < 2 ^ c.cfg.qlog →
          ∃ t c', exec (.launch d a) s = .next t ∧ Issued s t (s.me.pc + 4) s.now 0 (regRes d.toNat) ∧
            Landed s s' t d.toNat 0 0 ∧ (∀ n, n ≠ d.toNat → t.me.reg n = s.me.reg n) ∧ t.ctx x = some c' ∧
            c'.qTail = c.qTail + 1 ∧ c'.qHead = c.qHead ∧
            Memory.bytes t.hbm (c.cfg.qbase + 128 * (c.qTail.toNat % 2 ^ c.cfg.qlog)) 128 = bs ∧
            ∀ b, (b < c.cfg.qbase + 128 * (c.qTail.toNat % 2 ^ c.cfg.qlog) ∨
              c.cfg.qbase + 128 * (c.qTail.toNat % 2 ^ c.cfg.qlog) + 128 ≤ b) → Memory.byte t.hbm b = Memory.byte s.hbm b) ∧
        (2 ^ c.cfg.qlog ≤ (c.qTail - c.qHead).toNat →
          ∃ t, exec (.launch d a) s = .next t ∧ Issued s t (s.me.pc + 4) s.now 0 (regRes d.toNat) ∧
            Landed s s' t d.toNat 1 0 ∧ OnlyRegister s t d.toNat ∧ t.ctx x = some c)))) ∧
  (∀ (s : State) (d a : BitVec 5), s.cur.core ≠ .X → exec (.launch d a) s = s.fault 0x01 (headUnit (.launch d a))) ∧
  (∀ (s s' : State) (d a : BitVec 5) (va : U64), s.cur.core = .X → s.take (uses1 d a) = .ok s' [va] →
    s.myTile.accessesDone s.cur.core s.now = true → va.toNat % 128 ≠ 0 → exec (.launch d a) s = s.fault 0x0E va)

/-- R79, R92, R93, R96, R177, R181, R244: completion. The words of a core whose latency has elapsed leave its words in flight,
OR their flags into FFLAGS, and make their captures; the matrix words of a tile whose clock has come, and whose slot is written,
leave the open words, OR their flags into the X-core's, turn the slot they fill full and those they popped empty, and push their
done token. No register and no byte changes. The epilogue's requests stand at the banks before, one for each line of the slot,
and the bank that serves one writes its line. In datum mode no scratch access of a word is past its declared clock (R103). -/
def Obligations.WordsComplete : Prop :=
  (∀ (s : State) (g : Nat) (c : CoreId), (s.datumTile g = true → (s.tile g).lateAsks c s.now = []) →
    ∃ t, exec (.wordCompletion g c) s = .next t ∧
      (t.core ⟨g, c⟩).pend = (s.core ⟨g, c⟩).pend.filter (fun p => decide (s.now < p.due)) ∧
      (t.core ⟨g, c⟩).fflags = ((s.core ⟨g, c⟩).pend.filter (fun p => decide (p.due ≤ s.now))).foldl
        (fun f p => f ||| p.flags) (s.core ⟨g, c⟩).fflags ∧
      (t.core ⟨g, c⟩).regs = (s.core ⟨g, c⟩).regs ∧ (t.core ⟨g, c⟩).pc = (s.core ⟨g, c⟩).pc ∧
      (∀ p n v, (s.core ⟨g, c⟩).pend = [p] → p.due ≤ s.now → p.cap = some (n, v) → n ∈ (t.tile g).xr.bypValid ∧
        ∀ j, j < 64 → Store.get 0 (t.tile g).xr.byp (64 * n + j) = v.getD j 0) ∧
      (∀ h, h ≠ g → t.tile h = s.tile h) ∧ SameBytes s t) ∧
  (∀ (s : State) (g : Nat), (s.datumTile g = true → ∀ m ∈ (s.tile g).mopen, s.now < m.due ∨ (s.tile g).slotLocked m = false) →
    ∃ t, exec (.mWordCompletion g) s = .next t ∧
      (t.tile g).mopen = (s.tile g).mopen.filter (fun m => !(s.tile g).matrixDone s.now m) ∧
      (t.tile g).x.fflags = ((s.tile g).mopen.filter ((s.tile g).matrixDone s.now)).foldl
        (fun f m => f ||| m.flags) (s.tile g).x.fflags ∧
      (∀ c, (t.core ⟨g, c⟩).regs = (s.core ⟨g, c⟩).regs) ∧ (t.tile g).acc = (s.tile g).acc ∧
      (∀ h, h ≠ g → t.tile h = s.tile h) ∧ SameBytes s t ∧
      (∀ m, (s.tile g).mopen = [m] → (s.tile g).matrixDone s.now m = true →
        (∀ e ∈ m.fill, ((t.tile g).ring e.1).slot e.2 = .full) ∧
        (∀ e ∈ m.release, e ∉ m.fill → ((t.tile g).ring e.1).slot e.2 = .empty) ∧
        (∀ q, m.doneQ = some q → ((t.tile g).queue q).toks = insertToken ⟨BitVec.ofNat 32 (3 * 2 ^ 28 +
          m.op % 2 ^ 8 * 2 ^ 6 + (if 14 ≤ m.op then 0 else m.w.acc.toNat)), s.now, 0, 0⟩ ((s.tile g).queue q).toks))) ∧
  (∀ (t u : Tile) (now : Nat) (m : MOpen), m.slot ≠ [] → m.put = none → m.due ≤ now + 9 → t.slotClear m = true →
    u = t.beginEpilogue now m → u.scratch = t.scratch ∧
      ∀ e ∈ m.slot, Reached (64 * e.1) → ∃ x ∈ u.asks, x.rank = rankEpilogue ∧ x.since = now ∧ (x.line : Int) = e.1 ∧
        x.act = .put [((e.1 * 64).toNat, e.2)]) ∧
  (∀ (t : Tile) (now l : Nat) (datum : Bool) (x : Ask) (bs : List Byte), ServedAlone t now datum x → x.rank = rankEpilogue →
    x.act = .put [(64 * l, bs)] → bs.length = 64 → l ≤ 5114 → Written t (t.arbitrate now datum) (64 * l) bs)

/-- R168, R262, R263: transfers of accumulators. A spill that ends leaves its image in the frame of the owner it served and gives
the accumulator to the owner that called for it, with tag 0; a fill that ends has read that owner's image. -/
def Obligations.AccumulatorMoves : Prop :=
  (∀ (s : State) (g n d f : Nat) (who : Owner) (k : Task) (c : Ctx), (s.tile g).accMoves = [⟨n, d, false, who⟩] → d ≤ s.now →
    s.holder g ((s.tile g).ownerOf n) = some k → k.frame = some f → s.ctx k.ctx = some c →
    (s.tile g).keepsOwner who = true → (s.tile g).task.uid ≠ ((s.tile g).ownerOf n).uid → (s.tile g).task.images = [] →
    ∃ t, exec (.accumulatorSpillEnd g n) s = .next t ∧ (t.tile g).accMoves = [] ∧
      (t.tile g).ownerOf n = who ∧ (t.tile g).tagOf n = 0 ∧
      Memory.bytes t.hbm (frameAddr c f (imageLine ((s.tile g).ownerOf n) n)) (257 * 64) =
        (spillImage ((s.tile g).accElems n) ((s.tile g).tagOf n)).flatten ∧
      (t.tile g).scratch = (s.tile g).scratch) ∧
  (∀ (s : State) (g n d f : Nat) (who : Owner) (c : Ctx), (s.tile g).accMoves = [⟨n, d, true, who⟩] → d ≤ s.now →
    (s.tile g).keepsOwner who = true → (s.tile g).task.frame = some f → s.ctx (s.tile g).task.ctx = some c →
    s.poisoned (frameAddr c f (imageLine who n)) 16448 = false →
    ∃ t, exec (.accumulatorFillEnd g n) s = .next t ∧ (t.tile g).accMoves = [] ∧ (t.tile g).ownerOf n = who ∧
      (t.tile g).tagOf n = Memory.num s.hbm (frameAddr c f (imageLine who n + 256)) 64 % 256 ∧ SameBytes s t)

/-- R95, R188, R190, R191, R200, R260, R267: a step of an engine command. In free mode the requests of a step stand at the banks
first, one for each line of the tile's own scratch that it reaches and may reach; the grant of one keeps the line for a step that
reads it. A command whose requests are granted performs its next write and keeps the rest; a write into the tile's own scratch
leaves its bytes there and no others. A transform then has read its next unit, and keeps the unit's lines to write. -/
def Obligations.EngineSteps : Prop :=
  (∀ (s s1 : State) (g : Nat) (f : Fifo) (c c1 : Cmd) (o : Nat) (a : Act) (rest : List (Nat × Act)),
    s.engineMove g f = some (c, .access) → c.started = true → c.op ≠ 0xD3 → c.plan = (o, a) :: rest → a ≠ .more →
    s.actWaits g c a = false → s.performAct g f c a = .ok (s1, c1) →
    ∃ t c', exec (.engineSectorPerformed g f) s = .next t ∧ c' ∈ (t.tile g).fifo f ∧ c'.issued = c1.issued ∧
      c'.plan = rest ∧ c'.flags = c1.flags ∧ c'.asked = false ∧ t.hbm = s1.hbm ∧ t.host = s1.host ∧
      (t.tile g).scratch = (s1.tile g).scratch) ∧
  (∀ (s : State) (g : Nat) (f : Fifo) (c : Cmd), s.engineMove g f = some (c, .ask) →
    ∃ t, exec (.engineSectorPerformed g f) s = .next t ∧ { c with asked := true } ∈ (t.tile g).fifo f ∧ SameBytes s t ∧
      ∀ l ∈ c.stepLines (s.tile g) g (s.stepOf g c), Reached (64 * l.1) → (s.tile g).lineOpen f c l = true →
        ∃ x ∈ (t.tile g).asks, x.act = .eng g f c.issued ∧ (x.line : Int) = l.1 ∧ x.since = s.now ∧
          x.rank = (if isTransform c.op then 1 else match f with | .load => 0 | .store => 11)) ∧
  (∀ (s : State) (g h n : Nat) (f : Fifo) (c : Cmd) (x : Ask), ServedAlone (s.tile h) s.now (s.datumTile h) x →
    (s.tile h).mopen = [] → (s.tile h).vjobs = [] → x.act = .eng g f n → (s.tile g).fifo f = [c] → c.issued = n → c.asked = true →
    (c.readsNow = true ∨ (c.unitsLeft = true ∧ c.plan = [])) →
    ((s.grantTile h).tile g).fifo f = [{ c with got := c.got ++ [(h, x.line, leNat ((s.tile h).line x.line))] }] ∧
      SameBytes s (s.grantTile h)) ∧
  (∀ (s : State) (g : Nat) (f : Fifo) (c : Cmd) (o : Nat) (ea : Int) (bs : List Byte) (rest : List (Nat × Act)),
    EngineAlone s g f c → c.started = true → c.op ≠ 0xD3 → c.unitsLeft = false → c.plan = (o, .own ea bs) :: rest →
    ea % 64 = 0 → bs.length = 64 →
    (s.datumTile g = false → c.asked = false → Reached ea → s.engineMove g f = some (c, .ask)) ∧
    (EngineGranted s g f c →
      ∃ t c', exec (.engineSectorPerformed g f) s = .next t ∧ (t.tile g).fifo f = [c'] ∧ c'.plan = rest ∧ c'.op = c.op ∧
        c'.w = c.w ∧ (∀ k, (t.core ⟨g, k⟩).regs = (s.core ⟨g, k⟩).regs) ∧
        (c.w.eb = 0 → Reached ea →
          Memory.bytes (t.tile g).scratch ea.toNat 64 = bs ∧ SameBytesBut s t g ea.toNat 64) ∧
        (c.w.eb = 0 → ¬ Reached ea → SameBytes s t))) ∧
  (∀ (s : State) (g : Nat) (f : Fifo) (c : Cmd), EngineAlone s g f c → c.unitsLeft = true → c.plan = [] →
    EngineGranted s g f c →
    ∃ t c', exec (.transformUnitWork g f) s = .next t ∧ (t.tile g).fifo f = [c'] ∧ c'.next = c.next + 1 ∧
      c'.started = true ∧ c'.op = c.op ∧ c'.w = c.w ∧ c'.flags = (s.unitOfWork g c).2.flags ∧
      c'.plan = (s.unitOfWork g c).2.plan ∧ SameBytes s t ∧ ∀ k, (t.core ⟨g, k⟩).regs = (s.core ⟨g, k⟩).regs)

/-- R188, R192, R197, R199, R202 to R204: completion of an engine command. It has the effect that it has at its completion, its
flags are ORed into the issuing core's FFLAGS, its done token is pushed, and it leaves its FIFO: the copies, the transforms, SACC
and LXFER have no other effect then; PUBL and DISC flip their twin group, published by PUBL alone; NXARM binds its flow to its
ring; CPYQ rewrites bytes 32 to 35 of its record; NXTX writes the transmit timestamp into its slot's line 0; AMO on integers
in HBM leaves its new value at its address and the old one in its cell. -/
def Obligations.EngineCompletes : Prop :=
  (∀ (s s1 : State) (g : Nat) (f : Fifo) (c c1 : Cmd), s.engineMove g f = some (c, .done) →
    s.finishCommand g f c = .ok (s1, c1) → (∀ m ∈ (s1.tile g).cmds, m.op ≠ 256) →
    ∃ t, exec (.engineCommandCompletion g f) s = .next t ∧ (t.tile g).fifo f = ((s1.tile g).fifo f).tail ∧
      (t.core ⟨g, fifoCore f⟩).fflags = (s1.core ⟨g, fifoCore f⟩).fflags ||| c1.flags ∧
      (t.core ⟨g, fifoCore f⟩).regs = (s1.core ⟨g, fifoCore f⟩).regs ∧ t.hbm = s1.hbm ∧ t.host = s1.host ∧
      (c1.w.eb = 0 → (t.tile g).scratch = (s1.tile g).scratch)) ∧
  (∀ (s : State) (g : Nat) (f : Fifo) (c : Cmd), EngineAlone s g f c → c.unitsLeft = false → c.plan = [] →
    (c.reads = true → c.started = true) → c.op ∉ [0xC5, 0xCF, 0xD3] → s.asksOpen g f c = false →
    (c.op = 0xD0 ∨ c.op = 0xD1 → s.datumTile g = false) →
    ∃ t, exec (.engineCommandCompletion g f) s = .next t ∧ (t.tile g).fifo f = [] ∧
      (t.core ⟨g, fifoCore f⟩).fflags = (s.core ⟨g, fifoCore f⟩).fflags ||| c.flags ∧
      (∀ k, (t.core ⟨g, k⟩).regs = (s.core ⟨g, k⟩).regs) ∧ (c.w.eb = 0 → c.op ≠ 0xD0 → c.op ≠ 0xD1 → SameBytes s t) ∧
      (∀ q, c.doneQ = some q → ((t.tile g).queue q).toks = insertToken ⟨BitVec.ofNat 32 (3 * 2 ^ 28 + c.op * 2 ^ 20 +
        (if c.op ∈ [0xC0, 0xC2, 0xC4, 0xC5, 0xC6, 0xC9, 0xCA, 0xCB, 0xCC, 0xCD] then c.ed.toNat / 64 % 2 ^ 13 else 0)),
        s.now, 1, 0⟩ ((s.tile g).queue q).toks) ∧
      (∀ cx, (c.op = 0xD0 ∨ c.op = 0xD1) → s.ctx (s.tile g).task.ctx = some cx →
        ∃ cx', t.ctx (s.tile g).task.ctx = some cx' ∧
          cx'.twin c.w.count.toNat = (!(cx.twin c.w.count.toNat).1, decide (c.op = 0xD0))) ∧
      (c.op = 0xD4 → (c.es.toNat, c.w.count.toNat) ∈ (t.tile g).armed ∧
        ∀ b ∈ (t.tile g).armed, b.1 = c.es.toNat ∨ b.2 = c.w.count.toNat → b = (c.es.toNat, c.w.count.toNat))) ∧
  (∀ (s : State) (g : Nat) (f : Fifo) (c : Cmd) (a : Nat) (bs : List Byte), EngineAlone s g f c → EngineGranted s g f c →
    c.plan = [] → c.started = true → c.w.eb = 0 →
    ((c.op = 0xC5 ∧ a = c.eh.toNat + 32 ∧ bs = leBytes 4 (c.w.cvtType.toNat +
        bitsAt c.shape 256 32 / 2 ^ 4 % 2 ^ 6 * 2 ^ 4 + 2 * 2 ^ 10 +
        (if c.w.had = 0 then 0 else 2 ^ 12 + c.w.had.toNat * 2 ^ 13 + (c.w.had.toNat + 3) * 2 ^ 24) +
        bitsAt c.shape 256 32 / 2 ^ 16 % 2 ^ 6 * 2 ^ 16)) ∨
      (c.op = 0xD3 ∧ c.sent = true ∧ a = c.es.toNat + 8 ∧ bs = leBytes 8 c.next)) →
    a % 64 + bs.length ≤ 64 → Reached a →
    ∃ t, exec (.engineCommandCompletion g f) s = .next t ∧ (t.tile g).fifo f = [] ∧
      (t.core ⟨g, fifoCore f⟩).fflags = (s.core ⟨g, fifoCore f⟩).fflags ||| c.flags ∧
      Memory.bytes (t.tile g).scratch a bs.length = bs ∧ SameBytesBut s t g a bs.length) ∧
  (∀ row ∈ ([(0, fun b o v _ => (o + v) % 2 ^ b), (1, fun b o v _ => if signed b o ≤ signed b v then o else v),
      (2, fun b o v _ => if signed b o ≤ signed b v then v else o), (3, fun _ _ v _ => v),
      (4, fun _ o v m => if o = m then v else o), (5, fun _ o v _ => o &&& v), (6, fun _ o v _ => o ||| v)] :
      List (Nat × (Nat → Nat → Nat → Nat → Nat))),
    ∀ (s : State) (g : Nat) (f : Fifo) (c : Cmd) (b e p ia : Nat) (nc : Bool) (x : Ctx) (bs : List Byte),
      EngineAlone s g f c → EngineGranted s g f c → c.op = 0xCF → c.plan = [] → c.w.eb = 0 → c.w.h.x3.toNat = row.1 →
      c.w.count.toNat % 4 < 2 → b = (if c.w.count.toNat % 4 = 1 then 64 else 32) → e = c.eh.toNat → e % 8 = 0 → Reached e →
      s.translate g (s.tile g).task.windows c.ed.toNat .write = .ok (ia, nc) → regionOf ia = 0 →
      s.ctx (s.tile g).task.ctx = some x → x.place [] ia = .hbm p → s.readPhys p (b / 8) = some bs →
      (s.datumTile g = true ∨ (bitsAt (Store.get 0 x.pages (pageOf ia)).toNat 62 2 = 1 ∧
        bitsAt (Store.get 0 x.pages (pageOf ia)).toNat 60 2 = dieOf g)) →
      ∃ t, exec (.engineCommandCompletion g f) s = .next t ∧ (t.tile g).fifo f = [] ∧
        Memory.num t.hbm p (b / 8) = row.2 b (leNat bs) (c.es.toNat % 2 ^ b) (Memory.num (s.tile g).scratch e 8 % 2 ^ b) ∧
        (∀ a, (a < p ∨ p + b / 8 ≤ a) → Memory.byte t.hbm a = Memory.byte s.hbm a) ∧
        Memory.num (t.tile g).scratch e 8 = leNat bs ∧
        (∀ h a, (h ≠ g ∨ a < e ∨ e + 8 ≤ a) → Memory.byte (t.tile h).scratch a = Memory.byte (s.tile h).scratch a) ∧
        (t.core ⟨g, fifoCore f⟩).fflags = (s.core ⟨g, fifoCore f⟩).fflags ||| c.flags)

/-- R205, R206, R334, R335: the fault of a command after issue, at the head of its FIFO, where the task neither parks nor ends.
The issuing core traps with TPC at the command, the engine bit in TSTATUS and its resume point held, and the command stays at
the head of its FIFO. In datum mode a command that cannot keep its clock meets 0x14 there (R103, R207). -/
def Obligations.EngineFaults : Prop :=
  (∀ (s : State) (g : Nat) (f : Fifo) (c : Cmd) (q : List Cmd) (code : Nat) (tval : U64) (w : Who), w = ⟨g, fifoCore f⟩ →
    (s.tile g).fifo f = c :: q → c.trouble = some (code, tval) → c.plan = [] → c.faulted = false → code < 256 → code ≠ 0x07 →
    (s.tile g).task.live = true → (s.tile g).task.ending = none → (s.core w).run.isHalted = false → (s.core w).glob = none →
    (s.core w).priv.toNat < 2 → s.peers = [] →
    ∃ t c' q', exec (.engineFault g f) s = .next t ∧ (t.core w).tpc = c.pc ∧ (t.core w).tcause.toNat = code ∧
      (t.core w).tval = tval ∧ (t.core w).tstatus.toNat / 4 % 2 = 1 ∧ (t.core w).resume = some (s.core w).pc ∧
      (t.core w).pc = (s.core w).tvec ∧ (t.core w).regs = (s.core w).regs ∧
      (t.core w).priv.toNat = (s.core w).priv.toNat + 1 ∧
      (t.tile g).fifo f = c' :: q' ∧ c'.faulted = true ∧ c'.w = c.w) ∧
  (∀ (s : State) (g : Nat) (f : Fifo) (c : Cmd), s.engineMove g f = some (c, .late) →
    ∃ t c', exec (.engineFault g f) s = .next t ∧ c' ∈ (t.tile g).fifo f ∧ c'.issued = c.issued ∧ c'.plan = [] ∧
      c'.trouble = some (0x14, c.ed) ∧ SameBytes s t)

/-- R96, R251 to R253: a request through region 1. At a tile that holds a task it stands at the bank of its line in the L-side's
remote place; of a word to its own tile's window the place is one behind, where it keeps its core's order and its locks, which
is the model's reading (notes/assumptions 112). The grant gives a load the bytes there and leaves a store's bytes there, and no
others. Out of range, or at a tile without a task, a load reads zero and a store is dropped, and the target, or the requester
where the target holds no task, latches. -/
def Obligations.RemoteScratch : Prop :=
  (∀ (s : State) (k : Nat) (r : Remote) (gl : Glob) (h off n : Nat), s.remote[k]? = some r →
    (s.core ⟨r.who.1, r.who.2⟩).glob = some gl → h = bitsAt r.ia 19 29 → off = bitsAt r.ia 0 19 → n = r.bytes →
    ((s.tile h).task.live = true → 0 < n → off + n ≤ 327360 →
      ∃ t, exec (.remoteScratchRequest k) s = .next t ∧ t.remote = s.remote.eraseIdx k ∧ SameBytes s t ∧
        (t.tile h).asks = (s.tile h).asks ++ [⟨s.now, if h = r.who.1 then rankHome r.who.2 else rankRemote,
          off / 64, (s.tile h).asks.length, .far r.who.1 r.who.2 off (if r.data.isSome then 0 else n) (r.data.getD []),
          s.now + (if r.data.isSome = true ∧ s.datumTile r.who.1 = true then gl.due - 1 - s.now else 3), 0⟩]) ∧
    ((s.tile h).task.live = true → 327360 < off + n →
      ∃ t, exec (.remoteScratchRequest k) s = .next t ∧ t.remote = s.remote.eraseIdx k ∧ SameBytes s t ∧
        (t.tile h).oorFlag = true ∧ (t.core ⟨r.who.1, r.who.2⟩).glob = some { gl with reply := .done 0 }) ∧
    ((s.tile h).task.live = false →
      ∃ t, exec (.remoteScratchRequest k) s = .next t ∧ t.remote = s.remote.eraseIdx k ∧ SameBytes s t ∧
        (t.tile r.who.1).oorFlag = true ∧ (t.core ⟨r.who.1, r.who.2⟩).glob = some { gl with reply := .done 0 })) ∧
  (∀ (s : State) (h who ea n : Nat) (c : CoreId) (bs : List Byte) (gl : Glob) (x : Ask),
    ServedAlone (s.tile h) s.now (s.datumTile h) x → x.act = .far who c ea n bs → ea / 64 ≤ 5114 →
    (s.tile h).mopen = [] → (s.core ⟨who, c⟩).glob = some gl →
    ((s.grantTile h).core ⟨who, c⟩).glob =
      some { gl with reply := .done (BitVec.ofNat 64 (Memory.num (s.tile h).scratch ea n)) } ∧
    Written (s.tile h) ((s.tile h).arbitrate s.now (s.datumTile h)) ea bs)

/-- R100, R208, R209, R215, R216, R218, R231: the ends of waits. A core that waits for its stamp, for a condition that is met, for
a barrier in range or for a cell executes its word again in this clock; RENDZ of the X-core, which has met, and a timed wait whose
time has come go on behind their word. -/
def Obligations.WaitsEnd : Prop :=
  (∀ (s : State) (g : Nat) (c : CoreId) (w : Wait) (i : Instr), (s.core ⟨g, c⟩).run = .waiting w →
    ((∃ x, w = .stamp x ∧ x ≤ s.now ∧ i = .stampedIssue g c) ∨
      (s.waitMet g w = true ∧ w ≠ .meet false ∧ i = .waitConditionMet g c) ∨
      (∃ ba, w = .barrier ba ∧ Reached ba ∧ i = .barrierReread g c) ∨
      (∃ ca, w = .cell ca ∧ i = .futureCellRetry g c)) →
    exec i s = .next (s.setCore ⟨g, c⟩ { s.core ⟨g, c⟩ with run := .running, nextAt := s.now })) ∧
  (∀ (s : State) (g : Nat) (c : CoreId), (s.core ⟨g, c⟩).run = .waiting (.meet false) → (s.tile g).l.run = .idle →
    (s.tile g).s.run = .idle → (s.tile g).mopen = [] →
    exec (.waitConditionMet g c) s = .next (s.setCore ⟨g, c⟩ { s.core ⟨g, c⟩ with
      pc := (s.core ⟨g, c⟩).pc + 4, run := .running, held := none, nextAt := s.now + 2,
      pend := (s.core ⟨g, c⟩).pend ++ [plainPend (s.now + 1) []] })) ∧
  (∀ (s : State) (g : Nat) (c : CoreId) (w : Wait), (s.core ⟨g, c⟩).run = .waiting w → s.waitMet g w = false →
    exec (.waitConditionMet g c) s = .next s) ∧
  (∀ (s : State) (g : Nat) (c : CoreId) (n a : Nat), a < 28 →
    (((s.core ⟨g, c⟩).run = .waiting (.datum n a) ∧ n ≤ s.now) ∨
      ((s.core ⟨g, c⟩).run = .waiting (.tai n a) ∧ n ≤ s.tai)) →
    ∃ t, exec (.timedWaitRelease g c) s = .next t ∧ (t.core ⟨g, c⟩).pc = (s.core ⟨g, c⟩).pc + 4 ∧
      (t.core ⟨g, c⟩).run = .running ∧ (t.core ⟨g, c⟩).regs = (s.core ⟨g, c⟩).regs ∧
      (t.core ⟨g, c⟩).fflags = (s.core ⟨g, c⟩).fflags ∧ t = s.setTile g (t.tile g) ∧ SameBytes s t)

/-- R230, R232: the frame origin and the superstep. When a pending origin's clock comes FRAME_ORG takes it, and an X-core
that waits for it goes on; when a superstep's release comes, every core that waits goes on; a core that waits in SSTEP has
arrived once its accesses are performed, which R275 asks beside R232 as notes/assumptions 92 reads it, and a deadline that has
passed is a schedule miss; that it counts from the origin in force is the model's choice (notes/assumptions 123). -/
def Obligations.OriginsAndSupersteps : Prop :=
  (∀ (s : State) (p o : Nat) (pt : Part), Store.find s.parts p = some pt → pt.pendOrg = some o → o ≤ s.now →
    ∃ t, exec (.frameOrigin p) s = .next t ∧ SameBytes s t ∧
      Store.find t.parts p = some { pt with frameOrg := BitVec.ofNat 64 o, pendOrg := none } ∧
      ∀ g o' a, pt.tiles.Nodup → g ∈ pt.tiles → (s.tile g).x.run = .waiting (.origin o' a) → o' ≤ s.now → a < 28 →
        (t.tile g).x.run = .running ∧ (t.tile g).x.pc = (s.tile g).x.pc + 4) ∧
  (∀ (s : State) (p r : Nat) (pt : Part), Store.find s.parts p = some pt → pt.sstepAt = some r → r ≤ s.now →
    ∃ t, exec (.sstepRelease p) s = .next t ∧ SameBytes s t ∧
      Store.find t.parts p = some { pt with sstepAt := none } ∧
      ∀ g c dl a, pt.tiles.Nodup → g ∈ pt.tiles → (s.core ⟨g, c⟩).run = .waiting (.sstep dl a) → a < 28 →
        (t.core ⟨g, c⟩).run = .running ∧ (t.core ⟨g, c⟩).pc = (s.core ⟨g, c⟩).pc + 4 ∧
          (t.core ⟨g, c⟩).arrived = false) ∧
  (∀ (s s1 : State) (g : Nat) (c : CoreId) (dl a : Nat), (s.core ⟨g, c⟩).run = .waiting (.sstep dl a) →
    s1 = s.setCore ⟨g, c⟩ { s.core ⟨g, c⟩ with
      arrived := (s.core ⟨g, c⟩).arrived || (s.tile g).accessesDone c s.now } →
    (dl ≠ 0 → (s.frameOrg g).toNat + dl ≤ s.now → exec (.sstepDeadline g c) s =
      .next (s1.trap ⟨g, c⟩ 0x0B (BitVec.ofNat 64 (5 * 2 ^ 32 + dl % 2 ^ 30)) (s.core ⟨g, c⟩).pc false)) ∧
    ((dl = 0 ∨ s.now < (s.frameOrg g).toNat + dl) → exec (.sstepDeadline g c) s = .next s1))

/-- R94 to R98, R102, R127, R247: the clock, the banks' grants at its end, and closure. A tick moves DATUM on by one. In free mode
a bank grants at most one request in a clock, decrements of one barrier aside, and grants a request that stands there alone and
waits for nothing; a word with a request that is left has its result that much later. In datum mode a bank grants a request in a
slot of its role where it is the only one of that role, and by the last clock that keeps its declared figure, and a word keeps its
clock while its requests do. A granted line of a vector word is read for it as it stands, or may be written. A tile that has made
no progress for CLOSURE_WINDOW clocks takes closure on its X-core, with TPC at the word it stands at. -/
def Obligations.ClockAndClosure : Prop :=
  (∀ s : State, ∃ t, exec .datumTick s = .next t ∧ t.now = s.now + 1) ∧
  (∀ (t u : Tile) (now : Nat), u = t.arbitrate now false → u.served = [] ∧
    (∀ x y, x ∈ t.asks → t.serves now false x = true → y ∈ t.asks → t.serves now false y = true →
      x.line % 31 = y.line % 31 → (∀ b n, x.act ≠ .lower b n) → (∀ b n, y.act ≠ .lower b n) → x = y) ∧
    (∀ x ∈ t.asks, t.eligible x = true → x.line % 31 ∉ t.served →
      (∀ y ∈ t.atBanks, y.line % 31 = x.line % 31 → y = x) → x ∉ u.asks) ∧
    (∀ (k : Nat) (p : Pend) (since lag : Nat) (x : Ask), t.l.pend[k]? = some p → p.asks = some (since, lag) → x ∈ u.asks →
      x.since = since → x.rank = rankScalar .L → x.isGive = false →
      (∀ y ∈ t.asks, y.isGive = true → y.rank = rankVector) → u.l.pend[k]? = some { p with due := max p.due (now + 1 + lag) }) ∧
    (u.asks = [] → ∀ c, (u.core c).pend = (t.core c).pend)) ∧
  (∀ (t u : Tile) (now : Nat), u = t.arbitrate now true → u.served = [] ∧
    (∀ x ∈ t.asks, t.eligible x = true → x.by_ ≤ now → x ∉ u.asks) ∧
    (∀ x ∈ t.asks, t.eligible x = true → x.isPut = false → wheelRole x.line now = sideOf x.rank →
      (∀ y ∈ t.asks, y.line % 31 = x.line % 31 → sideOf y.rank = sideOf x.rank → y = x) → x ∉ u.asks) ∧
    ((∀ x ∈ u.asks, now < x.by_) → ∀ c, (u.core c).pend = (t.core c).pend)) ∧
  (∀ (t : Tile) (now op k : Nat) (datum : Bool) (x : Ask) (j : VJob), ServedAlone t now datum x → j ∈ t.vjobs →
    j.issued = x.since →
    (x.act = .take op k → ∃ j' ∈ (t.arbitrate now datum).vjobs, j'.issued = j.issued ∧
      j'.got = (op, k, leNat (t.line x.line)) :: j.got) ∧
    (x.act = .give k → ∃ j' ∈ (t.arbitrate now datum).vjobs, j'.issued = j.issued ∧ j'.given = k :: j.given)) ∧
  (∀ (s : State) (g : Nat), s.lost g = true → (s.tile g).closureWin.toNat ≤ (s.tile g).closureCount + 1 →
    exec (.closure g) s = .next (s.trap ⟨g, .X⟩ 0x0A (s.closureTval g) (s.tile g).x.pc false))

/-- R208, R336 to R339: STOP. A quantum that has run out is noted; pre-emption sends STOP to the victim's L-core, for the card
that it makes way for; a core at which STOP stands takes it at a word boundary, keeping its registers, and passes it on, L to X
to S, once it may halt, an idle one as it takes it; one that is in a handler does not take it, nor, as notes/assumptions 69
reads R337 beside R208, one that has a global word under way. A core that waits in GBAR takes its arrival back. -/
def Obligations.StopAndHalt : Prop :=
  (∀ (s : State) (g : Nat) (c : Ctx), s.ctx (s.tile g).task.ctx = some c → (s.tile g).task.live = true →
    c.cfg.quantum ≠ 0 → (s.tile g).task.since + c.cfg.quantum * 1024 ≤ s.now →
    ∃ t, exec (.quantumExpiry g) s = .next t ∧ (t.tile g).task.expired = true ∧ (t.tile g).x = (s.tile g).x ∧
      t = s.setTile g (t.tile g) ∧ SameBytes s t) ∧
  (∀ (s : State) (p g n : Nat), s.pickVictim p = some (g, n) →
    ∃ t, exec (.preemption p) s = .next t ∧ (t.tile g).l.stopIn = true ∧ (t.tile g).stop = some none ∧
      (t.tile g).stopFor = some n ∧ (t.tile g).x = (s.tile g).x ∧ t = s.setTile g (t.tile g) ∧ SameBytes s t) ∧
  (∀ (s : State) (g : Nat) (c : CoreId), (s.core ⟨g, c⟩).stopIn = true → (s.core ⟨g, c⟩).priv = 0 →
    (s.core ⟨g, c⟩).glob = none → (s.core ⟨g, c⟩).run.isHalted = false →
    ((s.core ⟨g, c⟩).run = .running → s.now < (s.core ⟨g, c⟩).nextAt ∨ ∃ i, s.fetch ⟨g, c⟩ = .word i) →
    ∃ t, exec (.stopTaken g c) s = .next t ∧ (t.core ⟨g, c⟩).run = .halted (s.core ⟨g, c⟩).run.kept ∧
      (t.core ⟨g, c⟩).pc = (s.core ⟨g, c⟩).pc ∧ (t.core ⟨g, c⟩).regs = (s.core ⟨g, c⟩).regs ∧
      ((∀ k n, (s.core ⟨g, c⟩).run ≠ .waiting (.gbar k n)) → (∀ o a, (s.core ⟨g, c⟩).run ≠ .waiting (.origin o a)) →
        t = s.setTile g (t.tile g)) ∧ SameBytes s t ∧
      ((s.core ⟨g, c⟩).run = .idle → c ≠ .X → (s.tile g).mayHalt g c s.now = true →
        (t.core ⟨g, c⟩).stopIn = false ∧ (c = .L → (t.tile g).x.stopIn = true)) ∧
      (∀ k n p pt gr, (s.core ⟨g, c⟩).run = .waiting (.gbar k n) → InPart s g p pt → Store.find pt.groups k = some gr →
        gr.done + gr.release.length < n → gr.arrived.Nodup → (∀ d, d ≠ c → (s.core ⟨g, d⟩).run ≠ .waiting (.gbar k n)) →
        ∃ gr', t.group g k = some gr' ∧ ((s.tile g).task.uid, n) ∉ gr'.arrived ∧ gr'.members = gr.members)) ∧
  (∀ (s : State) (g : Nat) (c : CoreId), ((s.core ⟨g, c⟩).priv ≠ 0 ∨ (s.core ⟨g, c⟩).glob.isSome = true) →
    exec (.stopTaken g c) s = .next s) ∧
  (∀ (s : State) (g : Nat) (c : CoreId) (k : Kept), (s.core ⟨g, c⟩).run = .halted k → (s.core ⟨g, c⟩).stopIn = true →
    (s.tile g).mayHalt g c s.now = true →
    ∃ t, exec (.coreHalt g c) s = .next t ∧ (t.core ⟨g, c⟩).stopIn = false ∧ (t.core ⟨g, c⟩).run.isHalted = true ∧
      (t.core ⟨g, c⟩).regs = (s.core ⟨g, c⟩).regs ∧ (c = .L → (t.tile g).x.stopIn = true) ∧
      (c = .X → (t.tile g).s.stopIn = true) ∧ t = s.setTile g (t.tile g) ∧ SameBytes s t)

/-- R340 to R343, R378: save and resumption. A tile whose cores have all halted gives its task to a task frame and is left
idle; a parked task's frame holds its registers, program counters and kept lines where R340 puts them. A saved task that has been
dealt resumes on its tile, from a shadow pool as it was saved and within 21,600 clocks, else with what its frame holds by then,
waiting cores issuing their words again; poison in its frame ends it. -/
def Obligations.SaveAndResume : Prop :=
  (∀ (s : State) (g f : Nat) (park : Option U64) (c : Ctx), (s.tile g).stop = some park →
    s.ctx (s.tile g).task.ctx = some c → (s.tile g).mayBeSaved = true → (s.tile g).task.frame = some f →
    ∃ t v, exec (.taskSave g) s = .next t ∧ (t.tile g).task.live = false ∧ (t.tile g).x.run = .idle ∧
      Store.find t.saved (s.tile g).task.uid = some v ∧ v.frame = f ∧ v.kind = (if park.isSome then 1 else 0) ∧
      v.tile.x.regs = (s.tile g).x.regs ∧ v.tile.x.pc = (s.tile g).x.pc ∧ v.tile.l.regs = (s.tile g).l.regs ∧
      v.tile.s.regs = (s.tile g).s.regs ∧ v.tile.xr.v = (s.tile g).xr.v ∧ v.dealt = none ∧
      (park.isSome = true → Memory.num t.hbm (frameAddr c f 0 + 8) 8 = (s.tile g).task.recIndex.toNat ∧
        (∀ e ∈ ([(CoreId.L, 3, 15), (.X, 7, 17), (.S, 11, 19)] : List (CoreId × Nat × Nat)),
          (∀ r, r < 32 → Memory.num t.hbm (frameAddr c f e.2.1 + 8 * r) 8 = ((s.core ⟨g, e.1⟩).reg r).toNat) ∧
          Memory.num t.hbm (frameAddr c f e.2.2) 8 = (s.core ⟨g, e.1⟩).pc.toNat) ∧
        ∀ l, l < 5115 → (s.tile g).task.keepsLine l = true →
          Memory.bytes t.hbm (frameAddr c f (1808 + l)) 64 = (s.tile g).line (l : Nat))) ∧
  (∀ (s : State) (g k : Nat) (v : Saved) (c : Ctx) (card : Card), Store.find s.saved k = some v → v.dealt = some g →
    (s.tile g).task.live = false → (s.tile g).inService = true → s.ctx v.tile.task.ctx = some c →
    s.card v.tile.task.card = some card → s.accsElsewhere g k = [] → v.tile.task.live = true →
    (v.pool.isSome = true → ∃ t, exec (.taskResumption g k) s = .next t ∧ Store.find t.saved k = none ∧
    (t.tile g).task.live = true ∧
      (t.tile g).task.uid = v.tile.task.uid ∧ (t.tile g).x.pc = v.tile.x.pc ∧ (t.tile g).x.regs = v.tile.x.regs ∧
      (t.tile g).l.regs = v.tile.l.regs ∧ (t.tile g).s.regs = v.tile.s.regs ∧ (t.tile g).xr.v = v.tile.xr.v ∧
      (t.tile g).scratch = v.tile.scratch ∧ (t.tile g).closureCount = 0 ∧
      ((v.tile.x.run.kept = .running ∨ v.tile.x.run.kept = .waiting) → (t.tile g).x.run = .running) ∧
      (t.tile g).x.nextAt ≤ s.now + 21600) ∧
    (v.pool = none → s.framePoisoned (frameAddr c v.frame 0) v.tile.task = false →
      ∃ t, exec (.taskResumption g k) s = .next t ∧ Store.find t.saved k = none ∧ (t.tile g).task.live = true ∧
        (t.tile g).task.recIndex = BitVec.ofNat 64 (Memory.num s.hbm (frameAddr c v.frame 0 + 8) 8) ∧
        (∀ e ∈ ([(CoreId.L, 3, 15, 0), (.X, 7, 17, 2), (.S, 11, 19, 4)] : List (CoreId × Nat × Nat × Nat)),
          (∀ r, 0 < r → r < 32 → (t.core ⟨g, e.1⟩).reg r =
            BitVec.ofNat 64 (Memory.num s.hbm (frameAddr c v.frame e.2.1 + 8 * r) 8)) ∧
          (t.core ⟨g, e.1⟩).pc = BitVec.ofNat 64 (Memory.num s.hbm (frameAddr c v.frame e.2.2.1) 8) ∧
          (Memory.num s.hbm (frameAddr c v.frame 0 + 33) 1 / 2 ^ e.2.2.2 % 4 ∈ [1, 2] → (t.core ⟨g, e.1⟩).run = .running) ∧
          (Memory.num s.hbm (frameAddr c v.frame 0 + 33) 1 / 2 ^ e.2.2.2 % 4 = 0 → (t.core ⟨g, e.1⟩).run = .idle)) ∧
        ∀ a, a < 327360 → (t.tile g).task.keepsLine (a / 64) = true →
          Memory.byte (t.tile g).scratch a = Memory.byte s.hbm (frameAddr c v.frame 1808 + a)) ∧
    (v.pool = none → s.framePoisoned (frameAddr c v.frame 0) v.tile.task = true →
      ∃ t, exec (.taskResumption g k) s = .next t ∧ Store.find t.saved k = none ∧ (t.tile g).task.live = false))

/-- R303 to R307: doorbells and acceptance. The tail doorbell sets the tail, never more than head + Q; the append doorbell
copies a readable card into the slot at the tail, or counts it refused; the next card of a queue is accepted, or recorded
as refused with the cause of the first check it fails. While a bring-up runs doorbells are dropped (R387). -/
def Obligations.CardsArrive : Prop :=
  (∀ (s : State) (x : Nat) (v : U32) (va : U64), s.rising = true →
    exec (.tailDoorbell x v) s = .next s ∧ exec (.appendDoorbell x va) s = .next s) ∧
  (∀ (s : State) (x : Nat) (v : U32) (c : Ctx), s.ctx x = some c → s.rising = false →
    ∃ t, exec (.tailDoorbell x v) s = .next t ∧ SameBytes s t ∧ t.ctx x = some { c with
      qTail := if 2 ^ c.cfg.qlog < (v - c.qHead).toNat then c.qHead + BitVec.ofNat 32 (2 ^ c.cfg.qlog) else v }) ∧
  (∀ (s : State) (x : Nat) (va : U64) (c : Ctx), s.ctx x = some c → s.rising = false →
    (∀ bs, va.toNat % 128 = 0 → (c.qTail - c.qHead).toNat < 2 ^ c.cfg.qlog →
      (s.setCtx x { c with appDb := va }).hubRead x c.cfg.vw va.toNat 2 = .data bs → bs.length = 128 →
      ∃ t at_, exec (.appendDoorbell x va) s = .next t ∧
        t.ctx x = some { c with appDb := va, qTail := c.qTail + 1, slotVa := at_ } ∧
        Store.find at_ (c.qTail.toNat % 2 ^ c.cfg.qlog) = some va ∧
        Memory.bytes t.hbm (c.cfg.qbase + 128 * (c.qTail.toNat % 2 ^ c.cfg.qlog)) 128 = bs) ∧
    ((va.toNat % 128 ≠ 0 ∨ 2 ^ c.cfg.qlog ≤ (c.qTail - c.qHead).toNat) →
      ∃ t, exec (.appendDoorbell x va) s = .next t ∧ SameBytes s t ∧
        t.ctx x = some { c with appDb := va, refused := BitVec.ofNat 32 (min (c.refused.toNat + 1) (2 ^ 32 - 1)) })) ∧
  (∀ (s : State) (x : Nat) (cx : Ctx) (c : Card), s.nextCardOf x = some (cx, some c) → s.mayAccept x c false = true →
    c.statusOk cx = true →
    ∃ t c' cx', exec (.cardAcceptance x) s = .next t ∧ t.ctx x = some cx' ∧ cx'.qHead = cx.qHead + 1 ∧
      t.card s.nextCard = some c' ∧ c'.img = c.img ∧ c'.ctx = x ∧
      (∀ k, s.refusal cx c = some k → c'.state = 4 ∧ c'.cause = k) ∧ (s.refusal cx c = none → c'.state = 1))

/-- R308 to R311: dealing. An idle tile of a free-mode partition gets, from the card chosen for it, which at a level where
nothing has been dealt is one of the lowest context (notes/assumptions 72), the next record to be dealt again, or else a chunk
of returned and undealt records. -/
def Obligations.TilesAreDealt : Prop :=
  ∀ (s : State) (g p n : Nat) (pt : Part) (c : Card), s.partOf g = some (p, pt) → pt.datum = false →
    s.idleTile g = true → s.choose p = some (n, c) → s.readyTask n c = none →
    (∀ r rest, c.redeal = r :: rest → ∃ t, exec (.dealRequest g) s = .next t ∧ (t.tile g).chunk = [(r, n)] ∧
      (t.tile g).task = (s.tile g).task) ∧
    (c.redeal = [] → ∃ t, exec (.dealRequest g) s = .next t ∧
      (t.tile g).chunk = (c.chunk (s.inService p)).1.map (fun r => (r, n)) ∧ (t.tile g).task = (s.tile g).task ∧
      (c.returned = [] → (c.chunk (s.inService p)).1 =
        (List.range (chunkSize (c.count - c.fresh) c.minchunk c.divisor (s.inService p))).map (c.fresh + ·)))

/-- R235, R311: task start. The X-core runs at the card's entry in PRIV 0 with zero registers and flags, the other cores are
idle, and scratch holds the record from byte 0 and zeros behind it; a page that is absent parks the record. -/
def Obligations.TasksStart : Prop :=
  ∀ (s : State) (g i n : Nat) (rest : List (Nat × Nat)) (c : Card) (x : Ctx), (s.tile g).chunk = (i, n) :: rest →
    (s.tile g).task.live = false → (s.tile g).inService = true → s.card n = some c → s.ctx c.ctx = some x →
    (∀ rec_ pds consts book, (s.setTile g { s.tile g with chunk := rest }).setup x c i = .ok rec_ pds consts book →
      ∃ t, exec (.taskStart g) s = .next t ∧ (t.tile g).task.live = true ∧ (t.tile g).task.uid = s.nextUid ∧
        (t.tile g).task.recIndex = BitVec.ofNat 64 i ∧ (t.tile g).chunk = rest ∧ (t.tile g).x.run = .running ∧
        (t.tile g).x.pc = BitVec.ofNat 64 c.entry ∧ (t.tile g).l.run = .idle ∧ (t.tile g).s.run = .idle ∧
        (∀ cr, (t.core ⟨g, cr⟩).priv = 0 ∧ (t.core ⟨g, cr⟩).fflags = 0 ∧ (t.core ⟨g, cr⟩).frm = 0 ∧
          ∀ r, (t.core ⟨g, cr⟩).reg r = 0) ∧
        Memory.bytes (t.tile g).scratch 0 rec_.length = rec_ ∧
        (∀ a, rec_.length ≤ a → Memory.byte (t.tile g).scratch a = 0) ∧ t.hbm = s.hbm ∧ t.host = s.host) ∧
    (∀ va pg, (s.setTile g { s.tile g with chunk := rest }).setup x c i = .absent va pg → c.datum = false → rest = [] →
      ∃ t c', exec (.taskStart g) s = .next t ∧ t.card n = some c' ∧ (t.tile g).task.live = false ∧
        c'.parked = c.parked ++ [⟨i, BitVec.ofNat 64 va, pg, false, s.nextUid⟩])

/-- R313, R314: a datum round. The deal gives record k T + j to the j-th tile that holds one, and the round's origin becomes
FRAME_ORG when its clock comes, whether or not a task of the round is left. -/
def Obligations.DatumRounds : Prop :=
  (∀ (s : State) (p n k o : Nat) (tiles : List Nat) (pt : Part) (c : Card), Store.find s.parts p = some pt →
    s.roundDue pt = true → pt.round = some (n, tiles, k, o, []) → s.card n = some c → tiles.Nodup → k ≠ 0 →
    ∃ t pt', exec (.roundDeal p) s = .next t ∧ Store.find t.parts p = some pt' ∧ SameBytes s t ∧
      (∃ given, pt'.round = some (n, tiles, k, o, given)) ∧ o ∈ pt'.origins ∧
      ∀ j, j < tiles.length → k * tiles.length + j < c.count → (s.tile (tiles.getD j 0)).inService = true →
        (t.tile (tiles.getD j 0)).chunk = [(k * tiles.length + j, n)]) ∧
  (∀ (s : State) (p : Nat) (pt : Part), Store.find s.parts p = some pt → s.now ∈ pt.origins →
    (∀ n tiles k o open_, pt.round = some (n, tiles, k, o, open_) → ∀ g ∈ tiles, (s.tile g).inService = true) →
    ∃ t, exec (.roundOrigin p) s = .next t ∧ SameBytes s t ∧
      Store.find t.parts p = some { pt with
        frameOrg := BitVec.ofNat 64 s.now, origins := pt.origins.filter (· != s.now) })

/-- R129 to R134, R139, R143, R147, R149, R150, R76: the vector words that round one exact value per active lane, or give one
result per lane from the lane's elements: what each computes, and where each stops. -/
def Obligations.VectorLanes : Prop :=
  (∀ row ∈ ([(.vadd, .wr, .rd, 4, fun t i j => exactSum [i.va t j, i.vb t j] i.rm),
      (.vsub, .wr, .rd, 4, fun t i j => exactSum [i.va t j, (i.vb t j).neg] i.rm),
      (.vmul, .wr, .rd, 4, fun t i j => (i.va t j).mul (i.vb t j)),
      (.vdiv, .wr, .rd, 24, fun t i j => (i.va t j).div (i.vb t j)),
      (.vfma, .rw, .rd, 4, fun t i j => fusedTerm i.rm (i.va t j) (i.vb t j) (i.vd t j) false),
      (.vfms, .rw, .rd, 4, fun t i j => fusedTerm i.rm (i.va t j) (i.vb t j) (i.vd t j).neg false),
      (.vfnma, .rw, .rd, 4, fun t i j => fusedTerm i.rm (i.va t j) (i.vb t j) (i.vd t j) true),
      (.vsqrt, .wr, fun _ => .no, 24, fun t i j => (i.va t j).sqrt),
      (.vrcp, .wr, fun _ => .no, 10, fun t i j => fnRcp (i.va t j)),
      (.vrsq, .wr, fun _ => .no, 10, fun t i j => fnRsq (i.va t j)),
      (.vfexp2, .wr, fun _ => .no, 10, fun t i j => fnExp2 (i.va t j)),
      (.vflog2, .wr, fun _ => .no, 10, fun t i j => fnLog2 i.rm (i.va t j))] :
      List ((VWord → Instr) × (Nat → Use) × (Nat → Use) × Nat × (Nat → VIn → Nat → FVal × Flags))),
    VectorMeans row.1 fun _ w => floatPlan w (row.2.1 (typeOf w)) (.rd (typeOf w)) (row.2.2.1 (typeOf w)) row.2.2.2.1
      (some false) fun i => i.lanes true fun j l => rounded (typeOf w) i l (row.2.2.2.2 (typeOf w) i j)) ∧
  (∀ row ∈ ([(.vmin, .rd, 2, fun t x y => pickElem t false x y), (.vmax, .rd, 2, fun t x y => pickElem t true x y),
      (.vabs, fun _ => .no, 2, fun t x _ => (x % 2 ^ (typeBits t - 1), 0)),
      (.vneg, fun _ => .no, 2, fun t x _ => ((x + 2 ^ (typeBits t - 1)) % 2 ^ typeBits t, 0)),
      (.vgetexp, fun _ => .no, 4, fun t x _ => expElem t x), (.vgetmant, fun _ => .no, 4, fun t x _ => mantElem t x),
      (.vclass, fun _ => .no, 4, fun t x _ => (2 ^ classBit t x, 0))] :
      List ((VWord → Instr) × (Nat → Use) × Nat × (Nat → Nat → Nat → Nat × Flags))),
    VectorMeans row.1 fun _ w => floatPlan w (.wr (typeOf w)) (.rd (typeOf w)) (row.2.1 (typeOf w)) row.2.2.1 none
      fun i => i.lanes false fun j _ => row.2.2.2 (typeOf w) (i.a.getD j 0) (i.b.getD j 0)) ∧
  VectorMeans .vrndi (fun _ w => floatPlan w (.wr (typeOf w)) (.rd (typeOf w)) .no 4 (some false)
    fun i => i.lanes true fun j l => roundIntegral (typeOf w) (i.a.getD j 0) i.rm l) ∧
  VectorMeans .vscalb (fun _ w => floatPlan w (.wr (typeOf w)) (.rd (typeOf w)) (.rd (typeOf w)) 4 (some false)
    fun i => i.lanes true fun j l => scalbLane (typeOf w) (i.a.getD j 0) (i.b.getD j 0) i.rm i.sat l) ∧
  (∀ row ∈ ([(.vcmul, false), (.vcmac, true)] : List ((VWord → Instr) × Bool)),
    VectorMeans row.1 fun _ w =>
      { ok5 := (typeOf w == 7 || typeOf w == 8) && w.h.rnd != 7 && w.h.x3 == 0,
        ud := if row.2 then .rw (typeOf w) else .wr (typeOf w), ua := .rd (typeOf w), ub := .rd (typeOf w),
        ctlOk := fun _ => true, lat := 4, domain := some false, lfsr := some false, book := none,
        run := fun i => i.lanes true fun j l => rounded (typeOf w) i l (spectralPart (typeOf w) i.rm (i.va (typeOf w))
          (i.vb (typeOf w)) (if row.2 then [i.vd (typeOf w) j] else []) j) }) ∧
  VectorMeans .vcvt (fun _ w =>
    { convPlan (decide (typeOf w ≤ 13) && typeOf w != 6 && typeOf w != 7 && typeOf w != 8 && w.h.rnd != 7 && w.h.x3 == 0)
        (.wr (typeOf w)) (.rd (w.b.toNat % 16)) .ctl (some false)
        (fun i => i.lanes true fun j l => convertElem (w.b.toNat % 16) (typeOf w) (i.a.getD j 0) i.rm i.sat l) with
      ctlOk := fun p => decide (p / 16 % 2 ^ 14 = 0) && p % 16 != 6 && p % 16 != 7 && p % 16 != 8 && p % 16 != 15 }) ∧
  VectorMeans .vqnt (fun _ w => convPlan (quantType (typeOf w) && w.h.rnd != 7 && w.h.x3 == 0) (.wr (typeOf w)) (.rd 0)
    (.rd 14) (some false) fun i => i.lanes true fun j l =>
      if i.b.getD j 0 = 255 then (nanCode (typeOf w), flNV)
      else roundTo ((f32 (i.a.getD j 0)).scale (127 - (i.b.getD j 0 : Nat))) (typeOf w) i.rm i.sat l) ∧
  VectorMeans .vdqnt (fun _ w => convPlan (quantType (typeOf w) && w.h.rnd != 7 && w.h.x3 == 0) (.wr 0) (.rd (typeOf w))
    (.rd 14) (some false) fun i => i.lanes true fun j l =>
      if i.b.getD j 0 = 255 then (nanCode 0, flNV)
      else roundTo ((decodeElement (typeOf w) (i.a.getD j 0)).scale ((i.b.getD j 0 : Nat) - 127)) 0 i.rm i.sat l) ∧
  VectorMeans .vlqdec (fun s w =>
    { convPlan (typeOf w == 6 && decide (w.h.rnd.toNat < 4) && w.h.sat == 0 && w.h.x3 == 0) (.wr 1) (.rd 6) (.rd 14) none
        (fun i => i.lanes false fun j _ => roundTo (lq8Weight (i.a.getD (j / 8) 0)
          (s.myTile.xr.bookRow w.h.rnd.toNat (i.a.getD (j / 8) 0 / 256 % 256)) (i.b.getD (j / 32) 0) (j % 8)) 1 0 false 0) with
      book := some w.h.rnd.toNat })

/-- R131, R135 to R138, R145, R153 to R157, and the model's choice of notes/assumptions 87 (VSLIDE reads a scalar count as
signed): the vector words that compare, compute on integers, or move elements: what each computes, and where each stops. VMOV
moves B's bits, VSEL selects by its mask, VCMP writes a mask register. -/
def Obligations.VectorMoves : Prop :=
  (∀ row ∈ ([(.viadd, fun t sat x y => fitInt t sat (decodeInt t x + decodeInt t y)),
      (.visub, fun t sat x y => fitInt t sat (decodeInt t x - decodeInt t y)),
      (.vimul, fun t sat x y => fitInt t sat (decodeInt t x * decodeInt t y)),
      (.vimin, fun t sat x y => fitInt t sat (min (decodeInt t x) (decodeInt t y))),
      (.vimax, fun t sat x y => fitInt t sat (max (decodeInt t x) (decodeInt t y))),
      (.vand, fun _ _ x y => x &&& y), (.vor, fun _ _ x y => x ||| y), (.vxor, fun _ _ x y => x ^^^ y),
      (.vshl, fun t sat x y => fitInt t sat (decodeInt t x * 2 ^ min y (typeBits t))),
      (.vshr, fun t _ x y => x / 2 ^ min y (typeBits t)),
      (.vsra, fun t _ x y => wrapTo (typeBits t) (signed (typeBits t) x / 2 ^ min y (typeBits t))),
      (.viminu, fun _ _ x y => min x y), (.vimaxu, fun _ _ x y => max x y)] :
      List ((VWord → Instr) × (Nat → Bool → Nat → Nat → Nat))),
    VectorMeans row.1 fun _ w =>
      { ok5 := typeInt (typeOf w) && w.h.rnd == 0 && w.h.x3 == 0, ud := .wr (typeOf w), ua := .rd (typeOf w),
        ub := .rd (typeOf w), ctlOk := fun _ => true, lat := 2, domain := none, lfsr := none, book := none,
        run := fun i => i.lanes false fun j _ => (row.2 (typeOf w) i.sat (i.a.getD j 0) (i.b.getD j 0), 0) }) ∧
  VectorMeans .vmov (fun _ w =>
    { ok5 := moveType (typeOf w) && w.h.rnd == 0 && w.h.sat == 0 && w.h.x3 == 0, ud := .wr (typeOf w), ua := .no,
      ub := .rd (typeOf w), ctlOk := fun _ => true, lat := 2, domain := none, lfsr := none, book := none,
      run := fun i => i.lanes false fun j _ => (i.b.getD j 0, 0) }) ∧
  VectorMeans .vcmp (fun _ w =>
    { floatPlan w .maskWr (.rd (typeOf w)) (.rd (typeOf w)) 2 none (fun i => i.lanes false fun j _ =>
        compareElem (typeOf w) w.h.x3.toNat (i.a.getD j 0) (i.b.getD j 0)) with
      ok5 := decide (typeOf w ≤ 2) && w.h.rnd != 7 && w.h.nowb == 0 && w.h.capEn == 0 }) ∧
  VectorMeans .vsel (fun _ w =>
    { ok5 := moveType (typeOf w) && w.h.rnd == 0 && w.h.sat == 0 && w.h.x3 == 0, ud := .wr (typeOf w), ua := .rd (typeOf w),
      ub := .rd (typeOf w), ctlOk := fun _ => true, lat := 2, domain := none, lfsr := none, book := none,
      run := fun i => ⟨(List.range 64).map fun j => if i.act.getD j false then i.a.getD j 0 else i.b.getD j 0,
        List.replicate 64 true, 0, i.lfsr⟩ }) ∧
  (∀ k ∈ ([(0, fun x y => x * y), (1, fun x y => max x y), (2, fun x y => (x + y) % 2), (3, fun x y => x * (1 - y)),
      (4, fun x y => max x (1 - y)), (5, fun x _ => 1 - x), (6, fun x _ => x)] : List (Nat × (Nat → Nat → Nat))),
    VectorMeansWhere .vmaskop (fun w => w.h.x3.toNat = k.1) fun _ w =>
      { ok5 := w.h.etype == 0 && w.h.rnd == 0 && w.h.sat == 0 && w.h.mask == 0 && w.h.nowb == 0 && w.h.capEn == 0,
        ud := .maskWr, ua := .maskRd, ub := if 5 ≤ k.1 then .no else .maskRd, ctlOk := fun _ => true, lat := 2,
        domain := none, lfsr := none, book := none,
        run := fun i => ⟨(List.range 64).map fun j => k.2 (i.a.getD j 0) (i.b.getD j 0), List.replicate 64 true, 0,
          i.lfsr⟩ }) ∧
  (∀ (s : State) (w : VWord), w.h.x3 = 7 → exec (.vmaskop w) s = s.fault 0x01 (headUnit (.vmaskop w))) ∧
  (∀ row ∈ ([(.vunpk, packType, .wr, fun _ => .rd 13, .cnt, fun w i j => if i.bx.toNat + j < 2048 / typeBits (typeOf w) then
        streamElem i.a (typeBits (typeOf w)) (i.bx.toNat + j) else 0),
      (.vbcast, moveType, .wr, .rd, .cnt, fun _ i _ => i.a.getD (i.bx.toNat % 64) 0),
      (.vslide, moveType, .wr, .rd, .cnt, fun w i j =>
        if 0 ≤ (j : Int) + slideCount w.b.toNat i.bx ∧ (j : Int) + slideCount w.b.toNat i.bx ≤ 63 then
          i.a.getD ((j : Int) + slideCount w.b.toNat i.bx).toNat 0 else 0),
      (.vperm, moveType, .wr, .rd, .rd 13, fun _ i j => i.a.getD (i.b.getD j 0 % 64) 0),
      (.vexpd, moveType, .rw, .rd, .no, fun _ i j => i.a.getD ((List.range j).countP fun k => i.act.getD k false) 0)] :
      List ((VWord → Instr) × (Nat → Bool) × (Nat → Use) × (Nat → Use) × Use × (VWord → VIn → Nat → Nat))),
    VectorMeans row.1 fun _ w => movePlan w row.2.1 (row.2.2.1 (typeOf w)) (row.2.2.2.1 (typeOf w)) row.2.2.2.2.1
      fun i => i.lanes false fun j _ => (row.2.2.2.2.2 w i j, 0)) ∧
  VectorMeans .vshuf (fun _ w =>
    { movePlan w moveType (.wr (typeOf w)) (.rd (typeOf w)) .ctl (fun i => i.lanes false fun j _ =>
        (i.a.getD (match i.bx.toNat / 64 % 4 with
          | 0 => j ^^^ i.bx.toNat % 64
          | 1 => j / 2 + 32 * (j % 2)
          | _ => 2 * (j % 32) + j / 32) 0, 0)) with
      ctlOk := fun p => decide (p / 2 ^ 8 % 2 ^ 10 = 0) && p / 64 % 4 != 3 && (p / 64 % 4 == 0 || p % 64 == 0) }) ∧
  VectorMeans .vpack (fun _ w => movePlan w packType (.rw 13) (.rd (typeOf w)) .cnt fun i =>
    ⟨(List.range 64).foldl (fun v j => if i.act.getD j false ∧ i.bx.toNat + j < 2048 / typeBits (typeOf w) then
      putStream v (typeBits (typeOf w)) (i.bx.toNat + j) (i.a.getD j 0) else v) i.d, List.replicate 64 true, 0, i.lfsr⟩) ∧
  VectorMeans .vcomp (fun _ w => movePlan w moveType (.wr (typeOf w)) (.rd (typeOf w)) .no fun i =>
    ⟨(List.range 64).map fun j =>
      (((List.range 64).filter fun k => i.act.getD k false).map fun k => i.a.getD k 0).getD j 0,
      List.replicate 64 true, 0, i.lfsr⟩)

/-- R80, R84, R140, R141, R148, R152, and the model's choices of notes/assumptions 103 (VRMAX and VRMIN take −0 for less than
+0), 102 (a latch captured with nowb takes lane 0 of the result) and 98 (the flag of VAMAXB on a NaN): reductions, scans, the
words of the lane LFSRs, block scales and rotations. An integer VRADD without sat gives the sum of the active lanes modulo 2^32
in lane 0. -/
def Obligations.VectorReductions : Prop :=
  (∀ row ∈ ([(.vradd, fun w => reduceRun .add (typeOf w)), (.vrmax, fun w => reduceRun .max (typeOf w)),
      (.vrmin, fun w => reduceRun .min (typeOf w)), (.vramax, fun w => reduceRun .absMax (typeOf w)),
      (.vscan, fun w => scanRun (typeOf w))] : List ((VWord → Instr) × (VWord → VIn → VOut))),
    VectorMeans row.1 fun _ w =>
      { ok5 := w.h.x3 == 0 && ((decide (typeOf w ≤ 2) && w.h.rnd != 7) ||
          ((w.h.etype == 12 || w.h.etype == 13) && w.h.rnd == 0)),
        ud := .wr (typeOf w), ua := .rd (typeOf w), ub := .no, ctlOk := fun _ => true, lat := 12, domain := some true,
        lfsr := some false, book := none, run := row.2 w }) ∧
  (∀ (t : Nat) (i : VIn), (t = 12 ∨ t = 13) → i.sat = false → (reduceRun .add t i).new.getD 0 0 =
    intBits t (((List.range 64).filter fun j => i.act.getD j false).map fun j => decodeInt t (i.a.getD j 0)).sum) ∧
  (∀ (t : Nat) (i : VIn) (j : Nat), (t = 12 ∨ t = 13) → i.sat = false → j < 64 → i.act.getD j false = true →
    (∀ k, i.a.getD k 0 < 2 ^ 32) → (scanRun t i).new.getD j 0 =
      intBits t (((List.range (j + 1)).filter fun k => i.act.getD k false).map fun k => decodeInt t (i.a.getD k 0)).sum) ∧
  (∀ row ∈ ([(.vlfsrRead, .wr 0, .no, true, fun _ _ l _ => l),
      (.vlfsrWrite, .no, .rd 0, false, fun _ _ _ x => if BitVec.ofNat 32 x = 0 then 1 else BitVec.ofNat 32 x),
      (.vlfsrAdvance, .no, .no, false, fun _ _ l _ => if l.getLsbD 31 then (l <<< 1) ^^^ 0x00400007 else l <<< 1),
      (.vlfsrReseed, .no, .rd 0, false, fun s j _ x => laneSeed (BitVec.ofNat 32 x) s.myTile.task.recIndex j)] :
      List ((VWord → Instr) × Use × Use × Bool × (State → Nat → U32 → Nat → U32))),
    VectorMeans row.1 fun s w =>
      { ok5 := w.h.etype == 0 && w.h.rnd == 0 && w.h.sat == 0 && (row.2.2.2.1 || w.h.capEn == 0), ud := row.2.1,
        ua := row.2.2.1, ub := .no, ctlOk := fun _ => true, lat := 2, domain := none, lfsr := some true, book := none,
        run := fun i => ⟨(List.range 64).map fun j => if i.act.getD j false then (i.lfsr.getD j 1).toNat else 0, i.act, 0,
          (List.range 64).map fun j => if i.act.getD j false then row.2.2.2.2 s j (i.lfsr.getD j 1) (i.a.getD j 0)
            else i.lfsr.getD j 1⟩ }) ∧
  VectorMeans .vamaxb (fun _ w =>
    convPlan (quantType (typeOf w) && w.h.rnd == 0 && w.h.sat == 0 && w.h.x3 == 0) (.wr 14) (.rd 0) .no none fun i =>
      ⟨List.replicate 32 (blockScale (typeOf w) (i.block 0 0)).1 ++ List.replicate 32 (blockScale (typeOf w) (i.block 0 1)).1,
        i.act, (blockScale (typeOf w) (i.block 0 0)).2 ||| (blockScale (typeOf w) (i.block 0 1)).2, i.lfsr⟩) ∧
  VectorMeans .vhad (fun _ w =>
    convPlan (decide (typeOf w ≤ 2) && w.h.rnd != 7 && decide (w.h.x3.toNat ≤ 2)) (.wr (typeOf w)) (.rd (typeOf w)) .no
      (some false) fun i =>
      { i.lanes true (fun j l => roundTo ((hadamardLanes (w.h.x3.toNat + 4) (typeOf w) i).1.getD j .nan) (typeOf w) i.rm i.sat l)
        with
        flags := (i.lanes true fun j l => roundTo ((hadamardLanes (w.h.x3.toNat + 4) (typeOf w) i).1.getD j .nan) (typeOf w)
          i.rm i.sat l).flags ||| (hadamardLanes (w.h.x3.toNat + 4) (typeOf w) i).2 })

/-- R35, R92, R125, R127, R158 to R163: the vector words that move between lines and registers. VTOS moves one element to a
scalar register; VGATH reads and VSCAT writes one element per active lane at the base plus the lane's index, a later lane
prevailing, and fault on a misaligned base; CBLD loads the constant bank or a codebook table from 16 lines. A word issues with
its walks moved; one that reaches no line in range has its result then, zeros for what it reads; one that reaches some leaves
requests for them, and its effect, on what the banks have read for it or where they let it write, is as stated last of each. -/
def Obligations.VectorTransfers : Prop :=
  (∀ (s : State) (w : VWord) (p : VPlan) (f : Fields) (al : List Int) (value : List Nat → U64),
    p = { movePlan w moveType .no (.rd (typeOf w)) .ctl (fun i => allLanes i [] 0) with
      ok5 := moveType (typeOf w) && w.h.rnd == 0 && w.h.sat == 0 && w.h.x3 == 0 && w.h.mask == 0 && w.h.nowb == 0 &&
        w.h.capEn == 0
      ctlOk := fun p => decide (p / 2 ^ 11 % 2 ^ 7 = 0) && decide (1 ≤ p % 32 ∧ p % 32 ≤ 27) } →
    (value = fun els => if typeInt (typeOf w) && typeSigned (typeOf w) then
        BitVec.ofInt 64 (decodeInt (typeOf w) (els.getD (w.b.toNat / 32 % 64) 0))
      else BitVec.ofNat 64 (els.getD (w.b.toNat / 32 % 64) 0)) →
    (VectorReady s w p f → al = s.myTile.xr.opndLines f.a (typeLines (typeOf w)) →
      ∃ t q, exec (.vtos w) s = .next t ∧ LongIssued s t (s.afterLong w.h) q ∧
        q.due = s.now + (if strided f.a then 8 else 4) ∧ (∀ n, n ≠ w.b.toNat % 32 → t.me.reg n = s.me.reg n) ∧
        OnlyFlow s t ∧ t = s.setMyTile t.myTile ∧ t.myTile.xr.v = s.myTile.xr.v ∧ t.myTile.xr.m = s.myTile.xr.m ∧
        SameBytes s t ∧
        (NoLine [(1, al)] [] → t.me.reg (w.b.toNat % 32) = value (s.myTile.elems w.h.lits (typeOf w) f.a) ∧
          t.myTile.asks = s.myTile.asks ∧ t.myTile.vjobs = s.myTile.vjobs) ∧
        (¬ NoLine [(1, al)] [] → t.me.regs = s.me.regs ∧ JobLeft s t (.vtos w)
          ⟨[], s.myTile.elems w.h.lits (typeOf w) f.a, [], [], 0, 0, false, []⟩ [(1, al)] [])) ∧
    (∀ (t : Tile) (now : Nat) (j : VJob), j.word = .vtos w → w.b.toNat % 32 ≠ 0 →
      (t.jobDone now j).x.reg (w.b.toNat % 32) = value (j.elems 1 (typeOf w) 64) ∧
        ∀ n, n ≠ w.b.toNat % 32 → (t.jobDone now j).x.reg n = t.x.reg n)) ∧
  (∀ (s : State) (w : VWord) (p : VPlan) (f : Fields) (z : Nat) (u : U64) (e : Nat → Nat) (act : Nat → Bool)
      (ls : List Int) (old : List Nat) (cap : List Nat → Option (Nat × List U32)),
    z = typeBits (typeOf w) / 8 → u = s.me.fieldValue f.a →
    (e = fun j => u.toNat + z * (s.myTile.elems w.h.lits 13 f.b).getD j 0) →
    (act = fun j => (lanesOf (s.myTile.xr.mask w.h.mask.toNat)).getD j false) →
    (ls = (((List.range 64).filter act).map fun j => ((e j / 64 : Nat) : Int)).eraseDups) →
    old = (if w.h.nowb = 1 then [] else s.myTile.elems [] (typeOf w) f.d) →
    (cap = fun new => if w.h.capEn = 1 then some (w.h.capN.toNat, (List.range 64).map fun j =>
      BitVec.ofNat 32 (if act j then new.getD j 0 else if w.h.nowb = 1 then 0 else old.getD j 0)) else none) →
    p = movePlan w (fun t => moveType t && t != 5) (.regWr (typeOf w)) .base .idx (fun i => allLanes i [] 0) →
    VectorReady s w p f →
    (u.toNat % z = 0 → ∃ t q v, exec (.vgath w) s = .next t ∧ LongIssued s t (s.afterLong w.h) q ∧
      q.due = s.now + (if s.datumTile s.cur.tile then 112 else 72) ∧ SameBytes s t ∧ OnlyVector s t ∧
      t.myTile.xr.m = s.myTile.xr.m ∧ t.myTile.xr.w = s.myTile.xr.w ∧
      v = ⟨lanesOf (s.myTile.xr.mask w.h.mask.toNat), [], s.myTile.elems w.h.lits 13 f.b, old, u, 0, false, []⟩ ∧
      (NoLine [(1, ls)] [] → q.cap = cap (List.replicate 64 0) ∧ t.myTile.asks = s.myTile.asks ∧
        t.myTile.vjobs = s.myTile.vjobs ∧ t.myTile.xr.v = (if w.h.nowb = 1 then s.myTile.xr.v
          else (s.myTile.putElems (typeOf w) f.d (List.replicate 64 0) ((List.range 64).map act)).xr.v)) ∧
      (¬ NoLine [(1, ls)] [] → JobLeft s t (.vgath w) v [(1, ls)] [] ∧
        ∀ (b : Tile) (now : Nat) (j : VJob) (new : List Nat), j.word = .vgath w → j.vin = v → j.reads = [(1, ls)] →
          (new = (List.range 64).map fun n => if act n then
            j.line (ls.idxOf ((e n / 64 : Nat) : Int)) / 2 ^ (8 * (e n % 64)) % 2 ^ (8 * z) else old.getD n 0) →
          (b.jobDone now j).xr.v = (if w.h.nowb = 1 then b.xr.v
            else (b.putElems (typeOf w) f.d new ((List.range 64).map act)).xr.v) ∧
          (b.jobDone now j).x.pend = b.x.pend.map fun q => if q.askedAt j.issued then q.result 0 (cap new) else q)) ∧
    (u.toNat % z ≠ 0 → exec (.vgath w) s = s.fault 0x0E u)) ∧
  (∀ (s : State) (w : VWord) (p : VPlan) (f : Fields) (z : Nat) (u : U64) (e : Nat → Nat) (act : Nat → Bool)
      (ls : List Int) (old : List Nat),
    z = typeBits (typeOf w) / 8 → u = s.me.fieldValue f.a →
    (e = fun j => u.toNat + z * (s.myTile.elems w.h.lits 13 f.b).getD j 0) →
    (act = fun j => (lanesOf (s.myTile.xr.mask w.h.mask.toNat)).getD j false) →
    (ls = (((List.range 64).filter act).map fun j => ((e j / 64 : Nat) : Int)).eraseDups) →
    old = s.myTile.elems [] (typeOf w) f.d →
    p = { movePlan w (fun t => moveType t && t != 5) (.regRd (typeOf w)) .base .idx (fun i => allLanes i [] 0) with
      ok5 := moveType (typeOf w) && typeOf w != 5 && w.h.rnd == 0 && w.h.sat == 0 && w.h.x3 == 0 && w.h.nowb == 0 &&
        w.h.capEn == 0 } →
    VectorReady s w p f →
    (u.toNat % z = 0 → ∃ t q v, exec (.vscat w) s = .next t ∧ LongIssued s t (s.afterLong w.h) q ∧
      q.due = s.now + (if s.datumTile s.cur.tile then 112 else 72) ∧ SameBytes s t ∧ OnlyVector s t ∧
      v = ⟨lanesOf (s.myTile.xr.mask w.h.mask.toNat), [], s.myTile.elems w.h.lits 13 f.b, old, u, 0, false, []⟩ ∧
      JobLeft s t (.vscat w) v [] ls ∧
      ∀ (b : Tile) (j : VJob) (k l : Nat) (els : List Nat) (wr : List Bool), j.word = .vscat w → j.vin = v →
        j.writes = ls → ls[k]? = some (l : Int) → l ≤ 5114 →
        (∀ n, n < 64 → act n = true → e n / 64 = l → (∀ m, n < m → m < 64 → act m = true → e m ≠ e n) →
          Memory.num (b.jobLine j k els wr).scratch (e n) z = old.getD n 0 % 2 ^ (8 * z)) ∧
        ∀ a, (∀ n, n < 64 → act n = true → e n / 64 = l → a < e n ∨ e n + z ≤ a) →
          Memory.byte (b.jobLine j k els wr).scratch a = Memory.byte b.scratch a) ∧
    (u.toNat % z ≠ 0 → exec (.vscat w) s = s.fault 0x0E u)) ∧
  (∀ row ∈ ([(.cbldConst, fun _ x k => Store.get 0 x.c k),
      (.cbldCodebook, fun w x k => Store.get 0 x.cb (256 * (w.h.x3.toNat - 1) + k))] :
      List ((VWord → Instr) × (VWord → XRes → Nat → U32))),
    ∀ (s : State) (w : VWord) (p : VPlan) (f : Fields) (ls : List Int), p = { movePlan w (fun t => t == 0) .no .image .no
      (fun i => allLanes i [] 0) with
      ok5 := w.h.etype == 0 && w.h.rnd == 0 && w.h.sat == 0 && w.h.mask == 0 && w.h.nowb == 0 && w.h.capEn == 0 } →
    (VectorReady s w p f → s.myTile.mopen = [] → ls = s.myTile.xr.opndLines f.a 16 →
      ∃ t q, exec (row.1 w) s = .next t ∧ LongIssued s t (s.afterLong w.h) q ∧ q.due = s.now + 48 ∧
        t.myTile.xr.v = s.myTile.xr.v ∧ t.me.regs = s.me.regs ∧ OnlyFlow s t ∧ SameBytes s t ∧
        (NoLine [(1, ls)] [] → (∀ k, k < 256 → row.2 w t.myTile.xr k = 0) ∧ t.myTile.asks = s.myTile.asks) ∧
        (¬ NoLine [(1, ls)] [] → t.myTile.xr.c = s.myTile.xr.c ∧ t.myTile.xr.cb = s.myTile.xr.cb ∧
          JobLeft s t (row.1 w) ⟨[], [], [], [], 0, 0, false, []⟩ [(1, ls)] [])) ∧
    ∀ (t : Tile) (now k : Nat) (j : VJob), j.word = row.1 w → k < 256 →
      row.2 w (t.jobDone now j).xr k = BitVec.ofNat 32 ((j.elems 1 13 256).getD k 0))

/-- R37, R58, R59, R65, R76, R125: elements and their values. Writing a vector register leaves its written lanes with the new
elements, zero above their width, and every other lane as it was; writing a mask register leaves the written bits and zeros; the
elements of an operand in lines are the consecutive fields of the lines read, and a destination's line keeps what is not
written; and rounding a value that a type holds gives back its code without a flag, in every mode. -/
def Obligations.ElementsAndRounding : Prop :=
  (∀ (t : Tile) (ty n j : Nat) (new : List Nat) (wr : List Bool), j < 64 →
    ((t.putElems ty (.vreg n) new wr).xr.lane n j =
      if wr.getD j false then new.getD j 0 % 2 ^ typeBits ty else t.xr.lane n j) ∧
    ∀ m, m ≠ n → (t.putElems ty (.vreg n) new wr).xr.lane m j = t.xr.lane m j) ∧
  (∀ (t : Tile) (ty n j : Nat) (new : List Nat) (wr : List Bool), j < 64 → 0 < n →
    bit ((t.putElems ty (.mask n) new wr).xr.mask n) j = (if wr.getD j false then new.getD j 0 % 2 else 0) ∧
    ∀ m, m ≠ n → (t.putElems ty (.mask n) new wr).xr.mask m = t.xr.mask m) ∧
  (∀ (t : Tile) (lits : List U32) (ty n j : Nat), j < 64 →
    (t.elems lits ty (.vreg n)).getD j 0 = t.xr.lane n j % 2 ^ typeBits ty ∧
    (t.elems lits ty (.scalar n)).getD j 0 = (t.x.reg n).toNat % 2 ^ typeBits ty) ∧
  (∀ (j : VJob) (op ty n e k L : Nat) (ls : List Int), j.reads.find? (fun r => r.1 == op) = some (op, ls) → e < n →
    k = e * typeBits ty / 512 → k < ls.length → j.got.find? (fun g => g.1 == op && g.2.1 == k) = some (op, k, L) →
    L < 2 ^ 512 → (j.elems op ty n).getD e 0 = L / 2 ^ (e * typeBits ty % 512) % 2 ^ typeBits ty) ∧
  (∀ (t u : Tile) (j : VJob) (k l n m : Nat) (els : List Nat) (wr : List Bool) (w : VWord) (p : VPlan),
    vectorPlan t.xr t.task.recIndex j.word = some (w, p) → j.writes[k]? = some (l : Int) → l ≤ 5114 →
    n < min 64 (512 / typeBits p.ud.ty) → m = k * min 64 (512 / typeBits p.ud.ty) + n → u = t.jobLine j k els wr →
    leNat (u.line l) / 2 ^ (n * typeBits p.ud.ty) % 2 ^ typeBits p.ud.ty =
      (if wr.getD m false then els.getD m 0 % 2 ^ typeBits p.ud.ty
       else leNat (t.line l) / 2 ^ (n * typeBits p.ud.ty) % 2 ^ typeBits p.ud.ty)) ∧
  (∀ (t bits rm : Nat) (sat : Bool) (sr : U32), t ≤ 5 → bits < 2 ^ typeBits t → rm ≤ 5 →
    (∃ n m e, decodeFloat t bits = .fin n m e false) → roundTo (decodeFloat t bits) t rm sat sr = (bits, 0)) ∧
  (∀ (t bits rm : Nat) (sat : Bool) (sr : U32), 9 ≤ t → t ≤ 13 → bits < 2 ^ typeBits t → rm ≤ 5 →
    roundTo (.ofInt (decodeInt t bits)) t rm sat sr = (bits, 0)) ∧
  (∀ (t : Nat) (sat : Bool) (sr : U32), t ≤ 4 → roundTo .nan t 0 sat sr = (nanCode t, flNV) ∧
    (decodeFloat t (nanCode t)).isNan = true)

/-- R164 to R179: the matrix words. Each runs with the accumulator contents, the slot lines and the flags that its rules
give: MZERO zeros, MLDA and MFILL the lines of their ring, MCOPY and MTRN another accumulator or its transpose, MSPILL the
image of its accumulator, the products, scalings and sums as R172, R173, R176 and R177 compute them; MOWN.release frees its
accumulators. -/
def Obligations.MatrixWords : Prop :=
  (∀ (s : State) (w : MWord) (p : MPlan) (ok : Bool), ok = (otherFields w false true false false true && onlyBits w 30) →
    p = { MPlan.base w 1 4 (fun t _ => accOut t w.acc.toNat w.tC.toNat (List.replicate 4096 (0, 0))) with ok5 := ok } →
    MatrixReady s w p → MatrixRuns (.mzero w) s p
      ⟨[(w.acc.toNat, some (List.replicate 4096 0, w.tC.toNat))], [], 0, s.myTile.xr.lfsr⟩) ∧
  (∀ (s : State) (w : MWord) (p : MPlan) (run : Tile → MRead → MOut), p = { MPlan.base w 16 24 run with
      ok5 := otherFields w true true true false true && onlyBits w 30 && w.tA == (if w.tC = 2 then 12 else 0)
      reads := [⟨w.ringA.toNat, w.popA == 1, 1, 256⟩], doms := [(1, w.ringA.toNat)] } →
    MatrixReady s w p → MatrixRuns (.mlda w) s p ⟨[(w.acc.toNat, some
      ((List.range 4096).map fun i => lineAt (matrixIn s p w).a (i / 16) / 2 ^ (i % 16 * 32) % 2 ^ 32, w.tC.toNat))], [], 0,
      s.myTile.xr.lfsr⟩) ∧
  (∀ (s : State) (w : MWord) (p : MPlan) (run : Tile → MRead → MOut), p = { MPlan.base w 16 16 run with
      ok5 := otherFields w false false false false false && onlyBits w 20 && decide (w.p4.toNat < 2 ^ 26)
      source := some (accSOf w), rd := [accSOf w] } →
    MatrixReady s w p → MatrixRuns (.mcopy w) s p
      ⟨[(w.acc.toNat, some (s.myTile.accElems (accSOf w), s.myTile.tagOf (accSOf w)))], [], 0, s.myTile.xr.lfsr⟩) ∧
  (∀ (s : State) (w : MWord) (p : MPlan) (run : Tile → MRead → MOut), p = { MPlan.base w 16 24 run with
      ok5 := otherFields w false true false false false && onlyBits w 20 && decide (w.p4.toNat < 2 ^ 26) && w.tC != 1
      source := some (accSOf w), rd := [accSOf w], tags := true } →
    MatrixReady s w p → MatrixRuns (.mtrn w) s p ⟨[(w.acc.toNat, some ((List.range 4096).map fun i =>
      (s.myTile.accElems (accSOf w)).getD (64 * (i % 64) + i / 64) 0, w.tC.toNat))], [], 0, s.myTile.xr.lfsr⟩) ∧
  (∀ (s : State) (w : MWord) (p : MPlan) (run : Tile → MRead → MOut), p = { MPlan.base w 16 40 run with
      ok5 := otherFields w false false true false false && onlyBits w 30 && w.popA == 1
      fill := some (w.ringA.toNat, 257), rd := [w.acc.toNat], wr := [] } →
    MatrixReady s w p → MatrixRuns (.mspill w) s p ⟨[], accLines (s.myTile.accElems w.acc.toNat) ++
      [leBytes 64 (s.myTile.tagOf w.acc.toNat)], 0, s.myTile.xr.lfsr⟩) ∧
  (∀ (s : State) (w : MWord) (p : MPlan) (run : Tile → MRead → MOut), p = { MPlan.base w 16 40 run with
      ok5 := otherFields w false false true false false && onlyBits w 30, reads := [⟨w.ringA.toNat, w.popA == 1, 1, 257⟩]
      refuse := fun q => decide (3 ≤ lineAt q.a 256) } →
    MatrixReady s w p → MatrixRuns (.mfill w) s p ⟨[(w.acc.toNat, some
      ((List.range 4096).map fun i => lineAt (matrixIn s p w).a (i / 16) / 2 ^ (i % 16 * 32) % 2 ^ 32,
       lineAt (matrixIn s p w).a 256))], [], 0, s.myTile.xr.lfsr⟩) ∧
  (∀ row ∈ ([(.mma, mmaRun, fun w => mmaPlan w (((((w.tA == 1 || w.tA == 2) && w.tB == w.tA) ||
          ((w.tA == 3 || w.tA == 4) && (w.tB == 3 || w.tB == 4))) && w.tC == 0 ||
          ((w.tA == 9 || w.tA == 10) && (w.tB == 9 || w.tB == 10) && w.tC == 2)) && w.scA == 0 && w.scB == 0)),
      (.mmaq, mmaRun, fun w => mmaPlan w (mmaqType w.tA && mmaqType w.tB && w.tC == 0 && w.scA != 0 && w.scB != 0)),
      (.mmal, mmalRun, fun w => { productPlan w (w.tA == 1 && w.tB == 6 && w.tC == 0 && w.scA == 0 && w.scB == 1 &&
          w.spec == 0 && w.trB == 0 && productFields w 24)
          (operandLines w.tA w.trA 0 (256 * (w.ksteps.toNat + 1)))
          (64 * (w.ksteps.toNat + 1) + 256 * (w.ksteps.toNat + 1) / 32) (16 * (w.ksteps.toNat + 1)) 7 (mmalRun w) with
          book := some (tableOf w) }),
      (.mmas, mmasRun, fun w => productPlan w (w.tA == 7 && w.tB == 7 && w.tC == 1 && w.scA == 0 && w.scB == 0 &&
          w.spec == 1 && w.trA == 0 && w.trB == 0 && productFields w 26) (16 * (w.ksteps.toNat + 1))
          (8 * (w.ksteps.toNat + 1)) ((w.ksteps.toNat + 2) / 2) 8 (mmasRun w)),
      (.msta, mstaRun, fun w => { MPlan.base w 16 40 (mstaRun w) with
          ok5 := otherFields w true true true true true && onlyBits w 9 && w.popA == 1 && mstaTypes w && mrndOf w != 7 &&
            !(cenOf w && w.tC == 2)
          fill := some (w.ringA.toNat, mstaLines w), rd := [w.acc.toNat], wr := []
          want := fun t => t.tagOf w.acc.toNat == 1, doms := [(1, w.ringA.toNat)], tags := true
          axes := if w.scA = 1 then [(1, w.ringA.toNat, false)] else [], cen := cenOf w, rnd := mrndOf w }),
      (.mscal, mscalRun, fun w => { MPlan.base w 16 16 (mscalRun w) with
          ok5 := otherFields w false true false false true && onlyBits w 9 && mrndOf w != 7 && !(cenOf w && w.tC == 2)
          rd := [w.acc.toNat], tags := true, cen := cenOf w, rnd := mrndOf w }),
      (.madd, fun w t q => maddRun w t q (t.accElems (accSOf w)), fun w => { MPlan.base w 16 16
            (fun t q => maddRun w t q (t.accElems (accSOf w))) with
          ok5 := otherFields w false true false false true && onlyBits w 20 && mrndOf w != 7
          source := some (accSOf w), rd := [w.acc.toNat, accSOf w], tags := true, rnd := mrndOf w }),
      (.mred, fun w t q => maddRun w t q (elemsOfLines q.a), fun w => { MPlan.base w 16 24
            (fun t q => maddRun w t q (elemsOfLines q.a)) with
          ok5 := otherFields w false true true false true && onlyBits w 26 && mrndOf w != 7
          reads := readsA w 256, rd := [w.acc.toNat], doms := [(1, w.ringA.toNat)], tags := true, rnd := mrndOf w })] :
      List ((MWord → Instr) × (MWord → Tile → MRead → MOut) × (MWord → MPlan))),
    ∀ (s : State) (w : MWord), MatrixReady s w (row.2.2 w) →
      MatrixRuns (row.1 w) s (row.2.2 w) (row.2.1 w s.myTile (matrixIn s (row.2.2 w) w))) ∧
  (∀ (s : State) (w : MWord) (p : MPlan) (mo : Nat) (run : Tile → MRead → MOut), p = mownPlan w mo run →
    MatrixReady s w p →
    (mo = 0 → MatrixRuns (.mownClaim w) s p ⟨[], [], 0, s.myTile.xr.lfsr⟩) ∧
    (mo = 1 → ∃ t, exec (.mownRelease w) s = .next t ∧ t.me.pc = s.me.pc + 24 ∧ t.me.regs = s.me.regs ∧ SameBytes s t ∧
      ∀ n, n < 48 → (bit (mownMask w) n = 1 → t.myTile.ownerOf n = .nobody ∧ t.myTile.tagOf n = 0 ∧
          ∀ k, (t.myTile.accElems n).getD k 0 = 0) ∧
        (bit (mownMask w) n = 0 → t.myTile.ownerOf n = s.myTile.ownerOf n ∧ t.myTile.tagOf n = s.myTile.tagOf n ∧
          t.myTile.accElems n = s.myTile.accElems n)))

/-- R187, R188, R192: the engine words. A command that passes its checks stands at the end of its core's FIFO with the
registers that it names as they stood at issue, its done token's place reserved and its lines locked, those behind a region-1
address not (notes/assumptions 120); on the X-core, with an
illegal field, an unconnected done port or a failed check it faults and takes no place. -/
def Obligations.EngineWords : Prop :=
  ∀ row ∈ ([(.cpy, 0xC0), (.cpyo, 0xC1), (.cpyg, 0xC2), (.cpys, 0xC3), (.cpyr, 0xC4), (.cpyq, 0xC5), (.cpydq, 0xC6),
      (.pref, 0xC7), (.cflush, 0xC8), (.xfft, 0xC9), (.xifft, 0xCA), (.xhad, 0xCB), (.xexp, 0xCC), (.xtrl, 0xCD),
      (.sacc, 0xCE), (.amo, 0xCF), (.publ, 0xD0), (.disc, 0xD1), (.lxfer, 0xD2), (.nxtx, 0xD3), (.nxarm, 0xD4)] :
      List ((EWord → Instr) × Nat)),
    (∀ (s : State) (w : EWord), EngineReady s row.2 w →
      ∃ t c q, exec (row.1 w) s = .next t ∧ LongIssued s t (s.afterLong w.h) q ∧
        t.myTile.fifo (fifoOf s.cur.core) = s.myTile.fifo (fifoOf s.cur.core) ++ [c] ∧ c.op = row.2 ∧ c.w = w ∧
        c.pc = s.me.pc ∧ c.ed = s.me.reg w.ed.toNat ∧ c.es = s.me.reg w.es.toNat ∧ c.eh = s.me.reg w.eh.toNat ∧
        c.eb = s.me.reg w.eb.toNat ∧ c.issued = s.now ∧ c.started = false ∧ c.plan = [] ∧ c.faulted = false ∧
        (c.srcLock, c.dstLock) = c.ranges s.myTile ∧
        (∀ d, w.doneEn = 1 → outQueue s.cur.core w.donePort.toNat = some d → c.doneQ = some d ∧
          (t.myTile.queue d).resv = (s.myTile.queue d).resv + 1) ∧
        t.me.regs = s.me.regs ∧ OnlyFlow s t ∧ SameBytes s t) ∧
    (∀ (s : State) (w : EWord), (s.cur.core = .X ∨ ewordCodes row.2 w = false ∨ (row.2 = 0xD4 ∧ s.cur.core ≠ .L)) →
      exec (row.1 w) s = s.fault 0x01 (headUnit (row.1 w))) ∧
    (∀ (s : State) (w : EWord) (v : U64), ewordCodes row.2 w = true → s.unstamped w.h.stamp = false → s.cur.core = .L →
      ewordOperand (euseOf row.2) w = some v → exec (row.1 w) s = s.fault 0x04 v) ∧
    (∀ (s : State) (w : EWord) (code : Nat) (v : U64), ewordCodes row.2 w = true → s.cur.core = .L →
      ewordOperand (euseOf row.2) w = none → w.doneEn = 0 → Due s w.h.stamp → (∀ r, s.me.pending s.now r = false) →
      (∀ l, s.myTile.writeLocked l = false ∧ s.myTile.writeLeft s.cur.core s.now l = false) → s.myTile.loadQ.length < 32 →
        gathers row.2 = false →
      s.checkCommand s.cur.tile (s.command row.2 w) = some (code, v) → exec (row.1 w) s = s.fault code v)

/-- R333, R348, R352: the context commands of HUBCMD. While a command is in progress every other is dropped; a reserved bit or
an unassigned operation ends with status 1; CREATE_CONTEXT writes the reset record and makes the context, UPDATE_CONTEXT
puts a valid record into force and refuses another, DESTROY_CONTEXT leaves no such context, and the end of a command
shows in HUBRES and is told to the host. -/
def Obligations.ContextCommands : Prop :=
  (∀ (s : State) (v : U64), s.hubFree = false → ∀ i ∈ [Instr.createContext v, .updateContext v, .destroyContext v,
    .definePartition v, .grant v, .revoke v, .partitionReset v, .saveTile v, .savePartition v, .hubcmd v],
    exec i s = .next s) ∧
  (∀ (s : State) (v : U64), s.hubFree = true → (hubOp v = 0 ∨ 9 < hubOp v ∨ hubReserved v = true) →
    ∃ t, exec (.hubcmd v) s = .next t ∧ Hubbed t v 1 ∧ SameBytes s t ∧ t.ctxs = s.ctxs ∧ t.parts = s.parts) ∧
  (∀ (s : State) (v : U64) (a : Nat), HubTakes s 1 v → s.ctx (hubCtx v) = none → a = (s.devGet 0x1008).toNat →
    a % 256 = 0 → physOk a 256 = true →
    ∃ t c, exec (.createContext v) s = .next t ∧ Hubbed t v 0 ∧ t.ctx (hubCtx v) = some c ∧ c.recAddr = a ∧
      c.cfg.closure = 65536 ∧ c.cfg.qlog = 4 ∧ c.cfg.mig = 4096 ∧ c.cfg.age = 64 ∧ c.cfg.nframes = 0 ∧ c.cfg.quantum = 0 ∧
      c.cfg.vw = [] ∧ c.qHead = 0 ∧ c.qTail = 0 ∧ c.refused = 0 ∧
      Memory.bytes t.hbm a 256 = leBytes 256 (65536 * 2 ^ 1888 + 4 * 2 ^ 1832 + 4096 * 2 ^ 1816 + 64 * 2 ^ 1792) ∧
      ∀ b, b < a ∨ a + 256 ≤ b → Memory.byte t.hbm b = Memory.byte s.hbm b) ∧
  (∀ (s : State) (v : U64) (c : Ctx) (bs : List Byte), HubTakes s 2 v → s.ctx (hubCtx v) = some c →
    s.readPhys c.recAddr 256 = some bs →
    ∃ t c', exec (.updateContext v) s = .next t ∧ t.ctx (hubCtx v) = some c' ∧ SameBytes s t ∧ c'.qHead = c.qHead ∧
      c'.qTail = c.qTail ∧ (ctxRecBad (leNat bs) = true → Hubbed t v 2 ∧ c' = c) ∧
      (ctxRecBad (leNat bs) = false → Hubbed t v 0 ∧ c'.cfg = ctxRecOf (leNat bs))) ∧
  (∀ (s : State) (v : U64) (c : Ctx), HubTakes s 3 v → s.ctx (hubCtx v) = some c →
    ∃ t, exec (.destroyContext v) s = .next t ∧ Hubbed t v 0 ∧ t.ctx (hubCtx v) = none) ∧
  (∀ (s : State) (st : Nat), s.hubBusy = some st →
    ∃ t, exec .hubCommandDone s = .next t ∧ t.devGet 0x1010 = BitVec.ofNat 64 (2 ^ 63 + st) ∧ t.hubBusy = none ∧
      t.out = s.out ++ [.msix 2] ∧ SameBytes s t)

/-- R332, R336, R352: the partition commands of HUBCMD: a definition, a grant and its revocation, a reset, and the requests
to save a tile or a partition. -/
def Obligations.PartitionCommands : Prop :=
  (∀ (s : State) (v : U64) (bs : List Byte) (p : Nat), HubTakes s 4 v → p = hubPart v →
    physOk (s.devGet 0x1008).toNat 256 = true → s.readPhys (s.devGet 0x1008).toNat 256 = some bs →
    Store.find s.parts p = none → (∀ e ∈ s.parts, ∀ g ∈ e.2.tiles, leNat bs / 2 ^ g % 2 = 0) →
    ∃ t pt, exec (.definePartition v) s = .next t ∧ Hubbed t v 0 ∧ Store.find t.parts p = some pt ∧
      pt.datum = hubDatum v ∧ pt.frameOrg = 0 ∧ pt.grants = [] ∧ pt.groups = [] ∧ SameBytes s t ∧
      (∀ g, g ∈ pt.tiles ↔ g < 640 ∧ leNat bs / 2 ^ g % 2 = 1) ∧
      ∀ n, n < 16 → Store.get 0 pt.enw n = BitVec.ofNat 32 (leNat bs / 2 ^ (1024 + 32 * n))) ∧
  (∀ (s : State) (v : U64) (pt : Part) (c : Ctx) (p x : Nat), Store.find s.parts p = some pt → p = hubPart v →
    s.ctx x = some c → x = hubCtx v →
    (HubTakes s 5 v → (pt.datum = true → ∀ y ∈ pt.grants, y = x) →
      ∃ t pt', exec (.grant v) s = .next t ∧ Hubbed t v 0 ∧ Store.find t.parts p = some pt' ∧ x ∈ pt'.grants ∧
        (∀ y ∈ pt.grants, y ∈ pt'.grants) ∧ pt'.tiles = pt.tiles ∧ SameBytes s t) ∧
    (HubTakes s 5 v → pt.datum = true → (∃ y ∈ pt.grants, y ≠ x) →
      ∃ t, exec (.grant v) s = .next t ∧ Hubbed t v 2 ∧ t.parts = s.parts) ∧
    (HubTakes s 6 v → pt.grants.Nodup →
      ∃ t pt', exec (.revoke v) s = .next t ∧ Hubbed t v 0 ∧ Store.find t.parts p = some pt' ∧ x ∉ pt'.grants ∧
        pt'.tiles = pt.tiles ∧ SameBytes s t)) ∧
  (∀ (s : State) (v : U64) (pt : Part), HubTakes s 7 v → Store.find s.parts (hubPart v) = some pt →
    ∃ t, exec (.partitionReset v) s = .next t ∧ Hubbed t v 0 ∧ t.devGet 0x2010 = 0 ∧ t.devGet 0x2018 = 0 ∧
      ∀ e ∈ t.parts, e.1 = hubPart v → e.2.groups = [] ∧ e.2.frameOrg = 0 ∧ e.2.pendOrg = none ∧ e.2.enw = [] ∧
        e.2.sstepAt = none ∧ e.2.round = none) ∧
  (∀ (s : State) (v : U64) (p : Nat) (pt : Part), HubTakes s 8 v → s.partOf (hubTile v) = some (p, pt) →
    Store.find s.parts p = some pt → (pt.datum = true → s.holdsCard p = false) → (s.tile (hubTile v)).stoppable = true →
    ∃ t, exec (.saveTile v) s = .next t ∧ Hubbed t v 0 ∧ (t.tile (hubTile v)).stop = some none ∧
      (t.tile (hubTile v)).l.stopIn = true ∧ (t.tile (hubTile v)).x = (s.tile (hubTile v)).x ∧ SameBytes s t) ∧
  (∀ (s : State) (v : U64) (pt : Part), HubTakes s 9 v → Store.find s.parts (hubPart v) = some pt →
    (pt.datum = true → s.holdsCard (hubPart v) = false) →
    ∃ t, exec (.savePartition v) s = .next t ∧ Hubbed t v 0 ∧ SameBytes s t ∧
      ∀ g ∈ pt.tiles, (s.tile g).stoppable = true → (t.tile g).stop = some none ∧ (t.tile g).l.stopIn = true)

/-- R311, R321, R323, R325, R328, R343, R374: translation at work. A write to DXUWORD puts the word into force for the page that
DXUPAGE names, in the table too, makes tasks parked on it ready once it is present, and ready every unstarted record parked on
it; the acknowledge counts it once no request translated under the old word is open; a migration ends with the page at its new
frame, its old frame free and its counters zero; a settlement forgets its group. -/
def Obligations.TranslationUpdates : Prop :=
  (∀ (s : State) (x : Nat) (w : U64) (c : Ctx), s.ctx x = some c → c.dxuPage < 2 ^ 19 →
    (∀ n d, s.card n = some d → d.heldWr = []) →
    ∃ t c', exec (.dxuUpdate x w) s = .next t ∧ t.ctx x = some c' ∧ Store.get 0 c'.pages c.dxuPage = w ∧
      (∀ q, q ≠ c.dxuPage → Store.get 0 c'.pages q = Store.get 0 c.pages q) ∧ c'.acks = c.acks ++ [s.now] ∧ c'.dxuWord = w ∧
      Memory.bytes t.hbm (c.cfg.tbase + 8 * c.dxuPage) 8 = leBytes 8 w.toNat ∧ t.tiles = s.tiles ∧
      ∀ k v, Store.find s.saved k = some v → v.kind = 1 → v.tile.task.ctx = x →
        faultPage v.tile.task.windows v.fault = c.dxuPage → pageAbsent w.toNat = false →
        Store.find t.saved k = some { v with ready := true }) ∧
  (∀ (s : State) (x n : Nat) (w : U64) (c : Ctx) (d : Card), s.ctx x = some c → s.card n = some d → d.ctx = x →
    (∀ n d, s.card n = some d → d.heldWr = []) →
    ∃ t d', exec (.dxuUpdate x w) s = .next t ∧ t.card n = some d' ∧ d'.redeal = d.redeal ∧
      d'.parked = d.parked.map fun q => if q.page = c.dxuPage then { q with ready := true } else q) ∧
  (∀ (s : State) (x a : Nat) (c : Ctx) (rest : List Nat), s.ctx x = some c → c.acks = a :: rest →
    (a < s.now → s.openSince x a = false →
      exec (.dxuUpdateAck x) s = .next (s.setCtx x { c with acks := rest, dxuAck := c.dxuAck + 1 })) ∧
    (s.openSince x a = true → exec (.dxuUpdateAck x) s = .next s)) ∧
  (∀ (s : State) (x page : Nat) (c : Ctx) (m : Mig) (w : U64), s.ctx x = some c → s.migs = [m] → m.ctx = x →
    m.page = page → m.due ≤ s.now → w = Store.get 0 c.pages page → w = m.old → w.toNat / 2 ^ 62 = 1 →
    (bit w.toNat 15 = 1 → pageFrame w.toNat % 2 = 0) → m.stack < 16 → m.frame < 30516 →
    (∀ a, a = serviceFrame (pageStack w.toNat) + pageFrame w.toNat / 8 →
      a < c.cfg.cbase + 8 * page ∨ c.cfg.cbase + 8 * page + 8 ≤ a) →
    ∃ t c', exec (.migrationComplete x page) s = .next t ∧ t.ctx x = some c' ∧ t.migs = [] ∧
      pageStack (Store.get 0 c'.pages page).toNat = m.stack ∧ pageFrame (Store.get 0 c'.pages page).toNat = m.frame ∧
      Memory.num t.hbm (c.cfg.cbase + 8 * page) 8 = 0 ∧
      bit (Memory.byte t.hbm (serviceFrame (pageStack w.toNat) + pageFrame w.toNat / 8)).toNat (pageFrame w.toNat % 8) = 1) ∧
  (∀ (s : State) (x grp n : Nat) (c : Ctx), s.ctx x = some c → Store.find c.settle grp = some n →
    (n ≤ s.now → ∃ t c', exec (.twinSettlement x grp) s = .next t ∧ t.ctx x = some c' ∧
      Store.find c'.settle grp = none ∧ c'.twins = c.twins) ∧
    (s.now < n → exec (.twinSettlement x grp) s = .next s))

/-- R268, R349, R351, R362: the device registers and the host's accesses. A triple is committed only for an anchor more than
1,024 clocks ahead while none is pending, and takes effect at its anchor; a shadow pool is sized within 192 while it is
empty; NQSTAT's overflow bit is cleared by a 1; the host's transmit tail, DXUPAGE and the plain registers hold what is
written, in their width; a flow entry reads 0 in its reserved bits, and one armed anew counts its frames from 0. A host access
of the HDM range, or of the host's own memory, reads and writes its bytes; one of a register takes 8 bytes at a multiple of 8,
or ends in an error; and an acknowledge ends the oldest host write outstanding, the last of a peer's message answering it. -/
def Obligations.HostAndDevices : Prop :=
  (∀ s : State, s.ptpPend = none → s.now + 1024 < (s.devGet 0x3000).toNat →
    ∃ t, exec (.ptpcommit 1) s = .next t ∧ t.ptp = s.ptp ∧ t.devGet 0x3018 = 1 ∧ SameBytes s t ∧
      t.ptpPend = some ((s.devGet 0x3000).toNat, (s.devGet 0x3008).toNat, (s.devGet 0x3010).toNat)) ∧
  (∀ s : State, (s.ptpPend.isSome = true ∨ (s.devGet 0x3000).toNat ≤ s.now + 1024) →
    ∃ t, exec (.ptpcommit 1) s = .next t ∧ t.ptp = s.ptp ∧ t.ptpPend = s.ptpPend ∧ (t.devGet 0x3018).getLsbD 1 = true ∧
      SameBytes s t) ∧
  (∀ (s : State) (d a r : Nat), s.ptpPend = some (d, a, r) → d ≤ s.now →
    ∃ t, exec .ptpTripleEffect s = .next t ∧ t.ptp = (d, a, r) ∧ t.ptpPend = none ∧ SameBytes s t ∧
      (t.devGet 0x3018).getLsbD 0 = false) ∧
  (∀ (s : State) (n : Nat) (v : U64), n < 4 → v.toNat ≤ 192 → s.poolUsed n = 0 →
    ∃ t, exec (.shadow n v) s = .next t ∧ t.devGet (0x4000 + 8 * n) = v ∧ SameBytes s t ∧
      ∀ off, off ≠ 0x4000 + 8 * n → t.devGet off = s.devGet off) ∧
  (∀ (s : State) (n : Nat) (v : U64), (192 < v.toNat ∨ s.poolUsed n ≠ 0) → exec (.shadow n v) s = .next s) ∧
  (∀ (s : State) (v : U64), v.getLsbD 63 = true →
    ∃ t, exec (.nqstat v) s = .next t ∧ (t.devGet 0x2020).getLsbD 63 = false ∧ SameBytes s t ∧
      ∀ j, j < 63 → (t.devGet 0x2020).getLsbD j = (s.devGet 0x2020).getLsbD j) ∧
  (∀ (s : State) (v : U64), s.htxHead = v.toNat →
    ∃ t, exec (.htxtail v) s = .next t ∧ t.devGet 0x3208 = v ∧ t.htxHead = s.htxHead ∧ t.txq = s.txq ∧ SameBytes s t) ∧
  (∀ (s : State) (x : Nat) (v : U64) (c : Ctx), x < 4096 → s.ctx x = some c →
    ∃ t, exec (.registerWrite (0x1000000 + 0x1000 * x + 0x20) v) s = .next t ∧ SameBytes s t ∧
      t.ctx x = some { c with dxuPage := v.toNat % 2 ^ 19 }) ∧
  (∀ e ∈ ([(0x100, 8), (0x1008, 64), (0x2000, 64), (0x2008, 5), (0x2010, 32), (0x3000, 64), (0x3008, 64), (0x3010, 64),
      (0x3020, 32), (0x3100, 64), (0x3108, 64), (0x3118, 64), (0x3200, 64)] : List (Nat × Nat)),
    ∀ (s : State) (v : U64), ∃ t, exec (.registerWrite e.1 v) s = .next t ∧ SameBytes s t ∧
      t.devGet e.1 = BitVec.ofNat 64 (v.toNat % 2 ^ e.2) ∧ ∀ off, off ≠ e.1 → t.devGet off = s.devGet off) ∧
  (∀ (s : State) (f : Nat) (v : U64), f < 1024 →
    (∃ t, exec (.registerWrite (0x3000000 + 16 * f) v) s = .next t ∧ SameBytes s t ∧
      ∀ j, (t.devGet (0x3000000 + 16 * f)).getLsbD j = (decide (16 ≤ j) && v.getLsbD j)) ∧
    ∃ t, exec (.registerWrite (0x3000000 + 16 * f + 8) v) s = .next t ∧ SameBytes s t ∧
      t.devGet (0x3000000 + 16 * f + 8) = v ∧
      (v.getLsbD 59 = true → (s.devGet (0x3000000 + 16 * f + 8)).getLsbD 59 = false → Store.get 0 t.flowSeq f = 0)) ∧
  (∀ (s : State) (off : Nat) (bs : List Byte),
    (bs.length = 8 → off ∈ [0x100, 0x1008, 0x2000, 0x2008, 0x2010, 0x3000, 0x3008, 0x3010, 0x3020, 0x3100, 0x3108, 0x3118,
        0x3200] → exec (.hostMemoryAccess (.bar0 off) 8 (some bs)) s = exec (.registerWrite off (BitVec.ofNat 64 (leNat bs))) s) ∧
    (∃ t, exec (.hostMemoryAccess (.bar0 (8 * off)) 8 none) s = .next t ∧ SameBytes s t ∧
      t.out = s.out ++ [.hostRead (leBytes 8 (s.devRead (8 * off)).toNat) false]) ∧
    (bs.length ≠ 8 ∨ off % 8 ≠ 0 → exec (.hostMemoryAccess (.bar0 off) bs.length (some bs)) s = .next (s.emit .hostError) ∧
      exec (.hostMemoryAccess (.bar0 off) bs.length none) s = .next (s.emit .hostError))) ∧
  (∀ (s : State) (h : Nat) (bs : List Byte),
    (∃ t, exec (.hostMemoryAccess (.own h) bs.length (some bs)) s = .next t ∧ Memory.bytes t.host h bs.length = bs ∧
      (∀ a, a < h ∨ h + bs.length ≤ a → Memory.byte t.host a = Memory.byte s.host a) ∧ t.hbm = s.hbm ∧ t.tiles = s.tiles ∧
      t.out = s.out) ∧
    (s.hostLost h bs.length = false → exec (.hostMemoryAccess (.own h) bs.length none) s =
      .next (s.emit (.hostRead (Memory.bytes s.host h bs.length) false)))) ∧
  (∀ (s : State) (h : Nat) (bs : List Byte), physOk h bs.length = true →
    ∃ t, exec (.hostMemoryAccess (.hdm h) bs.length (some bs)) s = .next t ∧ Memory.bytes t.hbm h bs.length = bs ∧
      (∀ a, a < h ∨ h + bs.length ≤ a → Memory.byte t.hbm a = Memory.byte s.hbm a) ∧ t.host = s.host ∧
      t.tiles = s.tiles ∧ t.out = s.out) ∧
  (∀ (s : State) (h n : Nat), physOk h n = true → s.poisoned h n = false →
    exec (.hostMemoryAccess (.hdm h) n none) s = .next (s.emit (.hostRead (Memory.bytes s.hbm h n) false))) ∧
  (∀ (s : State) (h : HostWriter) (rest : List HostWriter), s.hostAcks = h :: rest →
    ∃ t, exec .hostAcknowledge s = .next t ∧ t.hostAcks = rest ∧ SameBytes s t ∧ t.tiles = s.tiles ∧
      (∀ port src tag, h = .peer port src tag → h ∉ rest → ∃ hdr, t.out = s.out ++ [.peer port hdr (List.replicate 120 0)] ∧
        hdr.toNat / 2 ^ 58 = 16 ∧ hdr.toNat / 2 ^ 50 % 2 ^ 8 = src % 2 ^ 8 ∧ hdr.toNat / 2 ^ 30 % 2 ^ 12 = tag % 2 ^ 12) ∧
      (h ∈ rest → t.out = s.out) ∧ ((∀ port src tag, h ≠ .peer port src tag) → t.out = s.out))

/-- R353 to R361: links and ports. A peer's write or read of one line that an inbound window lets through to HBM is performed
and answered in a flit, and is refused where no window does; a reply reaches the word or the command that waits for it, but for
a datum-mode request after two replays (notes/assumptions 30); a replay is counted; a reserved flit is dropped and counted, one
of another class does nothing here (notes/assumptions 10); a damaged frame is counted, one that no flow takes goes to the host
receive ring, or is dropped and counted where that is full, and one whose flow is bound to a ring with an empty tail slot claims
it, its bytes going to the banks; a claim whose clock has come and whose bytes are written fills its slot and puts its token
into q5; and the first pending frame of an idle port leaves once its launch time has come. The clocks that a frame occupies its
port are the model's reading of 800 Gb/s (notes/assumptions 21). -/
def Obligations.LinksAndPorts : Prop :=
  (∀ (s : State) (port src tag a x ia : Nat) (bs : List Byte), bs.length = 64 → s.inbound src a true = some (x, ia) →
    port ∉ s.downPorts → .peer port src tag ∉ s.hostAcks →
    regionOf ia = 0 → bitsAt ia 40 8 = 0 → ∀ pa, (s.countFrom (portDie port) x ia false).reach x [] ia = .hbm pa →
    ∃ t hdr, exec (.peerWrite port src tag a bs) s = .next t ∧ Memory.bytes t.hbm pa 64 = bs ∧ t.host = s.host ∧
      t.tiles = s.tiles ∧ hdr.toNat / 2 ^ 58 = 16 ∧ hdr.toNat / 2 ^ 50 % 2 ^ 8 = src % 2 ^ 8 ∧
      hdr.toNat / 2 ^ 30 % 2 ^ 12 = tag % 2 ^ 12 ∧ hdr.toNat / 2 ^ 24 % 2 ^ 6 = 0 ∧
      t.out = s.out ++ [.peer port hdr (List.replicate 120 0)]) ∧
  (∀ (s : State) (port src tag a x ia : Nat), s.inbound src a false = some (x, ia) → port ∉ s.downPorts → regionOf ia = 0 →
    bitsAt ia 40 8 = 0 → ∀ pa bs, (s.countFrom (portDie port) x ia false).reach x [] ia = .hbm pa →
    (s.countFrom (portDie port) x ia false).readPhys pa 64 = some bs →
    ∃ t hdr, exec (.peerRead port src tag a 64) s = .next t ∧ hdr.toNat / 2 ^ 58 = 17 ∧
      hdr.toNat / 2 ^ 50 % 2 ^ 8 = src % 2 ^ 8 ∧ hdr.toNat / 2 ^ 30 % 2 ^ 12 = tag % 2 ^ 12 ∧
      t.out = s.out ++ [.peer port hdr (bs ++ List.replicate 56 0)] ∧ t.tiles = s.tiles) ∧
  (∀ (s : State) (port src tag a n : Nat) (bs : List Byte), bs ≠ [] → 0 < n → port ∉ s.downPorts →
    .peer port src tag ∉ s.hostAcks →
    (∀ wr, s.inbound src a wr = none) → ∀ i ∈ [Instr.peerWrite port src tag a bs, .peerRead port src tag a n],
    ∃ t hdr, exec i s = .next t ∧ hdr.toNat / 2 ^ 58 = 18 ∧ hdr.toNat / 2 ^ 30 % 2 ^ 12 = tag % 2 ^ 12 ∧
      t = s.emit (.peer port hdr (List.replicate 120 0))) ∧
  (∀ (s : State) (port tag g : Nat) (c : CoreId) (r : PeerReq) (gl : Glob) (bs : List Byte), s.peers = [r] →
    r.port = port → r.tag = tag → r.tile = g → r.core = c → r.fifo = none → (s.core ⟨g, c⟩).glob = some gl →
    (s.datumTile g = false ∨ r.replays < 2 →
      (∀ kind, kind < 2 → ∃ t, exec (.peerReply port tag kind bs) s = .next t ∧ t.peers = [] ∧ SameBytes s t ∧
        (t.core ⟨g, c⟩).glob = some { gl with reply := .done (BitVec.ofNat 64 (leNat (bs.take 8))) }) ∧
      (∃ t, exec (.peerReply port tag 2 bs) s = .next t ∧ t.peers = [] ∧
        (t.core ⟨g, c⟩).glob = some { gl with reply := .fault 0x06 })) ∧
    (s.datumTile g = true → 2 ≤ r.replays → ∀ kind, exec (.peerReply port tag kind bs) s = .next s)) ∧
  (∀ (s : State) (port tag : Nat), ∃ t, exec (.linkReplay port tag) s = .next t ∧ t.peers = s.peers.map fun r =>
    if r.port = port ∧ r.tag = tag then { r with replays := r.replays + 1 } else r) ∧
  (∀ (s : State) (port : Nat) (hdr : U64), ∃ t, exec (.controlFlit port hdr) s = .next t ∧ SameBytes s t ∧
    (hdr.toNat / 2 ^ 62 = 3 → Store.get 0 t.counts port = min (Store.get 0 s.counts port + 1) (2 ^ 64 - 1)) ∧
    (hdr.toNat / 2 ^ 62 ≠ 3 → t = s)) ∧
  (∀ (s : State) (port : Nat) (ok : Bool) (bs : List Byte), port < 2 → 128 + port ∉ s.downPorts →
    (ok = false ∨ bs.length < 60 ∨ 9216 < bs.length) →
    ∃ t, exec (.frameReceive port ok bs) s = .next t ∧ SameBytes s t ∧ t.tiles = s.tiles ∧
      ∀ off, off = 0x6000000 + 0x100 * port + (if ok then 8 else 0) →
        (t.devGet off).toNat = min ((s.devGet off).toNat + 1) (2 ^ 64 - 1)) ∧
  (∀ (s : State) (port : Nat) (bs : List Byte) (k : Nat), port < 2 → 128 + port ∉ s.downPorts → 60 ≤ bs.length →
    bs.length ≤ 9216 → frameType bs ≠ 0x8808 → s.flowOf port bs = none →
    k = ((s.devGet 0x3110).toNat + 2 ^ 64 - (s.devGet 0x3108).toNat) % 2 ^ 64 →
    ∃ t, exec (.frameReceive port true bs) s = .next t ∧ t.tiles = s.tiles ∧ t.hbm = s.hbm ∧
      (k < 1024 → t.devGet 0x3110 = s.devGet 0x3110 + 1 ∧ t.devGet 0x3118 = s.devGet 0x3118 ∧ Memory.bytes t.host
        (((s.devGet 0x3100).toNat + (s.devGet 0x3110).toNat % 1024 * 10240) % 2 ^ 48 + 64) bs.length = bs) ∧
      (1024 ≤ k → (t.devGet 0x3118).toNat = min ((s.devGet 0x3118).toNat + 1) (2 ^ 64 - 1) ∧ t.host = s.host)) ∧
  (∀ (s : State) (port f g n slot : Nat) (bs : List Byte), port < 2 → 128 + port ∉ s.downPorts → 60 ≤ bs.length →
    bs.length ≤ 9216 → frameType bs ≠ 0x8808 → s.flowOf port bs = some f → bit (s.flowEntry f) 124 = 0 →
    g = bitsAt (s.flowEntry f) 110 10 → s.claimable f = some (n, slot) →
    ∃ t, exec (.frameReceive port true bs) s = .next t ∧ ((t.tile g).ring n).slot slot = .writing ∧
      ((t.tile g).ring n).t = (slot + 1) % ((s.tile g).ring n).nslots ∧
      ((t.tile g).queue 5).resv = ((s.tile g).queue 5).resv + 1 ∧ t.hbm = s.hbm ∧ t.host = s.host ∧
      (t.tile g).scratch = (s.tile g).scratch ∧ Store.get 0 t.flowSeq f = Store.get 0 s.flowSeq f + 1 ∧
      (∀ o v, ((s.tile g).ring n).base + (slot + 1) * ((s.tile g).ring n).lps ≤ 5115 → bs[o]? = some v →
        o < (((s.tile g).ring n).lps - 1) * 64 → ∃ x ∈ (t.tile g).asks, x.rank = rankRemote ∧ x.since = s.now ∧
          x.line = ((s.tile g).ring n).base + slot * ((s.tile g).ring n).lps + o / 64 ∧
          ∃ lo part, x.act = .put [(lo, part)] ∧ lo = 64 * x.line ∧ part[o % 64]? = some v) ∧
      ∃ c, (t.tile g).claims = (s.tile g).claims ++ [(n, slot, c)] ∧ s.now + 1080 ≤ c ∧
        (s.datumTile g = true → c = s.now + 1080)) ∧
  (∀ (s : State) (g n : Nat) (slot d : Nat), slot < 64 → (s.tile g).claims = [(n, slot, d)] → d ≤ s.now →
    (s.tile g).slotWritten n slot = true → ((s.tile g).queue 5).toks = [] → 0 < ((s.tile g).queue 5).resv →
    ∃ t, exec (.ingestSlotFill g (64 * n + slot)) s = .next t ∧ ((t.tile g).ring n).slot slot = .full ∧
      (t.tile g).claims = [] ∧ ((t.tile g).queue 5).resv = ((s.tile g).queue 5).resv - 1 ∧ SameBytes s t ∧
      ((t.tile g).queue 5).head = BitVec.ofNat 32 (n * 2 ^ 25 + slot * 2 ^ 19 +
        (((s.tile g).ring n).base + slot * ((s.tile g).ring n).lps))) ∧
  (∀ (s : State) (port : Nat) (x : TxFrame) (rest : List TxFrame), Store.get [] s.txq port = x :: rest →
    x.launch ≤ s.tai → Store.get 0 s.txFree port ≤ s.now → 128 + port ∉ s.downPorts → s.htxHead = (s.devGet 0x3208).toNat →
    ∃ t, exec (.frameTransmit port) s = .next t ∧ t.out = s.out ++ [.frame port x.bytes] ∧
      Store.get [] t.txq port = rest ∧ Store.get 0 t.txFree port = s.now + sendTime x.bytes.length)

/-- R375 to R387: errors, repair and power. Background work alters nothing but the counts of what it corrected and a lane's
calibration; an uncorrectable error is told to the host, a machine check takes its tile out of service and records it; the
telemetry block is written between an odd and an even sequence count; the apportioner takes up the power limit and leaves
datum-mode tiles alone; an append is complete once flash has it; a package reset brings back the state of reset but for the
record and the error counts, with what its stages found out of service, and without power only that acts. -/
def Obligations.ErrorsAndPower : Prop :=
  (∀ (s : State) (n : Nat), exec (.refresh n) s = .next s) ∧
  (∀ (s : State) (n : Nat), ∃ t, exec (.recalibration n) s = .next t ∧ SameBytes s t ∧ t.tiles = s.tiles ∧
    t.counts = s.counts ∧ (∃ v, Store.find t.calib n = some v) ∧
    ∀ m, m ≠ n → Store.find t.calib m = Store.find s.calib m) ∧
  (∀ (s : State) (n : Nat), ∃ t, exec (.retraining n) s = .next t ∧ SameBytes s t ∧ t.tiles = s.tiles ∧
    Store.get 0 t.counts (stackKey n 2) = min (Store.get 0 s.counts (stackKey n 2) + 1) (2 ^ 64 - 1)) ∧
  (∀ (s : State) (p : ScrubPlace), ∃ t, exec (.patrolScrub p) s = .next t ∧ SameBytes s t ∧ t.tiles = s.tiles ∧
    (∀ g, p = .tile g true → Store.get 0 t.counts (dieKey (dieOf g) 0) =
      min (Store.get 0 s.counts (dieKey (dieOf g) 0) + 1) (2 ^ 64 - 1)) ∧
    (∀ d, p = .dieCache d true → Store.get 0 t.counts (dieKey d 1) =
      min (Store.get 0 s.counts (dieKey d 1) + 1) (2 ^ 64 - 1)) ∧
    (∀ n fixed pass, p = .stack n fixed pass →
      Store.get 0 t.counts (stackKey n 0) =
        (if fixed then min (Store.get 0 s.counts (stackKey n 0) + 1) (2 ^ 64 - 1) else Store.get 0 s.counts (stackKey n 0)) ∧
      Store.get 0 t.counts (stackKey n 3) =
        (if pass then min (Store.get 0 s.counts (stackKey n 3) + 1) (2 ^ 64 - 1) else Store.get 0 s.counts (stackKey n 3))) ∧
    (∀ g, p = .tile g false → t = s)) ∧
  (∀ (s : State) (sector : Nat), ∃ t, exec (.uncorrectableError (.hbmScrub sector)) s = .next t ∧ .msix 3 ∈ t.out ∧
    t.poisoned (32 * sector) 1 = true ∧ t.tiles = s.tiles) ∧
  (∀ (s : State) (g : Nat), g < 640 → (s.tile g).task.live = false → (s.tile g).accOwner = [] → (s.tile g).chunk = [] →
    s.monument.length < 4096 →
    ∃ t, exec (.uncorrectableError (.tileSram g [])) s = .next t ∧ (t.tile g).inService = false ∧ .msix 3 ∈ t.out ∧
      SameBytes s t ∧ t.broken = s.broken ++ [g] ∧
      ∃ e, t.monument = s.monument ++ [e] ∧ e.toNat / 2 ^ 120 = 2 ∧ e.toNat / 2 ^ 95 % 2 ^ 10 = g) ∧
  (∀ (s : State) (g : Nat) (c : CoreId) (gl : Glob) (stack frame : Nat), (s.core ⟨g, c⟩).glob = some gl →
    ∃ t, exec (.uncorrectableError (.hbmWord g c stack frame)) s = .next t ∧
      (t.core ⟨g, c⟩).glob = some { gl with reply := .fault 0x14, write := none } ∧ .msix 3 ∈ t.out) ∧
  (∀ s : State, s.poison = [] → ∃ t, exec .telemetryWrite s = .next t ∧ t.telSeq = (s.telSeq + 1) % 2 ^ 64 ∧
    Memory.num t.hbm (serviceFrame 0 + 0x11000) 8 = t.telSeq ∧ t.host = s.host ∧ t.tiles = s.tiles ∧ t.poison = [] ∧
    (t.telSeq % 2 = 1 → ∀ a, (a < serviceFrame 0 + 0x11000 ∨ serviceFrame 0 + 0x11008 ≤ a) →
      Memory.byte t.hbm a = Memory.byte s.hbm a) ∧
    (t.telSeq % 2 = 0 → Memory.num t.hbm (serviceFrame 0 + 0x11008) 8 = s.tai ∧
      (s.plim ≤ 3600 → Memory.num t.hbm (serviceFrame 0 + 0x11010) 4 = s.plim) ∧
      (∀ n k, n < 16 → k < 4 → Memory.num t.hbm (serviceFrame n + 0x1000 + 8 * k) 8 =
        min (Store.get 0 s.counts (stackKey n k)) (2 ^ 64 - 1)))) ∧
  (∀ s : State, s.ctxs = [] → ∃ t, exec .apportionerPeriod s = .next t ∧ SameBytes s t ∧
    t.plim = min 3600 (max 600 (Memory.num s.hbm (serviceFrame 0 + 0x10000) 2 % 2 ^ 12)) ∧
    ∀ g, (t.tile g).throttle ≤ 12 ∧
      ((∀ e ∈ s.parts, e.2.datum = false → g ∉ e.2.tiles) → (t.tile g).throttle = 0)) ∧
  (∀ s : State, (s.flashing = [] → exec .monumentFlashComplete s = .next s) ∧
    (s.flashing ≠ [] → ∃ t, exec .monumentFlashComplete s = .next t ∧ t.flashing = s.flashing.tail ∧
      t.monument = s.monument ∧ t.tiles = s.tiles ∧
      ∀ k e, k < 4096 → s.monument[k]? = some e →
        Memory.num t.hbm (serviceFrame 0 + 0x20000 + 16 * k) 16 = e.toNat)) ∧
  (∀ (s : State) (found : BringUp), ∃ t more, exec (.packageReset found.toSelfTest found.toTraining) s = .next t ∧
  t.powered = true ∧
    t.now = 0 ∧ t.parts = [] ∧ t.ctxs = [] ∧ t.cards = [] ∧ t.saved = [] ∧ t.devGet 0x1010 = 0 ∧ t.rising = true ∧
    (∀ off, off ≠ 0x1010 → t.devGet off = State.reset.devGet off) ∧ t.ptp = State.reset.ptp ∧ t.plim = 3600 ∧
    (∀ n, n < 128 → Store.get 0 t.counts n = Store.get 0 s.counts n) ∧
    (∀ n k, n < 16 → k < 4 → Store.get 0 t.counts (stackKey n k) = Store.get 0 s.counts (stackKey n k)) ∧
    (∀ d k, d < 4 → k < 3 → Store.get 0 t.counts (dieKey d k) = Store.get 0 s.counts (dieKey d k)) ∧
    (∀ d, d < 4 → Store.get 0 t.counts (dieKey d 3) = 0) ∧
    t.monument = s.monument ++ more ∧ t.downPorts = found.ports ∧
    (∀ g, ({ t.tile g with inService := true } : Tile) = Tile.idle) ∧
    ∀ g, g < 640 → dieOf g ∈ found.dies → (t.tile g).inService = false) ∧
  (∀ (s : State) (g : Nat), g < 640 → s.monument = [] → s.broken = [] →
    ∃ t e f, exec (.packageReset ⟨[g], []⟩ ⟨[], []⟩) s = .next t ∧ t.monument = [e, f] ∧ e.toNat / 2 ^ 120 = 2 ∧
      e.toNat / 2 ^ 95 % 2 ^ 10 = g ∧ f.toNat / 2 ^ 120 = 1 ∧ f.toNat / 2 ^ 95 % 2 ^ 10 = g ∧ (t.tile g).inService = true) ∧
  (∀ s : State, s.powered = true → s.rising = true → s.agenda = [] → s.turn = [] →
    ∃ t, step s = .next t ∧ t.rising = false ∧ t.devGet 0x1010 = 0x8000000000000000 ∧ t.now = s.now ∧ SameBytes s t) ∧
  (∀ (s : State) (die : Nat) (found : BringUp), s.monument.length < 4096 → ∃ t e more,
    exec (.thermalTrip (die, found)) s = .next t ∧ t.now = 0 ∧ t.parts = [] ∧ t.ctxs = [] ∧
    t.monument = s.monument ++ e :: more ∧ e.toNat / 2 ^ 120 = 4) ∧
  (∀ s : State, ∃ t, exec .powerLoss s = .next t ∧ t.powered = false ∧ t.counts = [] ∧ t.guardband = [] ∧ t.calib = [] ∧
    t.flashing = [] ∧ t.monument = s.monument.take (s.monument.length - s.flashing.length)) ∧
  (∀ s : State, s.powered = false → s.agenda = [] → step s = .fault .powerOff)

/-- R20, R21, R24 to R28, R44 to R52: the units of every well-formed word decode to that word, and only they do: what decodes
is well formed, is no event, and its units are the ones decoded. -/
def Obligations.DecodeEncode : Prop :=
  (∀ i : Instr, i.wf = true → isEvent i = false → decode (encode i) = some i) ∧
  (∀ (us : List U32) (i : Instr), decode us = some i → i.wf = true ∧ isEvent i = false ∧ encode i = us)

/-- R24, R25, R26, R28, R45 to R52: words written out bit by bit from the spec's encodings decode to what they stand for, and
units of class 3, an unassigned op6 and a literal count of 3 to nothing. -/
def Obligations.SpecWordsDecode : Prop :=
  decode [0b00000001000110000100010000000000#32] = some (.add 3 1 2) ∧
  decode [0b00000010000010000011111111111111#32] = some (.addi 1 0 0x3FFF) ∧
  decode [0b00010000001010011000111111111110#32] = some (.br 5 6 1 0x7FE) ∧
  decode [0b00011110001110010000000000001000#32] = some (.ldsD 7 4 8) ∧
  decode [0b00100100010000001100000000010000#32] = some (.ldgW 8 3 16) ∧
  decode [0b00101100010010000000000000000001#32] = some (.csrrd 9 1) ∧
  decode [0b00110100001100001000000000000011#32] = some (.fork 6 2 3) ∧
  decode [0b00111111001000000000000001010100#32] = some (.ringopCount 4 5) ∧
  decode [0b00000000000000010100000000000101#32] = some (.exit 5) ∧
  decode [0b01000000010000000000000000000000#32, 0b11000000000000000000110000000000#32,
    0b11000000000100000000000000000010#32] =
    some (.vadd ⟨⟨0, 0, 0, 0, 0, 0, 0, 0, none, []⟩, 3, 1, 2⟩) ∧
  decode [0b01110000000000000000001010000000#32, 0b11000010001000011000000000000000#32,
    0b11000000000000000000000001000000#32, 0b11000000000000000000001111101000#32, 0x3F800000#32] =
    some (.cpy ⟨⟨0, 0, 0, 0, 0, 0, 0, 0, some 1000, [0x3F800000]⟩, 1, 2, 3, 0, 0, 0, 0, 0, 0, 0, 0, 0, 0, 0, 64⟩) ∧
  decode [0b10000000000001000100000101010011#32, 0b11000100000100001000000000000000#32, 0b11#32 <<< 30, 0b11#32 <<< 30,
    0b11#32 <<< 30, 0b11#32 <<< 30] =
    some (.mma ⟨1, 1, 0, 5, 1, 3, 0, 1, 0, 0, 1, 0, 0, 0, 1, 0, 0, 0, 0, 0, 0, 0, 0, 0⟩) ∧
  (∀ us : List U32, decode ((0b11#32 <<< 30) :: us) = none) ∧ (∀ us : List U32, decode (0x16000000#32 :: us) = none) ∧
  (∀ us : List U32, decode (0x40400180#32 :: us) = none)

/-- R9, R20 to R23, R318, R338, R387: a step of the machine. A core whose turn it is and that may issue executes the word at its
program counter, fetched from its code range unit by unit; a fetch that fails traps with its code; a core with a STOP before it
halts there unless the word faults; an event that is due happens; and when nothing is left in the clock DATUM moves on, or
bring-up ends. The order of turns and events is the model's (notes/assumptions 3). -/
def Obligations.StepRunsWords : Prop :=
  (∀ (s u : State) (w : Who) (rest : List Who), s.agenda = [] → s.turn = w :: rest → s.powered = true →
    (s.core w).run = .running → (s.core w).nextAt ≤ s.now → s.forkHeld w = false → s.yields w rest = false →
    u = ({ s with turn := rest, cur := w } : State).countFetch w →
    (∀ i, s.fetch w = .word i → ((s.core w).stopIn = false ∨ (s.core w).priv ≠ 0) → step s = exec i u) ∧
    (∀ i t, s.fetch w = .word i → (s.core w).stopIn = true → (s.core w).priv = 0 → exec i u = .next t →
      (t.core w).priv ≠ 1 → step s = exec (.stopTaken w.tile w.core) u) ∧
    (∀ code tval, s.fetch w = .bad code tval → step s = .next (u.trap w code tval (s.core w).pc false))) ∧
  (∀ (s : State) (w : Who) (rest : List Who), s.agenda = [] → s.turn = w :: rest → s.powered = true →
    (((s.core w).run = .running ∧ s.now < (s.core w).nextAt) ∨ (s.core w).run = .idle ∨ (s.core w).run = .draining ∨
      (s.core w).run.isHalted = true) → step s = .next { s with turn := rest }) ∧
  (∀ (s : State) (w : Who) (rest : List Who), s.agenda = [] → s.turn = w :: rest → s.powered = true →
    s.yields w rest = true → step s = .next (s.giveWay w rest)) ∧
  (∀ (s : State) (w : Who) (us : List U32) (i : Instr), us.length = wordUnits (us.headD 0) → decode us = some i →
    (∀ k, k < us.length → (s.core w).inCode ((s.core w).pc + 4 * BitVec.ofNat 64 k) = true ∧
      s.fetchUnit w.tile ((s.core w).pc + 4 * BitVec.ofNat 64 k) = .ok (us.getD k 0)) → s.fetch w = .word i) ∧
  (∀ (s : State) (w : Who), (s.core w).inCode (s.core w).pc = false → s.fetch w = .bad 0x03 (s.core w).pc) ∧
  (∀ (s : State) (i : Instr) (rest : List Instr), s.agenda = i :: rest → s.powered = true → isEvent i = true →
    (130 ∉ s.downPorts ∨ overCxl i = false) → ((∀ port ok bs, i ≠ .frameReceive port ok bs) ∨ (s.turn = [] ∧ rest = [])) →
      step s = exec i { s with agenda := rest }) ∧
  (∀ s : State, s.agenda = [] → s.turn = [] → s.powered = true → s.rising = false → (∀ g, s.lost g = false) →
    step s = exec .datumTick s)

/-- R39, R98, R316, R351, R362, R384, R386, R387: the state after package reset: DATUM 0, the triple and the device registers at
their reset values, the power control word written, the telemetry block at its reset values (the power limit, and 16 spares for
each die), no context, partition, card or task, every tile idle with its reset AGE_LIMIT and CLOSURE_WINDOW, every register 0,
and every memory in canonical form. That registers read 0 where the spec gives no value, and that every other byte of memory
reads 0, is the model's choice (notes/assumptions 1 and 2). -/
def Obligations.ResetState : Prop :=
  State.reset.powered = true ∧ State.reset.now = 0 ∧ State.reset.ptp = (0, 0, 407226528806) ∧ State.reset.ptpPend = none ∧
  State.reset.ctxs = [] ∧ State.reset.parts = [] ∧ State.reset.cards = [] ∧ State.reset.saved = [] ∧
  State.reset.monument = [] ∧ State.reset.plim = 3600 ∧ State.reset.hubFree = true ∧
  (∀ e ∈ ([(0x0, 0x91000001), (0x1000, 0), (0x1008, 0), (0x1010, 0x8000000000000000), (0x2000, 0), (0x2008, 6), (0x2010, 0),
      (0x2018, 0), (0x2020, 0), (0x3000, 0), (0x3008, 0), (0x3010, 407226528806), (0x3018, 0), (0x3020, 0xFFFFFFFF),
      (0x3100, 0), (0x3108, 0), (0x3110, 0), (0x3118, 0), (0x3200, 0), (0x3208, 0), (0x4000, 0)] : List (Nat × U64)),
    State.reset.devGet e.1 = e.2) ∧
  (∀ a, (Memory.byte State.reset.hbm a).toNat =
    if a ∈ [0xEE6810000, 0xEE6811010, 0xEE6811052, 0xEE6811092, 0xEE68110D2, 0xEE6811112] then 0x10
    else if a ∈ [0xEE6810001, 0xEE6811011] then 0x0E else 0) ∧
  Memory.num State.reset.hbm 0xEE6811010 4 = 3600 ∧
  (∀ d, d < 4 → Memory.num State.reset.hbm (0xEE6811040 + 64 * d + 18) 2 = 16) ∧
  Memory.num State.reset.hbm 0xEE6810000 2 = 3600 ∧ (∀ a, Memory.byte State.reset.host a = 0) ∧
  (∀ g, (State.reset.tile g).task.live = false ∧ (State.reset.tile g).ageLimit = 64 ∧
    (State.reset.tile g).closureWin = 65536 ∧ (State.reset.tile g).inService = true ∧
    ∀ c, (State.reset.core ⟨g, c⟩).run = .idle ∧ (State.reset.core ⟨g, c⟩).priv = 0 ∧
      ∀ n, (State.reset.core ⟨g, c⟩).reg n = 0) ∧
  MemoriesCanonical State.reset

/-- The model's memories (notes/assumptions 1): every step that answers a next state keeps HBM, host memory and the scratch of
every tile, those of saved tasks too, in their canonical form, so that equal memories are equal data. -/
def Obligations.StepKeepsMemories : Prop :=
  ∀ s s' : State, MemoriesCanonical s → step s = .next s' → MemoriesCanonical s'
end

