-- ==== Sys2Proof/Laws/Store.lean ====
section
/-!
SUPPORT. The laws of sparse tables and byte memories: a read after a write, and the canonical form is kept.
-/

namespace Sys2Proof

variable {α : Type}

theorem Store.get_erase_same (d : α) (m : Store α) (k : Nat) : Store.get d (Store.erase m k) k = d := by
  induction m with
  | nil => rfl
  | cons e m ih =>
    obtain ⟨k', v⟩ := e
    by_cases h : k' = k
    · simp [Store.erase, h, ih]
    · simp [Store.erase, h, Store.get, ih]

theorem Store.get_erase_ne (d : α) (m : Store α) {k j : Nat} (hj : j ≠ k) :
    Store.get d (Store.erase m k) j = Store.get d m j := by
  induction m with
  | nil => rfl
  | cons e m ih =>
    obtain ⟨k', v⟩ := e
    by_cases h : k' = k
    · subst h
      simp [Store.erase, Store.get, ih, Ne.symm hj]
    · rw [Store.erase, if_neg h, Store.get, Store.get, ih]

theorem Store.get_place_same (d : α) (m : Store α) (k : Nat) (v : α) :
    Store.get d (Store.place (Store.erase m k) k v) k = v := by
  induction m with
  | nil => simp [Store.erase, Store.place, Store.get]
  | cons e m ih =>
    obtain ⟨k', v'⟩ := e
    by_cases h : k' = k
    · simp [Store.erase, h, ih]
    · by_cases h2 : k < k' <;> simp [Store.erase, h, Store.place, h2, Store.get, ih]

theorem Store.get_place_ne (d : α) (m : Store α) {k j : Nat} (v : α) (hj : j ≠ k) :
    Store.get d (Store.place m k v) j = Store.get d m j := by
  induction m with
  | nil => simp [Store.place, Store.get, Ne.symm hj]
  | cons e m ih =>
    obtain ⟨k', v'⟩ := e
    by_cases h : k < k'
    · simp [Store.place, h, Store.get, Ne.symm hj]
    · simp [Store.place, h, Store.get, ih]

theorem Store.get_put_same (d : α) (m : Store α) (k : Nat) (v : α) : Store.get d (Store.put m k v) k = v :=
  Store.get_place_same d m k v

theorem Store.get_put_ne (d : α) (m : Store α) {k j : Nat} (v : α) (hj : j ≠ k) :
    Store.get d (Store.put m k v) j = Store.get d m j := by
  rw [Store.put, Store.get_place_ne d _ v hj, Store.get_erase_ne d m hj]

@[simp] theorem Store.get_set_same [DecidableEq α] (d : α) (m : Store α) (k : Nat) (v : α) :
    Store.get d (Store.set d m k v) k = v := by
  by_cases h : v = d
  · simp [Store.set, h, Store.get_erase_same]
  · simp [Store.set, h, Store.get_put_same]

theorem Store.get_set_ne [DecidableEq α] (d : α) (m : Store α) {k j : Nat} (v : α) (hj : j ≠ k) :
    Store.get d (Store.set d m k v) j = Store.get d m j := by
  by_cases h : v = d
  · simp [Store.set, h, Store.get_erase_ne d m hj]
  · simp [Store.set, h, Store.get_put_ne d m v hj]

theorem Store.erase_place_erase (m : Store α) (k : Nat) (v : α) :
    Store.erase (Store.place (Store.erase m k) k v) k = Store.erase m k := by
  induction m with
  | nil => simp [Store.erase, Store.place]
  | cons e m ih =>
    obtain ⟨k', v'⟩ := e
    by_cases h : k' = k
    · simpa [Store.erase, h] using ih
    · have he : ∀ m : Store α, Store.erase (Store.erase m k) k = Store.erase m k := by
        intro m
        induction m with
        | nil => rfl
        | cons e m ih => obtain ⟨k', v⟩ := e; by_cases h : k' = k <;> simp [Store.erase, h, ih]
      by_cases h2 : k < k' <;> simp [Store.erase, h, Store.place, h2, ih, he]

/-- Of two values put at a key the later stands. -/
@[simp] theorem Store.put_put (m : Store α) (k : Nat) (v w : α) : Store.put (Store.put m k v) k w = Store.put m k w := by
  simp [Store.put, Store.erase_place_erase]

theorem Store.find_erase_same (m : Store α) (k : Nat) : Store.find (Store.erase m k) k = none := by
  induction m with
  | nil => rfl
  | cons e m ih =>
    obtain ⟨k', v⟩ := e
    by_cases h : k' = k
    · simp [Store.erase, h, ih]
    · simp [Store.erase, h, Store.find, ih]

@[simp] theorem Store.find_put_same (m : Store α) (k : Nat) (v : α) : Store.find (Store.put m k v) k = some v := by
  unfold Store.put
  induction m with
  | nil => simp [Store.erase, Store.place, Store.find]
  | cons e m ih =>
    obtain ⟨k', v'⟩ := e
    by_cases h : k' = k
    · simpa [Store.erase, h] using ih
    · by_cases h2 : k < k' <;> simp [Store.erase, h, Store.place, h2, Store.find, ih]

theorem Store.find_put_ne (m : Store α) {k j : Nat} (v : α) (hj : j ≠ k) :
    Store.find (Store.put m k v) j = Store.find m j := by
  have hp : ∀ m : Store α, Store.find (Store.place m k v) j = Store.find m j := by
    intro m
    induction m with
    | nil => simp [Store.place, Store.find, Ne.symm hj]
    | cons e m ih =>
      obtain ⟨k', v'⟩ := e
      by_cases h : k < k'
      · simp [Store.place, h, Store.find, Ne.symm hj]
      · simp [Store.place, h, Store.find, ih]
  have he : ∀ m : Store α, Store.find (Store.erase m k) j = Store.find m j := by
    intro m
    induction m with
    | nil => rfl
    | cons e m ih =>
      obtain ⟨k', v'⟩ := e
      by_cases h : k' = k
      · subst h
        simp [Store.erase, Store.find, ih, Ne.symm hj]
      · rw [Store.erase, if_neg h, Store.find, Store.find, ih]
  rw [Store.put, hp, he]

theorem Store.above_erase (m : Store α) {j : Nat} (k : Nat) (h : Store.above j m) :
    Store.above j (Store.erase m k) := by
  induction m with
  | nil => rfl
  | cons e m ih =>
    obtain ⟨k', v⟩ := e
    simp only [Store.above, List.all_cons, Bool.and_eq_true] at h
    by_cases hk : k' = k
    · simpa [Store.erase, hk] using ih h.2
    · simp only [Store.erase, hk, if_false, Store.above, List.all_cons, Bool.and_eq_true]
      exact ⟨h.1, ih h.2⟩

theorem Store.above_mono (m : Store α) {j k : Nat} (hjk : j < k) (h : Store.above k m) : Store.above j m := by
  simp only [Store.above, List.all_eq_true, decide_eq_true_eq] at h ⊢
  exact fun e he => Nat.lt_trans hjk (h e he)

theorem Store.above_place (m : Store α) {j k : Nat} (v : α) (hjk : j < k) (h : Store.above j m) :
    Store.above j (Store.place m k v) := by
  induction m with
  | nil => simp [Store.place, Store.above, hjk]
  | cons e m ih =>
    obtain ⟨k', v'⟩ := e
    simp only [Store.above, List.all_cons, Bool.and_eq_true] at h
    by_cases hk : k < k'
    · simp only [Store.place, hk, if_true, Store.above, List.all_cons, Bool.and_eq_true]
      exact ⟨by simpa using hjk, h.1, h.2⟩
    · simp only [Store.place, hk, if_false, Store.above, List.all_cons, Bool.and_eq_true]
      exact ⟨h.1, ih h.2⟩

theorem Store.wf_erase [DecidableEq α] (d : α) (m : Store α) (k : Nat) (h : Store.wf d m) :
    Store.wf d (Store.erase m k) := by
  induction m with
  | nil => rfl
  | cons e m ih =>
    obtain ⟨k', v⟩ := e
    simp only [Store.wf, Bool.and_eq_true] at h
    by_cases hk : k' = k
    · simpa [Store.erase, hk] using ih h.2
    · simp only [Store.erase, hk, if_false, Store.wf, Bool.and_eq_true]
      exact ⟨⟨Store.above_erase m k h.1.1, h.1.2⟩, ih h.2⟩

/-- No entry of `m` has key `k`. -/
theorem Store.not_mem_erase (m : Store α) (k : Nat) : ∀ e ∈ Store.erase m k, e.1 ≠ k := by
  induction m with
  | nil => simp [Store.erase]
  | cons e m ih =>
    obtain ⟨k', v⟩ := e
    by_cases hk : k' = k
    · simpa [Store.erase, hk] using ih
    · simp only [Store.erase, hk, if_false, List.mem_cons, forall_eq_or_imp]
      exact ⟨hk, ih⟩

theorem Store.wf_place [DecidableEq α] (d : α) (m : Store α) (k : Nat) (v : α) (hv : v ≠ d) (h : Store.wf d m)
    (hk : ∀ e ∈ m, e.1 ≠ k) : Store.wf d (Store.place m k v) := by
  induction m with
  | nil => simp [Store.place, Store.wf, Store.above, hv]
  | cons e m ih =>
    obtain ⟨k', v'⟩ := e
    simp only [Store.wf, Bool.and_eq_true] at h
    simp only [List.mem_cons, forall_eq_or_imp] at hk
    by_cases hlt : k < k'
    · have ha : Store.above k ((k', v') :: m) := by
        simp only [Store.above, List.all_cons, Bool.and_eq_true]
        exact ⟨by simpa using hlt, Store.above_mono m hlt h.1.1⟩
      simp only [Store.place, hlt, if_true, Store.wf, Bool.and_eq_true]
      exact ⟨⟨ha, by simpa using hv⟩, h⟩
    · have hne : k' < k := Nat.lt_of_le_of_ne (Nat.le_of_not_lt hlt) hk.1
      simp only [Store.place, hlt, if_false, Store.wf, Bool.and_eq_true]
      exact ⟨⟨Store.above_place m v hne h.1.1, h.1.2⟩, ih h.2 hk.2⟩

/-- Setting a value keeps the canonical form. -/
theorem Store.wf_set [DecidableEq α] (d : α) (m : Store α) (k : Nat) (v : α) (h : Store.wf d m) :
    Store.wf d (Store.set d m k v) := by
  by_cases hv : v = d
  · simpa [Store.set, hv] using Store.wf_erase d m k h
  · simpa [Store.set, hv, Store.put] using
      Store.wf_place d _ k v hv (Store.wf_erase d m k h) (Store.not_mem_erase m k)

@[simp] theorem Memory.byte_setByte_same (m : Memory) (a : Nat) (b : Byte) : (Memory.setByte m a b).byte a = b :=
  Store.get_set_same 0 m a b

theorem Memory.byte_setByte_ne (m : Memory) {a c : Nat} (b : Byte) (h : c ≠ a) :
    (Memory.setByte m a b).byte c = m.byte c :=
  Store.get_set_ne 0 m b h

theorem Memory.wf_setByte (m : Memory) (a : Nat) (b : Byte) (h : m.wf) : (Memory.setByte m a b).wf :=
  Store.wf_set 0 m a b h

/-- Writing bytes keeps the canonical form. -/
theorem Memory.wf_setBytes (bs : List Byte) : ∀ (m : Memory) (a : Nat), m.wf → (Memory.setBytes m a bs).wf := by
  induction bs with
  | nil => exact fun m a h => h
  | cons b bs ih => exact fun m a h => ih _ _ (Memory.wf_setByte m a b h)

/-- A byte outside what is written reads as before. -/
theorem Memory.byte_setBytes_outside (bs : List Byte) : ∀ (m : Memory) (a c : Nat),
    c < a ∨ a + bs.length ≤ c → (Memory.setBytes m a bs).byte c = m.byte c := by
  induction bs with
  | nil => exact fun m a c _ => rfl
  | cons b bs ih =>
    intro m a c h
    simp only [List.length_cons] at h
    rw [Memory.setBytes, ih _ _ _ (by omega), Memory.byte_setByte_ne _ _ (by omega)]

/-- A byte inside what is written reads as written. -/
theorem Memory.byte_setBytes_inside (bs : List Byte) : ∀ (m : Memory) (a i : Nat) (h : i < bs.length),
    (Memory.setBytes m a bs).byte (a + i) = bs[i] := by
  induction bs with
  | nil => intro m a i h; simp at h
  | cons b bs ih =>
    intro m a i h
    cases i with
    | zero =>
      rw [Memory.setBytes, Memory.byte_setBytes_outside bs _ _ _ (by omega)]
      simp
    | succ i =>
      have := ih (Memory.setByte m a b) (a + 1) i (by simpa using h)
      rw [Memory.setBytes, show a + (i + 1) = a + 1 + i by omega, this]
      simp

theorem leBytes_length (n v : Nat) : (leBytes n v).length = n := by
  induction n generalizing v with
  | zero => rfl
  | succ n ih => simp [leBytes, ih]

/-- Bytes of a number make the number's low bits again. -/
theorem leNat_leBytes (n v : Nat) : leNat (leBytes n v) = v % 256 ^ n := by
  induction n generalizing v with
  | zero => simp [leBytes, leNat, Nat.mod_one]
  | succ n ih =>
    have h : v % (256 * 256 ^ n) = v % 256 + 256 * (v / 256 % 256 ^ n) := Nat.mod_mul
    rw [show 256 ^ (n + 1) = 256 * 256 ^ n from Nat.pow_succ', h, leBytes, leNat, ih, BitVec.toNat_ofNat]

end Sys2Proof
end

