-- ==== Sys2Proof/Laws/State.lean ====
section
/-!
SUPPORT. What each update of the state leaves in each field: one lemma per field per update, so that no proof unfolds a
record update.
-/

namespace Sys2Proof.Machine

@[simp] theorem State.tile_setTile_same (s : State) (g : Nat) (t : Tile) : (s.setTile g t).tile g = t :=
  Store.get_put_same _ _ _ _

@[simp] theorem State.setTile_setTile (s : State) (g : Nat) (t u : Tile) : (s.setTile g t).setTile g u = s.setTile g u := by
  simp [State.setTile]

theorem State.tile_setTile_ne (s : State) {g h : Nat} (t : Tile) (hg : h ≠ g) : (s.setTile g t).tile h = s.tile h :=
  Store.get_put_ne _ _ _ hg

theorem State.tile_setTile (s : State) (g h : Nat) (t : Tile) :
    (s.setTile g t).tile h = if h = g then t else s.tile h := by
  by_cases hg : h = g
  · subst hg; simp
  · simp [hg, State.tile_setTile_ne s t hg]

@[simp] theorem Tile.core_setCore_same (t : Tile) (c : CoreId) (k : Core) : (t.setCore c k).core c = k := by
  cases c <;> rfl

theorem Tile.core_setCore_ne (t : Tile) {c e : CoreId} (k : Core) (h : e ≠ c) : (t.setCore c k).core e = t.core e := by
  cases c <;> cases e <;> first | rfl | exact absurd rfl h

@[simp] theorem Tile.setCore_setCore (t : Tile) (c : CoreId) (k k' : Core) :
    (t.setCore c k).setCore c k' = t.setCore c k' := by cases c <;> rfl

@[simp] theorem Tile.setCore_core (t : Tile) (c : CoreId) : t.setCore c (t.core c) = t := by cases c <;> rfl

@[simp] theorem State.setTile_powered (s : State) (g : Nat) (t : Tile) : (s.setTile g t).powered = s.powered := rfl
@[simp] theorem State.setTile_now (s : State) (g : Nat) (t : Tile) : (s.setTile g t).now = s.now := rfl
@[simp] theorem State.setTile_ptp (s : State) (g : Nat) (t : Tile) : (s.setTile g t).ptp = s.ptp := rfl
@[simp] theorem State.setTile_ptpPend (s : State) (g : Nat) (t : Tile) : (s.setTile g t).ptpPend = s.ptpPend := rfl
@[simp] theorem State.setTile_hbm (s : State) (g : Nat) (t : Tile) : (s.setTile g t).hbm = s.hbm := rfl
@[simp] theorem State.setTile_poison (s : State) (g : Nat) (t : Tile) : (s.setTile g t).poison = s.poison := rfl
@[simp] theorem State.setTile_host (s : State) (g : Nat) (t : Tile) : (s.setTile g t).host = s.host := rfl
@[simp] theorem State.setTile_hostBad (s : State) (g : Nat) (t : Tile) : (s.setTile g t).hostBad = s.hostBad := rfl
@[simp] theorem State.setTile_hostPoison (s : State) (g : Nat) (t : Tile) : (s.setTile g t).hostPoison = s.hostPoison := rfl
@[simp] theorem State.setTile_parts (s : State) (g : Nat) (t : Tile) : (s.setTile g t).parts = s.parts := rfl
@[simp] theorem State.setTile_ctxs (s : State) (g : Nat) (t : Tile) : (s.setTile g t).ctxs = s.ctxs := rfl
@[simp] theorem State.setTile_cards (s : State) (g : Nat) (t : Tile) : (s.setTile g t).cards = s.cards := rfl
@[simp] theorem State.setTile_saved (s : State) (g : Nat) (t : Tile) : (s.setTile g t).saved = s.saved := rfl
@[simp] theorem State.setTile_asking (s : State) (g : Nat) (t : Tile) : (s.setTile g t).asking = s.asking := rfl
@[simp] theorem State.setTile_nextUid (s : State) (g : Nat) (t : Tile) : (s.setTile g t).nextUid = s.nextUid := rfl
@[simp] theorem State.setTile_nextCard (s : State) (g : Nat) (t : Tile) : (s.setTile g t).nextCard = s.nextCard := rfl
@[simp] theorem State.setTile_lastCtx (s : State) (g : Nat) (t : Tile) : (s.setTile g t).lastCtx = s.lastCtx := rfl
@[simp] theorem State.setTile_aborts (s : State) (g : Nat) (t : Tile) : (s.setTile g t).aborts = s.aborts := rfl
@[simp] theorem State.setTile_dev (s : State) (g : Nat) (t : Tile) : (s.setTile g t).dev = s.dev := rfl
@[simp] theorem State.setTile_hubBusy (s : State) (g : Nat) (t : Tile) : (s.setTile g t).hubBusy = s.hubBusy := rfl
@[simp] theorem State.setTile_flowSeq (s : State) (g : Nat) (t : Tile) : (s.setTile g t).flowSeq = s.flowSeq := rfl
@[simp] theorem State.setTile_txq (s : State) (g : Nat) (t : Tile) : (s.setTile g t).txq = s.txq := rfl
@[simp] theorem State.setTile_txFree (s : State) (g : Nat) (t : Tile) : (s.setTile g t).txFree = s.txFree := rfl
@[simp] theorem State.setTile_htxHead (s : State) (g : Nat) (t : Tile) : (s.setTile g t).htxHead = s.htxHead := rfl
@[simp] theorem State.setTile_migs (s : State) (g : Nat) (t : Tile) : (s.setTile g t).migs = s.migs := rfl
@[simp] theorem State.setTile_crossed (s : State) (g : Nat) (t : Tile) : (s.setTile g t).crossed = s.crossed := rfl
@[simp] theorem State.setTile_remote (s : State) (g : Nat) (t : Tile) : (s.setTile g t).remote = s.remote := rfl
@[simp] theorem State.setTile_peers (s : State) (g : Nat) (t : Tile) : (s.setTile g t).peers = s.peers := rfl
@[simp] theorem State.setTile_hostAcks (s : State) (g : Nat) (t : Tile) : (s.setTile g t).hostAcks = s.hostAcks := rfl
@[simp] theorem State.setTile_out (s : State) (g : Nat) (t : Tile) : (s.setTile g t).out = s.out := rfl
@[simp] theorem State.setTile_counts (s : State) (g : Nat) (t : Tile) : (s.setTile g t).counts = s.counts := rfl
@[simp] theorem State.setTile_telSeq (s : State) (g : Nat) (t : Tile) : (s.setTile g t).telSeq = s.telSeq := rfl
@[simp] theorem State.setTile_plim (s : State) (g : Nat) (t : Tile) : (s.setTile g t).plim = s.plim := rfl
@[simp] theorem State.setTile_monument (s : State) (g : Nat) (t : Tile) : (s.setTile g t).monument = s.monument := rfl
@[simp] theorem State.setTile_flashing (s : State) (g : Nat) (t : Tile) : (s.setTile g t).flashing = s.flashing := rfl
@[simp] theorem State.setTile_spares (s : State) (g : Nat) (t : Tile) : (s.setTile g t).spares = s.spares := rfl
@[simp] theorem State.setTile_broken (s : State) (g : Nat) (t : Tile) : (s.setTile g t).broken = s.broken := rfl
@[simp] theorem State.setTile_downPorts (s : State) (g : Nat) (t : Tile) :
    (s.setTile g t).downPorts = s.downPorts := rfl
@[simp] theorem State.setTile_badFrames (s : State) (g : Nat) (t : Tile) :
    (s.setTile g t).badFrames = s.badFrames := rfl
@[simp] theorem State.setTile_guardband (s : State) (g : Nat) (t : Tile) :
    (s.setTile g t).guardband = s.guardband := rfl
@[simp] theorem State.setTile_calib (s : State) (g : Nat) (t : Tile) : (s.setTile g t).calib = s.calib := rfl
@[simp] theorem State.setTile_rising (s : State) (g : Nat) (t : Tile) : (s.setTile g t).rising = s.rising := rfl
@[simp] theorem State.setTile_deadDies (s : State) (g : Nat) (t : Tile) : (s.setTile g t).deadDies = s.deadDies := rfl
@[simp] theorem State.setTile_agenda (s : State) (g : Nat) (t : Tile) : (s.setTile g t).agenda = s.agenda := rfl
@[simp] theorem State.setTile_turn (s : State) (g : Nat) (t : Tile) : (s.setTile g t).turn = s.turn := rfl
@[simp] theorem State.setTile_later (s : State) (g : Nat) (t : Tile) : (s.setTile g t).later = s.later := rfl
@[simp] theorem State.setTile_ends (s : State) (g : Nat) (t : Tile) : (s.setTile g t).ends = s.ends := rfl
@[simp] theorem State.setTile_cur (s : State) (g : Nat) (t : Tile) : (s.setTile g t).cur = s.cur := rfl
@[simp] theorem State.setTile_fresh (s : State) (g : Nat) (t : Tile) : (s.setTile g t).fresh = s.fresh := rfl

@[simp] theorem State.setCore_powered (s : State) (w : Who) (k : Core) : (s.setCore w k).powered = s.powered := rfl
@[simp] theorem State.setCore_now (s : State) (w : Who) (k : Core) : (s.setCore w k).now = s.now := rfl
@[simp] theorem State.setCore_ptp (s : State) (w : Who) (k : Core) : (s.setCore w k).ptp = s.ptp := rfl
@[simp] theorem State.setCore_ptpPend (s : State) (w : Who) (k : Core) : (s.setCore w k).ptpPend = s.ptpPend := rfl
@[simp] theorem State.setCore_hbm (s : State) (w : Who) (k : Core) : (s.setCore w k).hbm = s.hbm := rfl
@[simp] theorem State.setCore_poison (s : State) (w : Who) (k : Core) : (s.setCore w k).poison = s.poison := rfl
@[simp] theorem State.setCore_host (s : State) (w : Who) (k : Core) : (s.setCore w k).host = s.host := rfl
@[simp] theorem State.setCore_hostBad (s : State) (w : Who) (k : Core) : (s.setCore w k).hostBad = s.hostBad := rfl
@[simp] theorem State.setCore_hostPoison (s : State) (w : Who) (k : Core) : (s.setCore w k).hostPoison = s.hostPoison := rfl
@[simp] theorem State.setCore_parts (s : State) (w : Who) (k : Core) : (s.setCore w k).parts = s.parts := rfl
@[simp] theorem State.setCore_ctxs (s : State) (w : Who) (k : Core) : (s.setCore w k).ctxs = s.ctxs := rfl
@[simp] theorem State.setCore_cards (s : State) (w : Who) (k : Core) : (s.setCore w k).cards = s.cards := rfl
@[simp] theorem State.setCore_saved (s : State) (w : Who) (k : Core) : (s.setCore w k).saved = s.saved := rfl
@[simp] theorem State.setCore_asking (s : State) (w : Who) (k : Core) : (s.setCore w k).asking = s.asking := rfl
@[simp] theorem State.setCore_nextUid (s : State) (w : Who) (k : Core) : (s.setCore w k).nextUid = s.nextUid := rfl
@[simp] theorem State.setCore_nextCard (s : State) (w : Who) (k : Core) : (s.setCore w k).nextCard = s.nextCard := rfl
@[simp] theorem State.setCore_lastCtx (s : State) (w : Who) (k : Core) : (s.setCore w k).lastCtx = s.lastCtx := rfl
@[simp] theorem State.setCore_aborts (s : State) (w : Who) (k : Core) : (s.setCore w k).aborts = s.aborts := rfl
@[simp] theorem State.setCore_dev (s : State) (w : Who) (k : Core) : (s.setCore w k).dev = s.dev := rfl
@[simp] theorem State.setCore_hubBusy (s : State) (w : Who) (k : Core) : (s.setCore w k).hubBusy = s.hubBusy := rfl
@[simp] theorem State.setCore_flowSeq (s : State) (w : Who) (k : Core) : (s.setCore w k).flowSeq = s.flowSeq := rfl
@[simp] theorem State.setCore_txq (s : State) (w : Who) (k : Core) : (s.setCore w k).txq = s.txq := rfl
@[simp] theorem State.setCore_txFree (s : State) (w : Who) (k : Core) : (s.setCore w k).txFree = s.txFree := rfl
@[simp] theorem State.setCore_htxHead (s : State) (w : Who) (k : Core) : (s.setCore w k).htxHead = s.htxHead := rfl
@[simp] theorem State.setCore_migs (s : State) (w : Who) (k : Core) : (s.setCore w k).migs = s.migs := rfl
@[simp] theorem State.setCore_crossed (s : State) (w : Who) (k : Core) : (s.setCore w k).crossed = s.crossed := rfl
@[simp] theorem State.setCore_remote (s : State) (w : Who) (k : Core) : (s.setCore w k).remote = s.remote := rfl
@[simp] theorem State.setCore_peers (s : State) (w : Who) (k : Core) : (s.setCore w k).peers = s.peers := rfl
@[simp] theorem State.setCore_hostAcks (s : State) (w : Who) (k : Core) : (s.setCore w k).hostAcks = s.hostAcks := rfl
@[simp] theorem State.setCore_out (s : State) (w : Who) (k : Core) : (s.setCore w k).out = s.out := rfl
@[simp] theorem State.setCore_counts (s : State) (w : Who) (k : Core) : (s.setCore w k).counts = s.counts := rfl
@[simp] theorem State.setCore_telSeq (s : State) (w : Who) (k : Core) : (s.setCore w k).telSeq = s.telSeq := rfl
@[simp] theorem State.setCore_plim (s : State) (w : Who) (k : Core) : (s.setCore w k).plim = s.plim := rfl
@[simp] theorem State.setCore_monument (s : State) (w : Who) (k : Core) : (s.setCore w k).monument = s.monument := rfl
@[simp] theorem State.setCore_flashing (s : State) (w : Who) (k : Core) : (s.setCore w k).flashing = s.flashing := rfl
@[simp] theorem State.setCore_spares (s : State) (w : Who) (k : Core) : (s.setCore w k).spares = s.spares := rfl
@[simp] theorem State.setCore_broken (s : State) (w : Who) (k : Core) : (s.setCore w k).broken = s.broken := rfl
@[simp] theorem State.setCore_downPorts (s : State) (w : Who) (k : Core) :
    (s.setCore w k).downPorts = s.downPorts := rfl
@[simp] theorem State.setCore_badFrames (s : State) (w : Who) (k : Core) :
    (s.setCore w k).badFrames = s.badFrames := rfl
@[simp] theorem State.setCore_guardband (s : State) (w : Who) (k : Core) :
    (s.setCore w k).guardband = s.guardband := rfl
@[simp] theorem State.setCore_calib (s : State) (w : Who) (k : Core) : (s.setCore w k).calib = s.calib := rfl
@[simp] theorem State.setCore_rising (s : State) (w : Who) (k : Core) : (s.setCore w k).rising = s.rising := rfl
@[simp] theorem State.setCore_deadDies (s : State) (w : Who) (k : Core) : (s.setCore w k).deadDies = s.deadDies := rfl
@[simp] theorem State.setCore_agenda (s : State) (w : Who) (k : Core) : (s.setCore w k).agenda = s.agenda := rfl
@[simp] theorem State.setCore_turn (s : State) (w : Who) (k : Core) : (s.setCore w k).turn = s.turn := rfl
@[simp] theorem State.setCore_later (s : State) (w : Who) (k : Core) : (s.setCore w k).later = s.later := rfl
@[simp] theorem State.setCore_ends (s : State) (w : Who) (k : Core) : (s.setCore w k).ends = s.ends := rfl
@[simp] theorem State.setCore_cur (s : State) (w : Who) (k : Core) : (s.setCore w k).cur = s.cur := rfl
@[simp] theorem State.setCore_fresh (s : State) (w : Who) (k : Core) : (s.setCore w k).fresh = s.fresh := rfl

@[simp] theorem State.setMe_powered (s : State) (k : Core) : (s.setMe k).powered = s.powered := rfl
@[simp] theorem State.setMe_now (s : State) (k : Core) : (s.setMe k).now = s.now := rfl
@[simp] theorem State.setMe_ptp (s : State) (k : Core) : (s.setMe k).ptp = s.ptp := rfl
@[simp] theorem State.setMe_ptpPend (s : State) (k : Core) : (s.setMe k).ptpPend = s.ptpPend := rfl
@[simp] theorem State.setMe_hbm (s : State) (k : Core) : (s.setMe k).hbm = s.hbm := rfl
@[simp] theorem State.setMe_poison (s : State) (k : Core) : (s.setMe k).poison = s.poison := rfl
@[simp] theorem State.setMe_host (s : State) (k : Core) : (s.setMe k).host = s.host := rfl
@[simp] theorem State.setMe_hostBad (s : State) (k : Core) : (s.setMe k).hostBad = s.hostBad := rfl
@[simp] theorem State.setMe_hostPoison (s : State) (k : Core) : (s.setMe k).hostPoison = s.hostPoison := rfl
@[simp] theorem State.setMe_parts (s : State) (k : Core) : (s.setMe k).parts = s.parts := rfl
@[simp] theorem State.setMe_ctxs (s : State) (k : Core) : (s.setMe k).ctxs = s.ctxs := rfl
@[simp] theorem State.setMe_cards (s : State) (k : Core) : (s.setMe k).cards = s.cards := rfl
@[simp] theorem State.setMe_saved (s : State) (k : Core) : (s.setMe k).saved = s.saved := rfl
@[simp] theorem State.setMe_asking (s : State) (k : Core) : (s.setMe k).asking = s.asking := rfl
@[simp] theorem State.setMe_nextUid (s : State) (k : Core) : (s.setMe k).nextUid = s.nextUid := rfl
@[simp] theorem State.setMe_nextCard (s : State) (k : Core) : (s.setMe k).nextCard = s.nextCard := rfl
@[simp] theorem State.setMe_lastCtx (s : State) (k : Core) : (s.setMe k).lastCtx = s.lastCtx := rfl
@[simp] theorem State.setMe_aborts (s : State) (k : Core) : (s.setMe k).aborts = s.aborts := rfl
@[simp] theorem State.setMe_dev (s : State) (k : Core) : (s.setMe k).dev = s.dev := rfl
@[simp] theorem State.setMe_hubBusy (s : State) (k : Core) : (s.setMe k).hubBusy = s.hubBusy := rfl
@[simp] theorem State.setMe_flowSeq (s : State) (k : Core) : (s.setMe k).flowSeq = s.flowSeq := rfl
@[simp] theorem State.setMe_txq (s : State) (k : Core) : (s.setMe k).txq = s.txq := rfl
@[simp] theorem State.setMe_txFree (s : State) (k : Core) : (s.setMe k).txFree = s.txFree := rfl
@[simp] theorem State.setMe_htxHead (s : State) (k : Core) : (s.setMe k).htxHead = s.htxHead := rfl
@[simp] theorem State.setMe_migs (s : State) (k : Core) : (s.setMe k).migs = s.migs := rfl
@[simp] theorem State.setMe_crossed (s : State) (k : Core) : (s.setMe k).crossed = s.crossed := rfl
@[simp] theorem State.setMe_remote (s : State) (k : Core) : (s.setMe k).remote = s.remote := rfl
@[simp] theorem State.setMe_peers (s : State) (k : Core) : (s.setMe k).peers = s.peers := rfl
@[simp] theorem State.setMe_hostAcks (s : State) (k : Core) : (s.setMe k).hostAcks = s.hostAcks := rfl
@[simp] theorem State.setMe_out (s : State) (k : Core) : (s.setMe k).out = s.out := rfl
@[simp] theorem State.setMe_counts (s : State) (k : Core) : (s.setMe k).counts = s.counts := rfl
@[simp] theorem State.setMe_telSeq (s : State) (k : Core) : (s.setMe k).telSeq = s.telSeq := rfl
@[simp] theorem State.setMe_plim (s : State) (k : Core) : (s.setMe k).plim = s.plim := rfl
@[simp] theorem State.setMe_monument (s : State) (k : Core) : (s.setMe k).monument = s.monument := rfl
@[simp] theorem State.setMe_flashing (s : State) (k : Core) : (s.setMe k).flashing = s.flashing := rfl
@[simp] theorem State.setMe_spares (s : State) (k : Core) : (s.setMe k).spares = s.spares := rfl
@[simp] theorem State.setMe_broken (s : State) (k : Core) : (s.setMe k).broken = s.broken := rfl
@[simp] theorem State.setMe_downPorts (s : State) (k : Core) : (s.setMe k).downPorts = s.downPorts := rfl
@[simp] theorem State.setMe_badFrames (s : State) (k : Core) : (s.setMe k).badFrames = s.badFrames := rfl
@[simp] theorem State.setMe_guardband (s : State) (k : Core) : (s.setMe k).guardband = s.guardband := rfl
@[simp] theorem State.setMe_calib (s : State) (k : Core) : (s.setMe k).calib = s.calib := rfl
@[simp] theorem State.setMe_rising (s : State) (k : Core) : (s.setMe k).rising = s.rising := rfl
@[simp] theorem State.setMe_deadDies (s : State) (k : Core) : (s.setMe k).deadDies = s.deadDies := rfl
@[simp] theorem State.setMe_agenda (s : State) (k : Core) : (s.setMe k).agenda = s.agenda := rfl
@[simp] theorem State.setMe_turn (s : State) (k : Core) : (s.setMe k).turn = s.turn := rfl
@[simp] theorem State.setMe_later (s : State) (k : Core) : (s.setMe k).later = s.later := rfl
@[simp] theorem State.setMe_ends (s : State) (k : Core) : (s.setMe k).ends = s.ends := rfl
@[simp] theorem State.setMe_cur (s : State) (k : Core) : (s.setMe k).cur = s.cur := rfl
@[simp] theorem State.setMe_fresh (s : State) (k : Core) : (s.setMe k).fresh = s.fresh := rfl

@[simp] theorem State.setMyTile_powered (s : State) (t : Tile) : (s.setMyTile t).powered = s.powered := rfl
@[simp] theorem State.setMyTile_now (s : State) (t : Tile) : (s.setMyTile t).now = s.now := rfl
@[simp] theorem State.setMyTile_ptp (s : State) (t : Tile) : (s.setMyTile t).ptp = s.ptp := rfl
@[simp] theorem State.setMyTile_ptpPend (s : State) (t : Tile) : (s.setMyTile t).ptpPend = s.ptpPend := rfl
@[simp] theorem State.setMyTile_hbm (s : State) (t : Tile) : (s.setMyTile t).hbm = s.hbm := rfl
@[simp] theorem State.setMyTile_poison (s : State) (t : Tile) : (s.setMyTile t).poison = s.poison := rfl
@[simp] theorem State.setMyTile_host (s : State) (t : Tile) : (s.setMyTile t).host = s.host := rfl
@[simp] theorem State.setMyTile_hostBad (s : State) (t : Tile) : (s.setMyTile t).hostBad = s.hostBad := rfl
@[simp] theorem State.setMyTile_hostPoison (s : State) (t : Tile) : (s.setMyTile t).hostPoison = s.hostPoison := rfl
@[simp] theorem State.setMyTile_parts (s : State) (t : Tile) : (s.setMyTile t).parts = s.parts := rfl
@[simp] theorem State.setMyTile_ctxs (s : State) (t : Tile) : (s.setMyTile t).ctxs = s.ctxs := rfl
@[simp] theorem State.setMyTile_cards (s : State) (t : Tile) : (s.setMyTile t).cards = s.cards := rfl
@[simp] theorem State.setMyTile_saved (s : State) (t : Tile) : (s.setMyTile t).saved = s.saved := rfl
@[simp] theorem State.setMyTile_asking (s : State) (t : Tile) : (s.setMyTile t).asking = s.asking := rfl
@[simp] theorem State.setMyTile_nextUid (s : State) (t : Tile) : (s.setMyTile t).nextUid = s.nextUid := rfl
@[simp] theorem State.setMyTile_nextCard (s : State) (t : Tile) : (s.setMyTile t).nextCard = s.nextCard := rfl
@[simp] theorem State.setMyTile_lastCtx (s : State) (t : Tile) : (s.setMyTile t).lastCtx = s.lastCtx := rfl
@[simp] theorem State.setMyTile_aborts (s : State) (t : Tile) : (s.setMyTile t).aborts = s.aborts := rfl
@[simp] theorem State.setMyTile_dev (s : State) (t : Tile) : (s.setMyTile t).dev = s.dev := rfl
@[simp] theorem State.setMyTile_hubBusy (s : State) (t : Tile) : (s.setMyTile t).hubBusy = s.hubBusy := rfl
@[simp] theorem State.setMyTile_flowSeq (s : State) (t : Tile) : (s.setMyTile t).flowSeq = s.flowSeq := rfl
@[simp] theorem State.setMyTile_txq (s : State) (t : Tile) : (s.setMyTile t).txq = s.txq := rfl
@[simp] theorem State.setMyTile_txFree (s : State) (t : Tile) : (s.setMyTile t).txFree = s.txFree := rfl
@[simp] theorem State.setMyTile_htxHead (s : State) (t : Tile) : (s.setMyTile t).htxHead = s.htxHead := rfl
@[simp] theorem State.setMyTile_migs (s : State) (t : Tile) : (s.setMyTile t).migs = s.migs := rfl
@[simp] theorem State.setMyTile_crossed (s : State) (t : Tile) : (s.setMyTile t).crossed = s.crossed := rfl
@[simp] theorem State.setMyTile_remote (s : State) (t : Tile) : (s.setMyTile t).remote = s.remote := rfl
@[simp] theorem State.setMyTile_peers (s : State) (t : Tile) : (s.setMyTile t).peers = s.peers := rfl
@[simp] theorem State.setMyTile_hostAcks (s : State) (t : Tile) : (s.setMyTile t).hostAcks = s.hostAcks := rfl
@[simp] theorem State.setMyTile_out (s : State) (t : Tile) : (s.setMyTile t).out = s.out := rfl
@[simp] theorem State.setMyTile_counts (s : State) (t : Tile) : (s.setMyTile t).counts = s.counts := rfl
@[simp] theorem State.setMyTile_telSeq (s : State) (t : Tile) : (s.setMyTile t).telSeq = s.telSeq := rfl
@[simp] theorem State.setMyTile_plim (s : State) (t : Tile) : (s.setMyTile t).plim = s.plim := rfl
@[simp] theorem State.setMyTile_monument (s : State) (t : Tile) : (s.setMyTile t).monument = s.monument := rfl
@[simp] theorem State.setMyTile_flashing (s : State) (t : Tile) : (s.setMyTile t).flashing = s.flashing := rfl
@[simp] theorem State.setMyTile_spares (s : State) (t : Tile) : (s.setMyTile t).spares = s.spares := rfl
@[simp] theorem State.setMyTile_broken (s : State) (t : Tile) : (s.setMyTile t).broken = s.broken := rfl
@[simp] theorem State.setMyTile_downPorts (s : State) (t : Tile) : (s.setMyTile t).downPorts = s.downPorts := rfl
@[simp] theorem State.setMyTile_badFrames (s : State) (t : Tile) : (s.setMyTile t).badFrames = s.badFrames := rfl
@[simp] theorem State.setMyTile_guardband (s : State) (t : Tile) : (s.setMyTile t).guardband = s.guardband := rfl
@[simp] theorem State.setMyTile_calib (s : State) (t : Tile) : (s.setMyTile t).calib = s.calib := rfl
@[simp] theorem State.setMyTile_rising (s : State) (t : Tile) : (s.setMyTile t).rising = s.rising := rfl
@[simp] theorem State.setMyTile_deadDies (s : State) (t : Tile) : (s.setMyTile t).deadDies = s.deadDies := rfl
@[simp] theorem State.setMyTile_agenda (s : State) (t : Tile) : (s.setMyTile t).agenda = s.agenda := rfl
@[simp] theorem State.setMyTile_turn (s : State) (t : Tile) : (s.setMyTile t).turn = s.turn := rfl
@[simp] theorem State.setMyTile_later (s : State) (t : Tile) : (s.setMyTile t).later = s.later := rfl
@[simp] theorem State.setMyTile_ends (s : State) (t : Tile) : (s.setMyTile t).ends = s.ends := rfl
@[simp] theorem State.setMyTile_cur (s : State) (t : Tile) : (s.setMyTile t).cur = s.cur := rfl
@[simp] theorem State.setMyTile_fresh (s : State) (t : Tile) : (s.setMyTile t).fresh = s.fresh := rfl

@[simp] theorem State.mapMe_powered (s : State) (f : Core → Core) : (s.mapMe f).powered = s.powered := rfl
@[simp] theorem State.mapMe_now (s : State) (f : Core → Core) : (s.mapMe f).now = s.now := rfl
@[simp] theorem State.mapMe_ptp (s : State) (f : Core → Core) : (s.mapMe f).ptp = s.ptp := rfl
@[simp] theorem State.mapMe_ptpPend (s : State) (f : Core → Core) : (s.mapMe f).ptpPend = s.ptpPend := rfl
@[simp] theorem State.mapMe_hbm (s : State) (f : Core → Core) : (s.mapMe f).hbm = s.hbm := rfl
@[simp] theorem State.mapMe_poison (s : State) (f : Core → Core) : (s.mapMe f).poison = s.poison := rfl
@[simp] theorem State.mapMe_host (s : State) (f : Core → Core) : (s.mapMe f).host = s.host := rfl
@[simp] theorem State.mapMe_hostBad (s : State) (f : Core → Core) : (s.mapMe f).hostBad = s.hostBad := rfl
@[simp] theorem State.mapMe_hostPoison (s : State) (f : Core → Core) : (s.mapMe f).hostPoison = s.hostPoison := rfl
@[simp] theorem State.mapMe_parts (s : State) (f : Core → Core) : (s.mapMe f).parts = s.parts := rfl
@[simp] theorem State.mapMe_ctxs (s : State) (f : Core → Core) : (s.mapMe f).ctxs = s.ctxs := rfl
@[simp] theorem State.mapMe_cards (s : State) (f : Core → Core) : (s.mapMe f).cards = s.cards := rfl
@[simp] theorem State.mapMe_saved (s : State) (f : Core → Core) : (s.mapMe f).saved = s.saved := rfl
@[simp] theorem State.mapMe_asking (s : State) (f : Core → Core) : (s.mapMe f).asking = s.asking := rfl
@[simp] theorem State.mapMe_nextUid (s : State) (f : Core → Core) : (s.mapMe f).nextUid = s.nextUid := rfl
@[simp] theorem State.mapMe_nextCard (s : State) (f : Core → Core) : (s.mapMe f).nextCard = s.nextCard := rfl
@[simp] theorem State.mapMe_lastCtx (s : State) (f : Core → Core) : (s.mapMe f).lastCtx = s.lastCtx := rfl
@[simp] theorem State.mapMe_aborts (s : State) (f : Core → Core) : (s.mapMe f).aborts = s.aborts := rfl
@[simp] theorem State.mapMe_dev (s : State) (f : Core → Core) : (s.mapMe f).dev = s.dev := rfl
@[simp] theorem State.mapMe_hubBusy (s : State) (f : Core → Core) : (s.mapMe f).hubBusy = s.hubBusy := rfl
@[simp] theorem State.mapMe_flowSeq (s : State) (f : Core → Core) : (s.mapMe f).flowSeq = s.flowSeq := rfl
@[simp] theorem State.mapMe_txq (s : State) (f : Core → Core) : (s.mapMe f).txq = s.txq := rfl
@[simp] theorem State.mapMe_txFree (s : State) (f : Core → Core) : (s.mapMe f).txFree = s.txFree := rfl
@[simp] theorem State.mapMe_htxHead (s : State) (f : Core → Core) : (s.mapMe f).htxHead = s.htxHead := rfl
@[simp] theorem State.mapMe_migs (s : State) (f : Core → Core) : (s.mapMe f).migs = s.migs := rfl
@[simp] theorem State.mapMe_crossed (s : State) (f : Core → Core) : (s.mapMe f).crossed = s.crossed := rfl
@[simp] theorem State.mapMe_remote (s : State) (f : Core → Core) : (s.mapMe f).remote = s.remote := rfl
@[simp] theorem State.mapMe_peers (s : State) (f : Core → Core) : (s.mapMe f).peers = s.peers := rfl
@[simp] theorem State.mapMe_hostAcks (s : State) (f : Core → Core) : (s.mapMe f).hostAcks = s.hostAcks := rfl
@[simp] theorem State.mapMe_out (s : State) (f : Core → Core) : (s.mapMe f).out = s.out := rfl
@[simp] theorem State.mapMe_counts (s : State) (f : Core → Core) : (s.mapMe f).counts = s.counts := rfl
@[simp] theorem State.mapMe_telSeq (s : State) (f : Core → Core) : (s.mapMe f).telSeq = s.telSeq := rfl
@[simp] theorem State.mapMe_plim (s : State) (f : Core → Core) : (s.mapMe f).plim = s.plim := rfl
@[simp] theorem State.mapMe_monument (s : State) (f : Core → Core) : (s.mapMe f).monument = s.monument := rfl
@[simp] theorem State.mapMe_flashing (s : State) (f : Core → Core) : (s.mapMe f).flashing = s.flashing := rfl
@[simp] theorem State.mapMe_spares (s : State) (f : Core → Core) : (s.mapMe f).spares = s.spares := rfl
@[simp] theorem State.mapMe_broken (s : State) (f : Core → Core) : (s.mapMe f).broken = s.broken := rfl
@[simp] theorem State.mapMe_downPorts (s : State) (f : Core → Core) : (s.mapMe f).downPorts = s.downPorts := rfl
@[simp] theorem State.mapMe_badFrames (s : State) (f : Core → Core) : (s.mapMe f).badFrames = s.badFrames := rfl
@[simp] theorem State.mapMe_guardband (s : State) (f : Core → Core) : (s.mapMe f).guardband = s.guardband := rfl
@[simp] theorem State.mapMe_calib (s : State) (f : Core → Core) : (s.mapMe f).calib = s.calib := rfl
@[simp] theorem State.mapMe_rising (s : State) (f : Core → Core) : (s.mapMe f).rising = s.rising := rfl
@[simp] theorem State.mapMe_deadDies (s : State) (f : Core → Core) : (s.mapMe f).deadDies = s.deadDies := rfl
@[simp] theorem State.mapMe_agenda (s : State) (f : Core → Core) : (s.mapMe f).agenda = s.agenda := rfl
@[simp] theorem State.mapMe_turn (s : State) (f : Core → Core) : (s.mapMe f).turn = s.turn := rfl
@[simp] theorem State.mapMe_later (s : State) (f : Core → Core) : (s.mapMe f).later = s.later := rfl
@[simp] theorem State.mapMe_ends (s : State) (f : Core → Core) : (s.mapMe f).ends = s.ends := rfl
@[simp] theorem State.mapMe_cur (s : State) (f : Core → Core) : (s.mapMe f).cur = s.cur := rfl
@[simp] theorem State.mapMe_fresh (s : State) (f : Core → Core) : (s.mapMe f).fresh = s.fresh := rfl

@[simp] theorem State.issue_powered (s : State) (npc : U64) (next : Nat) (p : Pend) :
    (s.issue npc next p).powered = s.powered := rfl
@[simp] theorem State.issue_now (s : State) (npc : U64) (next : Nat) (p : Pend) :
    (s.issue npc next p).now = s.now := rfl
@[simp] theorem State.issue_ptp (s : State) (npc : U64) (next : Nat) (p : Pend) :
    (s.issue npc next p).ptp = s.ptp := rfl
@[simp] theorem State.issue_ptpPend (s : State) (npc : U64) (next : Nat) (p : Pend) :
    (s.issue npc next p).ptpPend = s.ptpPend := rfl
@[simp] theorem State.issue_hbm (s : State) (npc : U64) (next : Nat) (p : Pend) :
    (s.issue npc next p).hbm = s.hbm := rfl
@[simp] theorem State.issue_poison (s : State) (npc : U64) (next : Nat) (p : Pend) :
    (s.issue npc next p).poison = s.poison := rfl
@[simp] theorem State.issue_host (s : State) (npc : U64) (next : Nat) (p : Pend) :
    (s.issue npc next p).host = s.host := rfl
@[simp] theorem State.issue_hostBad (s : State) (npc : U64) (next : Nat) (p : Pend) :
    (s.issue npc next p).hostBad = s.hostBad := rfl
@[simp] theorem State.issue_hostPoison (s : State) (npc : U64) (next : Nat) (p : Pend) :
    (s.issue npc next p).hostPoison = s.hostPoison := rfl
@[simp] theorem State.issue_parts (s : State) (npc : U64) (next : Nat) (p : Pend) :
    (s.issue npc next p).parts = s.parts := rfl
@[simp] theorem State.issue_ctxs (s : State) (npc : U64) (next : Nat) (p : Pend) :
    (s.issue npc next p).ctxs = s.ctxs := rfl
@[simp] theorem State.issue_cards (s : State) (npc : U64) (next : Nat) (p : Pend) :
    (s.issue npc next p).cards = s.cards := rfl
@[simp] theorem State.issue_saved (s : State) (npc : U64) (next : Nat) (p : Pend) :
    (s.issue npc next p).saved = s.saved := rfl
@[simp] theorem State.issue_asking (s : State) (npc : U64) (next : Nat) (p : Pend) :
    (s.issue npc next p).asking = s.asking := rfl
@[simp] theorem State.issue_nextUid (s : State) (npc : U64) (next : Nat) (p : Pend) :
    (s.issue npc next p).nextUid = s.nextUid := rfl
@[simp] theorem State.issue_nextCard (s : State) (npc : U64) (next : Nat) (p : Pend) :
    (s.issue npc next p).nextCard = s.nextCard := rfl
@[simp] theorem State.issue_lastCtx (s : State) (npc : U64) (next : Nat) (p : Pend) :
    (s.issue npc next p).lastCtx = s.lastCtx := rfl
@[simp] theorem State.issue_aborts (s : State) (npc : U64) (next : Nat) (p : Pend) :
    (s.issue npc next p).aborts = s.aborts := rfl
@[simp] theorem State.issue_dev (s : State) (npc : U64) (next : Nat) (p : Pend) :
    (s.issue npc next p).dev = s.dev := rfl
@[simp] theorem State.issue_hubBusy (s : State) (npc : U64) (next : Nat) (p : Pend) :
    (s.issue npc next p).hubBusy = s.hubBusy := rfl
@[simp] theorem State.issue_flowSeq (s : State) (npc : U64) (next : Nat) (p : Pend) :
    (s.issue npc next p).flowSeq = s.flowSeq := rfl
@[simp] theorem State.issue_txq (s : State) (npc : U64) (next : Nat) (p : Pend) :
    (s.issue npc next p).txq = s.txq := rfl
@[simp] theorem State.issue_txFree (s : State) (npc : U64) (next : Nat) (p : Pend) :
    (s.issue npc next p).txFree = s.txFree := rfl
@[simp] theorem State.issue_htxHead (s : State) (npc : U64) (next : Nat) (p : Pend) :
    (s.issue npc next p).htxHead = s.htxHead := rfl
@[simp] theorem State.issue_migs (s : State) (npc : U64) (next : Nat) (p : Pend) :
    (s.issue npc next p).migs = s.migs := rfl
@[simp] theorem State.issue_crossed (s : State) (npc : U64) (next : Nat) (p : Pend) :
    (s.issue npc next p).crossed = s.crossed := rfl
@[simp] theorem State.issue_remote (s : State) (npc : U64) (next : Nat) (p : Pend) :
    (s.issue npc next p).remote = s.remote := rfl
@[simp] theorem State.issue_peers (s : State) (npc : U64) (next : Nat) (p : Pend) :
    (s.issue npc next p).peers = s.peers := rfl
@[simp] theorem State.issue_hostAcks (s : State) (npc : U64) (next : Nat) (p : Pend) :
    (s.issue npc next p).hostAcks = s.hostAcks := rfl
@[simp] theorem State.issue_out (s : State) (npc : U64) (next : Nat) (p : Pend) :
    (s.issue npc next p).out = s.out := rfl
@[simp] theorem State.issue_counts (s : State) (npc : U64) (next : Nat) (p : Pend) :
    (s.issue npc next p).counts = s.counts := rfl
@[simp] theorem State.issue_telSeq (s : State) (npc : U64) (next : Nat) (p : Pend) :
    (s.issue npc next p).telSeq = s.telSeq := rfl
@[simp] theorem State.issue_plim (s : State) (npc : U64) (next : Nat) (p : Pend) :
    (s.issue npc next p).plim = s.plim := rfl
@[simp] theorem State.issue_monument (s : State) (npc : U64) (next : Nat) (p : Pend) :
    (s.issue npc next p).monument = s.monument := rfl
@[simp] theorem State.issue_flashing (s : State) (npc : U64) (next : Nat) (p : Pend) :
    (s.issue npc next p).flashing = s.flashing := rfl
@[simp] theorem State.issue_spares (s : State) (npc : U64) (next : Nat) (p : Pend) :
    (s.issue npc next p).spares = s.spares := rfl
@[simp] theorem State.issue_broken (s : State) (npc : U64) (next : Nat) (p : Pend) :
    (s.issue npc next p).broken = s.broken := rfl
@[simp] theorem State.issue_downPorts (s : State) (npc : U64) (next : Nat) (p : Pend) :
    (s.issue npc next p).downPorts = s.downPorts := rfl
@[simp] theorem State.issue_badFrames (s : State) (npc : U64) (next : Nat) (p : Pend) :
    (s.issue npc next p).badFrames = s.badFrames := rfl
@[simp] theorem State.issue_guardband (s : State) (npc : U64) (next : Nat) (p : Pend) :
    (s.issue npc next p).guardband = s.guardband := rfl
@[simp] theorem State.issue_calib (s : State) (npc : U64) (next : Nat) (p : Pend) :
    (s.issue npc next p).calib = s.calib := rfl
@[simp] theorem State.issue_rising (s : State) (npc : U64) (next : Nat) (p : Pend) :
    (s.issue npc next p).rising = s.rising := rfl
@[simp] theorem State.issue_deadDies (s : State) (npc : U64) (next : Nat) (p : Pend) :
    (s.issue npc next p).deadDies = s.deadDies := rfl
@[simp] theorem State.issue_agenda (s : State) (npc : U64) (next : Nat) (p : Pend) :
    (s.issue npc next p).agenda = s.agenda := rfl
@[simp] theorem State.issue_turn (s : State) (npc : U64) (next : Nat) (p : Pend) :
    (s.issue npc next p).turn = s.turn := rfl
@[simp] theorem State.issue_later (s : State) (npc : U64) (next : Nat) (p : Pend) :
    (s.issue npc next p).later = s.later := rfl
@[simp] theorem State.issue_ends (s : State) (npc : U64) (next : Nat) (p : Pend) :
    (s.issue npc next p).ends = s.ends := rfl
@[simp] theorem State.issue_cur (s : State) (npc : U64) (next : Nat) (p : Pend) :
    (s.issue npc next p).cur = s.cur := rfl
@[simp] theorem State.issue_fresh (s : State) (npc : U64) (next : Nat) (p : Pend) :
    (s.issue npc next p).fresh = s.fresh := rfl

@[simp] theorem State.setCtx_powered (s : State) (x : Nat) (c : Ctx) : (s.setCtx x c).powered = s.powered := rfl
@[simp] theorem State.setCtx_now (s : State) (x : Nat) (c : Ctx) : (s.setCtx x c).now = s.now := rfl
@[simp] theorem State.setCtx_ptp (s : State) (x : Nat) (c : Ctx) : (s.setCtx x c).ptp = s.ptp := rfl
@[simp] theorem State.setCtx_ptpPend (s : State) (x : Nat) (c : Ctx) : (s.setCtx x c).ptpPend = s.ptpPend := rfl
@[simp] theorem State.setCtx_tiles (s : State) (x : Nat) (c : Ctx) : (s.setCtx x c).tiles = s.tiles := rfl
@[simp] theorem State.setCtx_hbm (s : State) (x : Nat) (c : Ctx) : (s.setCtx x c).hbm = s.hbm := rfl
@[simp] theorem State.setCtx_poison (s : State) (x : Nat) (c : Ctx) : (s.setCtx x c).poison = s.poison := rfl
@[simp] theorem State.setCtx_host (s : State) (x : Nat) (c : Ctx) : (s.setCtx x c).host = s.host := rfl
@[simp] theorem State.setCtx_hostBad (s : State) (x : Nat) (c : Ctx) : (s.setCtx x c).hostBad = s.hostBad := rfl
@[simp] theorem State.setCtx_hostPoison (s : State) (x : Nat) (c : Ctx) : (s.setCtx x c).hostPoison = s.hostPoison := rfl
@[simp] theorem State.setCtx_parts (s : State) (x : Nat) (c : Ctx) : (s.setCtx x c).parts = s.parts := rfl
@[simp] theorem State.setCtx_cards (s : State) (x : Nat) (c : Ctx) : (s.setCtx x c).cards = s.cards := rfl
@[simp] theorem State.setCtx_saved (s : State) (x : Nat) (c : Ctx) : (s.setCtx x c).saved = s.saved := rfl
@[simp] theorem State.setCtx_asking (s : State) (x : Nat) (c : Ctx) : (s.setCtx x c).asking = s.asking := rfl
@[simp] theorem State.setCtx_nextUid (s : State) (x : Nat) (c : Ctx) : (s.setCtx x c).nextUid = s.nextUid := rfl
@[simp] theorem State.setCtx_nextCard (s : State) (x : Nat) (c : Ctx) : (s.setCtx x c).nextCard = s.nextCard := rfl
@[simp] theorem State.setCtx_lastCtx (s : State) (x : Nat) (c : Ctx) : (s.setCtx x c).lastCtx = s.lastCtx := rfl
@[simp] theorem State.setCtx_aborts (s : State) (x : Nat) (c : Ctx) : (s.setCtx x c).aborts = s.aborts := rfl
@[simp] theorem State.setCtx_dev (s : State) (x : Nat) (c : Ctx) : (s.setCtx x c).dev = s.dev := rfl
@[simp] theorem State.setCtx_hubBusy (s : State) (x : Nat) (c : Ctx) : (s.setCtx x c).hubBusy = s.hubBusy := rfl
@[simp] theorem State.setCtx_flowSeq (s : State) (x : Nat) (c : Ctx) : (s.setCtx x c).flowSeq = s.flowSeq := rfl
@[simp] theorem State.setCtx_txq (s : State) (x : Nat) (c : Ctx) : (s.setCtx x c).txq = s.txq := rfl
@[simp] theorem State.setCtx_txFree (s : State) (x : Nat) (c : Ctx) : (s.setCtx x c).txFree = s.txFree := rfl
@[simp] theorem State.setCtx_htxHead (s : State) (x : Nat) (c : Ctx) : (s.setCtx x c).htxHead = s.htxHead := rfl
@[simp] theorem State.setCtx_migs (s : State) (x : Nat) (c : Ctx) : (s.setCtx x c).migs = s.migs := rfl
@[simp] theorem State.setCtx_crossed (s : State) (x : Nat) (c : Ctx) : (s.setCtx x c).crossed = s.crossed := rfl
@[simp] theorem State.setCtx_remote (s : State) (x : Nat) (c : Ctx) : (s.setCtx x c).remote = s.remote := rfl
@[simp] theorem State.setCtx_peers (s : State) (x : Nat) (c : Ctx) : (s.setCtx x c).peers = s.peers := rfl
@[simp] theorem State.setCtx_hostAcks (s : State) (x : Nat) (c : Ctx) : (s.setCtx x c).hostAcks = s.hostAcks := rfl
@[simp] theorem State.setCtx_out (s : State) (x : Nat) (c : Ctx) : (s.setCtx x c).out = s.out := rfl
@[simp] theorem State.setCtx_counts (s : State) (x : Nat) (c : Ctx) : (s.setCtx x c).counts = s.counts := rfl
@[simp] theorem State.setCtx_telSeq (s : State) (x : Nat) (c : Ctx) : (s.setCtx x c).telSeq = s.telSeq := rfl
@[simp] theorem State.setCtx_plim (s : State) (x : Nat) (c : Ctx) : (s.setCtx x c).plim = s.plim := rfl
@[simp] theorem State.setCtx_monument (s : State) (x : Nat) (c : Ctx) : (s.setCtx x c).monument = s.monument := rfl
@[simp] theorem State.setCtx_flashing (s : State) (x : Nat) (c : Ctx) : (s.setCtx x c).flashing = s.flashing := rfl
@[simp] theorem State.setCtx_spares (s : State) (x : Nat) (c : Ctx) : (s.setCtx x c).spares = s.spares := rfl
@[simp] theorem State.setCtx_broken (s : State) (x : Nat) (c : Ctx) : (s.setCtx x c).broken = s.broken := rfl
@[simp] theorem State.setCtx_downPorts (s : State) (x : Nat) (c : Ctx) : (s.setCtx x c).downPorts = s.downPorts := rfl
@[simp] theorem State.setCtx_badFrames (s : State) (x : Nat) (c : Ctx) : (s.setCtx x c).badFrames = s.badFrames := rfl
@[simp] theorem State.setCtx_guardband (s : State) (x : Nat) (c : Ctx) : (s.setCtx x c).guardband = s.guardband := rfl
@[simp] theorem State.setCtx_calib (s : State) (x : Nat) (c : Ctx) : (s.setCtx x c).calib = s.calib := rfl
@[simp] theorem State.setCtx_rising (s : State) (x : Nat) (c : Ctx) : (s.setCtx x c).rising = s.rising := rfl
@[simp] theorem State.setCtx_deadDies (s : State) (x : Nat) (c : Ctx) : (s.setCtx x c).deadDies = s.deadDies := rfl
@[simp] theorem State.setCtx_agenda (s : State) (x : Nat) (c : Ctx) : (s.setCtx x c).agenda = s.agenda := rfl
@[simp] theorem State.setCtx_turn (s : State) (x : Nat) (c : Ctx) : (s.setCtx x c).turn = s.turn := rfl
@[simp] theorem State.setCtx_later (s : State) (x : Nat) (c : Ctx) : (s.setCtx x c).later = s.later := rfl
@[simp] theorem State.setCtx_ends (s : State) (x : Nat) (c : Ctx) : (s.setCtx x c).ends = s.ends := rfl
@[simp] theorem State.setCtx_cur (s : State) (x : Nat) (c : Ctx) : (s.setCtx x c).cur = s.cur := rfl
@[simp] theorem State.setCtx_fresh (s : State) (x : Nat) (c : Ctx) : (s.setCtx x c).fresh = s.fresh := rfl

@[simp] theorem State.setCard_powered (s : State) (n : Nat) (c : Card) : (s.setCard n c).powered = s.powered := rfl
@[simp] theorem State.setCard_now (s : State) (n : Nat) (c : Card) : (s.setCard n c).now = s.now := rfl
@[simp] theorem State.setCard_ptp (s : State) (n : Nat) (c : Card) : (s.setCard n c).ptp = s.ptp := rfl
@[simp] theorem State.setCard_ptpPend (s : State) (n : Nat) (c : Card) : (s.setCard n c).ptpPend = s.ptpPend := rfl
@[simp] theorem State.setCard_tiles (s : State) (n : Nat) (c : Card) : (s.setCard n c).tiles = s.tiles := rfl
@[simp] theorem State.setCard_hbm (s : State) (n : Nat) (c : Card) : (s.setCard n c).hbm = s.hbm := rfl
@[simp] theorem State.setCard_poison (s : State) (n : Nat) (c : Card) : (s.setCard n c).poison = s.poison := rfl
@[simp] theorem State.setCard_host (s : State) (n : Nat) (c : Card) : (s.setCard n c).host = s.host := rfl
@[simp] theorem State.setCard_hostBad (s : State) (n : Nat) (c : Card) : (s.setCard n c).hostBad = s.hostBad := rfl
@[simp] theorem State.setCard_hostPoison (s : State) (n : Nat) (c : Card) : (s.setCard n c).hostPoison = s.hostPoison := rfl
@[simp] theorem State.setCard_parts (s : State) (n : Nat) (c : Card) : (s.setCard n c).parts = s.parts := rfl
@[simp] theorem State.setCard_ctxs (s : State) (n : Nat) (c : Card) : (s.setCard n c).ctxs = s.ctxs := rfl
@[simp] theorem State.setCard_saved (s : State) (n : Nat) (c : Card) : (s.setCard n c).saved = s.saved := rfl
@[simp] theorem State.setCard_asking (s : State) (n : Nat) (c : Card) : (s.setCard n c).asking = s.asking := rfl
@[simp] theorem State.setCard_nextUid (s : State) (n : Nat) (c : Card) : (s.setCard n c).nextUid = s.nextUid := rfl
@[simp] theorem State.setCard_nextCard (s : State) (n : Nat) (c : Card) : (s.setCard n c).nextCard = s.nextCard := rfl
@[simp] theorem State.setCard_lastCtx (s : State) (n : Nat) (c : Card) : (s.setCard n c).lastCtx = s.lastCtx := rfl
@[simp] theorem State.setCard_aborts (s : State) (n : Nat) (c : Card) : (s.setCard n c).aborts = s.aborts := rfl
@[simp] theorem State.setCard_dev (s : State) (n : Nat) (c : Card) : (s.setCard n c).dev = s.dev := rfl
@[simp] theorem State.setCard_hubBusy (s : State) (n : Nat) (c : Card) : (s.setCard n c).hubBusy = s.hubBusy := rfl
@[simp] theorem State.setCard_flowSeq (s : State) (n : Nat) (c : Card) : (s.setCard n c).flowSeq = s.flowSeq := rfl
@[simp] theorem State.setCard_txq (s : State) (n : Nat) (c : Card) : (s.setCard n c).txq = s.txq := rfl
@[simp] theorem State.setCard_txFree (s : State) (n : Nat) (c : Card) : (s.setCard n c).txFree = s.txFree := rfl
@[simp] theorem State.setCard_htxHead (s : State) (n : Nat) (c : Card) : (s.setCard n c).htxHead = s.htxHead := rfl
@[simp] theorem State.setCard_migs (s : State) (n : Nat) (c : Card) : (s.setCard n c).migs = s.migs := rfl
@[simp] theorem State.setCard_crossed (s : State) (n : Nat) (c : Card) : (s.setCard n c).crossed = s.crossed := rfl
@[simp] theorem State.setCard_remote (s : State) (n : Nat) (c : Card) : (s.setCard n c).remote = s.remote := rfl
@[simp] theorem State.setCard_peers (s : State) (n : Nat) (c : Card) : (s.setCard n c).peers = s.peers := rfl
@[simp] theorem State.setCard_hostAcks (s : State) (n : Nat) (c : Card) : (s.setCard n c).hostAcks = s.hostAcks := rfl
@[simp] theorem State.setCard_out (s : State) (n : Nat) (c : Card) : (s.setCard n c).out = s.out := rfl
@[simp] theorem State.setCard_counts (s : State) (n : Nat) (c : Card) : (s.setCard n c).counts = s.counts := rfl
@[simp] theorem State.setCard_telSeq (s : State) (n : Nat) (c : Card) : (s.setCard n c).telSeq = s.telSeq := rfl
@[simp] theorem State.setCard_plim (s : State) (n : Nat) (c : Card) : (s.setCard n c).plim = s.plim := rfl
@[simp] theorem State.setCard_monument (s : State) (n : Nat) (c : Card) : (s.setCard n c).monument = s.monument := rfl
@[simp] theorem State.setCard_flashing (s : State) (n : Nat) (c : Card) : (s.setCard n c).flashing = s.flashing := rfl
@[simp] theorem State.setCard_spares (s : State) (n : Nat) (c : Card) : (s.setCard n c).spares = s.spares := rfl
@[simp] theorem State.setCard_broken (s : State) (n : Nat) (c : Card) : (s.setCard n c).broken = s.broken := rfl
@[simp] theorem State.setCard_downPorts (s : State) (n : Nat) (c : Card) :
    (s.setCard n c).downPorts = s.downPorts := rfl
@[simp] theorem State.setCard_badFrames (s : State) (n : Nat) (c : Card) :
    (s.setCard n c).badFrames = s.badFrames := rfl
@[simp] theorem State.setCard_guardband (s : State) (n : Nat) (c : Card) :
    (s.setCard n c).guardband = s.guardband := rfl
@[simp] theorem State.setCard_calib (s : State) (n : Nat) (c : Card) : (s.setCard n c).calib = s.calib := rfl
@[simp] theorem State.setCard_rising (s : State) (n : Nat) (c : Card) : (s.setCard n c).rising = s.rising := rfl
@[simp] theorem State.setCard_deadDies (s : State) (n : Nat) (c : Card) : (s.setCard n c).deadDies = s.deadDies := rfl
@[simp] theorem State.setCard_agenda (s : State) (n : Nat) (c : Card) : (s.setCard n c).agenda = s.agenda := rfl
@[simp] theorem State.setCard_turn (s : State) (n : Nat) (c : Card) : (s.setCard n c).turn = s.turn := rfl
@[simp] theorem State.setCard_later (s : State) (n : Nat) (c : Card) : (s.setCard n c).later = s.later := rfl
@[simp] theorem State.setCard_ends (s : State) (n : Nat) (c : Card) : (s.setCard n c).ends = s.ends := rfl
@[simp] theorem State.setCard_cur (s : State) (n : Nat) (c : Card) : (s.setCard n c).cur = s.cur := rfl
@[simp] theorem State.setCard_fresh (s : State) (n : Nat) (c : Card) : (s.setCard n c).fresh = s.fresh := rfl

@[simp] theorem State.emit_powered (s : State) (o : Out) : (s.emit o).powered = s.powered := rfl
@[simp] theorem State.emit_now (s : State) (o : Out) : (s.emit o).now = s.now := rfl
@[simp] theorem State.emit_ptp (s : State) (o : Out) : (s.emit o).ptp = s.ptp := rfl
@[simp] theorem State.emit_ptpPend (s : State) (o : Out) : (s.emit o).ptpPend = s.ptpPend := rfl
@[simp] theorem State.emit_tiles (s : State) (o : Out) : (s.emit o).tiles = s.tiles := rfl
@[simp] theorem State.emit_hbm (s : State) (o : Out) : (s.emit o).hbm = s.hbm := rfl
@[simp] theorem State.emit_poison (s : State) (o : Out) : (s.emit o).poison = s.poison := rfl
@[simp] theorem State.emit_host (s : State) (o : Out) : (s.emit o).host = s.host := rfl
@[simp] theorem State.emit_hostBad (s : State) (o : Out) : (s.emit o).hostBad = s.hostBad := rfl
@[simp] theorem State.emit_hostPoison (s : State) (o : Out) : (s.emit o).hostPoison = s.hostPoison := rfl
@[simp] theorem State.emit_parts (s : State) (o : Out) : (s.emit o).parts = s.parts := rfl
@[simp] theorem State.emit_ctxs (s : State) (o : Out) : (s.emit o).ctxs = s.ctxs := rfl
@[simp] theorem State.emit_cards (s : State) (o : Out) : (s.emit o).cards = s.cards := rfl
@[simp] theorem State.emit_saved (s : State) (o : Out) : (s.emit o).saved = s.saved := rfl
@[simp] theorem State.emit_asking (s : State) (o : Out) : (s.emit o).asking = s.asking := rfl
@[simp] theorem State.emit_nextUid (s : State) (o : Out) : (s.emit o).nextUid = s.nextUid := rfl
@[simp] theorem State.emit_nextCard (s : State) (o : Out) : (s.emit o).nextCard = s.nextCard := rfl
@[simp] theorem State.emit_lastCtx (s : State) (o : Out) : (s.emit o).lastCtx = s.lastCtx := rfl
@[simp] theorem State.emit_aborts (s : State) (o : Out) : (s.emit o).aborts = s.aborts := rfl
@[simp] theorem State.emit_dev (s : State) (o : Out) : (s.emit o).dev = s.dev := rfl
@[simp] theorem State.emit_hubBusy (s : State) (o : Out) : (s.emit o).hubBusy = s.hubBusy := rfl
@[simp] theorem State.emit_flowSeq (s : State) (o : Out) : (s.emit o).flowSeq = s.flowSeq := rfl
@[simp] theorem State.emit_txq (s : State) (o : Out) : (s.emit o).txq = s.txq := rfl
@[simp] theorem State.emit_txFree (s : State) (o : Out) : (s.emit o).txFree = s.txFree := rfl
@[simp] theorem State.emit_htxHead (s : State) (o : Out) : (s.emit o).htxHead = s.htxHead := rfl
@[simp] theorem State.emit_migs (s : State) (o : Out) : (s.emit o).migs = s.migs := rfl
@[simp] theorem State.emit_crossed (s : State) (o : Out) : (s.emit o).crossed = s.crossed := rfl
@[simp] theorem State.emit_remote (s : State) (o : Out) : (s.emit o).remote = s.remote := rfl
@[simp] theorem State.emit_peers (s : State) (o : Out) : (s.emit o).peers = s.peers := rfl
@[simp] theorem State.emit_hostAcks (s : State) (o : Out) : (s.emit o).hostAcks = s.hostAcks := rfl
@[simp] theorem State.emit_counts (s : State) (o : Out) : (s.emit o).counts = s.counts := rfl
@[simp] theorem State.emit_telSeq (s : State) (o : Out) : (s.emit o).telSeq = s.telSeq := rfl
@[simp] theorem State.emit_plim (s : State) (o : Out) : (s.emit o).plim = s.plim := rfl
@[simp] theorem State.emit_monument (s : State) (o : Out) : (s.emit o).monument = s.monument := rfl
@[simp] theorem State.emit_flashing (s : State) (o : Out) : (s.emit o).flashing = s.flashing := rfl
@[simp] theorem State.emit_spares (s : State) (o : Out) : (s.emit o).spares = s.spares := rfl
@[simp] theorem State.emit_broken (s : State) (o : Out) : (s.emit o).broken = s.broken := rfl
@[simp] theorem State.emit_downPorts (s : State) (o : Out) : (s.emit o).downPorts = s.downPorts := rfl
@[simp] theorem State.emit_badFrames (s : State) (o : Out) : (s.emit o).badFrames = s.badFrames := rfl
@[simp] theorem State.emit_guardband (s : State) (o : Out) : (s.emit o).guardband = s.guardband := rfl
@[simp] theorem State.emit_calib (s : State) (o : Out) : (s.emit o).calib = s.calib := rfl
@[simp] theorem State.emit_rising (s : State) (o : Out) : (s.emit o).rising = s.rising := rfl
@[simp] theorem State.emit_deadDies (s : State) (o : Out) : (s.emit o).deadDies = s.deadDies := rfl
@[simp] theorem State.emit_agenda (s : State) (o : Out) : (s.emit o).agenda = s.agenda := rfl
@[simp] theorem State.emit_turn (s : State) (o : Out) : (s.emit o).turn = s.turn := rfl
@[simp] theorem State.emit_later (s : State) (o : Out) : (s.emit o).later = s.later := rfl
@[simp] theorem State.emit_ends (s : State) (o : Out) : (s.emit o).ends = s.ends := rfl
@[simp] theorem State.emit_cur (s : State) (o : Out) : (s.emit o).cur = s.cur := rfl
@[simp] theorem State.emit_fresh (s : State) (o : Out) : (s.emit o).fresh = s.fresh := rfl

@[simp] theorem State.due_powered (s : State) (i : Instr) : (s.due i).powered = s.powered := rfl
@[simp] theorem State.due_now (s : State) (i : Instr) : (s.due i).now = s.now := rfl
@[simp] theorem State.due_ptp (s : State) (i : Instr) : (s.due i).ptp = s.ptp := rfl
@[simp] theorem State.due_ptpPend (s : State) (i : Instr) : (s.due i).ptpPend = s.ptpPend := rfl
@[simp] theorem State.due_tiles (s : State) (i : Instr) : (s.due i).tiles = s.tiles := rfl
@[simp] theorem State.due_hbm (s : State) (i : Instr) : (s.due i).hbm = s.hbm := rfl
@[simp] theorem State.due_poison (s : State) (i : Instr) : (s.due i).poison = s.poison := rfl
@[simp] theorem State.due_host (s : State) (i : Instr) : (s.due i).host = s.host := rfl
@[simp] theorem State.due_hostBad (s : State) (i : Instr) : (s.due i).hostBad = s.hostBad := rfl
@[simp] theorem State.due_hostPoison (s : State) (i : Instr) : (s.due i).hostPoison = s.hostPoison := rfl
@[simp] theorem State.due_parts (s : State) (i : Instr) : (s.due i).parts = s.parts := rfl
@[simp] theorem State.due_ctxs (s : State) (i : Instr) : (s.due i).ctxs = s.ctxs := rfl
@[simp] theorem State.due_cards (s : State) (i : Instr) : (s.due i).cards = s.cards := rfl
@[simp] theorem State.due_saved (s : State) (i : Instr) : (s.due i).saved = s.saved := rfl
@[simp] theorem State.due_asking (s : State) (i : Instr) : (s.due i).asking = s.asking := rfl
@[simp] theorem State.due_nextUid (s : State) (i : Instr) : (s.due i).nextUid = s.nextUid := rfl
@[simp] theorem State.due_nextCard (s : State) (i : Instr) : (s.due i).nextCard = s.nextCard := rfl
@[simp] theorem State.due_lastCtx (s : State) (i : Instr) : (s.due i).lastCtx = s.lastCtx := rfl
@[simp] theorem State.due_aborts (s : State) (i : Instr) : (s.due i).aborts = s.aborts := rfl
@[simp] theorem State.due_dev (s : State) (i : Instr) : (s.due i).dev = s.dev := rfl
@[simp] theorem State.due_hubBusy (s : State) (i : Instr) : (s.due i).hubBusy = s.hubBusy := rfl
@[simp] theorem State.due_flowSeq (s : State) (i : Instr) : (s.due i).flowSeq = s.flowSeq := rfl
@[simp] theorem State.due_txq (s : State) (i : Instr) : (s.due i).txq = s.txq := rfl
@[simp] theorem State.due_txFree (s : State) (i : Instr) : (s.due i).txFree = s.txFree := rfl
@[simp] theorem State.due_htxHead (s : State) (i : Instr) : (s.due i).htxHead = s.htxHead := rfl
@[simp] theorem State.due_migs (s : State) (i : Instr) : (s.due i).migs = s.migs := rfl
@[simp] theorem State.due_crossed (s : State) (i : Instr) : (s.due i).crossed = s.crossed := rfl
@[simp] theorem State.due_remote (s : State) (i : Instr) : (s.due i).remote = s.remote := rfl
@[simp] theorem State.due_peers (s : State) (i : Instr) : (s.due i).peers = s.peers := rfl
@[simp] theorem State.due_hostAcks (s : State) (i : Instr) : (s.due i).hostAcks = s.hostAcks := rfl
@[simp] theorem State.due_out (s : State) (i : Instr) : (s.due i).out = s.out := rfl
@[simp] theorem State.due_counts (s : State) (i : Instr) : (s.due i).counts = s.counts := rfl
@[simp] theorem State.due_telSeq (s : State) (i : Instr) : (s.due i).telSeq = s.telSeq := rfl
@[simp] theorem State.due_plim (s : State) (i : Instr) : (s.due i).plim = s.plim := rfl
@[simp] theorem State.due_monument (s : State) (i : Instr) : (s.due i).monument = s.monument := rfl
@[simp] theorem State.due_flashing (s : State) (i : Instr) : (s.due i).flashing = s.flashing := rfl
@[simp] theorem State.due_spares (s : State) (i : Instr) : (s.due i).spares = s.spares := rfl
@[simp] theorem State.due_broken (s : State) (i : Instr) : (s.due i).broken = s.broken := rfl
@[simp] theorem State.due_downPorts (s : State) (i : Instr) : (s.due i).downPorts = s.downPorts := rfl
@[simp] theorem State.due_badFrames (s : State) (i : Instr) : (s.due i).badFrames = s.badFrames := rfl
@[simp] theorem State.due_guardband (s : State) (i : Instr) : (s.due i).guardband = s.guardband := rfl
@[simp] theorem State.due_calib (s : State) (i : Instr) : (s.due i).calib = s.calib := rfl
@[simp] theorem State.due_rising (s : State) (i : Instr) : (s.due i).rising = s.rising := rfl
@[simp] theorem State.due_deadDies (s : State) (i : Instr) : (s.due i).deadDies = s.deadDies := rfl
@[simp] theorem State.due_turn (s : State) (i : Instr) : (s.due i).turn = s.turn := rfl
@[simp] theorem State.due_later (s : State) (i : Instr) : (s.due i).later = s.later := rfl
@[simp] theorem State.due_ends (s : State) (i : Instr) : (s.due i).ends = s.ends := rfl
@[simp] theorem State.due_cur (s : State) (i : Instr) : (s.due i).cur = s.cur := rfl
@[simp] theorem State.due_fresh (s : State) (i : Instr) : (s.due i).fresh = s.fresh := rfl

@[simp] theorem State.tick_powered (s : State) : (s.tick).powered = s.powered := rfl
@[simp] theorem State.tick_now (s : State) : (s.tick).now = s.now := rfl
@[simp] theorem State.tick_ptp (s : State) : (s.tick).ptp = s.ptp := rfl
@[simp] theorem State.tick_ptpPend (s : State) : (s.tick).ptpPend = s.ptpPend := rfl
@[simp] theorem State.tick_tiles (s : State) : (s.tick).tiles = s.tiles := rfl
@[simp] theorem State.tick_hbm (s : State) : (s.tick).hbm = s.hbm := rfl
@[simp] theorem State.tick_poison (s : State) : (s.tick).poison = s.poison := rfl
@[simp] theorem State.tick_host (s : State) : (s.tick).host = s.host := rfl
@[simp] theorem State.tick_hostBad (s : State) : (s.tick).hostBad = s.hostBad := rfl
@[simp] theorem State.tick_hostPoison (s : State) : (s.tick).hostPoison = s.hostPoison := rfl
@[simp] theorem State.tick_parts (s : State) : (s.tick).parts = s.parts := rfl
@[simp] theorem State.tick_ctxs (s : State) : (s.tick).ctxs = s.ctxs := rfl
@[simp] theorem State.tick_cards (s : State) : (s.tick).cards = s.cards := rfl
@[simp] theorem State.tick_saved (s : State) : (s.tick).saved = s.saved := rfl
@[simp] theorem State.tick_asking (s : State) : (s.tick).asking = s.asking := rfl
@[simp] theorem State.tick_nextUid (s : State) : (s.tick).nextUid = s.nextUid := rfl
@[simp] theorem State.tick_nextCard (s : State) : (s.tick).nextCard = s.nextCard := rfl
@[simp] theorem State.tick_lastCtx (s : State) : (s.tick).lastCtx = s.lastCtx := rfl
@[simp] theorem State.tick_aborts (s : State) : (s.tick).aborts = s.aborts := rfl
@[simp] theorem State.tick_dev (s : State) : (s.tick).dev = s.dev := rfl
@[simp] theorem State.tick_hubBusy (s : State) : (s.tick).hubBusy = s.hubBusy := rfl
@[simp] theorem State.tick_flowSeq (s : State) : (s.tick).flowSeq = s.flowSeq := rfl
@[simp] theorem State.tick_txq (s : State) : (s.tick).txq = s.txq := rfl
@[simp] theorem State.tick_txFree (s : State) : (s.tick).txFree = s.txFree := rfl
@[simp] theorem State.tick_htxHead (s : State) : (s.tick).htxHead = s.htxHead := rfl
@[simp] theorem State.tick_migs (s : State) : (s.tick).migs = s.migs := rfl
@[simp] theorem State.tick_crossed (s : State) : (s.tick).crossed = s.crossed := rfl
@[simp] theorem State.tick_remote (s : State) : (s.tick).remote = s.remote := rfl
@[simp] theorem State.tick_peers (s : State) : (s.tick).peers = s.peers := rfl
@[simp] theorem State.tick_hostAcks (s : State) : (s.tick).hostAcks = s.hostAcks := rfl
@[simp] theorem State.tick_out (s : State) : (s.tick).out = s.out := rfl
@[simp] theorem State.tick_counts (s : State) : (s.tick).counts = s.counts := rfl
@[simp] theorem State.tick_telSeq (s : State) : (s.tick).telSeq = s.telSeq := rfl
@[simp] theorem State.tick_plim (s : State) : (s.tick).plim = s.plim := rfl
@[simp] theorem State.tick_monument (s : State) : (s.tick).monument = s.monument := rfl
@[simp] theorem State.tick_flashing (s : State) : (s.tick).flashing = s.flashing := rfl
@[simp] theorem State.tick_spares (s : State) : (s.tick).spares = s.spares := rfl
@[simp] theorem State.tick_broken (s : State) : (s.tick).broken = s.broken := rfl
@[simp] theorem State.tick_downPorts (s : State) : (s.tick).downPorts = s.downPorts := rfl
@[simp] theorem State.tick_badFrames (s : State) : (s.tick).badFrames = s.badFrames := rfl
@[simp] theorem State.tick_guardband (s : State) : (s.tick).guardband = s.guardband := rfl
@[simp] theorem State.tick_calib (s : State) : (s.tick).calib = s.calib := rfl
@[simp] theorem State.tick_rising (s : State) : (s.tick).rising = s.rising := rfl
@[simp] theorem State.tick_deadDies (s : State) : (s.tick).deadDies = s.deadDies := rfl
@[simp] theorem State.tick_agenda (s : State) : (s.tick).agenda = s.agenda := rfl
@[simp] theorem State.tick_turn (s : State) : (s.tick).turn = s.turn := rfl
@[simp] theorem State.tick_later (s : State) : (s.tick).later = s.later := rfl
@[simp] theorem State.tick_ends (s : State) : (s.tick).ends = s.ends := rfl
@[simp] theorem State.tick_cur (s : State) : (s.tick).cur = s.cur := rfl

@[simp] theorem Tile.setCore_xr (t : Tile) (c : CoreId) (k : Core) : (t.setCore c k).xr = t.xr := by cases c <;> rfl
@[simp] theorem Tile.setCore_scratch (t : Tile) (c : CoreId) (k : Core) :
    (t.setCore c k).scratch = t.scratch := by cases c <;> rfl
@[simp] theorem Tile.setCore_acc (t : Tile) (c : CoreId) (k : Core) : (t.setCore c k).acc = t.acc := by cases c <;> rfl
@[simp] theorem Tile.setCore_accTag (t : Tile) (c : CoreId) (k : Core) :
    (t.setCore c k).accTag = t.accTag := by cases c <;> rfl
@[simp] theorem Tile.setCore_accOwner (t : Tile) (c : CoreId) (k : Core) :
    (t.setCore c k).accOwner = t.accOwner := by cases c <;> rfl
@[simp] theorem Tile.setCore_accMoves (t : Tile) (c : CoreId) (k : Core) :
    (t.setCore c k).accMoves = t.accMoves := by cases c <;> rfl
@[simp] theorem Tile.setCore_queues (t : Tile) (c : CoreId) (k : Core) :
    (t.setCore c k).queues = t.queues := by cases c <;> rfl
@[simp] theorem Tile.setCore_rings (t : Tile) (c : CoreId) (k : Core) :
    (t.setCore c k).rings = t.rings := by cases c <;> rfl
@[simp] theorem Tile.setCore_loadQ (t : Tile) (c : CoreId) (k : Core) :
    (t.setCore c k).loadQ = t.loadQ := by cases c <;> rfl
@[simp] theorem Tile.setCore_storeQ (t : Tile) (c : CoreId) (k : Core) :
    (t.setCore c k).storeQ = t.storeQ := by cases c <;> rfl
@[simp] theorem Tile.setCore_mopen (t : Tile) (c : CoreId) (k : Core) :
    (t.setCore c k).mopen = t.mopen := by cases c <;> rfl
@[simp] theorem Tile.setCore_arrayFree (t : Tile) (c : CoreId) (k : Core) :
    (t.setCore c k).arrayFree = t.arrayFree := by cases c <;> rfl
@[simp] theorem Tile.setCore_task (t : Tile) (c : CoreId) (k : Core) :
    (t.setCore c k).task = t.task := by cases c <;> rfl
@[simp] theorem Tile.setCore_oorFlag (t : Tile) (c : CoreId) (k : Core) :
    (t.setCore c k).oorFlag = t.oorFlag := by cases c <;> rfl
@[simp] theorem Tile.setCore_oorAddr (t : Tile) (c : CoreId) (k : Core) :
    (t.setCore c k).oorAddr = t.oorAddr := by cases c <;> rfl
@[simp] theorem Tile.setCore_oorWhen (t : Tile) (c : CoreId) (k : Core) :
    (t.setCore c k).oorWhen = t.oorWhen := by cases c <;> rfl
@[simp] theorem Tile.setCore_barUpds (t : Tile) (c : CoreId) (k : Core) :
    (t.setCore c k).barUpds = t.barUpds := by cases c <;> rfl
@[simp] theorem Tile.setCore_asks (t : Tile) (c : CoreId) (k : Core) :
    (t.setCore c k).asks = t.asks := by cases c <;> rfl
@[simp] theorem Tile.setCore_served (t : Tile) (c : CoreId) (k : Core) :
    (t.setCore c k).served = t.served := by cases c <;> rfl
@[simp] theorem Tile.setCore_vjobs (t : Tile) (c : CoreId) (k : Core) :
    (t.setCore c k).vjobs = t.vjobs := by cases c <;> rfl
@[simp] theorem Tile.setCore_stirred (t : Tile) (c : CoreId) (k : Core) :
    (t.setCore c k).stirred = t.stirred := by cases c <;> rfl
@[simp] theorem Tile.setCore_ageLimit (t : Tile) (c : CoreId) (k : Core) :
    (t.setCore c k).ageLimit = t.ageLimit := by cases c <;> rfl
@[simp] theorem Tile.setCore_closureWin (t : Tile) (c : CoreId) (k : Core) :
    (t.setCore c k).closureWin = t.closureWin := by cases c <;> rfl
@[simp] theorem Tile.setCore_energy (t : Tile) (c : CoreId) (k : Core) :
    (t.setCore c k).energy = t.energy := by cases c <;> rfl
@[simp] theorem Tile.setCore_charges (t : Tile) (c : CoreId) (k : Core) :
    (t.setCore c k).charges = t.charges := by cases c <;> rfl
@[simp] theorem Tile.setCore_closureCount (t : Tile) (c : CoreId) (k : Core) :
    (t.setCore c k).closureCount = t.closureCount := by cases c <;> rfl
@[simp] theorem Tile.setCore_stop (t : Tile) (c : CoreId) (k : Core) :
    (t.setCore c k).stop = t.stop := by cases c <;> rfl
@[simp] theorem Tile.setCore_stopFor (t : Tile) (c : CoreId) (k : Core) :
    (t.setCore c k).stopFor = t.stopFor := by cases c <;> rfl
@[simp] theorem Tile.setCore_armed (t : Tile) (c : CoreId) (k : Core) :
    (t.setCore c k).armed = t.armed := by cases c <;> rfl
@[simp] theorem Tile.setCore_claims (t : Tile) (c : CoreId) (k : Core) :
    (t.setCore c k).claims = t.claims := by cases c <;> rfl
@[simp] theorem Tile.setCore_chunk (t : Tile) (c : CoreId) (k : Core) :
    (t.setCore c k).chunk = t.chunk := by cases c <;> rfl
@[simp] theorem Tile.setCore_inService (t : Tile) (c : CoreId) (k : Core) :
    (t.setCore c k).inService = t.inService := by cases c <;> rfl
@[simp] theorem Tile.setCore_throttle (t : Tile) (c : CoreId) (k : Core) :
    (t.setCore c k).throttle = t.throttle := by cases c <;> rfl
@[simp] theorem Tile.setCore_struck (t : Tile) (c : CoreId) (k : Core) :
    (t.setCore c k).struck = t.struck := by cases c <;> rfl

@[simp] theorem Tile.setQueue_l (t : Tile) (q : Nat) (u : Queue) : (t.setQueue q u).l = t.l := rfl
@[simp] theorem Tile.setQueue_x (t : Tile) (q : Nat) (u : Queue) : (t.setQueue q u).x = t.x := rfl
@[simp] theorem Tile.setQueue_s (t : Tile) (q : Nat) (u : Queue) : (t.setQueue q u).s = t.s := rfl
@[simp] theorem Tile.setQueue_xr (t : Tile) (q : Nat) (u : Queue) : (t.setQueue q u).xr = t.xr := rfl
@[simp] theorem Tile.setQueue_scratch (t : Tile) (q : Nat) (u : Queue) : (t.setQueue q u).scratch = t.scratch := rfl
@[simp] theorem Tile.setQueue_acc (t : Tile) (q : Nat) (u : Queue) : (t.setQueue q u).acc = t.acc := rfl
@[simp] theorem Tile.setQueue_accTag (t : Tile) (q : Nat) (u : Queue) : (t.setQueue q u).accTag = t.accTag := rfl
@[simp] theorem Tile.setQueue_accOwner (t : Tile) (q : Nat) (u : Queue) : (t.setQueue q u).accOwner = t.accOwner := rfl
@[simp] theorem Tile.setQueue_accMoves (t : Tile) (q : Nat) (u : Queue) : (t.setQueue q u).accMoves = t.accMoves := rfl
@[simp] theorem Tile.setQueue_rings (t : Tile) (q : Nat) (u : Queue) : (t.setQueue q u).rings = t.rings := rfl
@[simp] theorem Tile.setQueue_loadQ (t : Tile) (q : Nat) (u : Queue) : (t.setQueue q u).loadQ = t.loadQ := rfl
@[simp] theorem Tile.setQueue_storeQ (t : Tile) (q : Nat) (u : Queue) : (t.setQueue q u).storeQ = t.storeQ := rfl
@[simp] theorem Tile.setQueue_mopen (t : Tile) (q : Nat) (u : Queue) : (t.setQueue q u).mopen = t.mopen := rfl
@[simp] theorem Tile.setQueue_arrayFree (t : Tile) (q : Nat) (u : Queue) :
    (t.setQueue q u).arrayFree = t.arrayFree := rfl
@[simp] theorem Tile.setQueue_task (t : Tile) (q : Nat) (u : Queue) : (t.setQueue q u).task = t.task := rfl
@[simp] theorem Tile.setQueue_oorFlag (t : Tile) (q : Nat) (u : Queue) : (t.setQueue q u).oorFlag = t.oorFlag := rfl
@[simp] theorem Tile.setQueue_oorAddr (t : Tile) (q : Nat) (u : Queue) : (t.setQueue q u).oorAddr = t.oorAddr := rfl
@[simp] theorem Tile.setQueue_oorWhen (t : Tile) (q : Nat) (u : Queue) : (t.setQueue q u).oorWhen = t.oorWhen := rfl
@[simp] theorem Tile.setQueue_barUpds (t : Tile) (q : Nat) (u : Queue) : (t.setQueue q u).barUpds = t.barUpds := rfl
@[simp] theorem Tile.setQueue_asks (t : Tile) (q : Nat) (u : Queue) : (t.setQueue q u).asks = t.asks := rfl
@[simp] theorem Tile.setQueue_served (t : Tile) (q : Nat) (u : Queue) : (t.setQueue q u).served = t.served := rfl
@[simp] theorem Tile.setQueue_vjobs (t : Tile) (q : Nat) (u : Queue) : (t.setQueue q u).vjobs = t.vjobs := rfl
@[simp] theorem Tile.setQueue_stirred (t : Tile) (q : Nat) (u : Queue) : (t.setQueue q u).stirred = t.stirred := rfl
@[simp] theorem Tile.setQueue_ageLimit (t : Tile) (q : Nat) (u : Queue) : (t.setQueue q u).ageLimit = t.ageLimit := rfl
@[simp] theorem Tile.setQueue_closureWin (t : Tile) (q : Nat) (u : Queue) :
    (t.setQueue q u).closureWin = t.closureWin := rfl
@[simp] theorem Tile.setQueue_energy (t : Tile) (q : Nat) (u : Queue) : (t.setQueue q u).energy = t.energy := rfl
@[simp] theorem Tile.setQueue_charges (t : Tile) (q : Nat) (u : Queue) : (t.setQueue q u).charges = t.charges := rfl
@[simp] theorem Tile.setQueue_closureCount (t : Tile) (q : Nat) (u : Queue) :
    (t.setQueue q u).closureCount = t.closureCount := rfl
@[simp] theorem Tile.setQueue_stop (t : Tile) (q : Nat) (u : Queue) : (t.setQueue q u).stop = t.stop := rfl
@[simp] theorem Tile.setQueue_stopFor (t : Tile) (q : Nat) (u : Queue) : (t.setQueue q u).stopFor = t.stopFor := rfl
@[simp] theorem Tile.setQueue_armed (t : Tile) (q : Nat) (u : Queue) : (t.setQueue q u).armed = t.armed := rfl
@[simp] theorem Tile.setQueue_claims (t : Tile) (q : Nat) (u : Queue) : (t.setQueue q u).claims = t.claims := rfl
@[simp] theorem Tile.setQueue_chunk (t : Tile) (q : Nat) (u : Queue) : (t.setQueue q u).chunk = t.chunk := rfl
@[simp] theorem Tile.setQueue_inService (t : Tile) (q : Nat) (u : Queue) :
    (t.setQueue q u).inService = t.inService := rfl
@[simp] theorem Tile.setQueue_throttle (t : Tile) (q : Nat) (u : Queue) : (t.setQueue q u).throttle = t.throttle := rfl
@[simp] theorem Tile.setQueue_struck (t : Tile) (q : Nat) (u : Queue) : (t.setQueue q u).struck = t.struck := rfl

@[simp] theorem Core.setReg_run (k : Core) (n : Nat) (v : U64) :
    (k.setReg n v).run = k.run := by unfold Core.setReg; split <;> rfl
@[simp] theorem Core.setReg_pc (k : Core) (n : Nat) (v : U64) :
    (k.setReg n v).pc = k.pc := by unfold Core.setReg; split <;> rfl
@[simp] theorem Core.setReg_fflags (k : Core) (n : Nat) (v : U64) :
    (k.setReg n v).fflags = k.fflags := by unfold Core.setReg; split <;> rfl
@[simp] theorem Core.setReg_frm (k : Core) (n : Nat) (v : U64) :
    (k.setReg n v).frm = k.frm := by unfold Core.setReg; split <;> rfl
@[simp] theorem Core.setReg_priv (k : Core) (n : Nat) (v : U64) :
    (k.setReg n v).priv = k.priv := by unfold Core.setReg; split <;> rfl
@[simp] theorem Core.setReg_tpc (k : Core) (n : Nat) (v : U64) :
    (k.setReg n v).tpc = k.tpc := by unfold Core.setReg; split <;> rfl
@[simp] theorem Core.setReg_tcause (k : Core) (n : Nat) (v : U64) :
    (k.setReg n v).tcause = k.tcause := by unfold Core.setReg; split <;> rfl
@[simp] theorem Core.setReg_tval (k : Core) (n : Nat) (v : U64) :
    (k.setReg n v).tval = k.tval := by unfold Core.setReg; split <;> rfl
@[simp] theorem Core.setReg_tstatus (k : Core) (n : Nat) (v : U64) :
    (k.setReg n v).tstatus = k.tstatus := by unfold Core.setReg; split <;> rfl
@[simp] theorem Core.setReg_codeLo (k : Core) (n : Nat) (v : U64) :
    (k.setReg n v).codeLo = k.codeLo := by unfold Core.setReg; split <;> rfl
@[simp] theorem Core.setReg_codeHi (k : Core) (n : Nat) (v : U64) :
    (k.setReg n v).codeHi = k.codeHi := by unfold Core.setReg; split <;> rfl
@[simp] theorem Core.setReg_tvec (k : Core) (n : Nat) (v : U64) :
    (k.setReg n v).tvec = k.tvec := by unfold Core.setReg; split <;> rfl
@[simp] theorem Core.setReg_pend (k : Core) (n : Nat) (v : U64) :
    (k.setReg n v).pend = k.pend := by unfold Core.setReg; split <;> rfl
@[simp] theorem Core.setReg_glob (k : Core) (n : Nat) (v : U64) :
    (k.setReg n v).glob = k.glob := by unfold Core.setReg; split <;> rfl
@[simp] theorem Core.setReg_held (k : Core) (n : Nat) (v : U64) :
    (k.setReg n v).held = k.held := by unfold Core.setReg; split <;> rfl
@[simp] theorem Core.setReg_nextAt (k : Core) (n : Nat) (v : U64) :
    (k.setReg n v).nextAt = k.nextAt := by unfold Core.setReg; split <;> rfl
@[simp] theorem Core.setReg_stopIn (k : Core) (n : Nat) (v : U64) :
    (k.setReg n v).stopIn = k.stopIn := by unfold Core.setReg; split <;> rfl
@[simp] theorem Core.setReg_resume (k : Core) (n : Nat) (v : U64) :
    (k.setReg n v).resume = k.resume := by unfold Core.setReg; split <;> rfl
@[simp] theorem Core.setReg_marks (k : Core) (n : Nat) (v : U64) :
    (k.setReg n v).marks = k.marks := by unfold Core.setReg; split <;> rfl
@[simp] theorem Core.setReg_gbars (k : Core) (n : Nat) (v : U64) :
    (k.setReg n v).gbars = k.gbars := by unfold Core.setReg; split <;> rfl
@[simp] theorem Core.setReg_drain (k : Core) (n : Nat) (v : U64) :
    (k.setReg n v).drain = k.drain := by unfold Core.setReg; split <;> rfl
@[simp] theorem Core.setReg_forked (k : Core) (n : Nat) (v : U64) :
    (k.setReg n v).forked = k.forked := by unfold Core.setReg; split <;> rfl
@[simp] theorem Core.setReg_arrived (k : Core) (n : Nat) (v : U64) :
    (k.setReg n v).arrived = k.arrived := by unfold Core.setReg; split <;> rfl

theorem Core.reg_setReg_same (k : Core) (n : Nat) (v : U64) : (k.setReg n v).reg n = if n = 0 then 0 else v := by
  by_cases h : n = 0 <;> simp [Core.setReg, Core.reg, h]

theorem Core.reg_setReg_ne (k : Core) {n j : Nat} (v : U64) (h : j ≠ n) : (k.setReg n v).reg j = k.reg j := by
  by_cases hn : n = 0 <;> by_cases hj : j = 0 <;> simp [Core.setReg, Core.reg, hn, hj, Store.get_set_ne, h]

@[simp] theorem Tile.queue_setQueue_same (t : Tile) (q : Nat) (u : Queue) : (t.setQueue q u).queue q = u :=
  Store.get_put_same _ _ _ _

theorem Tile.queue_setQueue_ne (t : Tile) {q r : Nat} (u : Queue) (h : r ≠ q) : (t.setQueue q u).queue r = t.queue r :=
  Store.get_put_ne _ _ _ h

@[simp] theorem Tile.core_setQueue (t : Tile) (q : Nat) (u : Queue) (c : CoreId) :
    (t.setQueue q u).core c = t.core c := by cases c <;> rfl

@[simp] theorem State.myTile_setMyTile (s : State) (t : Tile) : (s.setMyTile t).myTile = t := by
  simp [State.myTile, State.setMyTile]

@[simp] theorem State.me_setMyTile (s : State) (t : Tile) : (s.setMyTile t).me = t.core s.cur.core := by
  simp [State.me, State.core, State.setMyTile]

@[simp] theorem State.me_setMe (s : State) (k : Core) : (s.setMe k).me = k := by
  simp [State.me, State.setMe, State.core, State.setCore]

@[simp] theorem State.me_mapMe (s : State) (f : Core → Core) : (s.mapMe f).me = f s.me := by
  simp [State.mapMe]

@[simp] theorem State.myTile_mapMe (s : State) (f : Core → Core) :
    (s.mapMe f).myTile = s.myTile.setCore s.cur.core (f s.me) := by
  simp [State.mapMe, State.setMe, State.setCore, State.myTile]

@[simp] theorem State.setMyTile_setMyTile (s : State) (t u : Tile) : (s.setMyTile t).setMyTile u = s.setMyTile u :=
  State.setTile_setTile s _ t u

theorem State.mapMe_eq (s : State) (f : Core → Core) : s.mapMe f = s.setMyTile (s.myTile.setCore s.cur.core (f s.me)) :=
  rfl

theorem State.me_eq (s : State) : s.me = s.myTile.core s.cur.core := rfl

theorem State.tile_mapMe_ne (s : State) (f : Core → Core) {g : Nat} (h : g ≠ s.cur.tile) :
    (s.mapMe f).tile g = s.tile g :=
  State.tile_setTile_ne s _ h

theorem State.tile_setMyTile_ne (s : State) (t : Tile) {g : Nat} (h : g ≠ s.cur.tile) :
    (s.setMyTile t).tile g = s.tile g :=
  State.tile_setTile_ne s _ h

end Sys2Proof.Machine
end

