-- ==== Sys2Proof/Laws/Memory.lean ====
section
/-!
SUPPORT. Every operation on a memory keeps its canonical form: byte writes, copies, clearings, lines of scratch, and the
state's own writes.
-/

namespace Sys2Proof

theorem Store.wf_filter {α : Type} [DecidableEq α] (d : α) (p : Nat × α → Bool) (m : Store α) (h : Store.wf d m) :
    Store.wf d (m.filter p) := by
  induction m with
  | nil => rfl
  | cons e m ih =>
    obtain ⟨k, v⟩ := e
    simp only [Store.wf, Bool.and_eq_true] at h
    by_cases hp : p (k, v) = true
    · rw [List.filter_cons_of_pos hp]
      simp only [Store.wf, Bool.and_eq_true]
      refine ⟨⟨?_, h.1.2⟩, ih h.2⟩
      have ha := h.1.1
      simp only [Store.above, List.all_eq_true] at ha ⊢
      exact fun e he => ha e (List.mem_filter.1 he).1
    · rw [List.filter_cons_of_neg hp]
      exact ih h.2

/-- A copied range keeps the canonical form. -/
theorem Memory.wf_copyRange (m : Memory) (src dst n : Nat) (h : m.wf) : (Machine.Memory.copyRange m src dst n).wf := by
  have hf : ∀ (cs : List (Nat × Byte)) (acc : Memory), acc.wf →
      (cs.foldl (fun acc c => Memory.setByte acc (c.1 - src + dst) c.2) acc).wf := by
    intro cs
    induction cs with
    | nil => exact fun acc ha => ha
    | cons c cs ih => exact fun acc ha => ih _ (Memory.wf_setByte acc _ _ ha)
  exact hf _ _ (Store.wf_filter 0 _ m h)

end Sys2Proof

namespace Sys2Proof.Machine

/-- Reset's memory stands in canonical form. -/
theorem State.reset_hbm_wf : Memory.wf State.reset.hbm = true := by decide

theorem State.wf_writePhys (s : State) (a : Nat) (bs : List Byte) (h : Memory.wf s.hbm) :
    Memory.wf (s.writePhys a bs).hbm := Memory.wf_setBytes bs s.hbm a h

theorem State.wf_copyPhys (s : State) (src dst n : Nat) (h : Memory.wf s.hbm) :
    Memory.wf (s.copyPhys src dst n).hbm := Memory.wf_copyRange s.hbm src dst n h

theorem State.wf_clearPhys (s : State) (a n : Nat) (h : Memory.wf s.hbm) : Memory.wf (s.clearPhys a n).hbm :=
  Store.wf_filter 0 _ s.hbm h

theorem Tile.wf_setLine (t : Tile) (line : Int) (bs : List Byte) (h : Memory.wf t.scratch) :
    Memory.wf (t.setLine line bs).scratch := by
  unfold Tile.setLine
  split
  · exact Memory.wf_setBytes bs t.scratch _ h
  · exact h

theorem Tile.wf_writeAt (t : Tile) (ea : Int) (bs : List Byte) (h : Memory.wf t.scratch) :
    Memory.wf (t.writeAt ea bs).scratch := by
  unfold Tile.writeAt
  split
  · exact Memory.wf_setBytes bs t.scratch _ h
  · exact h

/-- The scratch of every tile, listed or idle, is canonical. -/
theorem MemoriesCanonical.tile {s : State} (h : MemoriesCanonical s) (g : Nat) : Memory.wf (s.tile g).scratch = true := by
  have hg : ∀ m : Store Tile, (∀ e ∈ m, Memory.wf e.2.scratch = true) →
      Memory.wf (Store.get Tile.idle m g).scratch = true := by
    intro m
    induction m with
    | nil => exact fun _ => rfl
    | cons e m ih =>
      intro hm
      obtain ⟨k, t⟩ := e
      rw [Store.get]
      split
      · exact hm (k, t) List.mem_cons_self
      · exact ih (fun e he => hm e (List.mem_cons_of_mem _ he))
  exact hg s.tiles h.2.2.1

theorem Store.mem_put {α : Type} {m : Store α} {k : Nat} {v : α} {e : Nat × α} (h : e ∈ Store.put m k v) :
    e = (k, v) ∨ e ∈ m := by
  have hp : ∀ m : Store α, e ∈ Store.place m k v → e = (k, v) ∨ e ∈ m := by
    intro m
    induction m with
    | nil => intro h; exact .inl (List.mem_singleton.1 h)
    | cons c m ih =>
      obtain ⟨k', v'⟩ := c
      intro h
      rw [Store.place] at h
      split at h
      · exact (List.mem_cons.1 h).imp id id
      · rcases List.mem_cons.1 h with h | h
        · exact .inr (h ▸ List.mem_cons_self)
        · exact (ih h).imp id (List.mem_cons_of_mem _)
  have he : ∀ m : Store α, e ∈ Store.erase m k → e ∈ m := by
    intro m
    induction m with
    | nil => exact fun h => h
    | cons c m ih =>
      obtain ⟨k', v'⟩ := c
      intro h
      rw [Store.erase] at h
      split at h
      · exact List.mem_cons_of_mem _ (ih h)
      · rcases List.mem_cons.1 h with h | h
        · exact h ▸ List.mem_cons_self
        · exact List.mem_cons_of_mem _ (ih h)
  exact (hp _ h).imp id (he m)

/-- A tile whose scratch is canonical replaces one. -/
theorem MemoriesCanonical.setTile {s : State} (h : MemoriesCanonical s) (g : Nat) {t : Tile} (ht : Memory.wf t.scratch = true) :
    MemoriesCanonical (s.setTile g t) := by
  refine ⟨h.1, h.2.1, fun e he => ?_, h.2.2.2⟩
  rcases Store.mem_put he with rfl | he
  · exact ht
  · exact h.2.2.1 e he

theorem MemoriesCanonical.writePhys {s : State} (h : MemoriesCanonical s) (a : Nat) (bs : List Byte) :
    MemoriesCanonical (s.writePhys a bs) := ⟨State.wf_writePhys s a bs h.1, h.2⟩

theorem MemoriesCanonical.writeReach {s : State} (h : MemoriesCanonical s) (w : HostWriter) (r : Reach) (bs : List Byte) :
    MemoriesCanonical (s.writeReach w r bs) := by
  cases r with
  | hbm a => exact h.writePhys a bs
  | host a => exact ⟨h.1, Memory.wf_setBytes bs s.host a h.2.1, h.2.2⟩
  | _ => exact h

end Sys2Proof.Machine
end

