-- ==== Sys2Proof/Laws/Ops.lean ====
section
/-!
SUPPORT. What the operations that scalar words share can do: reading registers and ports, delivering a result, issuing.
-/

namespace Sys2Proof.Machine

open Host (Outcome)

@[simp] theorem Tile.core_withQueues (t : Tile) (q : Store Queue) (c : CoreId) : (t.withQueues q).core c = t.core c := by
  cases c <;> rfl

@[simp] theorem Tile.queues_withQueues (t : Tile) (q : Store Queue) : (t.withQueues q).queues = q := rfl

@[simp] theorem Tile.scratch_withQueues (t : Tile) (q : Store Queue) : (t.withQueues q).scratch = t.scratch := rfl

@[simp] theorem Tile.withQueues_queues (t : Tile) : t.withQueues t.queues = t := rfl

@[simp] theorem Tile.withQueues_withQueues (t : Tile) (q r : Store Queue) :
    (t.withQueues q).withQueues r = t.withQueues r := rfl

theorem Tile.setCore_withQueues (t : Tile) (q : Store Queue) (c : CoreId) (k : Core) :
    (t.withQueues q).setCore c k = (t.setCore c k).withQueues q := by cases c <;> rfl

theorem Tile.setQueue_eq (t : Tile) (n : Nat) (u : Queue) : t.setQueue n u = t.withQueues (Store.put t.queues n u) := rfl

/-- Reading a word's registers changes the tile's queues and nothing else. -/
theorem takeUses_tile (c : CoreId) (now : Nat) (us : List (Nat × Bool)) : ∀ t : Tile,
    (takeUses c now t us).1 = t.withQueues (takeUses c now t us).1.queues := by
  induction us with
  | nil => exact fun t => rfl
  | cons u us ih =>
    obtain ⟨n, w⟩ := u
    intro t
    cases w
    · simp only [takeUses]
      split
      · split
        · dsimp only
          rw [ih]
          rfl
        · exact ih t
      · exact ih t
    · simp only [takeUses]
      exact ih t

/-- A word's registers read: nothing but the queues of its tile differs. -/
theorem State.take_ok {s s' : State} {us : List (Nat × Bool)} {vs : List U64} (h : s.take us = .ok s' vs) :
    s' = s.setMyTile (s.myTile.withQueues s'.myTile.queues) ∧
      vs = (takeUses s.cur.core s.now s.myTile us).2 := by
  unfold State.take at h
  split at h
  · cases h
  · split at h
    · cases h
    · cases h
      refine ⟨?_, rfl⟩
      rw [State.myTile_setMyTile]
      congr 1
      exact takeUses_tile _ _ _ _

/-- The destination of a word whose registers were read is a register or a connected port. -/
theorem deadPort_none {c : CoreId} {us : List (Nat × Bool)} (h : deadPort c us = none) {d : Nat} (hm : (d, true) ∈ us)
    (hd : 28 ≤ d) : ∃ q, outQueue c (d - 28) = some q := by
  induction us with
  | nil => cases hm
  | cons u us ih =>
    obtain ⟨n, w⟩ := u
    rw [deadPort] at h
    by_cases hn : (isPort n && (if w then outQueue c (n - 28) else inQueue c (n - 28)).isNone) = true
    · rw [if_pos hn] at h
      cases h
    · rw [if_neg hn] at h
      rcases List.mem_cons.1 hm with he | hm
      · cases he
        simpa [isPort, hd, Option.ne_none_iff_exists', Option.isNone_iff_eq_none] using hn
      · exact ih h hm

theorem State.take_alive {s s' : State} {us : List (Nat × Bool)} {vs : List U64} (h : s.take us = .ok s' vs) :
    deadPort s.cur.core us = none := by
  unfold State.take at h
  split at h
  · cases h
  · assumption

/-- The state a word leaves when its result goes to `d` and it issues. -/
theorem State.delivered {s s' : State} {us : List (Nat × Bool)} {vs : List U64} (h : s.take us = .ok s' vs) (d : Nat)
    (hd : (d, true) ∈ us) (v : U64) (lat : Nat) (npc : U64) (next : Nat) (res : List Res) :
    let t := (s'.putReg d v lat).issue npc next (plainPend (s.now + lat) res)
    Issued s t npc next lat res ∧ Landed s s' t d v lat ∧ OnlyRegister s t d := by
  obtain ⟨hs, -⟩ := State.take_ok h
  have hq := deadPort_none (State.take_alive h) hd
  generalize s'.myTile.queues = q at hs
  clear h hd us
  subst hs
  have hsame : ∀ T : Tile, Memory.byte T.scratch = Memory.byte s.myTile.scratch → SameBytes s (s.setMyTile T) := by
    intro T hT
    refine ⟨fun _ => rfl, fun _ => rfl, fun g a => ?_⟩
    by_cases hg : g = s.cur.tile
    · subst hg
      exact congrFun (by rw [← State.myTile, ← hT]; simp [State.setMyTile]) a
    · rw [State.tile_setMyTile_ne s T hg]
  intro t
  suffices h : ∃ Q K, t = s.setMyTile ((s.myTile.withQueues Q).setCore s.cur.core K) ∧
      K = { s.me with pc := npc, run := .running, held := none, nextAt := next, regs := K.regs,
                      pend := s.me.pend ++ [plainPend (s.now + lat) res] } ∧
      Landed s (s.setMyTile (s.myTile.withQueues q)) t d v lat ∧ (∀ n, n ≠ d → K.reg n = s.me.reg n) by
    obtain ⟨Q, K, ht, hK, hl, hr⟩ := h
    have hme : t.me = K := by rw [ht]; simp
    have hpc := congrArg Core.pc hK
    have hrun := congrArg Core.run hK
    have hheld := congrArg Core.held hK
    have hnext := congrArg Core.nextAt hK
    have hpend := congrArg Core.pend hK
    dsimp only at hpc hrun hheld hnext hpend
    refine ⟨⟨hme ▸ hpc, hme ▸ hnext, hme ▸ hrun, none, hme ▸ hpend⟩, hl, ?_, ?_, fun n hn => hme ▸ hr n hn, ?_⟩
    · rw [hme, ht]; simp [Tile.setCore_withQueues]
    · rw [OnlyFlow, hme, hpc, hrun, hheld, hnext, hpend]; exact hK
    · rw [ht]; exact hsame _ (by simp)
  by_cases hp : 28 ≤ d
  · obtain ⟨qn, hqn⟩ := hq hp
    have hp' : ¬ d < 28 := by omega
    let u := ((s.myTile.withQueues q).queue qn).push (BitVec.ofNat 32 v.toNat) (s.now + lat - 1) 3 s.now
    refine ⟨Store.put q qn u,
      { s.me with pc := npc, run := .running, held := none, nextAt := next, pend := s.me.pend ++ [plainPend (s.now + lat) res] },
      ?_, rfl, ?_, ?_⟩
    · simp [t, State.putReg, isPort, hp, hqn, State.issue, State.mapMe_eq, Tile.setQueue_eq, u, State.me_eq]
    · simp [t, State.putReg, isPort, hp, hp', hqn, State.issue, State.mapMe_eq, Landed, Tile.queue, Tile.setQueue_eq,
        Store.get_put_same]
    · simp [Core.reg]
  · have hp' : d < 28 := by omega
    refine ⟨q,
      { s.me.setReg d v with pc := npc, run := .running, held := none, nextAt := next,
                             pend := s.me.pend ++ [plainPend (s.now + lat) res] }, ?_, ?_, ?_, ?_⟩
    · simp [t, State.putReg, isPort, hp, State.issue, State.mapMe_eq, State.me_eq, Tile.setCore_withQueues]
    · unfold Core.setReg; split <;> rfl
    · simp [t, State.putReg, isPort, hp, State.issue, State.mapMe_eq, Landed, hp', State.me_eq, Tile.setCore_withQueues]
      exact Core.reg_setReg_same _ _ _
    · exact fun n hn => Core.reg_setReg_ne _ _ hn

/-- A word whose result may be pushed ends with it (R30, R32). -/
theorem State.finish_ok (s0 s : State) (d : Nat) (v : U64) (lat : Nat) (npc : U64) (next : Nat)
    (hv : ¬ MayNotPush d v) :
    s0.finish s d v lat npc next = .next ((s.putReg d v lat).issue npc next (plainPend (s.now + lat) (regRes d))) := by
  have h : ¬ (isPort d && forbiddenToken (BitVec.ofNat 32 v.toNat)) = true := by
    simp only [MayNotPush, isPort, forbiddenToken, bitsAt, BitVec.toNat_ofNat, Bool.and_eq_true, decide_eq_true_eq] at hv ⊢
    omega
  rw [State.finish, State.finishWith, if_neg h]

/-- A destination adds nothing to what a word reads. -/
theorem takeUses_dest (c : CoreId) (now d : Nat) (us : List (Nat × Bool)) : ∀ t : Tile,
    takeUses c now t (us ++ [(d, true)]) = takeUses c now t us := by
  induction us with
  | nil => exact fun t => rfl
  | cons u us ih =>
    obtain ⟨n, w⟩ := u
    intro t
    cases w <;> simp only [List.cons_append, takeUses, ih]

/-- A result that may be pushed is no forbidden token, whatever waits (R23, R32). -/
theorem State.badToken_none {s s' : State} {us : List (Nat × Bool)} {d : Nat} {vs : List U64}
    (h : s.take (us ++ [(d, true)]) = .ok s' vs) (f : List U64 → U64) (hv : ¬ MayNotPush d (f vs)) :
    s.badToken us d f = none := by
  unfold State.badToken
  split
  · rfl
  · next hp =>
    split
    · next ws _ hw =>
      obtain rfl : ws = vs := by rw [(State.take_ok hw).2, (State.take_ok h).2, takeUses_dest]
      refine if_neg fun hf => hv ?_
      simp only [MayNotPush, isPort, forbiddenToken, bitsAt, BitVec.toNat_ofNat, Bool.not_eq_false, decide_eq_true_eq] at *
      omega
    · rfl

/-- What a word that computes `f` of its sources does once they can be read and its result may be pushed. -/
theorem State.compute_ok {s s' : State} {srcs : List Nat} {d : Nat} {vs : List U64}
    (h : s.take (srcs.map (·, false) ++ [(d, true)]) = .ok s' vs) (lat : Nat) (f : List U64 → U64)
    (hv : ¬ MayNotPush d (f vs)) :
    ∃ t, s.compute srcs d lat f = .next t ∧ Issued s t (s.me.pc + 4) (s.now + 1) lat (regRes d) ∧
      Landed s s' t d (f vs) lat ∧ OnlyRegister s t d := by
  have hn : s'.now = s.now := by rw [(State.take_ok h).1]; rfl
  refine ⟨_, ?_, State.delivered h d (by simp) (f vs) lat (s.me.pc + 4) (s.now + 1) (regRes d)⟩
  rw [State.compute, State.badToken_none h f hv, State.withRegs, h]
  dsimp only
  rw [State.finish_ok _ _ _ _ _ _ _ hv, hn]

end Sys2Proof.Machine
end

