-- ==== Sys2Proof/Laws/PerInstr.lean ====
section
/-!
SUPPORT. The framing of words (R20, R21), per instruction: the first unit of every word tells how many units it has.
-/

namespace Sys2Proof.Laws.Framed

open Sys2Proof Sys2Proof.Machine

/-- A well-formed word is framed from its first unit: that unit's class, stamp bit and literal count give its length. An
event has no units. -/
def Statement (i : Instr) : Prop :=
  i.wf = true → encode i = [] ∨ ∃ u us, encode i = u :: us ∧ wordUnits u = us.length + 1

theorem scalarUnit {n : Nat} (h : n < 1073741824) : wordUnits (BitVec.ofNat 32 n) = 1 := by
  have hc : unitClass (BitVec.ofNat 32 n) = 0 := by
    simp only [unitClass, bitsAt, BitVec.toNat_ofNat, Nat.reducePow]
    omega
  simp only [wordUnits, hc]

theorem sr {op d a b fn : Nat} (ho : op < 64) (hd : d < 32) (ha : a < 32) (hb : b < 32) (hf : fn < 512) :
    encSR op d a b fn = [] ∨ ∃ u us, encSR op d a b fn = u :: us ∧ wordUnits u = us.length + 1 :=
  .inr ⟨_, [], rfl, scalarUnit (by simp only [Nat.reducePow]; omega)⟩

theorem si {op d a i : Nat} (ho : op < 64) (hd : d < 32) (ha : a < 32) (hi : i < 16384) :
    encSI op d a i = [] ∨ ∃ u us, encSI op d a i = u :: us ∧ wordUnits u = us.length + 1 :=
  .inr ⟨_, [], rfl, scalarUnit (by simp only [Nat.reducePow]; omega)⟩

theorem sb {op a b c o : Nat} (ho : op < 64) (ha : a < 32) (hb : b < 32) (hc : c < 8) (hi : o < 2048) :
    encSB op a b c o = [] ∨ ∃ u us, encSB op a b c o = u :: us ∧ wordUnits u = us.length + 1 :=
  .inr ⟨_, [], rfl, scalarUnit (by simp only [Nat.reducePow]; omega)⟩

theorem sjBound {op o : Nat} (ho : op < 64) (hi : o < 16777216) : op * 2 ^ 24 + o < 1073741824 := by
  simp only [Nat.reducePow]
  omega

theorem sj {op o : Nat} (ho : op < 64) (hi : o < 16777216) :
    encSJ op o = [] ∨ ∃ u us, encSJ op o = u :: us ∧ wordUnits u = us.length + 1 := by
  refine .inr ⟨_, [], rfl, ?_⟩
  rw [scalarUnit (sjBound ho hi)]
  rfl

theorem suBound {op d i : Nat} (ho : op < 64) (hd : d < 32) (hi : i < 524288) :
    op * 2 ^ 24 + d * 2 ^ 19 + i < 1073741824 := by
  simp only [Nat.reducePow]
  omega

theorem su {op d i : Nat} (ho : op < 64) (hd : d < 32) (hi : i < 524288) :
    encSU op d i = [] ∨ ∃ u us, encSU op d i = u :: us ∧ wordUnits u = us.length + 1 := by
  refine .inr ⟨_, [], rfl, ?_⟩
  rw [scalarUnit (suBound ho hd hi)]
  rfl

theorem longUnit {a k l b n : Nat} (hn : a * 1024 + k * 512 + l * 128 + b = n) (ha : 1048576 ≤ a) (ha2 : a < 2097152)
    (hk : k ≤ 1) (hl : l ≤ 2) (hb : b < 128) : wordUnits (BitVec.ofNat 32 n) = 3 + k + l := by
  have hc : unitClass (BitVec.ofNat 32 n) = 1 := by
    simp only [unitClass, bitsAt, BitVec.toNat_ofNat, Nat.reducePow]
    omega
  have h9 : bitsAt (BitVec.ofNat 32 n).toNat 9 1 = k := by
    simp only [bitsAt, BitVec.toNat_ofNat, Nat.reducePow]
    omega
  have h7 : bitsAt (BitVec.ofNat 32 n).toNat 7 2 = l := by
    simp only [bitsAt, BitVec.toNat_ofNat, Nat.reducePow]
    omega
  simp only [wordUnits, hc, h9, h7]
  omega

theorem longHead {op et rn st nw mk k l cn ce x3 : Nat} (ho : op < 256) (he : et < 16) (hr : rn < 8) (hs : st < 2)
    (hn : nw < 2) (hm : mk < 8) (hk : k ≤ 1) (hl : l ≤ 2) (hc : cn < 8) (he2 : ce < 2) (hx : x3 < 8) :
    wordUnits (BitVec.ofNat 32 (1 * 2 ^ 30 + op * 2 ^ 22 + et * 2 ^ 18 + rn * 2 ^ 15 + st * 2 ^ 14 + nw * 2 ^ 13
      + mk * 2 ^ 10 + k * 2 ^ 9 + l * 2 ^ 7 + cn * 2 ^ 4 + ce * 2 ^ 3 + x3)) = 3 + k + l :=
  longUnit (a := 1048576 + op * 4096 + et * 256 + rn * 32 + st * 16 + nw * 8 + mk) (b := cn * 16 + ce * 8 + x3)
    (by simp only [Nat.reducePow]; omega) (by omega) (by omega) hk hl (by omega)

theorem long {op : Nat} (h : VHead) (t2 t3 : Nat) (ho : op < 256) (hw : h.wf = true) :
    encodeLong op h t2 t3 = [] ∨ ∃ u us, encodeLong op h t2 t3 = u :: us ∧ wordUnits u = us.length + 1 := by
  obtain ⟨et, rn, st, nw, mk, cn, ce, x3, stamp, lits⟩ := h
  have hl : lits.length ≤ 2 := by simpa [VHead.wf] using hw
  have key := fun k (hk : k ≤ 1) => longHead ho et.isLt rn.isLt st.isLt nw.isLt mk.isLt hk hl cn.isLt ce.isLt x3.isLt
  refine .inr ⟨_, _, rfl, ?_⟩
  cases stamp with
  | none => exact (key 0 (by omega)).trans (by simp only [List.length_cons]; omega)
  | some s => exact (key 1 (by omega)).trans (by simp only [List.length_cons]; omega)

theorem matrixUnit {n : Nat} (h : 2147483648 ≤ n) (h2 : n < 3221225472) : wordUnits (BitVec.ofNat 32 n) = 6 := by
  have hc : unitClass (BitVec.ofNat 32 n) = 2 := by
    simp only [unitClass, bitsAt, BitVec.toNat_ofNat, Nat.reducePow]
    omega
  simp only [wordUnits, hc]

theorem matrix {op : Nat} (w : MWord) (ho : op < 256) :
    encodeM op w = [] ∨ ∃ u us, encodeM op w = u :: us ∧ wordUnits u = us.length + 1 := by
  refine .inr ⟨_, _, rfl, ?_⟩
  have := w.tA.isLt
  have := w.tB.isLt
  have := w.tC.isLt
  have := w.acc.isLt
  have := w.init.isLt
  have := w.ksteps.isLt
  rw [matrixUnit (by simp only [Nat.reducePow]; omega) (by simp only [Nat.reducePow] at *; omega)]
  rfl

theorem add : ∀ x y z, Statement (.add x y z) := by
  intro x y z _
  have := x.isLt
  have := y.isLt
  have := z.isLt
  exact sr (by omega) (by omega) (by omega) (by omega) (by omega)
theorem sub : ∀ x y z, Statement (.sub x y z) := by
  intro x y z _
  have := x.isLt
  have := y.isLt
  have := z.isLt
  exact sr (by omega) (by omega) (by omega) (by omega) (by omega)
theorem and : ∀ x y z, Statement (.and x y z) := by
  intro x y z _
  have := x.isLt
  have := y.isLt
  have := z.isLt
  exact sr (by omega) (by omega) (by omega) (by omega) (by omega)
theorem or : ∀ x y z, Statement (.or x y z) := by
  intro x y z _
  have := x.isLt
  have := y.isLt
  have := z.isLt
  exact sr (by omega) (by omega) (by omega) (by omega) (by omega)
theorem xor : ∀ x y z, Statement (.xor x y z) := by
  intro x y z _
  have := x.isLt
  have := y.isLt
  have := z.isLt
  exact sr (by omega) (by omega) (by omega) (by omega) (by omega)
theorem andn : ∀ x y z, Statement (.andn x y z) := by
  intro x y z _
  have := x.isLt
  have := y.isLt
  have := z.isLt
  exact sr (by omega) (by omega) (by omega) (by omega) (by omega)
theorem orn : ∀ x y z, Statement (.orn x y z) := by
  intro x y z _
  have := x.isLt
  have := y.isLt
  have := z.isLt
  exact sr (by omega) (by omega) (by omega) (by omega) (by omega)
theorem xnor : ∀ x y z, Statement (.xnor x y z) := by
  intro x y z _
  have := x.isLt
  have := y.isLt
  have := z.isLt
  exact sr (by omega) (by omega) (by omega) (by omega) (by omega)
theorem shl : ∀ x y z, Statement (.shl x y z) := by
  intro x y z _
  have := x.isLt
  have := y.isLt
  have := z.isLt
  exact sr (by omega) (by omega) (by omega) (by omega) (by omega)
theorem shr : ∀ x y z, Statement (.shr x y z) := by
  intro x y z _
  have := x.isLt
  have := y.isLt
  have := z.isLt
  exact sr (by omega) (by omega) (by omega) (by omega) (by omega)
theorem sra : ∀ x y z, Statement (.sra x y z) := by
  intro x y z _
  have := x.isLt
  have := y.isLt
  have := z.isLt
  exact sr (by omega) (by omega) (by omega) (by omega) (by omega)
theorem rotr : ∀ x y z, Statement (.rotr x y z) := by
  intro x y z _
  have := x.isLt
  have := y.isLt
  have := z.isLt
  exact sr (by omega) (by omega) (by omega) (by omega) (by omega)
theorem rotl : ∀ x y z, Statement (.rotl x y z) := by
  intro x y z _
  have := x.isLt
  have := y.isLt
  have := z.isLt
  exact sr (by omega) (by omega) (by omega) (by omega) (by omega)
theorem mul : ∀ x y z, Statement (.mul x y z) := by
  intro x y z _
  have := x.isLt
  have := y.isLt
  have := z.isLt
  exact sr (by omega) (by omega) (by omega) (by omega) (by omega)
theorem mulh : ∀ x y z, Statement (.mulh x y z) := by
  intro x y z _
  have := x.isLt
  have := y.isLt
  have := z.isLt
  exact sr (by omega) (by omega) (by omega) (by omega) (by omega)
theorem mulhu : ∀ x y z, Statement (.mulhu x y z) := by
  intro x y z _
  have := x.isLt
  have := y.isLt
  have := z.isLt
  exact sr (by omega) (by omega) (by omega) (by omega) (by omega)
theorem div : ∀ x y z, Statement (.div x y z) := by
  intro x y z _
  have := x.isLt
  have := y.isLt
  have := z.isLt
  exact sr (by omega) (by omega) (by omega) (by omega) (by omega)
theorem divu : ∀ x y z, Statement (.divu x y z) := by
  intro x y z _
  have := x.isLt
  have := y.isLt
  have := z.isLt
  exact sr (by omega) (by omega) (by omega) (by omega) (by omega)
theorem rem : ∀ x y z, Statement (.rem x y z) := by
  intro x y z _
  have := x.isLt
  have := y.isLt
  have := z.isLt
  exact sr (by omega) (by omega) (by omega) (by omega) (by omega)
theorem remu : ∀ x y z, Statement (.remu x y z) := by
  intro x y z _
  have := x.isLt
  have := y.isLt
  have := z.isLt
  exact sr (by omega) (by omega) (by omega) (by omega) (by omega)
theorem min : ∀ x y z, Statement (.min x y z) := by
  intro x y z _
  have := x.isLt
  have := y.isLt
  have := z.isLt
  exact sr (by omega) (by omega) (by omega) (by omega) (by omega)
theorem max : ∀ x y z, Statement (.max x y z) := by
  intro x y z _
  have := x.isLt
  have := y.isLt
  have := z.isLt
  exact sr (by omega) (by omega) (by omega) (by omega) (by omega)
theorem minu : ∀ x y z, Statement (.minu x y z) := by
  intro x y z _
  have := x.isLt
  have := y.isLt
  have := z.isLt
  exact sr (by omega) (by omega) (by omega) (by omega) (by omega)
theorem maxu : ∀ x y z, Statement (.maxu x y z) := by
  intro x y z _
  have := x.isLt
  have := y.isLt
  have := z.isLt
  exact sr (by omega) (by omega) (by omega) (by omega) (by omega)
theorem slt : ∀ x y z, Statement (.slt x y z) := by
  intro x y z _
  have := x.isLt
  have := y.isLt
  have := z.isLt
  exact sr (by omega) (by omega) (by omega) (by omega) (by omega)
theorem sltu : ∀ x y z, Statement (.sltu x y z) := by
  intro x y z _
  have := x.isLt
  have := y.isLt
  have := z.isLt
  exact sr (by omega) (by omega) (by omega) (by omega) (by omega)
theorem seq : ∀ x y z, Statement (.seq x y z) := by
  intro x y z _
  have := x.isLt
  have := y.isLt
  have := z.isLt
  exact sr (by omega) (by omega) (by omega) (by omega) (by omega)
theorem sne : ∀ x y z, Statement (.sne x y z) := by
  intro x y z _
  have := x.isLt
  have := y.isLt
  have := z.isLt
  exact sr (by omega) (by omega) (by omega) (by omega) (by omega)
theorem clz : ∀ x y, Statement (.clz x y) := by
  intro x y _
  have := x.isLt
  have := y.isLt
  exact sr (by omega) (by omega) (by omega) (by omega) (by omega)
theorem ctz : ∀ x y, Statement (.ctz x y) := by
  intro x y _
  have := x.isLt
  have := y.isLt
  exact sr (by omega) (by omega) (by omega) (by omega) (by omega)
theorem popc : ∀ x y, Statement (.popc x y) := by
  intro x y _
  have := x.isLt
  have := y.isLt
  exact sr (by omega) (by omega) (by omega) (by omega) (by omega)
theorem brev : ∀ x y, Statement (.brev x y) := by
  intro x y _
  have := x.isLt
  have := y.isLt
  exact sr (by omega) (by omega) (by omega) (by omega) (by omega)
theorem sextb : ∀ x y, Statement (.sextb x y) := by
  intro x y _
  have := x.isLt
  have := y.isLt
  exact sr (by omega) (by omega) (by omega) (by omega) (by omega)
theorem sexth : ∀ x y, Statement (.sexth x y) := by
  intro x y _
  have := x.isLt
  have := y.isLt
  exact sr (by omega) (by omega) (by omega) (by omega) (by omega)
theorem sextw : ∀ x y, Statement (.sextw x y) := by
  intro x y _
  have := x.isLt
  have := y.isLt
  exact sr (by omega) (by omega) (by omega) (by omega) (by omega)
theorem addw : ∀ x y z, Statement (.addw x y z) := by
  intro x y z _
  have := x.isLt
  have := y.isLt
  have := z.isLt
  exact sr (by omega) (by omega) (by omega) (by omega) (by omega)
theorem subw : ∀ x y z, Statement (.subw x y z) := by
  intro x y z _
  have := x.isLt
  have := y.isLt
  have := z.isLt
  exact sr (by omega) (by omega) (by omega) (by omega) (by omega)
theorem sel : ∀ x y z, Statement (.sel x y z) := by
  intro x y z _
  have := x.isLt
  have := y.isLt
  have := z.isLt
  exact sr (by omega) (by omega) (by omega) (by omega) (by omega)
theorem addi : ∀ x y z, Statement (.addi x y z) := by
  intro x y z _
  have := x.isLt
  have := y.isLt
  have := z.isLt
  exact si (by omega) (by omega) (by omega) (by omega)
theorem andi : ∀ x y z, Statement (.andi x y z) := by
  intro x y z _
  have := x.isLt
  have := y.isLt
  have := z.isLt
  exact si (by omega) (by omega) (by omega) (by omega)
theorem ori : ∀ x y z, Statement (.ori x y z) := by
  intro x y z _
  have := x.isLt
  have := y.isLt
  have := z.isLt
  exact si (by omega) (by omega) (by omega) (by omega)
theorem xori : ∀ x y z, Statement (.xori x y z) := by
  intro x y z _
  have := x.isLt
  have := y.isLt
  have := z.isLt
  exact si (by omega) (by omega) (by omega) (by omega)
theorem shli : ∀ x y z, Statement (.shli x y z) := by
  intro x y z _
  have := x.isLt
  have := y.isLt
  have := z.isLt
  exact si (by omega) (by omega) (by omega) (by omega)
theorem shri : ∀ x y z, Statement (.shri x y z) := by
  intro x y z _
  have := x.isLt
  have := y.isLt
  have := z.isLt
  exact si (by omega) (by omega) (by omega) (by omega)
theorem srai : ∀ x y z, Statement (.srai x y z) := by
  intro x y z _
  have := x.isLt
  have := y.isLt
  have := z.isLt
  exact si (by omega) (by omega) (by omega) (by omega)
theorem slti : ∀ x y z, Statement (.slti x y z) := by
  intro x y z _
  have := x.isLt
  have := y.isLt
  have := z.isLt
  exact si (by omega) (by omega) (by omega) (by omega)
theorem sltui : ∀ x y z, Statement (.sltui x y z) := by
  intro x y z _
  have := x.isLt
  have := y.isLt
  have := z.isLt
  exact si (by omega) (by omega) (by omega) (by omega)
theorem muli : ∀ x y z, Statement (.muli x y z) := by
  intro x y z _
  have := x.isLt
  have := y.isLt
  have := z.isLt
  exact si (by omega) (by omega) (by omega) (by omega)
theorem lih : ∀ x y, Statement (.lih x y) := by
  intro x y _
  have := x.isLt
  have := y.isLt
  exact su (by omega) (by omega) (by omega)
theorem extr : ∀ x y z u, Statement (.extr x y z u) := by
  intro x y z u _
  have := x.isLt
  have := y.isLt
  have := z.isLt
  have := u.isLt
  exact si (by omega) (by omega) (by omega) (by omega)
theorem extru : ∀ x y z u, Statement (.extru x y z u) := by
  intro x y z u _
  have := x.isLt
  have := y.isLt
  have := z.isLt
  have := u.isLt
  exact si (by omega) (by omega) (by omega) (by omega)
theorem insr : ∀ x y z u, Statement (.insr x y z u) := by
  intro x y z u _
  have := x.isLt
  have := y.isLt
  have := z.isLt
  have := u.isLt
  exact si (by omega) (by omega) (by omega) (by omega)
theorem br : ∀ x y z u, Statement (.br x y z u) := by
  intro x y z u _
  have := x.isLt
  have := y.isLt
  have := z.isLt
  have := u.isLt
  exact sb (by omega) (by omega) (by omega) (by omega) (by omega)
theorem loop : ∀ x y, Statement (.loop x y) := by
  intro x y _
  have := x.isLt
  have := y.isLt
  exact sb (by omega) (by omega) (by omega) (by omega) (by omega)
theorem j : ∀ x, Statement (.j x) := by
  intro x _
  have := x.isLt
  exact sj (by omega) (by omega)
theorem call : ∀ x, Statement (.call x) := by
  intro x _
  have := x.isLt
  exact sj (by omega) (by omega)
theorem jr : ∀ x y, Statement (.jr x y) := by
  intro x y _
  have := x.isLt
  have := y.isLt
  exact si (by omega) (by omega) (by omega) (by omega)
theorem callr : ∀ x y, Statement (.callr x y) := by
  intro x y _
  have := x.isLt
  have := y.isLt
  exact si (by omega) (by omega) (by omega) (by omega)
theorem ldsB : ∀ x y z, Statement (.ldsB x y z) := by
  intro x y z _
  have := x.isLt
  have := y.isLt
  have := z.isLt
  exact si (by omega) (by omega) (by omega) (by omega)
theorem ldsBu : ∀ x y z, Statement (.ldsBu x y z) := by
  intro x y z _
  have := x.isLt
  have := y.isLt
  have := z.isLt
  exact si (by omega) (by omega) (by omega) (by omega)
theorem ldsH : ∀ x y z, Statement (.ldsH x y z) := by
  intro x y z _
  have := x.isLt
  have := y.isLt
  have := z.isLt
  exact si (by omega) (by omega) (by omega) (by omega)
theorem ldsHu : ∀ x y z, Statement (.ldsHu x y z) := by
  intro x y z _
  have := x.isLt
  have := y.isLt
  have := z.isLt
  exact si (by omega) (by omega) (by omega) (by omega)
theorem ldsW : ∀ x y z, Statement (.ldsW x y z) := by
  intro x y z _
  have := x.isLt
  have := y.isLt
  have := z.isLt
  exact si (by omega) (by omega) (by omega) (by omega)
theorem ldsWu : ∀ x y z, Statement (.ldsWu x y z) := by
  intro x y z _
  have := x.isLt
  have := y.isLt
  have := z.isLt
  exact si (by omega) (by omega) (by omega) (by omega)
theorem ldsD : ∀ x y z, Statement (.ldsD x y z) := by
  intro x y z _
  have := x.isLt
  have := y.isLt
  have := z.isLt
  exact si (by omega) (by omega) (by omega) (by omega)
theorem stsB : ∀ x y z, Statement (.stsB x y z) := by
  intro x y z _
  have := x.isLt
  have := y.isLt
  have := z.isLt
  exact si (by omega) (by omega) (by omega) (by omega)
theorem stsH : ∀ x y z, Statement (.stsH x y z) := by
  intro x y z _
  have := x.isLt
  have := y.isLt
  have := z.isLt
  exact si (by omega) (by omega) (by omega) (by omega)
theorem stsW : ∀ x y z, Statement (.stsW x y z) := by
  intro x y z _
  have := x.isLt
  have := y.isLt
  have := z.isLt
  exact si (by omega) (by omega) (by omega) (by omega)
theorem stsD : ∀ x y z, Statement (.stsD x y z) := by
  intro x y z _
  have := x.isLt
  have := y.isLt
  have := z.isLt
  exact si (by omega) (by omega) (by omega) (by omega)
theorem ldgW : ∀ x y z, Statement (.ldgW x y z) := by
  intro x y z _
  have := x.isLt
  have := y.isLt
  have := z.isLt
  exact si (by omega) (by omega) (by omega) (by omega)
theorem ldgWu : ∀ x y z, Statement (.ldgWu x y z) := by
  intro x y z _
  have := x.isLt
  have := y.isLt
  have := z.isLt
  exact si (by omega) (by omega) (by omega) (by omega)
theorem ldgD : ∀ x y z, Statement (.ldgD x y z) := by
  intro x y z _
  have := x.isLt
  have := y.isLt
  have := z.isLt
  exact si (by omega) (by omega) (by omega) (by omega)
theorem stgW : ∀ x y z, Statement (.stgW x y z) := by
  intro x y z _
  have := x.isLt
  have := y.isLt
  have := z.isLt
  exact si (by omega) (by omega) (by omega) (by omega)
theorem stgD : ∀ x y z, Statement (.stgD x y z) := by
  intro x y z _
  have := x.isLt
  have := y.isLt
  have := z.isLt
  exact si (by omega) (by omega) (by omega) (by omega)
theorem csrrd : ∀ x y, Statement (.csrrd x y) := by
  intro x y _
  have := x.isLt
  have := y.isLt
  exact si (by omega) (by omega) (by omega) (by omega)
theorem csrwr : ∀ x y z, Statement (.csrwr x y z) := by
  intro x y z _
  have := x.isLt
  have := y.isLt
  have := z.isLt
  exact si (by omega) (by omega) (by omega) (by omega)
theorem csrset : ∀ x y z, Statement (.csrset x y z) := by
  intro x y z _
  have := x.isLt
  have := y.isLt
  have := z.isLt
  exact si (by omega) (by omega) (by omega) (by omega)
theorem csrclr : ∀ x y z, Statement (.csrclr x y z) := by
  intro x y z _
  have := x.isLt
  have := y.isLt
  have := z.isLt
  exact si (by omega) (by omega) (by omega) (by omega)
theorem qpop : ∀ x y z u, Statement (.qpop x y z u) := by
  intro x y z u _
  have := x.isLt
  have := y.isLt
  have := z.isLt
  have := u.isLt
  exact si (by omega) (by omega) (by omega) (by omega)
theorem qpush : ∀ x y z u, Statement (.qpush x y z u) := by
  intro x y z u _
  have := x.isLt
  have := y.isLt
  have := z.isLt
  have := u.isLt
  exact si (by omega) (by omega) (by omega) (by omega)
theorem qpeek : ∀ x y, Statement (.qpeek x y) := by
  intro x y _
  have := x.isLt
  have := y.isLt
  exact si (by omega) (by omega) (by omega) (by omega)
theorem qcnt : ∀ x y z, Statement (.qcnt x y z) := by
  intro x y z _
  have := x.isLt
  have := y.isLt
  have := z.isLt
  exact si (by omega) (by omega) (by omega) (by omega)
theorem fork : ∀ x y z, Statement (.fork x y z) := by
  intro x y z _
  have := x.isLt
  have := y.isLt
  have := z.isLt
  exact si (by omega) (by omega) (by omega) (by omega)
theorem waitb : ∀ x y z, Statement (.waitb x y z) := by
  intro x y z _
  have := x.isLt
  have := y.isLt
  have := z.isLt
  exact si (by omega) (by omega) (by omega) (by omega)
theorem arrive : ∀ x y, Statement (.arrive x y) := by
  intro x y _
  have := x.isLt
  have := y.isLt
  exact si (by omega) (by omega) (by omega) (by omega)
theorem barinit : ∀ x y, Statement (.barinit x y) := by
  intro x y _
  have := x.isLt
  have := y.isLt
  exact si (by omega) (by omega) (by omega) (by omega)
theorem join : ∀ x y, Statement (.join x y) := by
  intro x y _
  have := x.isLt
  have := y.isLt
  exact si (by omega) (by omega) (by omega) (by omega)
theorem leave : ∀ x y, Statement (.leave x y) := by
  intro x y _
  have := x.isLt
  have := y.isLt
  exact si (by omega) (by omega) (by omega) (by omega)
theorem gbar : ∀ x, Statement (.gbar x) := by
  intro x _
  have := x.isLt
  exact si (by omega) (by omega) (by omega) (by omega)
theorem putf : ∀ x y z, Statement (.putf x y z) := by
  intro x y z _
  have := x.isLt
  have := y.isLt
  have := z.isLt
  exact si (by omega) (by omega) (by omega) (by omega)
theorem getf : ∀ x y z, Statement (.getf x y z) := by
  intro x y z _
  have := x.isLt
  have := y.isLt
  have := z.isLt
  exact si (by omega) (by omega) (by omega) (by omega)
theorem ringset : ∀ x y, Statement (.ringset x y) := by
  intro x y _
  have := x.isLt
  have := y.isLt
  exact si (by omega) (by omega) (by omega) (by omega)
theorem ringopTail : ∀ x y, Statement (.ringopTail x y) := by
  intro x y _
  have := x.isLt
  have := y.isLt
  exact si (by omega) (by omega) (by omega) (by omega)
theorem ringopFill : ∀ x, Statement (.ringopFill x) := by
  intro x _
  have := x.isLt
  exact si (by omega) (by omega) (by omega) (by omega)
theorem ringopHead : ∀ x y, Statement (.ringopHead x y) := by
  intro x y _
  have := x.isLt
  have := y.isLt
  exact si (by omega) (by omega) (by omega) (by omega)
theorem ringopFree : ∀ x, Statement (.ringopFree x) := by
  intro x _
  have := x.isLt
  exact si (by omega) (by omega) (by omega) (by omega)
theorem ringopCount : ∀ x y, Statement (.ringopCount x y) := by
  intro x y _
  have := x.isLt
  have := y.isLt
  exact si (by omega) (by omega) (by omega) (by omega)
theorem ringopReset : ∀ x, Statement (.ringopReset x) := by
  intro x _
  have := x.isLt
  exact si (by omega) (by omega) (by omega) (by omega)
theorem illegal : ∀ x y z, Statement (.illegal x y z) := by
  intro x y z _
  have := x.isLt
  have := y.isLt
  have := z.isLt
  exact sr (by omega) (by omega) (by omega) (by omega) (by omega)
theorem trap : ∀ x, Statement (.trap x) := by
  intro x _
  have := x.isLt
  exact sr (by omega) (by omega) (by omega) (by omega) (by omega)
theorem exit : ∀ x, Statement (.exit x) := by
  intro x _
  have := x.isLt
  exact sr (by omega) (by omega) (by omega) (by omega) (by omega)
theorem fence : ∀ x y, Statement (.fence x y) := by
  intro x y _
  have := x.isLt
  have := y.isLt
  exact sr (by omega) (by omega) (by omega) (by omega) (by omega)
theorem mark : ∀ x, Statement (.mark x) := by
  intro x _
  have := x.isLt
  exact sr (by omega) (by omega) (by omega) (by omega) (by omega)
theorem sstep : ∀ x, Statement (.sstep x) := by
  intro x _
  have := x.isLt
  exact sr (by omega) (by omega) (by omega) (by omega) (by omega)
theorem frame : ∀ x, Statement (.frame x) := by
  intro x _
  have := x.isLt
  exact sr (by omega) (by omega) (by omega) (by omega) (by omega)
theorem waitt : ∀ x, Statement (.waitt x) := by
  intro x _
  have := x.isLt
  exact sr (by omega) (by omega) (by omega) (by omega) (by omega)
theorem waitd : ∀ x, Statement (.waitd x) := by
  intro x _
  have := x.isLt
  exact sr (by omega) (by omega) (by omega) (by omega) (by omega)
theorem abortg : ∀ x, Statement (.abortg x) := by
  intro x _
  have := x.isLt
  exact sr (by omega) (by omega) (by omega) (by omega) (by omega)
theorem launch : ∀ x y, Statement (.launch x y) := by
  intro x y _
  have := x.isLt
  have := y.isLt
  exact sr (by omega) (by omega) (by omega) (by omega) (by omega)
theorem vmov : ∀ x, Statement (.vmov x) := fun _ h => long _ _ _ (by omega) h
theorem vadd : ∀ x, Statement (.vadd x) := fun _ h => long _ _ _ (by omega) h
theorem vsub : ∀ x, Statement (.vsub x) := fun _ h => long _ _ _ (by omega) h
theorem vmul : ∀ x, Statement (.vmul x) := fun _ h => long _ _ _ (by omega) h
theorem vfma : ∀ x, Statement (.vfma x) := fun _ h => long _ _ _ (by omega) h
theorem vfms : ∀ x, Statement (.vfms x) := fun _ h => long _ _ _ (by omega) h
theorem vfnma : ∀ x, Statement (.vfnma x) := fun _ h => long _ _ _ (by omega) h
theorem vmin : ∀ x, Statement (.vmin x) := fun _ h => long _ _ _ (by omega) h
theorem vmax : ∀ x, Statement (.vmax x) := fun _ h => long _ _ _ (by omega) h
theorem vabs : ∀ x, Statement (.vabs x) := fun _ h => long _ _ _ (by omega) h
theorem vneg : ∀ x, Statement (.vneg x) := fun _ h => long _ _ _ (by omega) h
theorem vrcp : ∀ x, Statement (.vrcp x) := fun _ h => long _ _ _ (by omega) h
theorem vrsq : ∀ x, Statement (.vrsq x) := fun _ h => long _ _ _ (by omega) h
theorem vsqrt : ∀ x, Statement (.vsqrt x) := fun _ h => long _ _ _ (by omega) h
theorem vdiv : ∀ x, Statement (.vdiv x) := fun _ h => long _ _ _ (by omega) h
theorem vfexp2 : ∀ x, Statement (.vfexp2 x) := fun _ h => long _ _ _ (by omega) h
theorem vflog2 : ∀ x, Statement (.vflog2 x) := fun _ h => long _ _ _ (by omega) h
theorem vrndi : ∀ x, Statement (.vrndi x) := fun _ h => long _ _ _ (by omega) h
theorem vscalb : ∀ x, Statement (.vscalb x) := fun _ h => long _ _ _ (by omega) h
theorem vgetexp : ∀ x, Statement (.vgetexp x) := fun _ h => long _ _ _ (by omega) h
theorem vgetmant : ∀ x, Statement (.vgetmant x) := fun _ h => long _ _ _ (by omega) h
theorem vclass : ∀ x, Statement (.vclass x) := fun _ h => long _ _ _ (by omega) h
theorem vcmp : ∀ x, Statement (.vcmp x) := fun _ h => long _ _ _ (by omega) h
theorem vsel : ∀ x, Statement (.vsel x) := fun _ h => long _ _ _ (by omega) h
theorem vmaskop : ∀ x, Statement (.vmaskop x) := fun _ h => long _ _ _ (by omega) h
theorem viadd : ∀ x, Statement (.viadd x) := fun _ h => long _ _ _ (by omega) h
theorem visub : ∀ x, Statement (.visub x) := fun _ h => long _ _ _ (by omega) h
theorem vimul : ∀ x, Statement (.vimul x) := fun _ h => long _ _ _ (by omega) h
theorem vimin : ∀ x, Statement (.vimin x) := fun _ h => long _ _ _ (by omega) h
theorem vimax : ∀ x, Statement (.vimax x) := fun _ h => long _ _ _ (by omega) h
theorem vand : ∀ x, Statement (.vand x) := fun _ h => long _ _ _ (by omega) h
theorem vor : ∀ x, Statement (.vor x) := fun _ h => long _ _ _ (by omega) h
theorem vxor : ∀ x, Statement (.vxor x) := fun _ h => long _ _ _ (by omega) h
theorem vshl : ∀ x, Statement (.vshl x) := fun _ h => long _ _ _ (by omega) h
theorem vshr : ∀ x, Statement (.vshr x) := fun _ h => long _ _ _ (by omega) h
theorem vsra : ∀ x, Statement (.vsra x) := fun _ h => long _ _ _ (by omega) h
theorem viminu : ∀ x, Statement (.viminu x) := fun _ h => long _ _ _ (by omega) h
theorem vimaxu : ∀ x, Statement (.vimaxu x) := fun _ h => long _ _ _ (by omega) h
theorem vcmul : ∀ x, Statement (.vcmul x) := fun _ h => long _ _ _ (by omega) h
theorem vcmac : ∀ x, Statement (.vcmac x) := fun _ h => long _ _ _ (by omega) h
theorem vradd : ∀ x, Statement (.vradd x) := fun _ h => long _ _ _ (by omega) h
theorem vrmax : ∀ x, Statement (.vrmax x) := fun _ h => long _ _ _ (by omega) h
theorem vrmin : ∀ x, Statement (.vrmin x) := fun _ h => long _ _ _ (by omega) h
theorem vramax : ∀ x, Statement (.vramax x) := fun _ h => long _ _ _ (by omega) h
theorem vscan : ∀ x, Statement (.vscan x) := fun _ h => long _ _ _ (by omega) h
theorem vlfsrRead : ∀ x, Statement (.vlfsrRead x) := fun _ h => long _ _ _ (by omega) (Bool.and_eq_true_iff.1 h).1
theorem vlfsrWrite : ∀ x, Statement (.vlfsrWrite x) := fun _ h => long _ _ _ (by omega) (Bool.and_eq_true_iff.1 h).1
theorem vlfsrAdvance : ∀ x, Statement (.vlfsrAdvance x) := fun _ h => long _ _ _ (by omega) (Bool.and_eq_true_iff.1 h).1
theorem vlfsrReseed : ∀ x, Statement (.vlfsrReseed x) := fun _ h => long _ _ _ (by omega) (Bool.and_eq_true_iff.1 h).1
theorem vcvt : ∀ x, Statement (.vcvt x) := fun _ h => long _ _ _ (by omega) h
theorem vamaxb : ∀ x, Statement (.vamaxb x) := fun _ h => long _ _ _ (by omega) h
theorem vqnt : ∀ x, Statement (.vqnt x) := fun _ h => long _ _ _ (by omega) h
theorem vdqnt : ∀ x, Statement (.vdqnt x) := fun _ h => long _ _ _ (by omega) h
theorem vlqdec : ∀ x, Statement (.vlqdec x) := fun _ h => long _ _ _ (by omega) h
theorem vhad : ∀ x, Statement (.vhad x) := fun _ h => long _ _ _ (by omega) h
theorem vpack : ∀ x, Statement (.vpack x) := fun _ h => long _ _ _ (by omega) h
theorem vunpk : ∀ x, Statement (.vunpk x) := fun _ h => long _ _ _ (by omega) h
theorem vperm : ∀ x, Statement (.vperm x) := fun _ h => long _ _ _ (by omega) h
theorem vshuf : ∀ x, Statement (.vshuf x) := fun _ h => long _ _ _ (by omega) h
theorem vslide : ∀ x, Statement (.vslide x) := fun _ h => long _ _ _ (by omega) h
theorem vbcast : ∀ x, Statement (.vbcast x) := fun _ h => long _ _ _ (by omega) h
theorem vgath : ∀ x, Statement (.vgath x) := fun _ h => long _ _ _ (by omega) h
theorem vscat : ∀ x, Statement (.vscat x) := fun _ h => long _ _ _ (by omega) h
theorem vcomp : ∀ x, Statement (.vcomp x) := fun _ h => long _ _ _ (by omega) h
theorem vexpd : ∀ x, Statement (.vexpd x) := fun _ h => long _ _ _ (by omega) h
theorem vtos : ∀ x, Statement (.vtos x) := fun _ h => long _ _ _ (by omega) h
theorem cbldConst : ∀ x, Statement (.cbldConst x) := fun _ h => long _ _ _ (by omega) (Bool.and_eq_true_iff.1 h).1
theorem cbldCodebook : ∀ x, Statement (.cbldCodebook x) := fun _ h => long _ _ _ (by omega) (Bool.and_eq_true_iff.1 h).1
theorem mma : ∀ x, Statement (.mma x) := fun w _ => matrix w (by omega)
theorem mmaq : ∀ x, Statement (.mmaq x) := fun w _ => matrix w (by omega)
theorem mmal : ∀ x, Statement (.mmal x) := fun w _ => matrix w (by omega)
theorem mmas : ∀ x, Statement (.mmas x) := fun w _ => matrix w (by omega)
theorem mzero : ∀ x, Statement (.mzero x) := fun w _ => matrix w (by omega)
theorem mlda : ∀ x, Statement (.mlda x) := fun w _ => matrix w (by omega)
theorem msta : ∀ x, Statement (.msta x) := fun w _ => matrix w (by omega)
theorem mcopy : ∀ x, Statement (.mcopy x) := fun w _ => matrix w (by omega)
theorem mtrn : ∀ x, Statement (.mtrn x) := fun w _ => matrix w (by omega)
theorem mscal : ∀ x, Statement (.mscal x) := fun w _ => matrix w (by omega)
theorem madd : ∀ x, Statement (.madd x) := fun w _ => matrix w (by omega)
theorem mred : ∀ x, Statement (.mred x) := fun w _ => matrix w (by omega)
theorem mspill : ∀ x, Statement (.mspill x) := fun w _ => matrix w (by omega)
theorem mfill : ∀ x, Statement (.mfill x) := fun w _ => matrix w (by omega)
theorem mownClaim : ∀ x, Statement (.mownClaim x) := fun w _ => matrix w (by omega)
theorem mownRelease : ∀ x, Statement (.mownRelease x) := fun w _ => matrix w (by omega)
theorem cpy : ∀ x, Statement (.cpy x) := fun _ h => long _ _ _ (by omega) h
theorem cpyo : ∀ x, Statement (.cpyo x) := fun _ h => long _ _ _ (by omega) h
theorem cpyg : ∀ x, Statement (.cpyg x) := fun _ h => long _ _ _ (by omega) h
theorem cpys : ∀ x, Statement (.cpys x) := fun _ h => long _ _ _ (by omega) h
theorem cpyr : ∀ x, Statement (.cpyr x) := fun _ h => long _ _ _ (by omega) h
theorem cpyq : ∀ x, Statement (.cpyq x) := fun _ h => long _ _ _ (by omega) h
theorem cpydq : ∀ x, Statement (.cpydq x) := fun _ h => long _ _ _ (by omega) h
theorem pref : ∀ x, Statement (.pref x) := fun _ h => long _ _ _ (by omega) h
theorem cflush : ∀ x, Statement (.cflush x) := fun _ h => long _ _ _ (by omega) h
theorem xfft : ∀ x, Statement (.xfft x) := fun _ h => long _ _ _ (by omega) h
theorem xifft : ∀ x, Statement (.xifft x) := fun _ h => long _ _ _ (by omega) h
theorem xhad : ∀ x, Statement (.xhad x) := fun _ h => long _ _ _ (by omega) h
theorem xexp : ∀ x, Statement (.xexp x) := fun _ h => long _ _ _ (by omega) h
theorem xtrl : ∀ x, Statement (.xtrl x) := fun _ h => long _ _ _ (by omega) h
theorem sacc : ∀ x, Statement (.sacc x) := fun _ h => long _ _ _ (by omega) h
theorem amo : ∀ x, Statement (.amo x) := fun _ h => long _ _ _ (by omega) h
theorem publ : ∀ x, Statement (.publ x) := fun _ h => long _ _ _ (by omega) h
theorem disc : ∀ x, Statement (.disc x) := fun _ h => long _ _ _ (by omega) h
theorem lxfer : ∀ x, Statement (.lxfer x) := fun _ h => long _ _ _ (by omega) h
theorem nxtx : ∀ x, Statement (.nxtx x) := fun _ h => long _ _ _ (by omega) h
theorem nxarm : ∀ x, Statement (.nxarm x) := fun _ h => long _ _ _ (by omega) h
theorem transformUnitWork : ∀ x y, Statement (.transformUnitWork x y) := fun _ _ _ => .inl rfl
theorem wordCompletion : ∀ x y, Statement (.wordCompletion x y) := fun _ _ _ => .inl rfl
theorem globalAccessCompletion : ∀ x y, Statement (.globalAccessCompletion x y) := fun _ _ _ => .inl rfl
theorem engineSectorPerformed : ∀ x y, Statement (.engineSectorPerformed x y) := fun _ _ _ => .inl rfl
theorem engineCommandCompletion : ∀ x y, Statement (.engineCommandCompletion x y) := fun _ _ _ => .inl rfl
theorem engineFault : ∀ x y, Statement (.engineFault x y) := fun _ _ _ => .inl rfl
theorem mWordCompletion : ∀ x, Statement (.mWordCompletion x) := fun _ _ => .inl rfl
theorem accumulatorSpillEnd : ∀ x y, Statement (.accumulatorSpillEnd x y) := fun _ _ _ => .inl rfl
theorem accumulatorFillEnd : ∀ x y, Statement (.accumulatorFillEnd x y) := fun _ _ _ => .inl rfl
theorem remoteScratchRequest : ∀ x, Statement (.remoteScratchRequest x) := fun _ _ => .inl rfl
theorem frameOrigin : ∀ x, Statement (.frameOrigin x) := fun _ _ => .inl rfl
theorem groupBarrierRelease : ∀ x y, Statement (.groupBarrierRelease x y) := fun _ _ _ => .inl rfl
theorem groupAbortMarking : ∀ x y, Statement (.groupAbortMarking x y) := fun _ _ _ => .inl rfl
theorem sstepRelease : ∀ x, Statement (.sstepRelease x) := fun _ _ => .inl rfl
theorem preemption : ∀ x, Statement (.preemption x) := fun _ _ => .inl rfl
theorem quantumExpiry : ∀ x, Statement (.quantumExpiry x) := fun _ _ => .inl rfl
theorem stopTaken : ∀ x y, Statement (.stopTaken x y) := fun _ _ _ => .inl rfl
theorem coreHalt : ∀ x y, Statement (.coreHalt x y) := fun _ _ _ => .inl rfl
theorem taskSave : ∀ x, Statement (.taskSave x) := fun _ _ => .inl rfl
theorem taskResumption : ∀ x y, Statement (.taskResumption x y) := fun _ _ _ => .inl rfl
theorem cardAcceptance : ∀ x, Statement (.cardAcceptance x) := fun _ _ => .inl rfl
theorem dealRequest : ∀ x, Statement (.dealRequest x) := fun _ _ => .inl rfl
theorem taskStart : ∀ x, Statement (.taskStart x) := fun _ _ => .inl rfl
theorem roundDeal : ∀ x, Statement (.roundDeal x) := fun _ _ => .inl rfl
theorem roundOrigin : ∀ x, Statement (.roundOrigin x) := fun _ _ => .inl rfl
theorem dxuUpdateAck : ∀ x, Statement (.dxuUpdateAck x) := fun _ _ => .inl rfl
theorem migrationComplete : ∀ x y, Statement (.migrationComplete x y) := fun _ _ _ => .inl rfl
theorem twinSettlement : ∀ x y, Statement (.twinSettlement x y) := fun _ _ _ => .inl rfl
theorem ingestSlotFill : ∀ x y, Statement (.ingestSlotFill x y) := fun _ _ _ => .inl rfl
theorem frameTransmit : ∀ x, Statement (.frameTransmit x) := fun _ _ => .inl rfl
theorem stampedIssue : ∀ x y, Statement (.stampedIssue x y) := fun _ _ _ => .inl rfl
theorem waitConditionMet : ∀ x y, Statement (.waitConditionMet x y) := fun _ _ _ => .inl rfl
theorem barrierReread : ∀ x y, Statement (.barrierReread x y) := fun _ _ _ => .inl rfl
theorem futureCellRetry : ∀ x y, Statement (.futureCellRetry x y) := fun _ _ _ => .inl rfl
theorem closure : ∀ x, Statement (.closure x) := fun _ _ => .inl rfl
theorem timedWaitRelease : ∀ x y, Statement (.timedWaitRelease x y) := fun _ _ _ => .inl rfl
theorem sstepDeadline : ∀ x y, Statement (.sstepDeadline x y) := fun _ _ _ => .inl rfl
theorem tailDoorbell : ∀ x y, Statement (.tailDoorbell x y) := fun _ _ _ => .inl rfl
theorem appendDoorbell : ∀ x y, Statement (.appendDoorbell x y) := fun _ _ _ => .inl rfl
theorem createContext : ∀ x, Statement (.createContext x) := fun _ _ => .inl rfl
theorem updateContext : ∀ x, Statement (.updateContext x) := fun _ _ => .inl rfl
theorem destroyContext : ∀ x, Statement (.destroyContext x) := fun _ _ => .inl rfl
theorem definePartition : ∀ x, Statement (.definePartition x) := fun _ _ => .inl rfl
theorem grant : ∀ x, Statement (.grant x) := fun _ _ => .inl rfl
theorem revoke : ∀ x, Statement (.revoke x) := fun _ _ => .inl rfl
theorem partitionReset : ∀ x, Statement (.partitionReset x) := fun _ _ => .inl rfl
theorem saveTile : ∀ x, Statement (.saveTile x) := fun _ _ => .inl rfl
theorem savePartition : ∀ x, Statement (.savePartition x) := fun _ _ => .inl rfl
theorem dxuUpdate : ∀ x y, Statement (.dxuUpdate x y) := fun _ _ _ => .inl rfl
theorem ptpcommit : ∀ x, Statement (.ptpcommit x) := fun _ _ => .inl rfl
theorem shadow : ∀ x y, Statement (.shadow x y) := fun _ _ _ => .inl rfl
theorem nqstat : ∀ x, Statement (.nqstat x) := fun _ _ => .inl rfl
theorem htxtail : ∀ x, Statement (.htxtail x) := fun _ _ => .inl rfl
theorem registerWrite : ∀ x y, Statement (.registerWrite x y) := fun _ _ _ => .inl rfl
theorem hostMemoryAccess : ∀ x y z, Statement (.hostMemoryAccess x y z) := fun _ _ _ _ => .inl rfl
theorem peerWrite : ∀ x y z u v, Statement (.peerWrite x y z u v) := fun _ _ _ _ _ _ => .inl rfl
theorem peerRead : ∀ x y z u v, Statement (.peerRead x y z u v) := fun _ _ _ _ _ _ => .inl rfl
theorem peerReply : ∀ x y z u, Statement (.peerReply x y z u) := fun _ _ _ _ _ => .inl rfl
theorem linkReplay : ∀ x y, Statement (.linkReplay x y) := fun _ _ _ => .inl rfl
theorem frameReceive : ∀ x y z, Statement (.frameReceive x y z) := fun _ _ _ _ => .inl rfl
theorem patrolScrub : ∀ x, Statement (.patrolScrub x) := fun _ _ => .inl rfl
theorem refresh : ∀ x, Statement (.refresh x) := fun _ _ => .inl rfl
theorem retraining : ∀ x, Statement (.retraining x) := fun _ _ => .inl rfl
theorem recalibration : ∀ x, Statement (.recalibration x) := fun _ _ => .inl rfl
theorem uncorrectableError : ∀ x, Statement (.uncorrectableError x) := fun _ _ => .inl rfl
theorem thermalTrip : ∀ x, Statement (.thermalTrip x) := fun _ _ => .inl rfl
theorem packageReset : ∀ x y, Statement (.packageReset x y) := fun _ _ _ => .inl rfl
theorem controlFlit : ∀ x y, Statement (.controlFlit x y) := fun _ _ _ => .inl rfl
theorem hubcmd : ∀ x, Statement (.hubcmd x) := fun _ _ => .inl rfl
theorem rendz : Statement .rendz := fun _ => si (by omega) (by omega) (by omega) (by omega)
theorem nop : Statement .nop := fun _ => sr (by omega) (by omega) (by omega) (by omega) (by omega)
theorem eret : Statement .eret := fun _ => sr (by omega) (by omega) (by omega) (by omega) (by omega)
theorem halt : Statement .halt := fun _ => sr (by omega) (by omega) (by omega) (by omega) (by omega)
theorem brk : Statement .brk := fun _ => sr (by omega) (by omega) (by omega) (by omega) (by omega)
theorem retire : Statement .retire := fun _ => sr (by omega) (by omega) (by omega) (by omega) (by omega)
theorem abchk : Statement .abchk := fun _ => sr (by omega) (by omega) (by omega) (by omega) (by omega)
theorem datumTick : Statement .datumTick := fun _ => .inl rfl
theorem hubCommandDone : Statement .hubCommandDone := fun _ => .inl rfl
theorem ptpTripleEffect : Statement .ptpTripleEffect := fun _ => .inl rfl
theorem apportionerPeriod : Statement .apportionerPeriod := fun _ => .inl rfl
theorem telemetryWrite : Statement .telemetryWrite := fun _ => .inl rfl
theorem monumentFlashComplete : Statement .monumentFlashComplete := fun _ => .inl rfl
theorem powerLoss : Statement .powerLoss := fun _ => .inl rfl
theorem hostAcknowledge : Statement .hostAcknowledge := fun _ => .inl rfl

end Sys2Proof.Laws.Framed
end

