-- ==== Sys2Proof/Tests/Slice0.lean ====
section
/-!
SUPPORT. The model's own tests: for each obligation states and operands that meet its hypotheses (witness_*), words written out
from the spec's encodings (test_decode_*), terms that are ill formed, and single steps whose results stand in the spec's
worked examples or were calculated by hand.
-/

namespace Sys2Proof.Tests

-- One theorem after another: each `decide` needs the kernel, and waiting threads cost memory.
set_option Elab.async false
open Sys2Proof Sys2Proof.Machine

/-- A window that maps every address to itself in region 0 (R316). -/
def pageWindow : BitVec 128 := BitVec.ofNat 128 (15 * 2 ^ 124 + (2 ^ 24 - 1) * 2 ^ 38)

/-- A result is `v`, or the error `x`, as a check that evaluates. -/
def okIs {ε α : Type} [DecidableEq α] (e : Except ε α) (v : α) : Bool :=
  match e with
  | .ok w => decide (w = v)
  | .error _ => false
def errorIs {α : Type} (e : Except Nat α) (x : Nat) : Bool :=
  match e with
  | .ok _ => false
  | .error y => decide (y = x)

theorem ok_of {ε α : Type} [DecidableEq α] {e : Except ε α} {v : α} (h : okIs e v = true) : e = .ok v := by
  cases e with
  | ok w => exact congrArg _ (of_decide_eq_true h)
  | error x => cases h

theorem error_of {α : Type} {e : Except Nat α} {x : Nat} (h : errorIs e x = true) : e = .error x := by
  cases e with
  | ok w => cases h
  | error y => exact congrArg _ (of_decide_eq_true h)

/-- A task with that window. -/
def someTask : Task := { Task.absent with live := true, uid := 1, windows := [(0, pageWindow)], frameLen := 4096 }

/-- A core that runs, with s1 to s3 written. -/
def someCore : Core := { Core.idle with run := .running, regs := [(1, 64), (2, 16), (3, 3)] }

/-- The state of one tile with a task, one of whose cores is `k` and about to issue. -/
def oneCore (c : CoreId) (k : Core) : State :=
  { State.reset with tiles := [(0, { Tile.idle with task := someTask }.setCore c k)], cur := ⟨0, c⟩ }

/-- That state with some changes to its tile. -/
def oneTile (c : CoreId) (f : Tile → Tile) : State :=
  { State.reset with tiles := [(0, f ({ Tile.idle with task := someTask }.setCore c someCore))], cur := ⟨0, c⟩ }

theorem witness_AluResults :
    (∃ s s' d a b x y, State.take s (uses2 d a b) = .ok s' [x, y] ∧ ¬ MayNotPush d.toNat (x + y)) ∧
    (∃ s s' d a x, State.take s (uses1 d a) = .ok s' [x] ∧ ¬ MayNotPush d.toNat x) ∧
    (∃ s s', ∃ (d a b : BitVec 5), ∃ x y c, d.toNat < 28 ∧
      State.take s [(a.toNat, false), (b.toNat, false), (d.toNat, false), (d.toNat, true)] = .ok s' [x, y, c]) :=
  ⟨⟨oneCore .X someCore, _, 30, 1, 2, 64, 16, rfl, by unfold MayNotPush; decide⟩,
   ⟨oneCore .X someCore, _, 29, 1, 64, rfl, by unfold MayNotPush; decide⟩,
   ⟨oneCore .X someCore, _, 3, 1, 2, 64, 16, 3, by decide, rfl⟩⟩

theorem witness_ImmediateResults :
    (∃ s s' d a x, State.take s (uses1 d a) = .ok s' [x] ∧ ¬ MayNotPush d.toNat x) ∧
    (∃ s s' d, State.take s (uses0 d) = .ok s' [] ∧ ¬ MayNotPush d.toNat 0) ∧
    (∃ s s', ∃ (d a : BitVec 5), ∃ (l p : BitVec 6), ∃ x, p.toNat + (l.toNat + 1) ≤ 64 ∧
      State.take s (uses1 d a) = .ok s' [x] ∧ ¬ MayNotPush d.toNat ((x <<< (63 - p.toNat - l.toNat)) >>> (63 - l.toNat))) ∧
    (∃ s s', ∃ (d a : BitVec 5), ∃ (l p : BitVec 6), ∃ x old, p.toNat + (l.toNat + 1) ≤ 64 ∧ d.toNat < 28 ∧
      State.take s [(a.toNat, false), (d.toNat, false), (d.toNat, true)] = .ok s' [x, old]) :=
  ⟨⟨oneCore .X someCore, _, 29, 1, 64, rfl, by unfold MayNotPush; decide⟩,
   ⟨oneCore .X someCore, _, 30, rfl, by unfold MayNotPush; decide⟩,
   ⟨oneCore .X someCore, _, 4, 1, 31, 32, 64, by decide, rfl, by unfold MayNotPush; decide⟩,
   ⟨oneCore .X someCore, _, 27, 1, 0, 63, 64, 0, by decide, by decide, rfl⟩⟩

/-- A free-mode partition of tiles 0 and 1 (R332), in which task 1 is a member of group 2. -/
def somePart : Part :=
  { tiles := [0, 1], datum := false, enw := [], grants := [0], frameOrg := 0, pendOrg := none,
    groups := [(2, ⟨[1], 0, [], [], []⟩)], sstepAt := none, round := none, origins := [], wanted := [] }

/-- A state with that partition, or the same in datum mode. -/
def inPart (s : State) : State := { s with parts := [(0, somePart)] }
def inDatum (s : State) : State := { s with parts := [(0, { somePart with datum := true })] }

/-- A context whose page 0 is frame 1 of stack 0 (R321, R333). -/
def someCtx : Ctx :=
  { recAddr := 0, qHead := 0, qTail := 0, refused := 0, dxuPage := 0, dxuAck := 0, appDb := 0, dxuWord := 0, acks := [], slotVa := [],
    pages := [(0, 0x4000080000000000)], twins := [], settle := [], frames := []
    cfg := { ebase := 0, fbase := 0x1000000, closure := 65536, quantum := 1, nframes := 2, qlog := 4, mig := 4096, age := 64,
             qbase := 0x800000, cbase := 0x900000, tbase := 0xA00000, tvec := (0, 0, 0), codeHi := (0, 0, 0),
             codeLo := (0, 0, 0), vw := [(0, pageWindow)] } }

/-- A state with that context. -/
def inCtx (s : State) : State := { s with ctxs := [(0, someCtx)] }

/-- A token of type 1 at the head of queue 0, pushed in clock 0. -/
def oneToken : Store Queue := [(0, ⟨[⟨0x10000005, 0, 3, 0⟩], 0, []⟩)]

/-- A core that waits for the reply of a global word. -/
def globCore (gl : Glob) : Core := { someCore with run := .waiting .global, glob := some gl }

theorem witness_AluStops :
    (∃ s p, State.take s (uses2 31 1 2) = .dead p) ∧ (∃ s w, State.take s (uses2 3 28 2) = .waits w) ∧
    aluIllegal (.extr 1 1 63 1) ∧
    (∃ (s s' : State) (vs : List U64) (w : Wait), s.take ([1, 2].map (·, false)) = .ok s' vs ∧
      s.take ([1, 2].map (·, false) ++ [(28, true)]) = .waits w ∧ ¬ MayNotPush 28 (vs.getD 0 0 + vs.getD 1 0)) ∧
    (∃ (s s' : State) (vs : List U64), s.take ([1, 2].map (·, false)) = .ok s' vs ∧
      (28 ≤ 28 → (outQueue s.cur.core (28 - 28)).isSome = true) ∧ MayNotPush 28 (vs.getD 0 0 + vs.getD 1 0)) ∧
    (∃ (s s' : State) (vs : List U64), s.take ([].map (·, false)) = .ok s' vs) ∧ (31#6).toNat + ((32#6).toNat + 1) ≤ 64 :=
  ⟨⟨oneCore .X someCore, 3, rfl⟩, ⟨oneCore .X someCore, .pop 0, rfl⟩, by unfold aluIllegal; decide,
   ⟨oneTile .X (fun t => { t with queues := [(2, ⟨[], 16, []⟩)] }), _, _, .push 2, rfl, rfl, by unfold MayNotPush; decide⟩,
   ⟨oneCore .X { someCore with regs := [(1, 0x50000000)] }, _, _, rfl, fun _ => rfl, by unfold MayNotPush; decide⟩,
   ⟨oneCore .X someCore, _, _, rfl⟩, by decide⟩

theorem witness_RegistersRead :
    (∃ s : State, ∀ u ∈ [(1, false), (27, true)], u.1 < 28 ∧ s.me.pending s.now (.s u.1) = false) ∧
    (∃ s : State, s.me.pending s.now (.s 1) = true) ∧
    (∃ (s : State) (n q : Nat), 28 ≤ n ∧ inQueue s.cur.core (n - 28) = some q ∧ 0 < s.myTile.poppable q s.now) ∧
    (∃ (s : State) (n q : Nat), 28 ≤ n ∧ inQueue s.cur.core (n - 28) = some q ∧ s.myTile.poppable q s.now = 0) ∧
    (∃ (s s' : State), s.take [(28, false)] = .ok s' [0x10000005]) :=
  ⟨⟨oneCore .X someCore, by decide⟩, ⟨oneCore .X { someCore with pend := [⟨[.s 1], 1, 0, none, (1, 1), none⟩] }, by decide⟩,
   ⟨{ oneTile .X (fun t => { t with queues := oneToken }) with now := 1 }, 28, 0, by decide, rfl, by decide⟩,
   ⟨oneTile .X (fun t => { t with queues := oneToken }), 28, 0, by decide, rfl, by decide⟩,
   ⟨{ oneTile .X (fun t => { t with queues := oneToken }) with now := 1 }, _, rfl⟩⟩

theorem witness_BranchResults :
    (∃ (s s' : State) (x y : U64), decide (x.toInt < y.toInt) = true ∧ s.take [(3, false), (2, false)] = .ok s' [x, y]) ∧
    (∃ (s s' : State) (x : U64), s.take [(27, false)] = .ok s' [x]) :=
  ⟨⟨oneCore .S someCore, _, 3, 16, by decide, rfl⟩, ⟨oneCore .L someCore, _, 0, rfl⟩⟩

theorem witness_JumpResults :
    (∃ s s' : State, s.take [(27, true)] = .ok s' []) ∧
    (∃ (s s' : State) (x : U64), s.take [(1, false), (27, true)] = .ok s' [x] ∧ (x + BitVec.ofInt 64 (-4)).toNat % 4 = 0) ∧
    (∃ (s s' : State) (x : U64), s.take [(3, false), (27, true)] = .ok s' [x] ∧ (x + BitVec.ofInt 64 4).toNat % 4 ≠ 0) :=
  ⟨⟨oneCore .X someCore, _, rfl⟩, ⟨oneCore .X someCore, _, 64, rfl, by decide⟩,
   ⟨oneCore .X someCore, _, 3, rfl, by decide⟩⟩

/-- A tile at whose banks one request stands, and what is needed for it to be served alone. -/
def asked (x : Ask) : Tile := { Tile.idle with asks := [x] }

theorem served_alone {t : Tile} {now : Nat} {datum : Bool} {x : Ask} (h : t.asks = [x]) (he : t.eligible x = true)
    (hb : datum = true → x.by_ ≤ now) (hs : t.served = []) (hc : ∀ c, (t.core c).run = .idle ∨ (t.core c).run = .running) :
    ServedAlone t now datum x :=
  ⟨h, he, hb, fun _ => ⟨by simp [hs], fun c l n w e => by rcases hc c with h | h <;> rw [h] at e <;> cases e⟩⟩

theorem witness_ScratchLoads :
    (∃ (s s' : State) (x : U64) (ea : Int), s.take (uses1 4 1) = .ok s' [x] ∧ ea = x.toNat + (-8 : Int) ∧ Reached ea ∧
      ea % 8 = 0) ∧
    (∃ (s s' : State) (x : U64) (ea : Int), s.take (uses1 4 1) = .ok s' [x] ∧ ea = x.toNat + (-128 : Int) ∧ ¬ Reached ea ∧
      ea % 8 = 0) ∧
    (∃ (s s' : State) (x : U64) (ea : Int), s.take (uses1 4 3) = .ok s' [x] ∧ ea = x.toNat + (0 : Int) ∧ ea % 8 ≠ 0) ∧
    (∃ (t : Tile) (x : Ask), ServedAlone t 9 true x ∧ x.act = .load 64 8 false 4 ∧ x.rank = rankScalar .L ∧ Reached 64) ∧
    (∃ (t : Tile) (x : Ask) (k : Token), ServedAlone t 9 false x ∧ x.act = .load 64 8 false 28 ∧ x.rank = rankScalar .L ∧
      (t.queue 0).toks = [k] ∧ k.rank = 3 ∧ k.issued = x.since ∧ pusher 0 = .L) :=
  ⟨⟨oneCore .X someCore, _, 64, 56, rfl, by decide, by unfold Reached; decide, by decide⟩,
   ⟨oneCore .X someCore, _, 64, -64, rfl, by decide, by unfold Reached; decide, by decide⟩,
   ⟨oneCore .X someCore, _, 3, 3, rfl, by decide, by decide⟩,
   ⟨asked ⟨6, rankScalar .L, 1, 0, .load 64 8 false 4, 9, 0⟩, _,
    served_alone rfl (by decide) (by decide) rfl (fun c => by cases c <;> exact .inl rfl), rfl, rfl, by unfold Reached; decide⟩,
   ⟨{ asked ⟨6, rankScalar .L, 1, 0, .load 64 8 false 28, 9, 0⟩ with queues := [(0, ⟨[⟨0, 9, 3, 6⟩], 0, []⟩)] }, _, ⟨0, 9, 3, 6⟩,
    served_alone rfl (by decide) (by decide) rfl (fun c => by cases c <;> exact .inl rfl), rfl, rfl, rfl, rfl, rfl, rfl⟩⟩

theorem witness_ScratchStores :
    (∃ (s s' : State) (x v : U64) (ea : Int), s.take [(1, false), (2, false)] = .ok s' [x, v] ∧
      ea = x.toNat + (0 : Int) ∧ Reached ea ∧ ea % 8 = 0) ∧
    (∃ (s s' : State) (x v : U64) (ea : Int), s.take [(3, false), (2, false)] = .ok s' [x, v] ∧
      ea = x.toNat + (0 : Int) ∧ ea % 2 ≠ 0) ∧
    (∃ (t : Tile) (x : Ask), ServedAlone t 9 false x ∧ x.act = .put [(327352, List.replicate 8 1)] ∧ x.rank = rankScalar .S ∧
      Reached 327352) :=
  ⟨⟨oneCore .X { someCore with regs := [(1, 327352)] }, _, 327352, 0, 327352, rfl, by decide, by unfold Reached; decide,
    by decide⟩,
   ⟨oneCore .X someCore, _, 3, 16, 3, rfl, by decide, by decide⟩,
   ⟨asked ⟨9, rankScalar .S, 5114, 0, .put [(327352, List.replicate 8 1)], 12, 0⟩, _,
    served_alone rfl (by decide) (by decide) rfl (fun c => by cases c <;> exact .inl rfl), rfl, rfl,
    by unfold Reached; decide⟩⟩

theorem witness_GlobalWords :
    (∃ (s s' : State) (x : U64), s.take [(3, false), (4, true)] = .ok s' [x] ∧ (x + BitVec.ofInt 64 0).toNat % 8 ≠ 0) ∧
    (∃ (s s' : State) (x : U64), s.take [(1, false), (4, true)] = .ok s' [x] ∧ x.toNat % 8 = 0 ∧
      s.translate s.cur.tile s.myTile.task.windows x.toNat .read = .error 0x05) ∧
    (∃ (s s' : State) (x v : U64) (c : Ctx), s.awaitsCredit s.cur.tile 64 = false ∧ s.take [(1, false), (2, false)] = .ok s' [x, v] ∧ x.toNat % 8 = 0 ∧
      s.translate s.cur.tile s.myTile.task.windows x.toNat .write = .ok (64, false) ∧ regionOf 64 = 0 ∧
      s.ctx s.myTile.task.ctx = some c ∧ c.place s.myTile.task.twins 64 = .hbm (2 ^ 21 + 64) ∧
      s.twinGroup s.myTile.task.ctx 64 = none ∧ bitsAt (Store.get 0 c.pages (pageOf 64)).toNat 60 2 = dieOf s.cur.tile) ∧
    (∃ (s s' : State) (x v : U64), s.datumTile s.cur.tile = true ∧ s.awaitsCredit s.cur.tile 64 = false ∧
      s.take [(1, false), (2, false)] = .ok s' [x, v] ∧ x.toNat % 8 = 0 ∧
      s.translate s.cur.tile s.myTile.task.windows x.toNat .write = .ok (64, false) ∧ regionOf 64 = 0) :=
  ⟨⟨oneCore .X someCore, _, 3, rfl, by decide⟩,
   ⟨oneCore .X { someCore with regs := [(1, 0xFFFFFFFFFFFFFFF8)] }, _, 0xFFFFFFFFFFFFFFF8, rfl, by decide, error_of (by decide +kernel)⟩,
   ⟨inCtx (oneCore .X someCore), _, 64, 16, someCtx, by decide, rfl, by decide, ok_of (by decide +kernel), by decide, rfl, by decide, rfl, by decide⟩,
   ⟨inDatum (inCtx (oneCore .X someCore)), _, 64, 16, by decide, by decide, rfl, by decide, ok_of (by decide +kernel), by decide⟩⟩

theorem witness_GlobalCompletion :
    (∀ d ∈ [4, 29], ∃ (s : State) (gl : Glob), (s.core ⟨0, .X⟩).glob = some gl ∧ gl.due ≤ s.now ∧
      (s.tile 0).task.ending = none ∧ gl.reply = .done 5 ∧ gl.write = none ∧ gl.d = d ∧ gl.kind = 2) ∧
    (outQueue .X (29 - 28) = some 3 ∧ (5#64).toNat / 2 ^ 28 % 16 < 5) ∧
    (∃ (s : State) (gl : Glob), (s.core ⟨0, .X⟩).glob = some gl ∧ gl.due ≤ s.now ∧ (s.tile 0).task.ending = none ∧
      gl.reply = .done 0x50000000 ∧ gl.write = none ∧ gl.d = 31 ∧ gl.kind = 2 ∧ 5 ≤ (0x50000000#64).toNat / 2 ^ 28 % 16) ∧
    (∃ (s : State) (gl : Glob) (bs : List Byte) (x : Ctx), (s.core ⟨0, .X⟩).glob = some gl ∧ gl.due ≤ s.now ∧
      (s.tile 0).task.ending = none ∧ gl.write = some (64, false, bs) ∧ 3 ≤ gl.kind ∧ regionOf 64 = 0 ∧
      s.datumTile 0 = true ∧ s.ctx (s.tile 0).task.ctx = some x ∧
      x.place (s.tile 0).task.twins 64 = .hbm (2 ^ 21 + 64) ∧ s.twinGroup (s.tile 0).task.ctx 64 = none) ∧
    (∃ (s : State) (gl : Glob), (s.core ⟨0, .X⟩).glob = some gl ∧ gl.due ≤ s.now ∧ (s.tile 0).task.ending = none ∧
      gl.reply = .fault 0x14 ∧ gl.write = none ∧ gl.undo = [] ∧ (gl.kind ≤ 2 → gl.d < 28) ∧ (s.core ⟨0, .X⟩).priv = 0) ∧
    (∃ (s u : State) (gl : Glob), (s.core ⟨0, .X⟩).glob = some gl ∧ gl.due ≤ s.now ∧ (s.tile 0).task.ending = none ∧
      gl.reply = .fault 0x07 ∧ gl.write = none ∧ u = s.setTile 0 ((s.tile 0).giveBack .X gl) ∧ (s.core ⟨0, .X⟩).priv = 0 ∧
      s.datumTile 0 = false ∧ u.frameToGive 0 = true ∧ gl.undo = [(0, 9)] ∧ (gl.kind ≤ 2 → gl.d < 28)) ∧
    (∃ (s : State) (gl : Glob), (s.core ⟨0, .X⟩).glob = some gl ∧ s.now < gl.due) ∧
    (∃ (s : State) (gl : Glob), (s.core ⟨0, .X⟩).glob = some gl ∧ gl.reply = .pending ∧ gl.write = none ∧
      s.datumTile 0 = false) :=
  ⟨fun d h => by
    simp only [List.mem_cons, List.not_mem_nil, or_false] at h
    rcases h with rfl | rfl <;> exact ⟨oneCore .X (globCore ⟨2, _, 64, .done 5, 0, 0, [], none⟩), _, rfl, by decide, rfl, rfl, rfl,
      rfl, rfl⟩,
   by decide,
   ⟨oneCore .X (globCore ⟨2, 31, 64, .done 0x50000000, 0, 0, [], none⟩), _, rfl, by decide, rfl, rfl, rfl, rfl, rfl, by decide⟩,
   ⟨inDatum (inCtx (oneCore .X (globCore ⟨4, 2, 64, .done 0, 0, 0, [], some (64, false, List.replicate 8 1)⟩))), _, _, someCtx, rfl,
    by decide, rfl, rfl, by decide, by decide, by decide, rfl, by decide, rfl⟩,
   ⟨oneCore .X (globCore ⟨0, 4, 64, .fault 0x14, 0, 0, [], none⟩), _, rfl, by decide, rfl, rfl, rfl, rfl, by decide, rfl⟩,
   ⟨inCtx (oneCore .X (globCore ⟨0, 4, 64, .fault 0x07, 0, 0, [(0, 9)], none⟩)), _, _, rfl, by decide, rfl, rfl, rfl, rfl, rfl, rfl,
    by decide, rfl, by decide⟩,
   ⟨oneCore .X (globCore ⟨3, 4, 64, .pending, 7, 0, [], none⟩), _, rfl, by decide⟩,
   ⟨oneCore .X (globCore ⟨3, 4, 64, .pending, 0, 0, [], none⟩), _, rfl, rfl, rfl, rfl⟩⟩

theorem witness_CsrResults :
    (∃ (s s' : State) (r : CsrRow), csrRow 1 = some r ∧ r.readAt ≤ s.me.priv.toNat ∧ s.take (uses0 4) = .ok s' [] ∧
      ¬ MayNotPush 4 (BitVec.ofNat 64 (s.readCsr s.cur 1))) ∧
    (∃ (s s' : State) (r : CsrRow), csrRow 0 = some r ∧ r.readAt ≤ s.me.priv.toNat ∧ s.me.pending s.now .fflags = false ∧
      s.myTile.mopen = [] ∧ s.take (uses0 4) = .ok s' []) ∧
    (∃ (s s' : State) (r : CsrRow) (x : U64), csrRow 0x90 = some r ∧ r.writeAt = some 2 ∧ 2 ≤ s.me.priv.toNat ∧
      (∃ p pt, InPart s s.cur.tile p pt) ∧ s.take (uses1 0 1) = .ok s' [x]) ∧
    (∃ (s s' : State) (r : CsrRow) (x : U64), csrRow 0x31 = some r ∧ r.writeAt = some 2 ∧ 2 ≤ s.me.priv.toNat ∧
      s.take (uses1 0 1) = .ok s' [x] ∧ x.toNat < 2 ^ 32) ∧
    (∃ s : State, s.me.pending s.now .fflags = true) :=
  ⟨⟨oneCore .X someCore, _, _, rfl, by decide, rfl, by unfold MayNotPush; decide⟩,
   ⟨oneCore .X someCore, _, _, rfl, by decide, by decide, rfl, rfl⟩,
   ⟨inPart (oneCore .X { someCore with priv := 2 }), _, _, 64, rfl, by decide, by decide,
    ⟨0, somePart, rfl, by decide⟩, rfl⟩,
   ⟨inPart (oneCore .X { someCore with priv := 2 }), _, _, 64, rfl, by decide, by decide, rfl, by decide⟩,
   ⟨oneCore .X { someCore with pend := [⟨[.fflags], 1, 0, none, (1, 1), none⟩] }, by decide⟩⟩

theorem witness_CsrStops :
    csrRow 0x3FFF = none ∧ (∃ (s : State) (r : CsrRow), csrRow 0x90 = some r ∧ s.me.priv.toNat < r.readAt) ∧
    (∃ r : CsrRow, csrRow 0x10 = some r ∧ r.writeAt = none) ∧
    (∃ (s : State) (r : CsrRow) (l : Nat), csrRow 0x31 = some r ∧ r.writeAt = some l ∧ s.me.priv.toNat < l) ∧
    (csrIsWalk 0x100 = true ∧ (oneCore .L someCore).cur.core ≠ .X) ∧
    (∃ (s s' : State) (x : U64), s.take (uses1 0 1) = .ok s' [x] ∧ 6 ≤ ((s.me.frm.setWidth 64 : U64) ||| x).toNat % 8) :=
  ⟨rfl, ⟨oneCore .X someCore, _, rfl, by decide⟩, ⟨_, rfl, rfl⟩, ⟨oneCore .X someCore, _, _, rfl, rfl, by decide⟩,
   by decide, ⟨oneCore .X { someCore with regs := [(1, 2)], frm := 4 }, _, 2, rfl, by decide⟩⟩

/-- A state after clock 0 whose tile holds one token in queue 0. -/
def withToken : State := { oneTile .X (fun t => { t with queues := oneToken }) with now := 1 }

theorem witness_TokenResults :
    (∃ (s s' : State), inQueue s.cur.core 0 = some 0 ∧ 0 < s.myTile.poppable 0 s.now ∧
      s.take [(28, false), (3, true)] = .ok s' [0x10000005] ∧ ¬ MayNotPush 3 0x10000005 ∧
      (s.myTile.queue 0).head.toNat / 2 ^ 28 = 1) ∧
    (∃ s : State, inQueue s.cur.core 0 = some 0 ∧ 0 < s.myTile.poppable 0 s.now ∧
      (s.myTile.queue 0).head.toNat / 2 ^ 28 ≠ 2) ∧
    (∃ (s s' : State) (x : U64), s.take [(1, false), (29, true)] = .ok s' [x] ∧ x.toNat / 2 ^ 28 % 16 < 5) ∧
    (∃ (s s' : State), inQueue s.cur.core 0 = some 0 ∧ s.take (uses0 3) = .ok s' [] ∧
      s.myTile.poppable 0 s.now = 0) ∧
    (∃ (s s' : State), outQueue s.cur.core 1 = some 3 ∧ s.take (uses0 3) = .ok s' [] ∧ (s.myTile.queue 3).places s.now = 16) ∧
    (∃ (t : Tile) (k : Token) (x : Ask), (t.queue 0).toks = [k] ∧ k.rank = 3 ∧ x ∈ t.asks ∧ askCore x.rank = some (pusher 0) ∧
      x.since < k.issued) :=
  ⟨⟨withToken, _, rfl, by decide, rfl, by unfold MayNotPush; decide, by decide⟩, ⟨withToken, rfl, by decide, by decide⟩,
   ⟨oneCore .X someCore, _, 64, rfl, by decide⟩, ⟨oneCore .X someCore, _, rfl, rfl, rfl⟩, ⟨oneCore .X someCore, _, rfl, rfl, rfl⟩,
   ⟨{ Tile.idle with queues := [(0, ⟨[⟨5, 1, 3, 1⟩], 0, []⟩)], asks := [⟨0, rankScalar .L, 3, 0, .look, 3, 0⟩] }, _, _, rfl, rfl,
    List.mem_singleton.2 rfl, rfl, by decide⟩⟩

theorem witness_ForkStarts :
    (∃ (s s' : State) (x y : U64), s.cur.core = .X ∧ s.take [(1, false), (2, false)] = .ok s' [x, y] ∧
      s.myTile.l.run = .idle ∧ s.myTile.s.run = .idle ∧ x.toNat % 4 = 0 ∧ y.toNat % 4 = 0) ∧
    (∃ (s s' : State) (x : U64), s.cur.core = .X ∧ s.take [(3, false)] = .ok s' [x] ∧ s.myTile.l.run = .idle ∧ x.toNat % 4 ≠ 0) ∧
    (∃ (s s' : State) (x : U64), s.cur.core = .X ∧ s.take [(1, false)] = .ok s' [x] ∧ s.myTile.l.run ≠ .idle) ∧
    (∃ (s : State) (w : Who) (rest : List Who) (c : Nat), s.agenda = [] ∧ s.turn = w :: rest ∧ s.powered = true ∧
      (s.core w).run = .running ∧ (s.core w).forked = some c ∧ (s.tile w.tile).performed .X c = false) ∧
    (oneCore .L someCore).cur.core ≠ .X :=
  ⟨⟨oneCore .X someCore, _, 64, 16, rfl, rfl, rfl, rfl, by decide, by decide⟩,
   ⟨oneCore .X someCore, _, 3, rfl, rfl, rfl, by decide⟩,
   ⟨oneTile .X (fun t => { t with l := someCore }), _, 64, rfl, rfl, by decide⟩,
   ⟨{ oneTile .L (fun t => { t with l := { someCore with forked := some 9 }, asks := [⟨8, rankScalar .X, 1, 0, .look, 11, 0⟩] }) with
      turn := [⟨0, .L⟩], agenda := [] }, ⟨0, .L⟩, [], 9, rfl, rfl, rfl, rfl, rfl, by decide⟩, by decide⟩

theorem witness_RendezvousAndHalt :
    (∃ s : State, s.cur.core = .X ∧ s.delivers = false ∧ s.myTile.met = true) ∧
    (∃ s : State, s.cur.core = .X ∧ s.delivers = false ∧ s.myTile.met = false) ∧
    (∃ s : State, s.cur.core ≠ .X ∧ s.delivers = false) ∧ (∃ s : State, s.delivers = true) ∧
    (∃ s : State, s.myTile.task.abortMark = true ∧ s.delivers = false) :=
  ⟨⟨oneCore .X someCore, by decide⟩, ⟨oneTile .X (fun t => { t with s := someCore }), by decide⟩,
   ⟨oneCore .L someCore, by decide⟩,
   ⟨oneTile .X (fun t => { t with task := { someTask with abortMark := true } }), by decide⟩,
   ⟨oneTile .X (fun t => { t with task := { someTask with abortMark := true }, struck := some 0 }), rfl, by decide⟩⟩

/-- In free mode the only request of a bank is granted. -/
theorem bank_serves {s : State} {ea : Int} {wr : Bool} (hd : s.datumTile s.cur.tile = false)
    (hg : s.myTile.grants s.now (s.coreAsk ea wr) = true) : BankServes s ea wr :=
  fun _ => ⟨fun _ => hg, fun h => by rw [hd] at h; cases h⟩

/-- In datum mode a request that no range lock holds is served, where no word of the X-core has yet to write its line. -/
theorem bank_timely {s : State} {ea : Int} {wr : Bool} (hd : s.datumTile s.cur.tile = true)
    (hl : s.myTile.lockHeld (s.coreAsk ea wr) = false) (hu : s.myTile.unwritten s.now (ea / 64) = false) : BankServes s ea wr :=
  fun _ => ⟨fun h => (by rw [hd] at h; cases h), fun _ => ⟨hl, fun _ => hu⟩⟩

theorem witness_BarrierWords :
    (∃ (s s' : State) (x v : U64), s.take [(1, false), (2, false)] = .ok s' [x, v] ∧ x.toNat % 16 = 0 ∧
      v.toNat / 2 ^ 56 = 0) ∧
    (∃ (s s' : State) (x v : U64), s.take [(1, false), (2, false)] = .ok s' [x, v] ∧ x.toNat % 16 = 0 ∧
      v.toNat / 2 ^ 56 ≠ 0) ∧
    (∃ (s s' : State) (x v : U64), s.take [(3, false), (2, false)] = .ok s' [x, v] ∧ x.toNat % 16 ≠ 0) ∧
    (∃ (s s' : State) (x : U64), s.take [(1, false)] = .ok s' [x] ∧ x.toNat % 16 = 0 ∧ Reached x.toNat) ∧
    (∃ (t : Tile) (x : Ask), x.rank = rankScalar .X ∧ Reached 64 ∧ ServedAlone t 9 false x ∧ x.act = .init 64 5) ∧
    (∃ (t : Tile) (x : Ask), x.rank = rankScalar .X ∧ Reached 64 ∧ ServedAlone t 9 true x ∧ x.act = .lower 64 2 ∧
      Store.find t.barUpds 64 = none) ∧
    (∃ (t : Tile) (x : Ask), x.rank = rankScalar .X ∧ t.asks = [x] ∧ t.performed .X x.since = false ∧ x.act = .lower 64 2 ∧
      Store.find t.barUpds 64 = none) ∧
    (∃ (s s' : State) (x old : U64), s.take [(1, false), (3, false), (3, true)] = .ok s' [x, old] ∧ x.toNat % 16 = 0 ∧
      Reached x.toNat ∧ BankServes s x.toNat false ∧ Memory.num (s.found 64).scratch 64 16 / 2 ^ 124 ≠ old.toNat % 16) ∧
    (∃ (s s' : State) (x old : U64), s.take [(1, false), (4, false), (4, true)] = .ok s' [x, old] ∧ x.toNat % 16 = 0 ∧
      BankServes s x.toNat false ∧ Memory.num (s.found 64).scratch 64 16 / 2 ^ 124 = old.toNat % 16 ∧
      s.datumTile s.cur.tile = false) ∧
    (∃ (s s' : State) (x old : U64), s.take [(1, false), (4, false), (4, true)] = .ok s' [x, old] ∧ x.toNat % 16 = 0 ∧
      BankServes s x.toNat false ∧ Memory.num (s.found 64).scratch 64 16 / 2 ^ 124 = old.toNat % 16 ∧
      s.datumTile s.cur.tile = true ∧ s.me.priv.toNat < 2) ∧
    (∃ (s s' : State) (x old : U64), s.take [(1, false), (4, false), (4, true)] = .ok s' [x, old] ∧ x.toNat % 16 = 0 ∧
      BankServes s x.toNat false ∧ s.datumTile s.cur.tile = true ∧ Memory.num s.myTile.scratch 64 16 / 2 ^ 124 = old.toNat % 16 ∧
      Memory.num (s.found 64).scratch 64 16 / 2 ^ 124 ≠ old.toNat % 16) ∧
    (∃ s : State, Reached 64 ∧ s.datumTile s.cur.tile = false ∧ s.myTile.grants s.now (s.coreAsk 64 false) = false) :=
  ⟨⟨oneCore .X someCore, _, 64, 16, rfl, by decide, by decide⟩,
   ⟨oneCore .X { someCore with regs := [(1, 64), (2, 0x100000000000000)] }, _, 64, 0x100000000000000, rfl, by decide, by decide⟩,
   ⟨oneCore .X someCore, _, 3, 16, rfl, by decide⟩,
   ⟨oneCore .X someCore, _, 64, rfl, by decide, by unfold Reached; decide⟩,
   ⟨asked ⟨9, rankScalar .X, 1, 0, .init 64 5, 12, 0⟩, _, rfl, by unfold Reached; decide,
    served_alone rfl (by decide) (by decide) rfl (fun c => by cases c <;> exact .inl rfl), rfl⟩,
   ⟨asked ⟨6, rankScalar .X, 1, 0, .lower 64 2, 9, 0⟩, _, rfl, by unfold Reached; decide,
    served_alone rfl (by decide) (by decide) rfl (fun c => by cases c <;> exact .inl rfl), rfl, rfl⟩,
   ⟨{ asked ⟨9, rankScalar .X, 1, 0, .lower 64 2, 12, 0⟩ with vjobs :=
        [⟨8, .nop, ⟨[], [], [], [], 0, 0, false, []⟩, [], [7], [], [], [0], 8, none, [], none⟩] }, _, rfl, rfl, by decide, rfl, rfl⟩,
   ⟨oneCore .X someCore, _, 64, 3, rfl, by decide, by unfold Reached; decide, bank_serves (by decide) (by decide +kernel),
    by decide⟩,
   ⟨oneCore .X someCore, _, 64, 0, rfl, by decide, bank_serves (by decide) (by decide +kernel), by decide, rfl⟩,
   ⟨inDatum (oneCore .X someCore), _, 64, 0, rfl, by decide, bank_timely (by decide) (by decide +kernel) (by decide +kernel), by decide, by decide,
    by decide⟩,
   ⟨inDatum (oneTile .X fun t => { t with asks := [⟨0, rankScalar .X, 1, 0, .put [(64, leBytes 16 (2 ^ 124))], 3, 0⟩] }), _, 64, 0,
    rfl, by decide, bank_timely (by decide) (by decide +kernel) (by decide +kernel), by decide, by decide +kernel,
    by decide +kernel⟩,
   ⟨oneTile .X (fun t => { t with served := [1] }), by unfold Reached; decide, by decide, by decide +kernel⟩⟩

/-- A tile whose cell at byte 64 is full and holds 7 (R218). -/
def fullCell : State := oneTile .X fun t => { t with scratch := [(64, 7), (72, 1)] }

/-- That tile with a request at the cell's bank that empties it, and an empty one with a request that fills it with 7. -/
def emptying : State := oneTile .X fun t =>
  { t with scratch := [(72, 1)], asks := [⟨0, rankScalar .X, 1, 0, .put [(72, [0])], 3, 0⟩] }
def filling : State := oneTile .X fun t =>
  { t with asks := [⟨0, rankScalar .X, 1, 0, .put [(64, leBytes 16 (2 ^ 64 + 7))], 3, 0⟩] }

/-- The tile with a vector word of clock 0 that has yet to write line 7. -/
def unwritten (t : Tile) : Tile :=
  { t with vjobs := [⟨0, .nop, ⟨[], [], [], [], 0, 0, false, []⟩, [], [7], [], [], [0], 8, none, [], none⟩] }

theorem witness_FutureCells :
    (∃ (s s' : State) (x v : U64), s.take [(1, false), (2, false)] = .ok s' [x, v] ∧ x.toNat % 16 = 0 ∧
      BankServes s x.toNat true ∧ s.myTile.writesDone s.cur.core s.now = true ∧ s.follows 64 = false ∧ Reached x.toNat ∧
      Memory.num (s.found 64).scratch 72 8 % 2 = 0) ∧
    (∃ (s s' : State) (x v : U64), s.take [(1, false), (2, false)] = .ok s' [x, v] ∧ x.toNat % 16 = 0 ∧ Reached x.toNat ∧
      BankServes s x.toNat true ∧ s.datumTile s.cur.tile = true ∧ s.myTile.writesDone s.cur.core s.now = false ∧
      Memory.num (s.found 64).scratch 72 8 % 2 = 0) ∧
    (∃ (s s' : State) (x v : U64), s.take [(1, false), (2, false)] = .ok s' [x, v] ∧ x.toNat % 16 = 0 ∧ Reached x.toNat ∧
      BankServes s x.toNat true ∧ s.datumTile s.cur.tile = true ∧ s.follows 64 = true ∧
      Memory.num (s.found 64).scratch 72 8 % 2 = 0) ∧
    (∃ (s s' : State) (x v : U64), s.take [(1, false), (2, false)] = .ok s' [x, v] ∧ x.toNat % 16 = 0 ∧ Reached x.toNat ∧
      s.datumTile s.cur.tile = false ∧ s.myTile.writesDone s.cur.core s.now = false) ∧
    (∃ (s s' : State) (x v : U64), s.take [(1, false), (2, false)] = .ok s' [x, v] ∧ x.toNat % 16 = 0 ∧
      BankServes s x.toNat true ∧ s.myTile.writesDone s.cur.core s.now = true ∧ Reached x.toNat ∧
      Memory.num (s.found 64).scratch 72 8 % 2 = 1 ∧ s.datumTile s.cur.tile = false) ∧
    (∃ (s s' : State) (x v : U64), s.take [(1, false), (2, false)] = .ok s' [x, v] ∧ x.toNat % 16 = 0 ∧
      BankServes s x.toNat true ∧ Reached x.toNat ∧ Memory.num (s.found 64).scratch 72 8 % 2 = 1 ∧
      s.datumTile s.cur.tile = true ∧ s.me.priv.toNat < 2) ∧
    (∃ (s s' : State) (x v : U64), s.take (uses1 4 1) = .ok s' [x] ∧ x.toNat % 16 = 0 ∧ BankServes s x.toNat true ∧
      Reached x.toNat ∧ Memory.num (s.found 64).scratch 72 8 % 2 = 1 ∧ v = BitVec.ofNat 64 (Memory.num (s.found 64).scratch 64 8) ∧
      ¬ MayNotPush 4 v ∧ s.follows 64 = false) ∧
    (∃ (s s' : State) (x v : U64), s.take (uses1 4 1) = .ok s' [x] ∧ x.toNat % 16 = 0 ∧ BankServes s x.toNat true ∧
      Reached x.toNat ∧ Memory.num (s.found 64).scratch 72 8 % 2 = 1 ∧ v = BitVec.ofNat 64 (Memory.num (s.found 64).scratch 64 8) ∧
      ¬ MayNotPush 4 v ∧ s.follows 64 = true) ∧
    (∃ (s s' : State) (x : U64), s.take (uses1 4 1) = .ok s' [x] ∧ x.toNat % 16 = 0 ∧ ¬ Reached x.toNat) ∧
    (∃ (s s' : State) (x : U64), s.take (uses1 4 3) = .ok s' [x] ∧ x.toNat % 16 ≠ 0) :=
  ⟨⟨oneCore .X someCore, _, 64, 16, rfl, by decide, bank_serves (by decide) (by decide +kernel), by decide, by decide,
     by unfold Reached; decide, by decide⟩,
   ⟨inDatum (oneTile .X unwritten), _, 64, 16, rfl, by decide, by unfold Reached; decide,
    bank_timely (by decide) (by decide +kernel) (by decide +kernel), by decide, by decide, by decide⟩,
   ⟨inDatum emptying, _, 64, 16, rfl, by decide, by unfold Reached; decide,
    bank_timely (by decide) (by decide +kernel) (by decide +kernel), by decide, by decide +kernel, by decide +kernel⟩,
   ⟨oneTile .X unwritten, _, 64, 16, rfl, by decide, by unfold Reached; decide, by decide, by decide⟩,
   ⟨fullCell, _, 64, 16, rfl, by decide, bank_serves (by decide) (by decide +kernel), by decide, by unfold Reached; decide,
    by decide, rfl⟩,
   ⟨inDatum fullCell, _, 64, 16, rfl, by decide, bank_timely (by decide) (by decide +kernel) (by decide +kernel), by unfold Reached; decide,
    by decide, by decide, by decide⟩,
   ⟨fullCell, _, 64, 7, rfl, by decide, bank_serves (by decide) (by decide +kernel), by unfold Reached; decide, by decide,
    by decide, by unfold MayNotPush; decide, by decide⟩,
   ⟨inDatum filling, _, 64, 7, rfl, by decide, bank_timely (by decide) (by decide +kernel) (by decide +kernel),
    by unfold Reached; decide, by decide +kernel, by decide +kernel, by unfold MayNotPush; decide, by decide⟩,
   ⟨oneCore .X { someCore with regs := [(1, 327360)] }, _, 327360, rfl, by decide, by unfold Reached; decide⟩,
   ⟨oneCore .X someCore, _, 3, rfl, by decide⟩⟩

theorem witness_GroupMembership :
    (∃ s s' : State, s.take (uses0 4) = .ok s' [] ∧ ∀ c, s.me.run ≠ .waiting (.hub c)) ∧
    (∃ s s' : State, s.take (uses0 4) = .ok s' [] ∧ s.me.run = .waiting (.hub 96) ∧ s.now < 96) ∧
    (∃ (s s' : State) (pt : Part), InPart s s.cur.tile 0 pt ∧ s.take (uses0 4) = .ok s' [] ∧
      s.me.run = .waiting (.hub 0) ∧ 0 ≤ s.now ∧ Store.find pt.groups 5 = none ∧
      (∃ gr, Store.find pt.groups 2 = some gr ∧ s.myTile.task.uid ∈ gr.members ∧ gr.members.Nodup) ∧
      ¬ MayNotPush 4 (BitVec.ofNat 64 1)) :=
  ⟨⟨oneCore .X someCore, _, rfl, nofun⟩, ⟨oneCore .X { someCore with run := .waiting (.hub 96) }, _, rfl, rfl, by decide⟩,
   ⟨inPart (oneCore .X { someCore with run := .waiting (.hub 0) }), _, somePart, ⟨rfl, by decide⟩, rfl, rfl, by decide, rfl,
    ⟨_, rfl, by decide, by decide⟩, by unfold MayNotPush; decide⟩⟩

/-- The core of `somePart`'s member that waits in GBAR 2 for generation 1. -/
def atGbar : Core := { someCore with run := .waiting (.gbar 2 1) }

/-- The partition whose group 2 is about to be released. -/
def releasing : Part := { somePart with groups := [(2, ⟨[1], 0, [(1, 1)], [], [0]⟩)] }

theorem witness_GroupBarrier :
    (∃ (s : State) (pt : Part) (gr : Group), InPart s s.cur.tile 0 pt ∧ Store.find pt.groups 2 = some gr ∧
      s.myTile.task.uid ∈ gr.members ∧ s.delivers = false ∧ s.nextGeneration s.cur 2 gr ≤ gr.done) ∧
    (∃ (s : State) (pt : Part) (gr : Group), InPart s s.cur.tile 0 pt ∧ Store.find pt.groups 2 = some gr ∧
      s.myTile.task.uid ∈ gr.members ∧ s.delivers = false ∧ gr.done < s.nextGeneration s.cur 2 gr ∧
      s.myTile.accessesDone s.cur.core s.now = false) ∧
    (∃ (s : State) (pt : Part) (gr : Group), InPart s s.cur.tile 0 pt ∧ Store.find pt.groups 2 = some gr ∧
      s.myTile.task.uid ∈ gr.members ∧ s.delivers = false ∧ s.nextGeneration s.cur 2 gr = gr.done + 1 ∧ gr.release = [] ∧
      s.myTile.accessesDone s.cur.core s.now = true ∧ ∀ u ∈ gr.members, u = s.myTile.task.uid) ∧
    (∃ (s : State) (pt : Part) (gr : Group), InPart s s.cur.tile 0 pt ∧ Store.find pt.groups 2 = some gr ∧
      s.myTile.task.uid ∈ gr.members ∧ s.delivers = false ∧ gr.done < s.nextGeneration s.cur 2 gr ∧
      s.myTile.accessesDone s.cur.core s.now = true ∧ 7 ∈ gr.members ∧ 7 ≠ s.myTile.task.uid ∧
      Store.get 0 gr.base 7 < gr.done + 1 ∧ (7, gr.done + 1) ∉ gr.arrived ∧ gr.release = []) ∧
    (∃ s : State, s.isMember s.cur.tile 3 = false) ∧
    (∃ (s : State) (pt : Part) (gr : Group), Store.find s.parts 0 = some pt ∧ Store.find pt.groups 2 = some gr ∧
      pt.tiles.Nodup ∧ gr.release = [0] ∧ 0 ≤ s.now ∧ 0 ∈ pt.tiles ∧ (s.tile 0).task.uid ∈ gr.members ∧
      (s.tile 0).task.abortMark = false ∧ (s.core ⟨0, .X⟩).run = .waiting (.gbar 2 (gr.done + 1))) :=
  ⟨⟨{ oneCore .X someCore with parts := [(0, { somePart with groups := [(2, ⟨[1], 1, [], [], []⟩)] })] }, _, _, ⟨rfl, by decide⟩,
    rfl, by decide, by decide, by decide⟩,
   ⟨inPart (oneTile .X unwritten), somePart, _, ⟨rfl, by decide⟩, rfl, by decide, by decide, by decide, by decide⟩,
   ⟨inPart (oneCore .X someCore), somePart, _, ⟨rfl, by decide⟩, rfl, by decide, by decide, by decide, rfl, by decide, by decide⟩,
   ⟨{ oneCore .X someCore with parts := [(0, { somePart with groups := [(2, ⟨[1, 7], 0, [], [], []⟩)] })] }, _, _,
    ⟨rfl, by decide⟩, rfl, by decide, by decide, by decide, by decide, by decide, by decide, by decide, by decide, rfl⟩,
   ⟨inPart (oneCore .X someCore), by decide⟩,
   ⟨{ oneCore .X atGbar with parts := [(0, releasing)] }, releasing, _, rfl, rfl, by decide, rfl, by decide, by decide, by decide,
    rfl, rfl⟩⟩

theorem witness_GroupAbort :
    (∃ (s s' : State) (pt : Part), s.take [(4, false)] = .ok s' [2] ∧ s.partOf s.cur.tile = some (0, pt) ∧
      s.isMember s.cur.tile 2 = true) ∧
    (∃ (s s' : State) (x : U64) (pt : Part), s.take [(1, false)] = .ok s' [x] ∧ s.partOf s.cur.tile = some (0, pt) ∧
      16 ≤ x.toNat) ∧
    (∃ (s : State) (pt : Part) (gr : Group), s.aborts = [(0, 0, 2)] ∧ 0 ≤ s.now ∧ Store.find s.parts 0 = some pt ∧
      Store.find pt.groups 2 = some gr ∧ 0 ∈ pt.tiles ∧ 5 ∉ pt.tiles ∧ (s.tile 0).task.live = true ∧
      (s.tile 0).task.uid ∈ gr.members ∧ ∃ v, Store.find s.saved 9 = some v ∧ v.tile.task.live = true ∧
        v.tile.task.uid ∈ gr.members) ∧
    (∃ s : State, s.myTile.task.abortMark = false) ∧
    (∃ s : State, s.myTile.task.abortMark = true ∧ s.strikes s.cur.tile = false) :=
  ⟨⟨inPart (oneCore .X { someCore with regs := [(4, 2)] }), _, somePart, rfl, rfl, by decide⟩,
   ⟨inPart (oneCore .X someCore), _, 64, somePart, rfl, rfl, by decide⟩,
   ⟨{ inPart (oneCore .X someCore) with
      aborts := [(0, 0, 2)], saved := [(9, ⟨{ Tile.idle with task := someTask }, 0, 0, 0, 1, none, true, none, 1⟩)] }, somePart, _,
    rfl, by decide, rfl, rfl, by decide, by decide, rfl, by decide, _, rfl, rfl, by decide⟩,
   ⟨oneCore .X someCore, rfl⟩, ⟨oneTile .X (fun t => { t with task := { someTask with abortMark := true } }), rfl, by decide⟩⟩

/-- A set ring of four slots of two lines, whose head slot is full and whose tail slot is empty. -/
def someRing : Ring := ⟨true, 8, 4, 2, 0x1FFF, 0, 1, [(0, .full)], []⟩
/-- A ring's image at byte 64. -/
def someImage : Memory := [(64, 8), (68, 4), (72, 2), (78, 0xFF), (79, 0x1F)]
/-- The same with a full tail slot and an empty head slot. -/
def otherRing : Ring := ⟨true, 8, 4, 2, 0x1FFF, 2, 0, [(0, .full)], []⟩

/-- A tile with scratch `m` at whose bank a held RINGSET's request for line 1 stands. -/
def imaging (m : Memory) : State :=
  { State.reset with tiles := [(0, { asked ⟨0, rankScalar .X, 1, 0, .ring 5 1, 3, 0⟩ with scratch := m })] }

theorem witness_RingWords :
    (∃ (s s' : State) (x : U64) (r : Ring), s.take [(1, false)] = .ok s' [x] ∧ x.toNat % 64 = 0 ∧ Reached x.toNat ∧
      s.myTile.readLocked (x.toNat / 64 : Nat) = false ∧ s.myTile.writeLeft s.cur.core s.now (x.toNat / 64 : Nat) = false ∧
      s.myTile.ringBusy s.now 5 = false ∧ ringOfImage (leNat (s.myTile.line (x.toNat / 64 : Nat))) = some r) ∧
    (∃ (s s' : State) (x : U64), s.take [(2, false)] = .ok s' [x] ∧ x.toNat % 64 ≠ 0) ∧
    (∃ (s s' : State) (x : U64), s.take [(1, false)] = .ok s' [x] ∧ x.toNat % 64 = 0 ∧ s.myTile.ringBusy s.now 5 = false ∧
      s.myTile.imageHeld s.cur.core s.now (x.toNat / 64 : Nat) = false ∧
      ringOfImage (leNat (s.myTile.line (x.toNat / 64 : Nat))) = none) ∧
    (∃ (s s' : State) (x : U64), s.take [(1, false)] = .ok s' [x] ∧ x.toNat % 64 = 0 ∧ s.myTile.ringBusy s.now 5 = false ∧
      Reached x.toNat ∧ s.myTile.readLocked (x.toNat / 64 : Nat) = true) ∧
    (∀ m ∈ [someImage, []], ∃ (s : State) (x : Ask), ServedAlone (s.tile 0) s.now (s.datumTile 0) x ∧ (s.tile 0).mopen = [] ∧
      x.act = .ring 5 1 ∧ x.rank = rankScalar .X ∧ (s.tile 0).task.ending = none ∧ (s.core ⟨0, .X⟩).priv.toNat < 2 ∧
      ((ringOfImage (leNat ((s.tile 0).line x.line))).isSome = true ↔ m ≠ [])) ∧
    (∃ (s s' : State) (r : Ring), s.myTile.ring 5 = r ∧ r.isSet = true ∧ (∀ c, (s.myTile.core c).pending s.now (.ring 5) = false) ∧
      s.myTile.slotNow 5 r.t = .empty ∧ s.myTile.slotNow 5 r.h = .full ∧ s.myTile.ringBusy s.now 5 = false ∧ s.take (uses0 4) = .ok s' []) ∧
    (∃ (s : State) (r : Ring), s.myTile.ring 5 = r ∧ r.isSet = true ∧ (∀ c, (s.myTile.core c).pending s.now (.ring 5) = false) ∧
      s.myTile.slotNow 5 r.t ≠ .empty ∧ s.myTile.slotNow 5 r.h ≠ .full) ∧
    (∃ s : State, (s.myTile.ring 5).isSet = false) :=
  ⟨⟨oneTile .X (fun t => { t with scratch := someImage }), _, 64,
    ⟨true, 8, 4, 2, 0x1FFF, 0, 0, [], []⟩, rfl, by decide, by unfold Reached; decide, by decide, by decide, rfl,
    by decide +kernel⟩,
   ⟨oneCore .X someCore, _, 16, rfl, by decide⟩,
   ⟨oneCore .X someCore, _, 64, rfl, by decide, rfl, by decide, by decide +kernel⟩,
   ⟨oneTile .X (fun t => { t with loadQ := [{ markCmd 0 0 0 0 false with op := 0xC0, dstLock := [(1, 1)] }] }), _, 64, rfl, by decide,
    rfl, by unfold Reached; decide, by decide⟩,
   fun m h => by
    simp only [List.mem_cons, List.not_mem_nil, or_false] at h
    rcases h with rfl | rfl
    · exact ⟨imaging someImage, _, served_alone rfl (by decide) (by decide) rfl (fun c => by cases c <;> exact .inl rfl), rfl, rfl,
        rfl, rfl, by decide, by decide +kernel⟩
    · exact ⟨imaging [], _, served_alone rfl (by decide) (by decide) rfl (fun c => by cases c <;> exact .inl rfl), rfl, rfl,
        rfl, rfl, by decide, by decide +kernel⟩,
   ⟨oneTile .X (fun t => { t with rings := [(5, someRing)] }), _, someRing, rfl, rfl, fun c => by cases c <;> rfl, by decide,
    by decide, rfl, rfl⟩,
   ⟨oneTile .X (fun t => { t with rings := [(5, otherRing)] }), otherRing, rfl, rfl, fun c => by cases c <;> rfl, by decide,
    by decide⟩,
   ⟨oneCore .X someCore, rfl⟩⟩

/-- A matrix word with all fields zero, and one of clock 0 that is open until clock 8. -/
def mword : MWord := ⟨0, 0, 0, 0, 0, 0, 0, 0, 0, 0, 0, 0, 0, 0, 0, 0, 0, 0, 0, 0, 0, 0, 0, 0⟩
def someOpen : MOpen :=
  { op := 3, w := mword, due := 8, flags := 1, accs := [1], writes := [1], names := [], release := [], fill := [], doneQ := none,
    ew := (0, 0), word := .nop, pc := 0 }

theorem witness_ExceptionEntry :
    (∃ (s : State) (w : Who) (code : Nat), (s.core w).priv.toNat < 2 ∧ code < 256 ∧ w.core = .X ∧
      (s.tile w.tile).mopen ≠ []) ∧
    (∃ (s : State) (w : Who) (code : Nat), (s.core w).priv.toNat < 2 ∧ code < 256 ∧ w.core ≠ .X) ∧
    (∃ (s : State) (w : Who), (s.core w).priv.toNat = 2) :=
  ⟨⟨oneTile .X (fun t => { t with x := { someCore with priv := 1 }, mopen := [someOpen] }), ⟨0, .X⟩, 255, by decide⟩,
   ⟨oneCore .L someCore, ⟨0, .L⟩, 0, by decide⟩, ⟨oneCore .X { someCore with priv := 2 }, ⟨0, .X⟩, by decide⟩⟩

theorem witness_TrapsAndReturns :
    (∃ (s s' : State) (x : U64), s.take [(1, false)] = .ok s' [x]) ∧ (∃ s : State, s.me.priv = 0) ∧
    (∃ s : State, s.me.priv ≠ 0 ∧ s.me.tstatus.toNat % 4 < 3) ∧
    (∃ s : State, s.me.priv ≠ 0 ∧ s.me.tstatus.toNat % 4 < 3 ∧ s.me.drain = true ∧ s.me.tstatus.toNat / 4 % 2 = 1) :=
  ⟨⟨oneCore .X someCore, _, 64, rfl⟩, ⟨oneCore .X someCore, rfl⟩, ⟨oneCore .X { someCore with priv := 1 }, by decide⟩,
   ⟨oneCore .L { someCore with priv := 1, tstatus := 4, drain := true, resume := some 8 }, by decide⟩⟩

theorem witness_TaskEnds :
    (∃ (s s' : State) (x : U64), s.take [(1, false)] = .ok s' [x] ∧ s.endsNothing s.cur.tile = false) ∧
    (∃ s : State, s.cur.core = .X ∧ s.myTile.met = true ∧ s.endsNothing s.cur.tile = false ∧
      s.datumTile s.cur.tile = true) ∧
    (∃ s : State, s.cur.core = .X ∧ s.myTile.met = false) ∧ (∃ s : State, s.cur.core ≠ .X) ∧
    (∃ (s s' : State) (x : U64), s.myTile.stop.isSome = true ∧ s.take [(1, false)] = .ok s' [x] ∧ s.cur.core = .X ∧
      s.myTile.met = true) ∧
    (∃ (s s' : State) (x : U64), s.strikes s.cur.tile = true ∧ s.take [(1, false)] = .ok s' [x] ∧ s.cur.core = .X ∧
      s.myTile.met = true) :=
  ⟨⟨oneCore .X someCore, _, 64, rfl, rfl⟩, ⟨inDatum (oneCore .X someCore), by decide⟩,
   ⟨oneTile .X (fun t => { t with s := someCore }), by decide⟩, ⟨oneCore .S someCore, by decide⟩,
   ⟨oneTile .X (fun t => { t with stop := some none }), _, 64, rfl, rfl, rfl, by decide⟩,
   ⟨oneTile .X (fun t => { t with struck := some 0 }), _, 64, rfl, rfl, rfl, by decide⟩⟩

/-- A command with op8 `op` at the head of the L-core's FIFO, begun, with some writes left. -/
def someCmd (op : Nat) (plan : List (Nat × Act)) : Cmd := { markCmd 0 0 0 0 false with op := op, started := true, plan := plan }

theorem witness_FencesAndMarks :
    (∃ s : State, s.myTile.accessesDone s.cur.core s.now = true ∧ s.myTile.commandsDone s.cur.core = true ∧ s.hostAcks = []) ∧
    (∃ s : State, s.myTile.commandsDone s.cur.core = false) ∧
    (∃ s : State, HostWriter.task s.myTile.task.uid s.cur.core false ∈ s.hostAcks) ∧ (∃ s : State, s.cur.core = .X) ∧
    (∃ s : State, s.cur.core = fifoCore .load ∧ (s.myTile.fifo .load).length < 32 ∧
      ∀ m ∈ s.myTile.cmds, m.op = 256 → m.next = s.me.marks + 1 → m.mark = 3) ∧
    (∃ s : State, s.cur.core = fifoCore .store ∧ 32 ≤ (s.myTile.fifo .store).length) :=
  ⟨⟨oneCore .L someCore, by decide⟩, ⟨oneTile .L (fun t => { t with loadQ := [someCmd 0xC0 []] }), by decide⟩,
   ⟨{ oneCore .L someCore with hostAcks := [.task 1 .L false] }, by decide⟩, ⟨oneCore .X someCore, rfl⟩,
   ⟨oneTile .L (fun t => { t with storeQ := [markCmd 3 1 0 0 false] }), by decide⟩,
   ⟨oneTile .S (fun t => { t with storeQ := List.replicate 32 (someCmd 0xC0 []) }), by decide⟩⟩

theorem witness_TimedWords :
    (∃ (s s' : State) (x : U64), s.datumTile s.cur.tile = true ∧ s.take [(1, false)] = .ok s' [x] ∧
      s.now < (s.frameOrg s.cur.tile).toNat + x.toNat) ∧
    (∃ (s s' : State) (x : U64), s.datumTile s.cur.tile = true ∧ s.take [(1, false)] = .ok s' [x] ∧ x ≠ 0 ∧
      (s.frameOrg s.cur.tile).toNat + x.toNat ≤ s.now) ∧
    (∃ s : State, s.datumTile s.cur.tile = false) ∧
    (∃ (s s' : State) (x : U64) (pt : Part), s.cur.core = .X ∧ s.take [(1, false)] = .ok s' [x] ∧ s.now + 64 ≤ x.toNat ∧
      s.partOf s.cur.tile = some (0, pt) ∧ pt.pendOrg = none) ∧
    (∃ (s s' : State) (x : U64) (pt : Part), s.cur.core = .X ∧ s.take [(1, false)] = .ok s' [x] ∧ s.now + 64 ≤ x.toNat ∧
      s.partOf s.cur.tile = some (0, pt) ∧ pt.pendOrg = some 65 ∧ 65 ≠ x.toNat) ∧
    (∃ (s s' : State) (x : U64), s.cur.core = .X ∧ s.take [(3, false)] = .ok s' [x] ∧ x.toNat < s.now + 64) ∧
    (∃ (s s' : State) (x : U64), s.take [(0, false)] = .ok s' [x] ∧ x.toNat ≤ s.now ∧ x.toNat ≤ s.tai) ∧
    (∃ (s s' : State) (x : U64), s.take [(1, false)] = .ok s' [x] ∧ s.now < x.toNat ∧ s.tai < x.toNat) :=
  ⟨⟨inDatum (oneCore .X someCore), _, 64, rfl, rfl, by decide⟩,
   ⟨{ inDatum (oneCore .X someCore) with now := 64 }, _, 64, rfl, rfl, by decide, by decide⟩, ⟨oneCore .X someCore, rfl⟩,
   ⟨inPart (oneCore .X someCore), _, 64, somePart, rfl, rfl, by decide, rfl, rfl⟩,
   ⟨{ oneCore .X someCore with parts := [(0, { somePart with pendOrg := some 65 })] }, _, 64, _, rfl, rfl, by decide, rfl, rfl,
    by decide⟩,
   ⟨oneCore .X someCore, _, 3, rfl, rfl, by decide⟩, ⟨oneCore .X someCore, _, 0, rfl, by decide, by decide⟩,
   ⟨oneCore .X someCore, _, 64, rfl, by decide, by decide⟩⟩

/-- A task with a context about to launch the card at `va`, and the same once the hub's answer has come. -/
def launching (va : U64) : State := inCtx (oneCore .X { someCore with regs := [(5, va)] })
def answered (va : U64) : State := inCtx (oneCore .X { someCore with regs := [(5, va)], run := .waiting (.hub 0) })

theorem witness_Launches :
    (∃ (s s' : State) (c : Ctx), s.cur.core = .X ∧ s.datumTile s.cur.tile = false ∧ s.take (uses1 4 5) = .ok s' [128] ∧
      s.translate s.cur.tile s.myTile.task.windows 128 .read = .ok (128, false) ∧ regionOf 128 = 0 ∧ s.ctx 0 = some c ∧
      s.reach 0 s.myTile.task.twins 128 = .hbm (2 ^ 21 + 128) ∧
      s.readReach (.hbm (2 ^ 21 + 128)) 128 = some (List.replicate 128 0) ∧
      s.myTile.accessesDone s.cur.core s.now = true ∧ ∀ k, s.me.run ≠ .waiting (.hub k)) ∧
    (∃ (s s' : State) (c : Ctx), s.cur.core = .X ∧ s.datumTile s.cur.tile = false ∧ s.take (uses1 4 5) = .ok s' [128] ∧
      s.translate s.cur.tile s.myTile.task.windows 128 .read = .ok (128, false) ∧ s.ctx 0 = some c ∧
      s.reach 0 s.myTile.task.twins 128 = .hbm (2 ^ 21 + 128) ∧
      s.readReach (.hbm (2 ^ 21 + 128)) 128 = some (List.replicate 128 0) ∧ s.me.run = .waiting (.hub 0) ∧ 0 ≤ s.now ∧
      (c.qTail - c.qHead).toNat < 2 ^ c.cfg.qlog) ∧
    (∃ (s s' : State) (c : Ctx), s.cur.core = .X ∧ s.datumTile s.cur.tile = false ∧ s.take (uses1 4 5) = .ok s' [128] ∧
      s.ctx 0 = some c ∧ s.me.run = .waiting (.hub 0) ∧ 2 ^ c.cfg.qlog ≤ (c.qTail - c.qHead).toNat) ∧
    (∃ s s' : State, s.cur.core = .X ∧ s.take (uses1 4 5) = .ok s' [0x200000] ∧ s.reach 0 s.myTile.task.twins 0x200000 = .absent) ∧
    (∃ s s' : State, s.cur.core = .X ∧ s.take (uses1 4 5) = .ok s' [128] ∧
      s.reach 0 s.myTile.task.twins 128 = .hbm (2 ^ 21 + 128) ∧ s.readReach (.hbm (2 ^ 21 + 128)) 128 = none) ∧
    (∃ s : State, s.cur.core ≠ .X) ∧
    (∃ (s s' : State) (va : U64), s.cur.core = .X ∧ s.take (uses1 4 1) = .ok s' [va] ∧ va.toNat % 128 ≠ 0) :=
  ⟨⟨launching 128, _, someCtx, rfl, rfl, rfl, ok_of (by decide +kernel), by decide, rfl, by decide +kernel, by decide +kernel,
    by decide, nofun⟩,
   ⟨answered 128, _, someCtx, rfl, rfl, rfl, ok_of (by decide +kernel), rfl, by decide +kernel, by decide +kernel, rfl, by decide,
    by decide⟩,
   ⟨{ answered 128 with ctxs := [(0, { someCtx with qTail := 16 })] }, _, _, rfl, rfl, rfl, rfl, rfl, by decide⟩,
   ⟨launching 0x200000, _, rfl, rfl, by decide +kernel⟩,
   ⟨{ launching 128 with poison := [65540] }, _, rfl, rfl, by decide +kernel, by decide +kernel⟩,
   ⟨oneCore .S someCore, by decide⟩, ⟨oneCore .X someCore, _, 64, rfl, rfl, by decide⟩⟩

/-- A matrix word that fills slot 0 of ring 0 at line 7 with a token for q1, its requests made in clock `put`. -/
def writing (put : Option Nat) : MOpen :=
  { someOpen with slot := [(7, List.replicate 64 1)], fill := [(0, 0)], doneQ := some 1, put := put }

theorem witness_WordsComplete :
    (∃ s : State, (s.core ⟨0, .X⟩).pend = [⟨[.s 1], 0, 1, some (2, [7]), (1, 1), none⟩] ∧ s.datumTile 0 = true ∧
      (s.tile 0).lateAsks .X s.now = []) ∧
    (∃ (s : State) (m : MOpen), (s.tile 0).mopen = [m] ∧ (s.tile 0).matrixDone s.now m = true ∧ s.datumTile 0 = true ∧
      (s.tile 0).slotLocked m = false ∧ m.doneQ = some 1 ∧ (0, 0) ∈ m.fill) ∧
    (∃ (t : Tile) (m : MOpen), m.slot = [(7, List.replicate 64 1)] ∧ m.put = none ∧ m.due ≤ 0 + 9 ∧ t.slotClear m = true ∧
      Reached (64 * 7)) ∧
    (∃ (t : Tile) (x : Ask), ServedAlone t 0 true x ∧ x.rank = rankEpilogue ∧ x.act = .put [(64 * 7, List.replicate 64 1)]) :=
  ⟨⟨inDatum (oneCore .X { someCore with pend := [⟨[.s 1], 0, 1, some (2, [7]), (1, 1), none⟩] }), by decide⟩,
   ⟨{ inDatum (oneTile .X (fun t => { t with mopen := [writing (some 0)] })) with now := 8 }, _, rfl, by decide, by decide,
    by decide, rfl, by decide⟩,
   ⟨Tile.idle, writing none, rfl, rfl, by decide, by decide, by unfold Reached; decide⟩,
   ⟨asked ⟨0, rankEpilogue, 7, 0, .put [(64 * 7, List.replicate 64 1)], 0, 0⟩, _,
    served_alone rfl (by decide) (by decide) rfl (fun c => by cases c <;> exact .inl rfl), rfl, rfl⟩⟩

theorem witness_AccumulatorMoves :
    (∃ (s : State) (k : Task) (c : Ctx), (s.tile 0).accMoves = [⟨3, 0, false, .task 1⟩] ∧ 0 ≤ s.now ∧
      s.holder 0 ((s.tile 0).ownerOf 3) = some k ∧ k.frame = some 1 ∧ s.ctx k.ctx = some c ∧
      (s.tile 0).keepsOwner (.task 1) = true ∧ (s.tile 0).task.uid ≠ ((s.tile 0).ownerOf 3).uid ∧
      (s.tile 0).task.images = []) ∧
    (∃ (s : State) (c : Ctx), (s.tile 0).accMoves = [⟨3, 0, true, .task 1⟩] ∧ 0 ≤ s.now ∧
      (s.tile 0).keepsOwner (.task 1) = true ∧ (s.tile 0).task.frame = some 0 ∧ s.ctx (s.tile 0).task.ctx = some c ∧
      s.poisoned (frameAddr c 0 (imageLine (.task 1) 3)) 16448 = false) :=
  ⟨⟨{ inCtx (oneTile .X (fun t => { t with accMoves := [⟨3, 0, false, .task 1⟩], accOwner := [(3, .task 9)] })) with
      saved := [(9, ⟨{ Tile.idle with task := { someTask with uid := 9, frame := some 1 } }, 0, 0, 0, 1, none, true, none, 1⟩)] },
     _, someCtx, rfl, by decide, rfl, rfl, rfl, by decide, by decide, rfl⟩,
   ⟨inCtx (oneTile .X (fun t => { t with accMoves := [⟨3, 0, true, .task 1⟩], task := { someTask with frame := some 0 } })), someCtx,
    rfl, by decide, by decide, rfl, rfl, by decide⟩⟩

/-- A copy with one line still to write, at line 1 or out of range; its requests are made or not. -/
def copier (ea : Int) (asked : Bool) : Cmd := { someCmd 0xC0 [(0, .own ea (List.replicate 64 1))] with asked := asked }
/-- A state whose L-core has command `c` alone in its FIFO, and one of the S-core. -/
def loadOf (c : Cmd) : State := oneTile .L fun t => { t with loadQ := [c] }
def storeOf (c : Cmd) : State := oneTile .S fun t => { t with storeQ := [c] }

/-- A head with all fields zero, and an engine word of it that copies by the record at line 0 from the VA in s1 to line 1. -/
def plainHead : VHead := ⟨0, 0, 0, 0, 0, 0, 0, 0, none, []⟩
def eword : EWord := ⟨plainHead, 1, 1, 0, 0, 0, 0, 0, 0, 0, 0, 0, 0, 0, 0, 0⟩

/-- A transform with one unit to read. -/
def transforming (asked : Bool) : Cmd := { someCmd 0xC9 [] with w := { eword with count := 1 }, asked := asked }

/-- No request of a command stands at a bank of a state with one tile. -/
theorem nothing_asked {s : State} {g n : Nat} {f : Fifo} {c : Cmd} {t : Tile} (hs : s.tiles = [(n, t)]) (ha : t.asks = []) :
    s.asksOpen g f c = false := by
  simp [State.asksOpen, hs, ha]

theorem witness_EngineSteps :
    (∃ (s s1 : State) (c c1 : Cmd) (o : Nat) (a : Act) (rest : List (Nat × Act)), s.engineMove 0 .load = some (c, .access) ∧
      c.started = true ∧ c.op ≠ 0xD3 ∧ c.plan = (o, a) :: rest ∧ a ≠ .more ∧ s.actWaits 0 c a = false ∧
      s.performAct 0 .load c a = .ok (s1, c1)) ∧
    (∃ (s : State) (c : Cmd), s.engineMove 0 .load = some (c, .ask) ∧
      (1, true) ∈ c.stepLines (s.tile 0) 0 (s.stepOf 0 c) ∧ Reached (64 * 1) ∧ (s.tile 0).lineOpen .load c (1, true) = true) ∧
    (∃ (s : State) (c : Cmd) (x : Ask), ServedAlone (s.tile 0) s.now (s.datumTile 0) x ∧ (s.tile 0).mopen = [] ∧
      (s.tile 0).vjobs = [] ∧ x.act = .eng 0 .load 0 ∧ (s.tile 0).fifo .load = [c] ∧ c.issued = 0 ∧ c.asked = true ∧
      c.readsNow = true) ∧
    (∀ ea ∈ [64, 327360], ∃ (s : State) (c : Cmd) (o : Nat) (bs : List Byte) (rest : List (Nat × Act)), EngineAlone s 0 .load c ∧
      c.started = true ∧ c.op ≠ 0xD3 ∧ c.unitsLeft = false ∧ c.plan = (o, .own ea bs) :: rest ∧ ea % 64 = 0 ∧ bs.length = 64 ∧
      EngineGranted s 0 .load c ∧ c.w.eb = 0 ∧ (Reached ea ↔ ea = 64)) ∧
    (∃ (s : State) (c : Cmd), EngineAlone s 0 .load c ∧ s.datumTile 0 = false ∧ c.asked = false ∧
      c.plan = [(0, .own 64 (List.replicate 64 1))]) ∧
    (∀ datum, ∃ (s : State) (c : Cmd), EngineAlone s 0 .store c ∧ c.unitsLeft = true ∧ c.plan = [] ∧
      EngineGranted s 0 .store c ∧ s.datumTile 0 = datum) :=
  ⟨⟨loadOf (copier 64 true), _, _, _, _, _, _, rfl, rfl, by decide, rfl, nofun, rfl, rfl⟩,
   ⟨loadOf (copier 64 false), _, rfl, by decide, by unfold Reached; decide, by decide⟩,
   ⟨oneTile .L (fun t => { t with
      l := Core.idle, asks := [⟨0, 0, 1, 0, .eng 0 .load 0, 3, 0⟩], loadQ := [{ someCmd 0xC0 [] with started := false, asked := true }] }), _, _,
    served_alone rfl (by decide) (by decide) rfl (fun c => by cases c <;> exact .inl rfl), rfl, rfl, rfl, rfl, rfl, rfl,
    by decide⟩,
   fun ea h => by
    simp only [List.mem_cons, List.not_mem_nil, or_false] at h
    rcases h with rfl | rfl <;> exact ⟨loadOf (copier _ true), _, _, _, _, ⟨rfl, by decide⟩, rfl, by decide, rfl, rfl, by decide,
      rfl, ⟨nothing_asked rfl rfl, .inr rfl⟩, rfl, by unfold Reached; decide⟩,
   ⟨loadOf (copier 64 false), _, ⟨rfl, by decide⟩, by decide, rfl, rfl⟩,
   fun datum => by
    cases datum
    · exact ⟨storeOf (transforming true), _, ⟨rfl, by decide⟩, rfl, rfl, ⟨nothing_asked rfl rfl, .inr rfl⟩, rfl⟩
    · exact ⟨inDatum (storeOf (transforming false)), _, ⟨rfl, by decide⟩, rfl, rfl, ⟨nothing_asked rfl rfl, .inl (by decide)⟩,
        by decide⟩⟩

theorem witness_EngineCompletes :
    (∃ (s s1 : State) (c c1 : Cmd), s.engineMove 0 .load = some (c, .done) ∧ s.finishCommand 0 .load c = .ok (s1, c1) ∧
      (∀ m ∈ (s1.tile 0).cmds, m.op ≠ 256) ∧ c1.w.eb = 0) ∧
    (∀ op ∈ [0xC0, 0xD0, 0xD1, 0xD4], ∃ (s : State) (c : Cmd) (cx : Ctx), EngineAlone s 0 .load c ∧ c.op = op ∧
      c.unitsLeft = false ∧ c.plan = [] ∧ (c.reads = true → c.started = true) ∧ c.op ∉ [0xC5, 0xCF, 0xD3] ∧
      s.asksOpen 0 .load c = false ∧ (c.op = 0xD0 ∨ c.op = 0xD1 → s.datumTile 0 = false) ∧ c.w.eb = 0 ∧ c.doneQ = some 0 ∧
      s.ctx (s.tile 0).task.ctx = some cx) ∧
    (∃ (s : State) (c : Cmd), EngineAlone s 0 .load c ∧ EngineGranted s 0 .load c ∧ c.plan = [] ∧ c.started = true ∧
      c.w.eb = 0 ∧ c.op = 0xC5 ∧ (c.eh.toNat + 32) % 64 + 4 ≤ 64 ∧ Reached (c.eh.toNat + 32)) ∧
    (∃ (s : State) (c : Cmd), EngineAlone s 0 .load c ∧ EngineGranted s 0 .load c ∧ c.plan = [] ∧ c.started = true ∧
      c.w.eb = 0 ∧ c.op = 0xD3 ∧ c.sent = true ∧ (c.es.toNat + 8) % 64 + 8 ≤ 64 ∧ Reached (c.es.toNat + 8)) ∧
    (∀ datum, ∃ (s : State) (c : Cmd) (p ia : Nat) (nc : Bool) (x : Ctx) (bs : List Byte), EngineAlone s 0 .load c ∧
      EngineGranted s 0 .load c ∧ c.op = 0xCF ∧ c.plan = [] ∧ c.w.eb = 0 ∧ c.w.count.toNat % 4 < 2 ∧ c.eh.toNat % 8 = 0 ∧
      Reached c.eh.toNat ∧ s.translate 0 (s.tile 0).task.windows c.ed.toNat .write = .ok (ia, nc) ∧ regionOf ia = 0 ∧
      s.ctx (s.tile 0).task.ctx = some x ∧ x.place [] ia = .hbm p ∧ s.readPhys p 8 = some bs ∧ s.datumTile 0 = datum ∧
      bitsAt (Store.get 0 x.pages (pageOf ia)).toNat 62 2 = 1 ∧ bitsAt (Store.get 0 x.pages (pageOf ia)).toNat 60 2 = dieOf 0) :=
  ⟨⟨loadOf { someCmd 0xC0 [] with asked := true }, _, _, _, rfl, rfl, by decide, rfl⟩,
   fun op h => by
    simp only [List.mem_cons, List.not_mem_nil, or_false] at h
    rcases h with rfl | rfl | rfl | rfl <;> exact ⟨inCtx (loadOf { someCmd _ [] with doneQ := some 0 }), _, someCtx,
      ⟨rfl, by decide⟩, rfl, by decide, rfl, by decide, by decide, nothing_asked rfl rfl, by decide, rfl, rfl, rfl⟩,
   ⟨loadOf { someCmd 0xC5 [] with asked := true }, _, ⟨rfl, by decide⟩, ⟨nothing_asked rfl rfl, .inr rfl⟩, rfl, rfl, rfl, rfl,
    by decide, by unfold Reached; decide⟩,
   ⟨loadOf { someCmd 0xD3 [] with asked := true, sent := true }, _, ⟨rfl, by decide⟩, ⟨nothing_asked rfl rfl, .inr rfl⟩, rfl, rfl,
    rfl, rfl, rfl, by decide, by unfold Reached; decide⟩,
   fun datum => by
    cases datum
    · exact ⟨inCtx (loadOf { someCmd 0xCF [] with asked := true, ed := 64, w := { eword with count := 1 } }), _, 2 ^ 21 + 64, 64,
        false, someCtx, _, ⟨rfl, by decide⟩, ⟨nothing_asked rfl rfl, .inr rfl⟩, rfl, rfl, rfl, by decide, by decide,
        by unfold Reached; decide, ok_of (by decide +kernel), by decide, rfl, by decide, rfl, by decide, by decide, by decide⟩
    · exact ⟨inDatum (inCtx (loadOf { someCmd 0xCF [] with ed := 64, w := { eword with count := 1 } })), _, 2 ^ 21 + 64, 64,
        false, someCtx, _, ⟨rfl, by decide⟩, ⟨nothing_asked rfl rfl, .inl (by decide)⟩, rfl, rfl, rfl, by decide, by decide,
        by unfold Reached; decide, ok_of (by decide +kernel), by decide, rfl, by decide, rfl, by decide, by decide, by decide⟩⟩

theorem witness_EngineFaults :
    (∃ (s : State) (c : Cmd) (w : Who), w = ⟨0, fifoCore .load⟩ ∧ (s.tile 0).fifo .load = [c] ∧ c.trouble = some (0x14, 64) ∧
      c.plan = [] ∧ c.faulted = false ∧ (s.tile 0).task.live = true ∧ (s.tile 0).task.ending = none ∧
      (s.core w).run.isHalted = false ∧ (s.core w).glob = none ∧ (s.core w).priv.toNat < 2 ∧ s.peers = []) ∧
    (∃ (s : State) (c : Cmd), s.engineMove 0 .load = some (c, .late)) :=
  ⟨⟨oneTile .L (fun t => { t with loadQ := [{ someCmd 0xC0 [] with trouble := some (0x14, 64) }] }),
    { someCmd 0xC0 [] with trouble := some (0x14, 64) }, _, rfl, rfl, rfl, rfl, rfl, rfl, rfl, rfl, rfl, by decide, rfl⟩,
   ⟨inDatum (oneTile .L (fun t => { t with
      loadQ := [markCmd 1 1 0 0 false, { someCmd 0xC0 [(0, .own 64 [1])] with issued := 1 }] })), _, rfl⟩⟩

theorem witness_RemoteScratch :
    (∃ (s : State) (r : Remote) (gl : Glob), s.remote[0]? = some r ∧ (s.core ⟨r.who.1, r.who.2⟩).glob = some gl ∧
      (s.tile (bitsAt r.ia 19 29)).task.live = true ∧ r.data = none ∧ 0 < r.bytes ∧ bitsAt r.ia 0 19 + r.bytes ≤ 327360) ∧
    (∃ (s : State) (r : Remote) (gl : Glob), s.remote[0]? = some r ∧ (s.core ⟨r.who.1, r.who.2⟩).glob = some gl ∧
      (s.tile (bitsAt r.ia 19 29)).task.live = true ∧ r.data = some [1, 2, 3, 4] ∧ 327360 < bitsAt r.ia 0 19 + r.bytes) ∧
    (∃ (s : State) (r : Remote) (gl : Glob), s.remote[0]? = some r ∧ (s.core ⟨r.who.1, r.who.2⟩).glob = some gl ∧
      (s.tile (bitsAt r.ia 19 29)).task.live = false) ∧
    (∃ (t : Tile) (s : State) (x : Ask) (gl : Glob), s.tile 0 = t ∧ ServedAlone t s.now (s.datumTile 0) x ∧
      x.act = .far 0 .X 64 8 [] ∧ (s.core ⟨0, .X⟩).glob = some gl) :=
  ⟨⟨{ oneCore .X (globCore ⟨2, 4, 64, .pending, 0, 0, [], none⟩) with remote := [⟨(0, .X), 64, 8, none⟩] }, ⟨(0, .X), 64, 8, none⟩, _, rfl,
     rfl, by decide, rfl, by decide, by decide⟩,
   ⟨{ oneCore .X (globCore ⟨3, 4, 64, .pending, 0, 0, [], none⟩) with remote := [⟨(0, .X), 327360, 4, some [1, 2, 3, 4]⟩] },
     ⟨(0, .X), 327360, 4, some [1, 2, 3, 4]⟩, _, rfl, rfl, by decide, rfl, by decide⟩,
   ⟨{ oneCore .X (globCore ⟨2, 4, 64, .pending, 0, 0, [], none⟩) with remote := [⟨(0, .X), 2 ^ 19, 8, none⟩] }, ⟨(0, .X), 2 ^ 19, 8, none⟩,
     _, rfl, rfl, by decide⟩,
   ⟨_, { State.reset with tiles := [(0, { asked ⟨0, 2, 1, 0, .far 0 .X 64 8 [], 3, 0⟩ with
      x := { Core.idle with run := .running, glob := some ⟨2, 4, 64, .pending, 0, 0, [], none⟩ } })] }, _, _, rfl,
    served_alone rfl (by decide) (by decide) rfl (fun c => by cases c <;> first | exact .inl rfl | exact .inr rfl), rfl, rfl⟩⟩

theorem witness_WaitsEnd :
    (∃ s : State, (s.core ⟨0, .X⟩).run = .waiting (.stamp 0) ∧ 0 ≤ s.now) ∧
    (∃ s : State, (s.core ⟨0, .X⟩).run = .waiting .array ∧ s.waitMet 0 .array = true ∧ Wait.array ≠ .meet false) ∧
    (∃ s : State, (s.core ⟨0, .X⟩).run = .waiting (.barrier 64) ∧ Reached (64 : Nat)) ∧
    (∃ s : State, (s.core ⟨0, .X⟩).run = .waiting (.cell 64)) ∧
    (∃ s : State, (s.core ⟨0, .X⟩).run = .waiting (.meet false) ∧ (s.tile 0).l.run = .idle ∧ (s.tile 0).s.run = .idle ∧
      (s.tile 0).mopen = []) ∧
    (∃ s : State, (s.core ⟨0, .X⟩).run = .waiting (.pop 0) ∧ s.waitMet 0 (.pop 0) = false) ∧
    (∃ s : State, (s.core ⟨0, .X⟩).run = .waiting (.datum 0 1) ∧ 0 ≤ s.now) ∧
    (∃ s : State, (s.core ⟨0, .X⟩).run = .waiting (.tai 0 1) ∧ 0 ≤ s.tai) :=
  ⟨⟨oneCore .X { someCore with run := .waiting (.stamp 0) }, rfl, by decide⟩,
   ⟨oneCore .X { someCore with run := .waiting .array }, rfl, rfl, by decide⟩,
   ⟨oneCore .X { someCore with run := .waiting (.barrier 64) }, rfl, by unfold Reached; decide⟩,
   ⟨oneCore .X { someCore with run := .waiting (.cell 64) }, rfl⟩,
   ⟨oneCore .X { someCore with run := .waiting (.meet false) }, rfl, rfl, rfl, rfl⟩,
   ⟨oneCore .X { someCore with run := .waiting (.pop 0) }, rfl, rfl⟩,
   ⟨oneCore .X { someCore with run := .waiting (.datum 0 1) }, rfl, by decide⟩,
   ⟨oneCore .X { someCore with run := .waiting (.tai 0 1) }, rfl, by decide⟩⟩

theorem witness_OriginsAndSupersteps :
    (∃ (s : State) (pt : Part), Store.find s.parts 0 = some pt ∧ pt.pendOrg = some 0 ∧ pt.tiles.Nodup ∧ 0 ∈ pt.tiles ∧
      (s.tile 0).x.run = .waiting (.origin 0 1)) ∧
    (∃ (s : State) (pt : Part), Store.find s.parts 0 = some pt ∧ pt.sstepAt = some 0 ∧ pt.tiles.Nodup ∧ 0 ∈ pt.tiles ∧
      (s.core ⟨0, .X⟩).run = .waiting (.sstep 7 1)) ∧
    (∃ s : State, (s.core ⟨0, .X⟩).run = .waiting (.sstep 7 1) ∧ (s.frameOrg 0).toNat + 7 ≤ s.now) ∧
    (∃ s : State, (s.core ⟨0, .X⟩).run = .waiting (.sstep 7 1) ∧ s.now < (s.frameOrg 0).toNat + 7) ∧
    (∃ s : State, (s.core ⟨0, .X⟩).run = .waiting (.sstep 0 1)) :=
  ⟨⟨{ oneCore .X { someCore with run := .waiting (.origin 0 1) } with parts := [(0, { somePart with pendOrg := some 0 })] }, _, rfl,
     rfl, by decide, by decide, rfl⟩,
   ⟨{ oneCore .X { someCore with run := .waiting (.sstep 7 1) } with parts := [(0, { somePart with sstepAt := some 0 })] }, _, rfl,
     rfl, by decide, by decide, rfl⟩,
   ⟨{ oneCore .X { someCore with run := .waiting (.sstep 7 1) } with now := 7 }, rfl, by decide⟩,
   ⟨oneCore .X { someCore with run := .waiting (.sstep 7 1) }, rfl, by decide⟩,
   ⟨oneCore .X { someCore with run := .waiting (.sstep 0 1) }, rfl⟩⟩

/-- Requests of clock 9 at bank 0, of a vector word for line 31 and of a load of the L-core for line 0, and a tile with both. -/
def vectorAsk : Ask := ⟨9, rankVector, 31, 0, .take 1 0, 12, 0⟩
def loadAsk : Ask := ⟨9, rankScalar .L, 0, 0, .load 0 8 false 1, 12, 0⟩
def twoAsks : Tile :=
  { Tile.idle with asks := [vectorAsk, loadAsk], l := { someCore with pend := [⟨[.s 1], 13, 0, none, (1, 1), some (9, 4)⟩] } }

/-- The tile at whose bank that vector word's only request stands, a line that it reads or may write. -/
def reading (x : Ask) : Tile :=
  { asked x with vjobs := [⟨9, .nop, ⟨[], [], [], [], 0, 0, false, []⟩, [(1, [31])], [31], [], [], [0], 8, none, [], none⟩] }

theorem witness_ClockAndClosure :
    (∃ (t : Tile) (x : Ask), x ∈ t.asks ∧ t.serves 9 false x = true ∧ (∀ b n, x.act ≠ .lower b n)) ∧
    (∃ (t : Tile) (x : Ask), x ∈ t.asks ∧ t.eligible x = true ∧ x.line % 31 ∉ t.served ∧
      ∀ y ∈ t.atBanks, y.line % 31 = x.line % 31 → y = x) ∧
    (∃ (t : Tile) (p : Pend) (x : Ask), t.l.pend[0]? = some p ∧ p.asks = some (9, 4) ∧ x ∈ (t.arbitrate 9 false).asks ∧
      x.since = 9 ∧ x.rank = rankScalar .L ∧ x.isGive = false ∧
      ∀ y ∈ t.asks, y.isGive = true → y.rank = rankVector) ∧
    (∃ t : Tile, (t.arbitrate 9 false).asks = []) ∧
    (∃ (t : Tile) (x : Ask), x ∈ t.asks ∧ t.eligible x = true ∧ x.by_ ≤ 12) ∧
    (∃ (t : Tile) (x : Ask), x ∈ t.asks ∧ t.eligible x = true ∧ x.isPut = false ∧ wheelRole x.line 9 = sideOf x.rank ∧
      ∀ y ∈ t.asks, y.line % 31 = x.line % 31 → sideOf y.rank = sideOf x.rank → y = x) ∧
    (∃ t : Tile, t.asks ≠ [] ∧ ∀ x ∈ (t.arbitrate 8 true).asks, 8 < x.by_) ∧
    (∃ (t : Tile) (x : Ask) (j : VJob), ServedAlone t 12 true x ∧ j ∈ t.vjobs ∧ j.issued = x.since ∧ x.act = .take 1 0) ∧
    (∃ (t : Tile) (x : Ask) (j : VJob), ServedAlone t 12 false x ∧ j ∈ t.vjobs ∧ j.issued = x.since ∧ x.act = .give 0) ∧
    (∃ s : State, s.lost 0 = true ∧ (s.tile 0).closureWin.toNat ≤ (s.tile 0).closureCount + 1) :=
  ⟨⟨twoAsks, vectorAsk, by decide, by decide, nofun⟩,
   ⟨asked loadAsk, loadAsk, by decide, by decide, by decide, by decide⟩,
   ⟨twoAsks, _, loadAsk, rfl, rfl, by decide, rfl, rfl, rfl, by decide⟩, ⟨asked loadAsk, by decide⟩,
   ⟨twoAsks, loadAsk, by decide, by decide, by decide⟩, ⟨asked vectorAsk, vectorAsk, by decide, by decide, by decide, by decide, by decide⟩,
   ⟨twoAsks, by decide, by decide⟩,
   ⟨reading vectorAsk, vectorAsk, _, served_alone rfl (by decide) (by decide) rfl (fun c => by cases c <;> exact .inl rfl),
    List.mem_singleton.2 rfl, rfl, rfl⟩,
   ⟨reading { vectorAsk with act := .give 0 }, _, _,
    served_alone rfl (by decide) (by decide) rfl (fun c => by cases c <;> exact .inl rfl), List.mem_singleton.2 rfl, rfl, rfl⟩,
   ⟨oneTile .X (fun t => { t with x := { someCore with run := .waiting (.pop 0) }, closureCount := 65535 }), by decide⟩⟩

/-- Line 5114 lies in bank 30 (R94). -/
theorem test_bank : bankOf 5114 = 30 := rfl

/-- The table of R97, with AGE_LIMIT 8: the vector request of clock 0 loses to copy-in until clock 8, then comes first. -/
theorem test_bank_age :
    Tile.grants { Tile.idle with asks := [⟨0, rankVector, 7, 0, .look, 0, 0⟩, ⟨7, rankCopyIn, 7, 0, .look, 0, 0⟩], ageLimit := 8 } 7
      ⟨0, rankVector, 7, 0, .look, 0, 0⟩ = false ∧
    Tile.grants { Tile.idle with asks := [⟨0, rankVector, 7, 0, .look, 0, 0⟩, ⟨8, rankCopyIn, 7, 0, .look, 0, 0⟩], ageLimit := 8 } 8
      ⟨0, rankVector, 7, 0, .look, 0, 0⟩ = true := by
  decide

/-- R218: a GETF that asks in the clock in which the bank has served the L-core's PUTF waits at the bank. -/
theorem test_getf_behind_putf :
    ((State.bankWait { oneTile .S (fun t => { t with served := [bankOf 120] }) with now := 6 } 7680 true) ==
      some (.bank 120 6 true)) = true := by
  decide

/-- A card of four records of one line, at 0x10000, with its status at 0x20000, window 0 enabled and chunks of one (R301). -/
def someCard : Card := Card.ofBytes 0 none
  (leBytes 128 (0x10000 * 2 ^ 64 + 4 * 2 ^ 128 + 0x20000 * 2 ^ 192 + 1 * 2 ^ 520 + 1 * 2 ^ 544))

/-- A partition of two idle tiles with a context, a card that has been accepted, and nothing dealt. -/
def dealing : State :=
  { State.reset with parts := [(0, somePart)], ctxs := [(0, someCtx)], cards := [(1, someCard)], nextCard := 2 }

/-- A core that STOP has reached. -/
def stopped : Core := { someCore with stopIn := true }
def halted : Core := { someCore with run := .halted .running }

theorem witness_StopAndHalt :
    (∃ (s : State) (c : Ctx), s.ctx (s.tile 0).task.ctx = some c ∧ (s.tile 0).task.live = true ∧ c.cfg.quantum ≠ 0 ∧
      (s.tile 0).task.since + c.cfg.quantum * 1024 ≤ s.now) ∧
    (∃ s : State, s.pickVictim 0 = some (0, 1)) ∧
    (∃ s : State, (s.core ⟨0, .L⟩).stopIn = true ∧ (s.core ⟨0, .L⟩).priv = 0 ∧ (s.core ⟨0, .L⟩).glob = none ∧
      (s.core ⟨0, .L⟩).run.isHalted = false ∧ (s.core ⟨0, .L⟩).run = .waiting .array) ∧
    (∃ s : State, (s.core ⟨0, .L⟩).stopIn = true ∧ (s.core ⟨0, .L⟩).priv = 0 ∧ (s.core ⟨0, .L⟩).glob = none ∧
      (s.core ⟨0, .L⟩).run.isHalted = false ∧ (s.core ⟨0, .L⟩).run = .running ∧ s.now < (s.core ⟨0, .L⟩).nextAt) ∧
    (∃ (s : State) (i : Instr), (s.core ⟨0, .X⟩).stopIn = true ∧ (s.core ⟨0, .X⟩).priv = 0 ∧ (s.core ⟨0, .X⟩).glob = none ∧
      (s.core ⟨0, .X⟩).run = .running ∧ s.fetch ⟨0, .X⟩ = .word i) ∧
    (∃ s : State, (s.core ⟨0, .L⟩).stopIn = true ∧ (s.core ⟨0, .L⟩).priv = 0 ∧ (s.core ⟨0, .L⟩).glob = none ∧
      (s.core ⟨0, .L⟩).run = .idle ∧ (s.tile 0).mayHalt 0 .L s.now = true) ∧
    (∃ (s : State) (pt : Part) (gr : Group), (s.core ⟨0, .X⟩).stopIn = true ∧ (s.core ⟨0, .X⟩).priv = 0 ∧
      (s.core ⟨0, .X⟩).glob = none ∧ (s.core ⟨0, .X⟩).run = .waiting (.gbar 2 1) ∧ InPart s 0 0 pt ∧
      Store.find pt.groups 2 = some gr ∧ gr.done + gr.release.length < 1 ∧ gr.arrived.Nodup ∧ (1, 1) ∈ gr.arrived ∧
      ∀ d, d ≠ .X → (s.core ⟨0, d⟩).run ≠ .waiting (.gbar 2 1)) ∧
    (∃ s : State, (s.core ⟨0, .L⟩).priv ≠ 0) ∧ (∃ s : State, (s.core ⟨0, .X⟩).glob.isSome = true) ∧
    (∃ s : State, (s.core ⟨0, .X⟩).run = .halted .running ∧ (s.core ⟨0, .X⟩).stopIn = true ∧ (s.tile 0).mayHalt 0 .X s.now = true) :=
  ⟨⟨{ inCtx (oneCore .X someCore) with now := 1024 }, someCtx, rfl, rfl, by decide, by decide⟩,
   ⟨{ dealing with tiles := [(0, { Tile.idle with task := { someTask with prio := 0 } })],
                   parts := [(0, { somePart with tiles := [0] })],
                   cards := [(1, { someCard with img := someCard.img + 3 * 2 ^ 512 })] }, by decide +kernel⟩,
   ⟨oneCore .L { stopped with run := .waiting .array }, by decide⟩,
   ⟨oneCore .L { stopped with nextAt := 5 }, rfl, rfl, rfl, rfl, rfl, by decide⟩,
   ⟨(State.reset.withFetchWord 32 0x01184400).setCore ⟨0, .X⟩ { codeCore with stopIn := true }, .add 3 1 2, rfl, rfl, rfl, rfl,
    by decide +kernel⟩,
   ⟨oneCore .L { Core.idle with stopIn := true }, rfl, rfl, rfl, rfl, by decide⟩,
   ⟨{ oneCore .X { atGbar with stopIn := true } with parts := [(0, { somePart with groups := [(2, ⟨[1], 0, [(1, 1)], [], []⟩)] })] },
    _, _, rfl, rfl, rfl, rfl, ⟨rfl, by decide⟩, rfl, by decide, by decide, by decide,
    fun d h => by cases d <;> first | exact absurd rfl h | exact nofun⟩,
   ⟨oneCore .L { stopped with priv := 1 }, by decide⟩, ⟨oneCore .X (globCore ⟨2, 4, 0, .pending, 0, 0, [], none⟩), rfl⟩,
   ⟨oneCore .X { stopped with run := .halted .running }, by decide⟩⟩

/-- Task 9, saved off tile 0 with its X-core waiting and dealt to tile 0 again; its lines are in a shadow pool, or in its frame. -/
def resuming (pool : Option Nat) : State :=
  { dealing with
    saved := [(9, ⟨{ Tile.idle with task := { someTask with uid := 9, card := 1 }, x := { someCore with run := .waiting .array } },
      0, 0, 0, 1, pool, true, some 0, 1⟩)] }

theorem witness_SaveAndResume :
    (∀ park ∈ [none, some 64], ∃ (s : State) (c : Ctx), (s.tile 0).stop = some park ∧ s.ctx (s.tile 0).task.ctx = some c ∧
      (s.tile 0).mayBeSaved = true ∧ (s.tile 0).task.frame = some 1) ∧
    (∀ pool ∈ [none, some 0], ∃ (s : State) (v : Saved) (c : Ctx) (card : Card), Store.find s.saved 9 = some v ∧ v.dealt = some 0 ∧
      (s.tile 0).task.live = false ∧ (s.tile 0).inService = true ∧ s.ctx v.tile.task.ctx = some c ∧
      s.card v.tile.task.card = some card ∧ s.accsElsewhere 0 9 = [] ∧ v.tile.task.live = true ∧ v.pool = pool ∧
      v.tile.x.run.kept = .waiting ∧ s.framePoisoned (frameAddr c v.frame 0) v.tile.task = false) ∧
    (∃ (s : State) (v : Saved) (c : Ctx) (card : Card), Store.find s.saved 9 = some v ∧ v.dealt = some 0 ∧
      (s.tile 0).task.live = false ∧ (s.tile 0).inService = true ∧ s.ctx v.tile.task.ctx = some c ∧
      s.card v.tile.task.card = some card ∧ s.accsElsewhere 0 9 = [] ∧ v.tile.task.live = true ∧ v.pool = none ∧
      s.framePoisoned (frameAddr c v.frame 0) v.tile.task = true) :=
  ⟨fun park h => by
    simp only [List.mem_cons, List.not_mem_nil, or_false] at h
    rcases h with rfl | rfl <;> exact ⟨inCtx (oneTile .X (fun t => { t with
      stop := some _, l := halted, x := halted, s := halted, task := { someTask with frame := some 1 } })), someCtx,
    rfl, rfl, by decide, rfl⟩,
   fun pool h => by
    simp only [List.mem_cons, List.not_mem_nil, or_false] at h
    rcases h with rfl | rfl <;> exact ⟨resuming _, _, someCtx, someCard, rfl, rfl, rfl, rfl, rfl, rfl, by decide, rfl, rfl, rfl, by decide +kernel⟩,
   ⟨{ resuming none with poison := [frameAddr someCtx 1 0 / 32] }, _, someCtx, someCard, rfl, rfl, rfl, rfl, rfl, rfl, by decide, rfl,
    rfl, by decide +kernel⟩⟩

/-- The queue of `dealing`'s context holds that card, not accepted yet. -/
def queued : State :=
  { dealing with ctxs := [(0, { someCtx with qTail := 1 })], cards := [], nextCard := 1,
                 hbm := [(0x80000A, 1), (0x800010, 4), (0x80001A, 2), (0x800041, 1), (0x800044, 1)] }

theorem witness_CardsArrive :
    (∃ s : State, s.rising = true) ∧
    (∃ (s : State) (c : Ctx), s.ctx 0 = some c ∧ s.rising = false ∧ 2 ^ c.cfg.qlog < (17#32 - c.qHead).toNat) ∧
    (∃ (s : State) (c : Ctx), s.ctx 0 = some c ∧ s.rising = false ∧ (c.qTail - c.qHead).toNat < 2 ^ c.cfg.qlog ∧
      (s.setCtx 0 { c with appDb := 128 }).hubRead 0 c.cfg.vw 128 2 = .data (List.replicate 128 0)) ∧
    (∃ (s : State) (c : Ctx), s.ctx 0 = some c ∧ s.rising = false ∧ (64#64).toNat % 128 ≠ 0) ∧
    (∃ (s : State) (cx : Ctx) (c : Card), s.nextCardOf 0 = some (cx, some c) ∧ s.mayAccept 0 c false = true ∧
      c.statusOk cx = true ∧ s.refusal cx c = none) ∧
    (∃ (s : State) (cx : Ctx) (c : Card), s.nextCardOf 0 = some (cx, some c) ∧ s.mayAccept 0 c false = true ∧
      c.statusOk cx = true ∧ s.refusal cx c = some 5) :=
  ⟨⟨{ dealing with rising := true }, rfl⟩, ⟨dealing, someCtx, rfl, rfl, by decide⟩,
   ⟨dealing, someCtx, rfl, rfl, by decide, by decide +kernel⟩, ⟨dealing, someCtx, rfl, rfl, by decide⟩,
   ⟨queued, { someCtx with qTail := 1 }, someCard, by decide +kernel, by decide +kernel, by decide +kernel, by decide +kernel⟩,
   ⟨{ queued with parts := [] }, { someCtx with qTail := 1 }, someCard, by decide +kernel, by decide +kernel, by decide +kernel,
    by decide +kernel⟩⟩

theorem witness_TilesAreDealt :
    (∃ (s : State) (pt : Part) (c : Card), s.partOf 0 = some (0, pt) ∧ pt.datum = false ∧ s.idleTile 0 = true ∧
      s.choose 0 = some (1, c) ∧ s.readyTask 1 c = none ∧ c.redeal = [] ∧ c.returned = []) ∧
    (∃ (s : State) (pt : Part) (c : Card), s.partOf 0 = some (0, pt) ∧ pt.datum = false ∧ s.idleTile 0 = true ∧
      s.choose 0 = some (1, c) ∧ s.readyTask 1 c = none ∧ c.redeal = [2]) :=
  ⟨⟨dealing, somePart, someCard, rfl, rfl, rfl, by decide +kernel, by decide +kernel, rfl, rfl⟩,
   ⟨{ dealing with cards := [(1, { someCard with redeal := [2] })] }, somePart, { someCard with redeal := [2] }, rfl, rfl, rfl,
    by decide +kernel, by decide +kernel, rfl⟩⟩

/-- That card's record 2 stands in tile 0's chunk. -/
def dealt : State := { dealing with tiles := [(0, { Tile.idle with chunk := [(2, 1)] })] }

theorem witness_TasksStart :
    (∃ (s : State) (c : Card) (x : Ctx), (s.tile 0).chunk = [(2, 1)] ∧ (s.tile 0).task.live = false ∧
      (s.tile 0).inService = true ∧ s.card 1 = some c ∧ s.ctx c.ctx = some x ∧
      (s.setTile 0 { s.tile 0 with chunk := [] }).setup x c 2 =
        .ok (List.replicate 64 0) (argumentParcel :: List.replicate 15 0) [] []) ∧
    (∃ (s : State) (c : Card) (x : Ctx), (s.tile 0).chunk = [(2, 1)] ∧ (s.tile 0).task.live = false ∧
      (s.tile 0).inService = true ∧ s.card 1 = some c ∧ s.ctx c.ctx = some x ∧ c.datum = false ∧
      (s.setTile 0 { s.tile 0 with chunk := [] }).setup x c 2 = .absent 0x10080 0) :=
  ⟨⟨dealt, someCard, someCtx, rfl, rfl, rfl, rfl, rfl, by decide +kernel⟩,
   ⟨{ dealt with ctxs := [(0, { someCtx with pages := [] })] }, someCard, { someCtx with pages := [] }, rfl, rfl, rfl, rfl, rfl,
    by decide +kernel, by decide +kernel⟩⟩

theorem witness_DatumRounds :
    (∃ (s : State) (pt : Part) (c : Card), Store.find s.parts 0 = some pt ∧ s.roundDue pt = true ∧
      pt.round = some (1, [0, 1], 1, 4096, []) ∧ s.card 1 = some c ∧ [0, 1].Nodup ∧ 1 * 2 + 1 < c.count ∧
      (s.tile 1).inService = true) ∧
    (∃ (s : State) (pt : Part), Store.find s.parts 0 = some pt ∧ s.now ∈ pt.origins ∧
      pt.round = some (1, [0, 1], 0, s.now, [0]) ∧ ∀ g ∈ [0, 1], (s.tile g).inService = true) :=
  ⟨⟨{ dealing with parts := [(0, { somePart with datum := true, round := some (1, [0, 1], 1, 4096, []) })] },
     { somePart with datum := true, round := some (1, [0, 1], 1, 4096, []) }, someCard, rfl, by decide +kernel, rfl, rfl, by decide,
     by decide +kernel, rfl⟩,
   ⟨{ dealing with parts := [(0, { somePart with datum := true, round := some (1, [0, 1], 0, 0, [0]), origins := [0] })] }, _, rfl,
    by decide, rfl, by decide⟩⟩

/-- A head with etype `t` and all else zero, and a word with it. -/
def headOf (t : BitVec 4) : VHead := ⟨t, 0, 0, 0, 0, 0, 0, 0, none, []⟩
def wordOf (t : BitVec 4) (d a b : BitVec 20) : VWord := ⟨headOf t, d, a, b⟩

/-- A task with a spectral parcel at lines 31 to 61 (R254, R256), and a tile whose walk w0 begins there. -/
def spectralTask : Task := { someTask with pds := [(1, BitVec.ofNat 64 (31 + 31 * 2 ^ 13 + 8 * 2 ^ 26 + 5 * 2 ^ 32))] }
def spectralTile : State := oneTile .X fun t => { t with task := spectralTask, xr := { t.xr with w := [(0, 31 + 8192)] } }

/-- Where no vector or matrix word is under way, no line is owed. -/
theorem nothing_owed {t : Tile} {now : Nat} (hv : t.vjobs = []) (hm : t.mopen = []) :
    ∀ rd wr, t.linesPending now rd wr = false := by
  simp [Tile.linesPending, Tile.lineOwed, hv, hm]

/-- What a float word computes is not the concern of these witnesses: a plan with nothing written. -/
def nilPlan (w : VWord) : VPlan := floatPlan w (.wr 0) (.rd 0) (.rd 0) 4 (some false) (fun i => ⟨[], [], 0, i.lfsr⟩)

theorem witness_VectorLanes :
    (∃ (s : State) (w : VWord), (nilPlan w).ok5 = false ∧ s.unstamped w.h.stamp = false) ∧
    (∃ (s : State) (w : VWord), s.unstamped w.h.stamp = true) ∧ (∃ s : State, s.cur.core ≠ .X) ∧
    (∃ (s : State) (w : VWord) (p : VPlan), p = nilPlan w ∧ p.ok5 = true ∧ s.unstamped w.h.stamp = false ∧ s.cur.core = .X ∧
      checkFields (s.myTile.latchLost s.now) p.ctlOk w.h.lits.length p.ud p.ua p.ub w = .error 1) ∧
    (∃ (s : State) (w : VWord) (p : VPlan) (f : Fields), p = nilPlan w ∧ VectorReady s w p f ∧ domainOf s p f = some 1) ∧
    (∃ (s : State) (w : VWord) (p : VPlan) (f : Fields), p = nilPlan w ∧ VectorReady s w p f ∧ domainOf s p f = none ∧
      NoLine (vectorReads s w p f) (vectorWrites s w p f)) ∧
    (∃ (s : State) (w : VWord) (p : VPlan) (f : Fields), p = nilPlan w ∧ VectorReady s w p f ∧ domainOf s p f = none ∧
      ¬ NoLine (vectorReads s w p f) (vectorWrites s w p f)) ∧
    (∃ (s0 : State) (w : VWord) (p : VPlan) (f : Fields) (j : VJob), p = nilPlan w ∧ j.word = .vadd w ∧
      j.vin = vectorIn s0 w p f ∧ p.ud.parse 0 w.h.lits.length w.d.toNat = some f.d) :=
  ⟨⟨oneCore .X someCore, { wordOf 0 3 1 2 with h := { headOf 0 with rnd := 7 } }, rfl, rfl⟩,
   ⟨inDatum (oneCore .X someCore), wordOf 0 3 1 2, rfl⟩, ⟨oneCore .L someCore, by decide⟩,
   ⟨oneCore .X someCore, wordOf 0 3 384 2, _, rfl, rfl, rfl, rfl, error_of (by decide +kernel)⟩,
   ⟨spectralTile, wordOf 0 3 0x80000 2, _, ⟨.vreg 3, .walk 0 0 0, .vreg 2⟩, rfl,
    ⟨rfl, rfl, .inl rfl, ok_of (by decide +kernel), fun _ => rfl, nothing_owed rfl rfl⟩, by decide +kernel⟩,
   ⟨oneCore .X someCore, wordOf 0 3 1 2, _, ⟨.vreg 3, .vreg 1, .vreg 2⟩, rfl,
    ⟨rfl, rfl, .inl rfl, ok_of (by decide +kernel), fun _ => rfl, nothing_owed rfl rfl⟩, by decide +kernel,
    by unfold NoLine; decide +kernel⟩,
   ⟨oneCore .X someCore, wordOf 0 3 0x80000 2, _, ⟨.vreg 3, .walk 0 0 0, .vreg 2⟩, rfl,
    ⟨rfl, rfl, .inl rfl, ok_of (by decide +kernel), fun _ => rfl, nothing_owed rfl rfl⟩, by decide +kernel,
    by unfold NoLine; decide +kernel⟩,
   ⟨oneCore .X someCore, wordOf 0 3 1 2, _, ⟨.vreg 3, .vreg 1, .vreg 2⟩, ⟨0, .vadd (wordOf 0 3 1 2), _, [], [], [], [], [], 4, none, [], none⟩,
    rfl, rfl, rfl, by decide +kernel⟩⟩

/-- The plan of VMASKOP's .andn, but for what it computes. -/
def maskPlan (w : VWord) : VPlan :=
  { ok5 := w.h.etype == 0 && w.h.rnd == 0 && w.h.sat == 0 && w.h.mask == 0 && w.h.nowb == 0 && w.h.capEn == 0,
    ud := .maskWr, ua := .maskRd, ub := .maskRd, ctlOk := fun _ => true, lat := 2, domain := none, lfsr := none, book := none,
    run := fun i => ⟨[], [], 0, i.lfsr⟩ }

theorem witness_VectorMoves :
    (∃ (s : State) (w : VWord) (p : VPlan) (f : Fields), w.h.x3.toNat = 3 ∧ p = maskPlan w ∧ VectorReady s w p f ∧
      domainOf s p f = none) ∧
    (∃ (s : State) (w : VWord) (p : VPlan), w.h.x3.toNat = 3 ∧ p = maskPlan w ∧ p.ok5 = true ∧
      s.unstamped w.h.stamp = false ∧ s.cur.core = .X ∧
      checkFields (s.myTile.latchLost s.now) p.ctlOk w.h.lits.length p.ud p.ua p.ub w = .error 1) ∧
    (∃ w : VWord, w.h.x3.toNat = 3 ∧ (maskPlan w).ok5 = false) ∧ (∃ w : VWord, w.h.x3 = 7) ∧
    (∃ (s : State) (w : VWord) (p : VPlan) (f : Fields),
      p = movePlan w packType (.wr (typeOf w)) (.rd 13) .cnt (fun i => ⟨[], [], 0, i.lfsr⟩) ∧ VectorReady s w p f ∧
      domainOf s p f = none) :=
  ⟨⟨oneCore .X someCore, { wordOf 0 3 1 2 with h := { headOf 0 with x3 := 3 } }, _, ⟨.mask 3, .mask 1, .mask 2⟩, rfl, rfl,
    ⟨rfl, rfl, .inl rfl, ok_of (by decide +kernel), fun _ => rfl, nothing_owed rfl rfl⟩, rfl⟩,
   ⟨oneCore .X someCore, { wordOf 0 3 8 2 with h := { headOf 0 with x3 := 3 } }, _, rfl, rfl, rfl, rfl, rfl,
    error_of (by decide +kernel)⟩,
   ⟨{ wordOf 0 3 1 2 with h := { headOf 0 with x3 := 3, sat := 1 } }, rfl, rfl⟩,
   ⟨{ wordOf 0 3 1 2 with h := { headOf 0 with x3 := 7 } }, rfl⟩,
   ⟨oneCore .X someCore, wordOf 3 3 1 0xC0005, _, ⟨.vreg 3, .vreg 1, .imm 5⟩, rfl,
    ⟨rfl, rfl, .inl rfl, ok_of (by decide +kernel), fun _ => rfl, nothing_owed rfl rfl⟩, rfl⟩⟩

theorem witness_VectorReductions :
    (∃ (i : VIn), i.sat = false ∧ ∀ k, i.a.getD k 0 < 2 ^ 32) ∧
    (∃ (s : State) (w : VWord) (p : VPlan) (f : Fields), w.h.x3 = 0 ∧
      p = { ok5 := w.h.etype == 0 && w.h.rnd == 0 && w.h.sat == 0 && w.h.capEn == 0, ud := .no, ua := .rd 0, ub := .no,
            ctlOk := fun _ => true, lat := 2, domain := none, lfsr := some true, book := none,
            run := fun i => ⟨[], [], 0, i.lfsr⟩ } ∧ VectorReady s w p f) :=
  ⟨⟨⟨[true], [5], [], [], 0, 0, false, []⟩, rfl, fun k => by cases k <;> simp⟩,
   ⟨oneCore .X someCore, wordOf 0 0 1 0, _, ⟨.unused, .vreg 1, .unused⟩, rfl, rfl,
    ⟨rfl, rfl, .inl rfl, ok_of (by decide +kernel), fun _ => rfl, nothing_owed rfl rfl⟩⟩⟩

/-- A core of which neither a line nor an address is in the way of a gather, and what its base may be: a register of fewer bits. -/
def gatherWord (reg : BitVec 20) (mask : BitVec 3) : VWord :=
  { wordOf 0 3 (0x40000 + 2 * 32768 + reg) 2 with h := { headOf 0 with mask := mask } }

theorem witness_VectorTransfers :
    (∃ (s : State) (w : VWord) (p : VPlan) (f : Fields), p = { movePlan w moveType .no (.rd (typeOf w)) .ctl
        (fun i => allLanes i [] 0) with
        ok5 := moveType (typeOf w) && w.h.rnd == 0 && w.h.sat == 0 && w.h.x3 == 0 && w.h.mask == 0 && w.h.nowb == 0 &&
          w.h.capEn == 0
        ctlOk := fun p => decide (p / 2 ^ 11 % 2 ^ 7 = 0) && decide (1 ≤ p % 32 ∧ p % 32 ≤ 27) } ∧ VectorReady s w p f ∧
      NoLine [(1, s.myTile.xr.opndLines f.a (typeLines (typeOf w)))] []) ∧
    (∃ (s : State) (w : VWord) (p : VPlan) (f : Fields), p = { movePlan w moveType .no (.rd (typeOf w)) .ctl
        (fun i => allLanes i [] 0) with
        ok5 := moveType (typeOf w) && w.h.rnd == 0 && w.h.sat == 0 && w.h.x3 == 0 && w.h.mask == 0 && w.h.nowb == 0 &&
          w.h.capEn == 0
        ctlOk := fun p => decide (p / 2 ^ 11 % 2 ^ 7 = 0) && decide (1 ≤ p % 32 ∧ p % 32 ≤ 27) } ∧ VectorReady s w p f ∧
      ¬ NoLine [(1, s.myTile.xr.opndLines f.a (typeLines (typeOf w)))] []) ∧
    (∃ (w : VWord) (j : VJob), j.word = .vtos w ∧ w.b.toNat % 32 ≠ 0) ∧
    (∀ base : BitVec 20, base ∈ [1, 3] → ∀ mask : BitVec 3, mask ∈ [0, 1] → ∃ (s : State) (w : VWord) (p : VPlan) (f : Fields),
      p = movePlan w (fun t => moveType t && t != 5) (.regWr (typeOf w)) .base .idx (fun i => allLanes i [] 0) ∧
      VectorReady s w p f ∧ ((s.me.fieldValue f.a).toNat % 4 = 0 ↔ base = 1) ∧
      ((∃ n, n < 64 ∧ (lanesOf (s.myTile.xr.mask w.h.mask.toNat)).getD n false = true) ↔ mask = 0)) ∧
    (∀ base : BitVec 20, base ∈ [1, 3] → ∃ (s : State) (w : VWord) (p : VPlan) (f : Fields),
      p = { movePlan w (fun t => moveType t && t != 5) (.regRd (typeOf w)) .base .idx (fun i => allLanes i [] 0) with
        ok5 := moveType (typeOf w) && typeOf w != 5 && w.h.rnd == 0 && w.h.sat == 0 && w.h.x3 == 0 && w.h.nowb == 0 &&
          w.h.capEn == 0 } ∧ VectorReady s w p f ∧ ((s.me.fieldValue f.a).toNat % 4 = 0 ↔ base = 1)) ∧
    (∃ (s : State) (w : VWord) (p : VPlan) (f : Fields), p = { movePlan w (fun t => t == 0) .no .image .no
        (fun i => allLanes i [] 0) with
        ok5 := w.h.etype == 0 && w.h.rnd == 0 && w.h.sat == 0 && w.h.mask == 0 && w.h.nowb == 0 && w.h.capEn == 0 } ∧
      VectorReady s w p f ∧ s.myTile.mopen = [] ∧ ¬ NoLine [(1, s.myTile.xr.opndLines f.a 16)] []) ∧
    (∃ (s : State) (w : VWord) (p : VPlan) (f : Fields), p = { movePlan w (fun t => t == 0) .no .image .no
        (fun i => allLanes i [] 0) with
        ok5 := w.h.etype == 0 && w.h.rnd == 0 && w.h.sat == 0 && w.h.mask == 0 && w.h.nowb == 0 && w.h.capEn == 0 } ∧
      VectorReady s w p f ∧ s.myTile.mopen = [] ∧ NoLine [(1, s.myTile.xr.opndLines f.a 16)] []) :=
  ⟨⟨oneCore .X someCore, wordOf 13 0 1 (0xC0000 + 2 * 32 + 7), _, ⟨.unused, .vreg 1, .imm 71⟩, rfl,
    ⟨rfl, rfl, .inl rfl, ok_of (by decide +kernel), fun _ => rfl, nothing_owed rfl rfl⟩, by unfold NoLine; decide +kernel⟩,
   ⟨oneCore .X someCore, wordOf 13 0 0x80000 (0xC0000 + 2 * 32 + 7), _, ⟨.unused, .walk 0 0 0, .imm 71⟩, rfl,
    ⟨rfl, rfl, .inl rfl, ok_of (by decide +kernel), fun _ => rfl, nothing_owed rfl rfl⟩, by unfold NoLine; decide +kernel⟩,
   ⟨wordOf 13 0 0x80000 (0xC0000 + 2 * 32 + 7), ⟨0, .vtos _, ⟨[], [], [], [], 0, 0, false, []⟩, [], [], [], [], [], 4, none, [], none⟩, rfl,
    by decide⟩,
   fun base hb mask hm => by
    simp only [List.mem_cons, List.not_mem_nil, or_false] at hb hm
    rcases hb with rfl | rfl <;> rcases hm with rfl | rfl
    · exact ⟨oneCore .X someCore, gatherWord 1 0, _, ⟨.vreg 3, .scalar 1, .vreg 2⟩, rfl,
        ⟨rfl, rfl, .inl rfl, ok_of (by decide +kernel), fun _ => rfl, nothing_owed rfl rfl⟩, by decide +kernel, by decide +kernel⟩
    · exact ⟨oneCore .X someCore, gatherWord 1 1, _, ⟨.vreg 3, .scalar 1, .vreg 2⟩, rfl,
        ⟨rfl, rfl, .inl rfl, ok_of (by decide +kernel), fun _ => rfl, nothing_owed rfl rfl⟩, by decide +kernel, by decide +kernel⟩
    · exact ⟨oneCore .X someCore, gatherWord 3 0, _, ⟨.vreg 3, .scalar 3, .vreg 2⟩, rfl,
        ⟨rfl, rfl, .inl rfl, ok_of (by decide +kernel), fun _ => rfl, nothing_owed rfl rfl⟩, by decide +kernel, by decide +kernel⟩
    · exact ⟨oneCore .X someCore, gatherWord 3 1, _, ⟨.vreg 3, .scalar 3, .vreg 2⟩, rfl,
        ⟨rfl, rfl, .inl rfl, ok_of (by decide +kernel), fun _ => rfl, nothing_owed rfl rfl⟩, by decide +kernel, by decide +kernel⟩,
   fun base hb => by
    simp only [List.mem_cons, List.not_mem_nil, or_false] at hb
    rcases hb with rfl | rfl
    · exact ⟨oneCore .X someCore, gatherWord 1 0, _, ⟨.vreg 3, .scalar 1, .vreg 2⟩, rfl,
        ⟨rfl, rfl, .inl rfl, ok_of (by decide +kernel), fun _ => rfl, nothing_owed rfl rfl⟩, by decide +kernel⟩
    · exact ⟨oneCore .X someCore, gatherWord 3 0, _, ⟨.vreg 3, .scalar 3, .vreg 2⟩, rfl,
        ⟨rfl, rfl, .inl rfl, ok_of (by decide +kernel), fun _ => rfl, nothing_owed rfl rfl⟩, by decide +kernel⟩,
   ⟨oneCore .X someCore, wordOf 0 0 0x80000 0, _, ⟨.unused, .walk 0 0 0, .unused⟩, rfl,
    ⟨rfl, rfl, .inl rfl, ok_of (by decide +kernel), fun _ => rfl, nothing_owed rfl rfl⟩, rfl, by unfold NoLine; decide +kernel⟩,
   ⟨oneTile .X (fun t => { t with xr := { t.xr with w := [(0, 6000)] } }), wordOf 0 0 0x80000 0, _,
    ⟨.unused, .walk 0 0 0, .unused⟩, rfl,
    ⟨rfl, rfl, .inl rfl, ok_of (by decide +kernel), fun _ => rfl, nothing_owed rfl rfl⟩, rfl, by unfold NoLine; decide +kernel⟩⟩

theorem witness_ElementsAndRounding :
    (∃ bits, bits < 2 ^ typeBits 0 ∧ ∃ n m e, decodeFloat 0 bits = .fin n m e false) ∧
    (∃ bits, bits < 2 ^ typeBits 9 ∧ 9 ≤ (9 : Nat) ∧ (9 : Nat) ≤ 13) ∧
    (∃ j : VJob, j.reads.find? (fun r => r.1 == 1) = some (1, [31]) ∧ 15 * typeBits 0 / 512 < [31].length ∧
      j.got.find? (fun g => g.1 == 1 && g.2.1 == 0) = some (1, 0, 5)) ∧
    (∃ (t : Tile) (j : VJob) (w : VWord) (p : VPlan), vectorPlan t.xr t.task.recIndex j.word = some (w, p) ∧
      j.writes[0]? = some ((5114 : Nat) : Int) ∧ 15 < min 64 (512 / typeBits p.ud.ty)) :=
  ⟨⟨0x3F800000, by decide, false, 8388608, -23, by decide +kernel⟩, ⟨5, by decide⟩,
   ⟨⟨0, .nop, ⟨[], [], [], [], 0, 0, false, []⟩, [(1, [31])], [], [(1, 0, 5)], [], [], 4, none, [], none⟩, by decide, by decide, by decide⟩,
   ⟨Tile.idle, ⟨0, .vadd (wordOf 0 0x80000 1 2), ⟨[], [], [], [], 0, 0, false, []⟩, [], [5114], [], [], [0], 4, none, [], none⟩, _, _, rfl, rfl,
    by decide⟩⟩

/-- A ring of one slot, without a shape record. -/
def oneSlot (base lps : Nat) (sl : Slot) : Ring := ⟨true, base, 1, lps, 0x1FFF, 0, 0, [(0, sl)], []⟩

/-- A tile with rings for matrix words: two full and one empty of time data, two full of spectral blocks. -/
def matrixTile : State := oneTile .X fun t =>
  { t with
    task := { someTask with pds := [(1, BitVec.ofNat 64 (1300 + 200 * 2 ^ 13 + 8 * 2 ^ 26 + 5 * 2 ^ 32))] }
    rings := [(0, oneSlot 0 520 .full), (1, oneSlot 520 300 .full), (2, oneSlot 900 300 .empty), (3, oneSlot 1300 32 .full),
      (4, oneSlot 1340 32 .full)] }

/-- What remains of MatrixReady at that tile, as one question. -/
def matrixCheck (w : MWord) (p : MPlan) : Bool :=
  p.ok5 && w.resv == 0 && w.tC != 3 && w.init != 3 && w.scA != 3 && w.scB != 3 && decide (w.acc.toNat < 48) &&
    p.source.all (decide <| · < 48) && w.den == 0 && decide (w.dport.toNat < 3) && decide p.rings.Nodup &&
    decide (∀ n ∈ p.accs, matrixTile.myTile.ownerOf n = .nobody) &&
    decide (∀ e ∈ p.reads, (matrixTile.myTile.ring e.ring).isSet = true ∧ e.lines ≤ (matrixTile.myTile.ring e.ring).lps ∧
      matrixTile.myTile.slotNow e.ring (matrixTile.myTile.ring e.ring).h = .full) &&
    p.fill.all (fun e => decide ((matrixTile.myTile.ring e.1).isSet = true ∧ e.2 ≤ (matrixTile.myTile.ring e.1).lps ∧
      matrixTile.myTile.slotNow e.1 (matrixTile.myTile.ring e.1).t = .empty)) &&
    decide (∀ e ∈ p.doms, matrixTile.myTile.ringSpectral (matrixTile.myTile.ring e.2) = p.want matrixTile.myTile) &&
    decide (∀ n ∈ p.rd, matrixTile.myTile.tagOf n = w.tC.toNat ∨ p.tags = false) &&
    decide (∀ e ∈ p.axes, matrixTile.myTile.ringColumns (matrixTile.myTile.ring e.2.1) = e.2.2) && p.srows == [] &&
    !p.refuse (matrixIn matrixTile p w) && p.badRecord matrixTile.myTile == none

theorem matrix_ready {w : MWord} {p : MPlan} (h : matrixCheck w p = true) : MatrixReady matrixTile w p := by
  simp only [matrixCheck, Bool.and_eq_true, decide_eq_true_eq, beq_iff_eq, bne_iff_ne, ne_eq, Bool.not_eq_true'] at h
  obtain ⟨⟨⟨⟨⟨⟨⟨⟨⟨⟨⟨⟨⟨⟨⟨⟨⟨⟨⟨h1, h2⟩, h3⟩, h4⟩, h5⟩, h6⟩, h7⟩, h8⟩, h9⟩, h10⟩, h11⟩, h12⟩, h13⟩, h14⟩, h15⟩, h16⟩, h17⟩, h18⟩, h19⟩, h20⟩ := h
  refine ⟨h1, rfl, h2, h3, h4, h5, h6, .inl rfl, fun _ => h7, fun n e => ?_, fun q _ e => ?_, h10, fun c r => ?_, rfl, rfl,
    Nat.le_refl _, fun l => rfl, fun _ _ => rfl, fun n hn => .inr ⟨h12 n hn, by intro h; cases h⟩, h11,
    fun e he => ⟨⟨(h13 e he).1, (h13 e he).2.1⟩, (h13 e he).2.2⟩, fun e he => ?_, h20, h15,
    fun ht n hn => (h16 n hn).resolve_right (by simp [ht]), h17, fun r hr => ?_, h19⟩
  · rw [e] at h8; exact of_decide_eq_true h8
  · rw [h9] at e; exact absurd e (by decide)
  · cases c <;> rfl
  · rw [he] at h14; exact (of_decide_eq_true h14 |> fun k => ⟨⟨k.1, k.2.1⟩, k.2.2⟩)
  · rw [h18] at hr; cases hr

/-- A delivery of nothing. -/
def noRun (t : Tile) (_ : MRead) : MOut := ⟨[], [], 0, t.xr.lfsr⟩

theorem witness_MatrixWords :
    (∃ (s : State) (w : MWord) (p : MPlan), p = { MPlan.base w 1 4 (fun t _ => accOut t w.acc.toNat w.tC.toNat
        (List.replicate 4096 (0, 0))) with ok5 := otherFields w false true false false true && onlyBits w 30 } ∧
      MatrixReady s w p) ∧
    (∃ (s : State) (w : MWord) (p : MPlan), p = { MPlan.base w 16 24 noRun with
        ok5 := otherFields w true true true false true && onlyBits w 30 && w.tA == (if w.tC = 2 then 12 else 0)
        reads := [⟨w.ringA.toNat, w.popA == 1, 1, 256⟩], doms := [(1, w.ringA.toNat)] } ∧ MatrixReady s w p) ∧
    (∃ (s : State) (w : MWord) (p : MPlan), p = { MPlan.base w 16 16 noRun with
        ok5 := otherFields w false false false false false && onlyBits w 20 && decide (w.p4.toNat < 2 ^ 26)
        source := some (accSOf w), rd := [accSOf w] } ∧ MatrixReady s w p) ∧
    (∃ (s : State) (w : MWord) (p : MPlan), p = { MPlan.base w 16 24 noRun with
        ok5 := otherFields w false true false false false && onlyBits w 20 && decide (w.p4.toNat < 2 ^ 26) && w.tC != 1
        source := some (accSOf w), rd := [accSOf w], tags := true } ∧ MatrixReady s w p) ∧
    (∃ (s : State) (w : MWord) (p : MPlan), p = { MPlan.base w 16 40 noRun with
        ok5 := otherFields w false false true false false && onlyBits w 30 && w.popA == 1
        fill := some (w.ringA.toNat, 257), rd := [w.acc.toNat], wr := [] } ∧ MatrixReady s w p) ∧
    (∃ (s : State) (w : MWord) (p : MPlan), p = { MPlan.base w 16 40 noRun with
        ok5 := otherFields w false false true false false && onlyBits w 30, reads := [⟨w.ringA.toNat, w.popA == 1, 1, 257⟩]
        refuse := fun q => decide (3 ≤ lineAt q.a 256) } ∧ MatrixReady s w p) ∧
    (∃ (s : State) (w : MWord), MatrixReady s w (mownPlan w 0 noRun)) ∧
    (∃ (s : State) (w : MWord), MatrixReady s w (mownPlan w 1 noRun)) :=
  ⟨⟨matrixTile, { mword with acc := 47 }, _, rfl, matrix_ready (by decide +kernel)⟩,
   ⟨matrixTile, { mword with ringA := 1, popA := 1 }, _, rfl, matrix_ready (by decide +kernel)⟩,
   ⟨matrixTile, { mword with acc := 1, p4 := 47 * 2 ^ 20 }, _, rfl, matrix_ready (by decide +kernel)⟩,
   ⟨matrixTile, { mword with p4 := 2 ^ 20 }, _, rfl, matrix_ready (by decide +kernel)⟩,
   ⟨matrixTile, { mword with ringA := 2, popA := 1 }, _, rfl, matrix_ready (by decide +kernel)⟩,
   ⟨matrixTile, { mword with ringA := 1, popA := 1 }, _, rfl, matrix_ready (by decide +kernel)⟩,
   ⟨matrixTile, { mword with p4 := 1 }, matrix_ready (by decide +kernel)⟩,
   ⟨matrixTile, { mword with p4 := 16 * 2 ^ 24 + 1 }, matrix_ready (by decide +kernel)⟩⟩

theorem witness_MatrixWords_rows :
    (∃ (s : State) (w : MWord), MatrixReady s w (mmaPlan w (((((w.tA == 1 || w.tA == 2) && w.tB == w.tA) ||
          ((w.tA == 3 || w.tA == 4) && (w.tB == 3 || w.tB == 4))) && w.tC == 0 ||
          ((w.tA == 9 || w.tA == 10) && (w.tB == 9 || w.tB == 10) && w.tC == 2)) && w.scA == 0 && w.scB == 0))) ∧
    (∃ (s : State) (w : MWord), MatrixReady s w
      (mmaPlan w (mmaqType w.tA && mmaqType w.tB && w.tC == 0 && w.scA != 0 && w.scB != 0))) ∧
    (∃ (s : State) (w : MWord), MatrixReady s w { productPlan w (w.tA == 1 && w.tB == 6 && w.tC == 0 && w.scA == 0 &&
          w.scB == 1 && w.spec == 0 && w.trB == 0 && productFields w 24)
          (operandLines w.tA w.trA 0 (256 * (w.ksteps.toNat + 1)))
          (64 * (w.ksteps.toNat + 1) + 256 * (w.ksteps.toNat + 1) / 32) (16 * (w.ksteps.toNat + 1)) 7 (mmalRun w) with
          book := some (tableOf w) }) ∧
    (∃ (s : State) (w : MWord), MatrixReady s w (productPlan w (w.tA == 7 && w.tB == 7 && w.tC == 1 && w.scA == 0 &&
          w.scB == 0 && w.spec == 1 && w.trA == 0 && w.trB == 0 && productFields w 26) (16 * (w.ksteps.toNat + 1))
          (8 * (w.ksteps.toNat + 1)) ((w.ksteps.toNat + 2) / 2) 8 (mmasRun w))) ∧
    (∃ (s : State) (w : MWord), MatrixReady s w { MPlan.base w 16 40 (mstaRun w) with
          ok5 := otherFields w true true true true true && onlyBits w 9 && w.popA == 1 && mstaTypes w && mrndOf w != 7 &&
            !(cenOf w && w.tC == 2)
          fill := some (w.ringA.toNat, mstaLines w), rd := [w.acc.toNat], wr := []
          want := fun t => t.tagOf w.acc.toNat == 1, doms := [(1, w.ringA.toNat)], tags := true
          axes := if w.scA = 1 then [(1, w.ringA.toNat, false)] else [], cen := cenOf w, rnd := mrndOf w }) ∧
    (∃ (s : State) (w : MWord), MatrixReady s w { MPlan.base w 16 16 (mscalRun w) with
          ok5 := otherFields w false true false false true && onlyBits w 9 && mrndOf w != 7 && !(cenOf w && w.tC == 2)
          rd := [w.acc.toNat], tags := true, cen := cenOf w, rnd := mrndOf w }) ∧
    (∃ (s : State) (w : MWord), MatrixReady s w { MPlan.base w 16 16 (fun t q => maddRun w t q (t.accElems (accSOf w))) with
          ok5 := otherFields w false true false false true && onlyBits w 20 && mrndOf w != 7
          source := some (accSOf w), rd := [w.acc.toNat, accSOf w], tags := true, rnd := mrndOf w }) ∧
    (∃ (s : State) (w : MWord), MatrixReady s w { MPlan.base w 16 24 (fun t q => maddRun w t q (elemsOfLines q.a)) with
          ok5 := otherFields w false true true false true && onlyBits w 26 && mrndOf w != 7
          reads := readsA w 256, rd := [w.acc.toNat], doms := [(1, w.ringA.toNat)], tags := true, rnd := mrndOf w }) :=
  ⟨⟨matrixTile, { mword with tA := 1, tB := 1, init := 1, ringB := 1, popA := 1 }, matrix_ready (by decide +kernel)⟩,
   ⟨matrixTile, { mword with tA := 3, tB := 4, ringB := 1, scA := 1, scB := 1 }, matrix_ready (by decide +kernel)⟩,
   ⟨matrixTile, { mword with tA := 1, tB := 6, init := 1, ringB := 1, scB := 1 }, matrix_ready (by decide +kernel)⟩,
   ⟨matrixTile, { mword with tA := 7, tB := 7, tC := 1, init := 1, ringA := 3, ringB := 4, spec := 1 },
    matrix_ready (by decide +kernel)⟩,
   ⟨matrixTile, { mword with tA := 1, ringA := 2, popA := 1 }, matrix_ready (by decide +kernel)⟩,
   ⟨matrixTile, { mword with p4 := 2 ^ 18 }, matrix_ready (by decide +kernel)⟩,
   ⟨matrixTile, { mword with p4 := 2 ^ 20 }, matrix_ready (by decide +kernel)⟩,
   ⟨matrixTile, { mword with ringA := 1 }, matrix_ready (by decide +kernel)⟩⟩

/-- A tile whose line 0 is the shape record of one FP32 element (R184). -/
def shaped : State := inCtx (oneTile .L fun t => { t with scratch := [(0, 1), (2, 1), (4, 1), (6, 1)] })

theorem witness_EngineWords :
    (∃ (s : State) (w : EWord), EngineReady s 0xC0 w) ∧ (∃ (s : State) (w : EWord), EngineReady s 0xD0 w ∧ w.doneEn = 1) ∧
    (∃ (s : State) (w : EWord), s.cur.core = .X ∨ ewordCodes 0xC0 w = false) ∧
    (∃ (s : State) (w : EWord) (v : U64), ewordCodes 0xC0 w = true ∧ s.unstamped w.h.stamp = false ∧ s.cur.core = .L ∧
      ewordOperand (euseOf 0xC0) w = some v) ∧
    (∃ (s : State) (w : EWord) (code : Nat) (v : U64), ewordCodes 0xC0 w = true ∧ s.cur.core = .L ∧
      ewordOperand (euseOf 0xC0) w = none ∧ w.doneEn = 0 ∧ Due s w.h.stamp ∧ (∀ r, s.me.pending s.now r = false) ∧
      (∀ l, s.myTile.writeLocked l = false ∧ s.myTile.writeLeft s.cur.core s.now l = false) ∧ s.myTile.loadQ.length < 32 ∧
      gathers 0xC0 = false ∧ s.checkCommand s.cur.tile (s.command 0xC0 w) = some (code, v)) :=
  ⟨⟨shaped, eword, by decide, by decide, by decide, by decide, by decide, .inl rfl, fun _ => rfl, fun _ => ⟨rfl, rfl⟩, by decide,
    by decide, by decide +kernel⟩,
   ⟨shaped, { eword with ed := 0, es := 0, doneEn := 1 }, ⟨by decide, by decide, by decide, by decide,
     fun _ => ⟨0, by decide, by decide⟩, .inl rfl, fun _ => rfl, fun _ => ⟨rfl, rfl⟩, by decide, by decide, by decide +kernel⟩, rfl⟩,
   ⟨oneCore .X someCore, eword, .inl rfl⟩,
   ⟨shaped, { eword with ed := 28 }, operandTval 0 28, by decide, by decide, by decide, by decide⟩,
   ⟨shaped, { eword with ed := 2 }, 0x0E, 16, by decide, by decide, by decide, by decide, .inl rfl, fun _ => rfl,
    fun _ => ⟨rfl, rfl⟩, by decide, by decide, by decide +kernel⟩⟩

/-- The package with the context, after reset, and with a command in progress. -/
def hubIdle : State := inCtx State.reset
def hubTaken : State := { inCtx State.reset with dev := [(0x1010, 0)], hubBusy := some 2 }
/-- An operand of HUBCMD: operation, context, partition and tile. -/
def hubWord (op x p g : Nat) : U64 := BitVec.ofNat 64 (op * 2 ^ 56 + x * 2 ^ 44 + p * 2 ^ 36 + g)

theorem witness_ContextCommands :
    (∃ s : State, s.hubFree = false) ∧ (∃ (s : State) (v : U64), s.hubFree = true ∧ hubOp v = 0) ∧
    (∃ (s : State) (v : U64), s.hubFree = true ∧ 9 < hubOp v) ∧
    (∃ (s : State) (v : U64), s.hubFree = true ∧ hubReserved v = true) ∧
    (∃ (s : State) (v : U64) (a : Nat), HubTakes s 1 v ∧ s.ctx (hubCtx v) = none ∧ a = (s.devGet 0x1008).toNat ∧
      a % 256 = 0 ∧ physOk a 256 = true ∧ hubCtx v = 4095) ∧
    (∃ (s : State) (v : U64) (c : Ctx) (bs : List Byte), HubTakes s 2 v ∧ s.ctx (hubCtx v) = some c ∧
      s.readPhys c.recAddr 256 = some bs ∧ ctxRecBad (leNat bs) = true) ∧
    (∃ (s : State) (v : U64) (c : Ctx) (bs : List Byte), HubTakes s 2 v ∧ s.ctx (hubCtx v) = some c ∧
      s.readPhys c.recAddr 256 = some bs ∧ ctxRecBad (leNat bs) = false) ∧
    (∃ (s : State) (v : U64) (c : Ctx), HubTakes s 3 v ∧ s.ctx (hubCtx v) = some c) ∧
    (∃ (s : State) (st : Nat), s.hubBusy = some st) :=
  ⟨⟨hubTaken, by decide⟩, ⟨hubIdle, 0, by decide⟩, ⟨hubIdle, hubWord 10 0 0 0, by decide⟩,
   ⟨hubIdle, hubWord 1 0 0 1024, by decide⟩,
   ⟨{ State.reset with dev := [(0x1008, 0x2000)] }, hubWord 1 4095 0 0, 0x2000, by unfold HubTakes; decide, rfl, rfl, rfl,
    by decide, by decide⟩,
   ⟨hubIdle, hubWord 2 0 0 0, someCtx, _, by unfold HubTakes; decide, rfl, rfl, by decide +kernel⟩,
   ⟨{ hubIdle with hbm := [(229, 4)] }, hubWord 2 0 0 0, someCtx, _, by unfold HubTakes; decide, rfl, rfl, by decide +kernel⟩,
   ⟨hubIdle, hubWord 3 0 0 0, someCtx, by unfold HubTakes; decide, rfl⟩, ⟨hubTaken, 2, rfl⟩⟩

theorem witness_PartitionCommands :
    (∃ (s : State) (v : U64) (bs : List Byte) (p : Nat), HubTakes s 4 v ∧ p = hubPart v ∧
      physOk (s.devGet 0x1008).toNat 256 = true ∧ s.readPhys (s.devGet 0x1008).toNat 256 = some bs ∧
      Store.find s.parts p = none ∧ (∀ e ∈ s.parts, ∀ g ∈ e.2.tiles, leNat bs / 2 ^ g % 2 = 0) ∧ p = 255 ∧
      leNat bs / 2 ^ 639 % 2 = 1) ∧
    (∃ (s : State) (v : U64) (pt : Part) (c : Ctx) (p x : Nat), Store.find s.parts p = some pt ∧ p = hubPart v ∧
      s.ctx x = some c ∧ x = hubCtx v ∧ HubTakes s 5 v ∧ (pt.datum = true → ∀ y ∈ pt.grants, y = x)) ∧
    (∃ (s : State) (v : U64) (pt : Part) (c : Ctx) (p x : Nat), Store.find s.parts p = some pt ∧ p = hubPart v ∧
      s.ctx x = some c ∧ x = hubCtx v ∧ HubTakes s 5 v ∧ pt.datum = true ∧ ∃ y ∈ pt.grants, y ≠ x) ∧
    (∃ (s : State) (v : U64) (pt : Part) (c : Ctx) (p x : Nat), Store.find s.parts p = some pt ∧ p = hubPart v ∧
      s.ctx x = some c ∧ x = hubCtx v ∧ HubTakes s 6 v ∧ pt.grants.Nodup) ∧
    (∃ (s : State) (v : U64) (pt : Part), HubTakes s 7 v ∧ Store.find s.parts (hubPart v) = some pt) ∧
    (∃ (s : State) (v : U64) (p : Nat) (pt : Part), HubTakes s 8 v ∧ s.partOf (hubTile v) = some (p, pt) ∧
      Store.find s.parts p = some pt ∧ (pt.datum = true → s.holdsCard p = false) ∧
      (s.tile (hubTile v)).stoppable = true) ∧
    (∃ (s : State) (v : U64) (pt : Part), HubTakes s 9 v ∧ Store.find s.parts (hubPart v) = some pt ∧
      (pt.datum = true → s.holdsCard (hubPart v) = false) ∧ ∃ g ∈ pt.tiles, (s.tile g).stoppable = true) :=
  ⟨⟨{ inPart State.reset with hbm := [(79, 128)] }, hubWord 4 0 255 0, _, 255, by unfold HubTakes; decide, by decide,
     by decide, rfl, rfl, by decide +kernel, rfl, by decide +kernel⟩,
   ⟨inPart hubIdle, hubWord 5 0 0 0, somePart, someCtx, 0, 0, rfl, by decide, rfl, by decide, by unfold HubTakes; decide,
    by decide⟩,
   ⟨{ inDatum State.reset with ctxs := [(1, someCtx)] }, hubWord 5 1 0 0, { somePart with datum := true }, someCtx, 0, 1, rfl,
    by decide, rfl, by decide, by unfold HubTakes; decide, rfl, 0, by decide⟩,
   ⟨inPart hubIdle, hubWord 6 0 0 0, somePart, someCtx, 0, 0, rfl, by decide, rfl, by decide, by unfold HubTakes; decide,
    by decide⟩,
   ⟨inPart hubIdle, hubWord 7 0 0 0, somePart, by unfold HubTakes; decide, rfl⟩,
   ⟨inPart (oneCore .X someCore), hubWord 8 0 0 0, 0, somePart, by unfold HubTakes; decide, rfl, rfl,
    fun h => absurd h (by decide), by decide⟩,
   ⟨inPart (oneCore .X someCore), hubWord 9 0 0 0, somePart, by unfold HubTakes; decide, rfl,
    fun h => absurd h (by decide), 0, by decide⟩⟩

/-- A migration of page 0 of the context to frame 2 of stack 1, whose time has come; and a settlement of group 0. -/
def someMig : Mig := ⟨0, 0, 0x4000080000000000, 0, 1, 2, 0⟩
def settling : Ctx := { someCtx with settle := [(0, 5)], acks := [0] }
/-- A task saved for a fault in page 0. -/
def parkedTask : Saved := ⟨{ Tile.idle with task := someTask }, 1, 0x40, 0, 0, none, false, none, 0⟩

theorem witness_TranslationUpdates :
    (∃ (s : State) (x : Nat) (w : U64) (c : Ctx), s.ctx x = some c ∧ (∀ n d, s.card n = some d → d.heldWr = []) ∧
      c.dxuPage < 2 ^ 19 ∧
      Store.find s.saved 1 = some parkedTask ∧ parkedTask.kind = 1 ∧ parkedTask.tile.task.ctx = x ∧
      faultPage parkedTask.tile.task.windows parkedTask.fault = c.dxuPage ∧ pageAbsent w.toNat = false) ∧
    (∃ (s : State) (c : Ctx) (d : Card), s.ctx 0 = some c ∧ s.card 1 = some d ∧ d.ctx = 0 ∧
      (∀ n d, s.card n = some d → d.heldWr = []) ∧ ∃ q ∈ d.parked, q.page = c.dxuPage) ∧
    (∃ (s : State) (c : Ctx), s.ctx 0 = some c ∧ c.acks = [0] ∧ 0 < s.now ∧ s.openSince 0 0 = false) ∧
    (∃ (s : State) (c : Ctx), s.ctx 0 = some c ∧ c.acks = [0] ∧ s.openSince 0 0 = true) ∧
    (∃ (s : State) (x page : Nat) (c : Ctx) (m : Mig) (w : U64), s.ctx x = some c ∧ s.migs = [m] ∧ m.ctx = x ∧
      m.page = page ∧ m.due ≤ s.now ∧ w = Store.get 0 c.pages page ∧ w = m.old ∧ w.toNat / 2 ^ 62 = 1 ∧
      (bit w.toNat 15 = 1 → pageFrame w.toNat % 2 = 0) ∧ m.stack < 16 ∧ m.frame < 30516 ∧
      (∀ a, a = serviceFrame (pageStack w.toNat) + pageFrame w.toNat / 8 →
        a < c.cfg.cbase + 8 * page ∨ c.cfg.cbase + 8 * page + 8 ≤ a)) ∧
    (∃ (s : State) (x grp n : Nat) (c : Ctx), s.ctx x = some c ∧ Store.find c.settle grp = some n ∧ n ≤ s.now) ∧
    (∃ (s : State) (x grp n : Nat) (c : Ctx), s.ctx x = some c ∧ Store.find c.settle grp = some n ∧ s.now < n) :=
  ⟨⟨{ hubIdle with saved := [(1, parkedTask)] }, 0, 0x4000080000000000, someCtx, rfl, nofun, by decide, rfl, rfl, rfl,
     by decide, by decide⟩,
   ⟨{ hubIdle with cards := [(1, { someCard with parked := [⟨2, 0x40, 0, false, 7⟩] })] }, someCtx, _, rfl, rfl, rfl,
    fun n d h => by simp [State.card, Store.find] at h; rw [← h.2]; rfl,
    _, List.mem_singleton.2 rfl, rfl⟩,
   ⟨{ State.reset with ctxs := [(0, settling)], now := 1 }, settling, rfl, rfl, by decide, by decide +kernel⟩,
   ⟨{ oneCore .X (globCore ⟨3, 4, 64, .pending, 7, 0, [], none⟩) with ctxs := [(0, settling)] }, settling, rfl, rfl, by decide +kernel⟩,
   ⟨{ hubIdle with migs := [someMig] }, 0, 0, someCtx, someMig, 0x4000080000000000, rfl, rfl, rfl, rfl, by decide, rfl, rfl,
    by decide, by decide, by decide, by decide, fun a h => .inr (by subst h; decide)⟩,
   ⟨{ State.reset with ctxs := [(0, settling)], now := 5 }, 0, 0, 5, settling, rfl, rfl, by decide⟩,
   ⟨{ State.reset with ctxs := [(0, settling)] }, 0, 0, 5, settling, rfl, rfl, by decide⟩⟩

theorem witness_HostAndDevices :
    (∃ s : State, s.ptpPend = none ∧ s.now + 1024 < (s.devGet 0x3000).toNat) ∧
    (∃ s : State, s.ptpPend.isSome = true) ∧ (∃ s : State, (s.devGet 0x3000).toNat = s.now + 1024) ∧
    (∃ (s : State) (d a r : Nat), s.ptpPend = some (d, a, r) ∧ d ≤ s.now) ∧
    (∃ (s : State) (n : Nat) (v : U64), n < 4 ∧ v.toNat ≤ 192 ∧ s.poolUsed n = 0 ∧ n = 3 ∧ v = 192) ∧
    (∃ (s : State) (n : Nat) (v : U64), 192 < v.toNat ∨ s.poolUsed n ≠ 0) ∧ (∃ v : U64, v.getLsbD 63 = true) ∧
    (∃ (s : State) (v : U64), s.htxHead = v.toNat) ∧ (∃ (s : State) (x : Nat) (c : Ctx), x < 4096 ∧ s.ctx x = some c) ∧
    (∃ (s : State) (f : Nat) (v : U64), f < 1024 ∧ v.getLsbD 59 = true ∧
      (s.devGet (0x3000000 + 16 * f + 8)).getLsbD 59 = false) ∧
    (∃ (s : State) (h : Nat) (bs : List Byte), s.hostLost h bs.length = false ∧ bs ≠ []) ∧
    (∃ (h : Nat) (bs : List Byte), physOk h bs.length = true ∧ bs ≠ []) ∧
    (∃ (s : State) (h n : Nat), physOk h n = true ∧ s.poisoned h n = false ∧ 0 < n) ∧
    (∃ (s : State) (port src tag : Nat) (rest : List HostWriter), s.hostAcks = .peer port src tag :: rest ∧
      .peer port src tag ∉ rest) ∧
    (∃ (s : State) (h : HostWriter) (rest : List HostWriter), s.hostAcks = h :: rest ∧ h ∈ rest) ∧
    (∃ (s : State) (h : HostWriter) (rest : List HostWriter), s.hostAcks = h :: rest ∧
      ∀ port src tag, h ≠ .peer port src tag) :=
  ⟨⟨{ State.reset with dev := [(0x3000, 1025)] }, by decide⟩, ⟨{ State.reset with ptpPend := some (9, 0, 0) }, by decide⟩,
   ⟨{ State.reset with dev := [(0x3000, 1024)] }, by decide⟩,
   ⟨{ State.reset with ptpPend := some (0, 0, 0) }, 0, 0, 0, rfl, by decide⟩,
   ⟨State.reset, 3, 192, by decide⟩, ⟨State.reset, 0, 193, .inl (by decide)⟩, ⟨0x8000000000000000, by decide⟩,
   ⟨State.reset, 0, by decide⟩, ⟨hubIdle, 0, someCtx, by decide, rfl⟩,
   ⟨State.reset, 1023, 0x800000000000000, by decide, by decide, by decide⟩, ⟨State.reset, 0, [1], by decide, by decide⟩,
   ⟨0, [1], by decide, by decide⟩, ⟨State.reset, 0, 1, by decide, rfl, by decide⟩,
   ⟨{ State.reset with hostAcks := [.peer 3 2 1, .task 1 .L false] }, 3, 2, 1, _, rfl, by decide⟩,
   ⟨{ State.reset with hostAcks := [.peer 3 2 1, .peer 3 2 1] }, _, _, rfl, by decide⟩,
   ⟨{ State.reset with hostAcks := [.task 1 .L false] }, _, _, rfl, nofun⟩⟩

/-- An inbound window for every peer and address (R354), and flow 0, bound to ring 0 of tile 0 (R359). -/
def linked : State := { inCtx State.reset with dev := [(0x5000000, 0xE0000000000000FF), (0x5000010, 0xFFFFFFFFFF)] }
def ingesting : State := { oneTile .X (fun t => { t with rings := [(0, oneSlot 8 2 .empty)] }) with
  dev := [(0x3000008, 0xA800000000000000)] }
/-- A peer request of the X-core of tile 0, and the core that waits for its reply. -/
def someReq : PeerReq := ⟨3, 1, 0, .X, none, 0, 0, 0, 0, 0⟩
def someGlob : Glob := ⟨2, 4, 0, .pending, 0, 0, [], none⟩
def asking : State := { oneCore .X (globCore someGlob) with peers := [someReq] }

theorem witness_LinksAndPorts :
    (∃ (s : State) (port src tag a x ia pa : Nat) (bs : List Byte), bs.length = 64 ∧
      s.inbound src a true = some (x, ia) ∧ port ∉ s.downPorts ∧ .peer port src tag ∉ s.hostAcks ∧ regionOf ia = 0 ∧
      bitsAt ia 40 8 = 0 ∧ (s.countFrom (portDie port) x ia false).reach x [] ia = .hbm pa) ∧
    (∃ (s : State) (port src a x ia pa : Nat) (bs : List Byte), s.inbound src a false = some (x, ia) ∧ port ∉ s.downPorts ∧
      regionOf ia = 0 ∧ bitsAt ia 40 8 = 0 ∧ (s.countFrom (portDie port) x ia false).reach x [] ia = .hbm pa ∧
      (s.countFrom (portDie port) x ia false).readPhys pa 64 = some bs) ∧
    (∃ (s : State) (port src tag a n : Nat) (bs : List Byte), bs ≠ [] ∧ 0 < n ∧ port ∉ s.downPorts ∧
      .peer port src tag ∉ s.hostAcks ∧ ∀ wr, s.inbound src a wr = none) ∧
    (∃ (s : State) (port tag g : Nat) (c : CoreId) (r : PeerReq) (gl : Glob), s.peers = [r] ∧ r.port = port ∧ r.tag = tag ∧
      r.tile = g ∧ r.core = c ∧ r.fifo = none ∧ (s.core ⟨g, c⟩).glob = some gl ∧ s.datumTile g = false) ∧
    (∃ (s : State) (port tag g : Nat) (c : CoreId) (r : PeerReq) (gl : Glob), s.peers = [r] ∧ r.port = port ∧ r.tag = tag ∧
      r.tile = g ∧ r.core = c ∧ r.fifo = none ∧ (s.core ⟨g, c⟩).glob = some gl ∧ s.datumTile g = true ∧ 2 ≤ r.replays) ∧
    (∃ hdr : U64, hdr.toNat / 2 ^ 62 = 3) ∧ (∃ hdr : U64, hdr.toNat / 2 ^ 62 ≠ 3) ∧
    (∃ (s : State) (port : Nat) (bs : List Byte), port < 2 ∧ 128 + port ∉ s.downPorts ∧ 9216 < bs.length) ∧
    (∃ (s : State) (port : Nat) (bs : List Byte), port < 2 ∧ 128 + port ∉ s.downPorts ∧ bs.length = 59) ∧
    (∀ n ∈ [1023, 1024], ∃ (s : State) (port : Nat) (bs : List Byte), port < 2 ∧ 128 + port ∉ s.downPorts ∧ 60 ≤ bs.length ∧
      bs.length ≤ 9216 ∧ frameType bs ≠ 0x8808 ∧ s.flowOf port bs = none ∧
      n = ((s.devGet 0x3110).toNat + 2 ^ 64 - (s.devGet 0x3108).toNat) % 2 ^ 64) ∧
    (∃ (s : State) (port f g n slot : Nat) (bs : List Byte), port < 2 ∧ 128 + port ∉ s.downPorts ∧ 60 ≤ bs.length ∧
      bs.length ≤ 9216 ∧ frameType bs ≠ 0x8808 ∧ s.flowOf port bs = some f ∧ bit (s.flowEntry f) 124 = 0 ∧
      g = bitsAt (s.flowEntry f) 110 10 ∧ s.claimable f = some (n, slot)) ∧
    (∃ (r : Ring) (slot o : Nat) (v : Byte), r.base + (slot + 1) * r.lps ≤ 5115 ∧ (List.replicate 60 (0 : Byte))[o]? = some v ∧
      o < (r.lps - 1) * 64 ∧ r = (ingesting.tile 0).ring 0) ∧
    (∃ (s : State) (g n slot d : Nat), slot < 64 ∧ (s.tile g).claims = [(n, slot, d)] ∧ d ≤ s.now ∧
      (s.tile g).slotWritten n slot = true ∧ ((s.tile g).queue 5).toks = [] ∧ 0 < ((s.tile g).queue 5).resv) ∧
    (∃ (s : State) (port : Nat) (x : TxFrame) (rest : List TxFrame), Store.get [] s.txq port = x :: rest ∧ x.launch ≤ s.tai ∧
      Store.get 0 s.txFree port ≤ s.now ∧ 128 + port ∉ s.downPorts ∧ s.htxHead = (s.devGet 0x3208).toNat) :=
  ⟨⟨linked, 0, 0, 0, 128, 0, 128, 0x200080, List.replicate 64 0, rfl, by decide +kernel, by decide, by decide, by decide,
     by decide, by decide +kernel⟩,
   ⟨linked, 0, 0, 128, 0, 128, 0x200080, List.replicate 64 0, by decide +kernel, by decide, by decide, by decide, by decide +kernel,
     by decide +kernel⟩,
   ⟨State.reset, 0, 0, 0, 0, 1, [0], by decide, by decide, by decide, by decide, fun wr => by cases wr <;> decide +kernel⟩,
   ⟨asking, 3, 1, 0, .X, someReq, someGlob, rfl, rfl, rfl, rfl, rfl, rfl, rfl, by decide⟩,
   ⟨inDatum { asking with peers := [{ someReq with replays := 2 }] }, 3, 1, 0, .X, { someReq with replays := 2 }, someGlob, rfl, rfl,
    rfl, rfl, rfl, rfl, rfl, by decide, by decide⟩,
   ⟨0xC000000000000000, by decide⟩, ⟨0, by decide⟩,
   ⟨State.reset, 0, List.replicate 9217 0, by decide, by decide, by rw [List.length_replicate]; decide⟩,
   ⟨State.reset, 1, List.replicate 59 0, by decide, by decide, rfl⟩,
   fun n h => by
    simp only [List.mem_cons, List.not_mem_nil, or_false] at h
    rcases h with rfl | rfl
    · exact ⟨{ State.reset with dev := [(0x3110, 1023)] }, 0, List.replicate 60 0, by decide, by decide, by decide, by decide,
        by decide +kernel, by decide +kernel, by decide +kernel⟩
    · exact ⟨{ State.reset with dev := [(0x3110, 1024)] }, 0, List.replicate 60 0, by decide, by decide, by decide, by decide,
        by decide +kernel, by decide +kernel, by decide +kernel⟩,
   ⟨ingesting, 0, 0, 0, 0, 0, List.replicate 60 0, by decide, by decide, by decide, by decide, by decide +kernel, by decide +kernel,
     by decide +kernel, by decide +kernel, by decide +kernel⟩,
   ⟨_, 0, 59, 0, by decide +kernel, rfl, by decide +kernel, rfl⟩,
   ⟨oneTile .X (fun t => { t with rings := [(0, oneSlot 8 2 .writing)], claims := [(0, 0, 0)], queues := [(5, ⟨[], 1, []⟩)] }),
    0, 0, 0, 0, by decide, rfl, by decide, by decide +kernel, rfl, by decide⟩,
   ⟨{ State.reset with txq := [(1, [⟨0, 0, false, List.replicate 60 0, none⟩])] }, 1, _, [], rfl, by decide, by decide,
    by decide, by decide⟩⟩

theorem witness_ErrorsAndPower :
    (∃ (s : State) (g : Nat), g < 640 ∧ (s.tile g).task.live = false ∧ (s.tile g).accOwner = [] ∧ (s.tile g).chunk = [] ∧
      s.monument.length < 4096) ∧
    (∃ (s : State) (g : Nat) (c : CoreId) (gl : Glob), (s.core ⟨g, c⟩).glob = some gl) ∧
    (∃ s : State, s.poison = [] ∧ (s.telSeq + 1) % 2 = 1 ∧ s.plim ≤ 3600) ∧ (∃ s : State, s.poison = [] ∧ (s.telSeq + 1) % 2 = 0) ∧
    (∃ (s : State) (g : Nat), s.ctxs = [] ∧ ∀ e ∈ s.parts, e.2.datum = false → g ∉ e.2.tiles) ∧
    (∃ (s : State) (k : Nat) (e : BitVec 128), s.flashing ≠ [] ∧ k < 4096 ∧ s.monument[k]? = some e) ∧
    (∃ s : State, s.flashing = []) ∧ (∃ (s : State) (g : Nat), g < 640 ∧ s.monument = [] ∧ s.broken = []) ∧
    (∃ s : State, s.powered = true ∧ s.rising = true ∧ s.agenda = [] ∧ s.turn = []) ∧
    (∃ s : State, s.powered = false ∧ s.agenda = []) :=
  ⟨⟨State.reset, 639, by decide⟩, ⟨asking, 0, .X, someGlob, rfl⟩, ⟨State.reset, rfl, by decide, by decide⟩,
   ⟨{ State.reset with telSeq := 1 }, rfl, by decide⟩, ⟨inDatum State.reset, 0, rfl, by decide⟩,
   ⟨{ State.reset with monument := [5], flashing := [0] }, 0, 5, by decide, by decide, rfl⟩, ⟨State.reset, rfl⟩,
   ⟨State.reset, 639, by decide, rfl, rfl⟩, ⟨{ State.reset with rising := true, agenda := [], turn := [] }, rfl, rfl, rfl, rfl⟩,
   ⟨{ State.reset with powered := false }, rfl, rfl⟩⟩

theorem witness_DecodeEncode :
    (∃ i : Instr, i.wf = true ∧ isEvent i = false) ∧ (∃ (us : List U32) (i : Instr), decode us = some i) :=
  ⟨⟨.mma { mword with tA := 1, tB := 1 }, by decide +kernel⟩, ⟨[0x01184400], _, rfl⟩⟩

/-- The state with a unit placed where the next step fetches, and the same with a STOP before its core. -/
def placed (w : Nat) : State := State.reset.withFetchWord 32 w
def stopping (w : Nat) : State := (placed w).setCore ⟨0, .X⟩ { codeCore with stopIn := true }

theorem witness_StepRunsWords :
    (∃ (s : State) (w : Who) (rest : List Who) (i : Instr), s.agenda = [] ∧ s.turn = w :: rest ∧ s.powered = true ∧
      (s.core w).run = .running ∧ (s.core w).nextAt ≤ s.now ∧ s.forkHeld w = false ∧ s.yields w rest = false ∧ s.fetch w = .word i ∧
      (s.core w).stopIn = false) ∧
    (∃ (s : State) (w : Who) (rest : List Who) (i : Instr) (u t : State), s.agenda = [] ∧ s.turn = w :: rest ∧
      s.powered = true ∧ (s.core w).run = .running ∧ (s.core w).nextAt ≤ s.now ∧ s.forkHeld w = false ∧ s.yields w rest = false ∧
      u = ({ s with turn := rest, cur := w } : State).countFetch w ∧ s.fetch w = .word i ∧ (s.core w).stopIn = true ∧
      (s.core w).priv = 0 ∧ exec i u = .next t ∧ (t.core w).priv ≠ 1) ∧
    (∃ (s : State) (w : Who) (rest : List Who) (code : Nat) (tval : U64), s.agenda = [] ∧ s.turn = w :: rest ∧
      s.powered = true ∧ (s.core w).run = .running ∧ (s.core w).nextAt ≤ s.now ∧ s.forkHeld w = false ∧ s.yields w rest = false ∧
      s.fetch w = .bad code tval) ∧
    (∃ (s : State) (w : Who) (rest : List Who), s.agenda = [] ∧ s.turn = w :: rest ∧ s.powered = true ∧
      (s.core w).run = .idle) ∧
    (∃ (s : State) (w : Who) (rest : List Who), s.agenda = [] ∧ s.turn = w :: rest ∧ s.powered = true ∧
      s.yields w rest = true) ∧
    (∃ (s : State) (w : Who) (us : List U32) (i : Instr), us.length = wordUnits (us.headD 0) ∧ decode us = some i ∧
      ∀ k, k < us.length → (s.core w).inCode ((s.core w).pc + 4 * BitVec.ofNat 64 k) = true ∧
        s.fetchUnit w.tile ((s.core w).pc + 4 * BitVec.ofNat 64 k) = .ok (us.getD k 0)) ∧
    (∃ (s : State) (w : Who), (s.core w).inCode (s.core w).pc = false) ∧
    (∃ (s : State) (i : Instr) (rest : List Instr), s.agenda = i :: rest ∧ s.turn = [] ∧ s.powered = true ∧
      isEvent i = true ∧ 130 ∉ s.downPorts) ∧
    (∃ (s : State) (i : Instr) (rest : List Instr), s.agenda = i :: rest ∧ s.powered = true ∧ isEvent i = true ∧
      130 ∈ s.downPorts ∧ overCxl i = false) ∧
    (∃ s : State, s.agenda = [] ∧ s.turn = [] ∧ s.powered = true ∧ s.rising = false ∧ ∀ g, s.lost g = false) :=
  ⟨⟨placed 0x01184400, ⟨0, .X⟩, [], .add 3 1 2, rfl, rfl, rfl, rfl, by decide, by decide, by decide, by decide +kernel, rfl⟩,
   ⟨stopping 0x01184400, ⟨0, .X⟩, [], .add 3 1 2, _, _, rfl, rfl, rfl, rfl, by decide, by decide, by decide, rfl, by decide +kernel, rfl, rfl,
    rfl, by decide +kernel⟩,
   ⟨placed 0xC0000000, ⟨0, .X⟩, [], 2, 0xC0000000, rfl, rfl, rfl, rfl, by decide, by decide, by decide, by decide +kernel⟩,
   ⟨{ State.reset with agenda := [], turn := [⟨0, .L⟩] }, ⟨0, .L⟩, [], rfl, rfl, rfl, rfl⟩,
   ⟨{ oneCore .X { someCore with run := .waiting (.meet true) } with agenda := [], turn := [⟨0, .X⟩, ⟨0, .S⟩] }, ⟨0, .X⟩, [⟨0, .S⟩], rfl,
    rfl, rfl, by decide⟩,
   ⟨placed 0x01184400, ⟨0, .X⟩, [0x01184400], .add 3 1 2, by decide, by decide, fun k hk => by
     obtain rfl : k = 0 := by simpa using hk
     exact ⟨by decide +kernel, ok_of (by decide +kernel)⟩⟩,
   ⟨State.reset, ⟨0, .X⟩, by decide⟩, ⟨{ State.reset with agenda := [.refresh 0], turn := [] }, _, _, rfl, rfl, rfl, by decide, by decide⟩,
   ⟨{ State.reset with agenda := [.refresh 0], turn := [], downPorts := [130] }, _, _, rfl, rfl, by decide, by decide, rfl⟩,
   ⟨{ State.reset with agenda := [], turn := [] }, rfl, rfl, rfl, rfl, fun _ => rfl⟩⟩

theorem witness_StepKeepsMemories : ∃ s s' : State, MemoriesCanonical s ∧ step s = .next s' :=
  ⟨{ State.reset with agenda := [.refresh 0] }, _, by unfold MemoriesCanonical; decide +kernel, rfl⟩

/-- Words whose operand fields all differ. -/
def someVector (x3 : BitVec 3) : VWord := ⟨⟨1, 2, 1, 0, 3, 5, 1, x3, none, []⟩, 0x80001, 0xABCDE, 0x40402⟩
def someEngine : EWord := ⟨⟨0, 0, 0, 0, 0, 0, 0, 0, some 77, [0xDEADBEEF]⟩, 9, 10, 11, 12, 1023, 14, 5, 1, 2, 6, 1, 1, 3, 1, 0xABC⟩
def someMatrix (p4 : BitVec 30) : MWord :=
  ⟨7, 9, 2, 45, 1, 13, 5, 1, 1, 2, 6, 0, 1, 1, 1, 1, 3, 1, 1, 0x1A5, 0x12345678, p4, 0x15555555, 0x2AAAAAAA⟩

/-- R24, R46: the ALU-R words by fn9. -/
theorem test_decode_alu_register : ∀ e ∈ ([
    ([0x01F44A00], .add 30 17 5), ([0x01F44A01], .sub 30 17 5), ([0x01F44A02], .and 30 17 5),
    ([0x01F44A03], .or 30 17 5), ([0x01F44A04], .xor 30 17 5), ([0x01F44A05], .andn 30 17 5),
    ([0x01F44A06], .orn 30 17 5), ([0x01F44A07], .xnor 30 17 5), ([0x01F44A08], .shl 30 17 5),
    ([0x01F44A09], .shr 30 17 5), ([0x01F44A0A], .sra 30 17 5), ([0x01F44A0B], .rotr 30 17 5),
    ([0x01F44A0C], .rotl 30 17 5), ([0x01F44A0D], .mul 30 17 5), ([0x01F44A0E], .mulh 30 17 5),
    ([0x01F44A0F], .mulhu 30 17 5), ([0x01F44A10], .div 30 17 5), ([0x01F44A11], .divu 30 17 5),
    ([0x01F44A12], .rem 30 17 5), ([0x01F44A13], .remu 30 17 5), ([0x01F44A14], .min 30 17 5),
    ([0x01F44A15], .max 30 17 5), ([0x01F44A16], .minu 30 17 5), ([0x01F44A17], .maxu 30 17 5),
    ([0x01F44A18], .slt 30 17 5), ([0x01F44A19], .sltu 30 17 5), ([0x01F44A1A], .seq 30 17 5),
    ([0x01F44A1B], .sne 30 17 5), ([0x01F7401C], .clz 30 29), ([0x01F7401D], .ctz 30 29), ([0x01F7401E], .popc 30 29),
    ([0x01F7401F], .brev 30 29), ([0x01F74020], .sextb 30 29), ([0x01F74021], .sexth 30 29),
    ([0x01F74022], .sextw 30 29), ([0x01F44A23], .addw 30 17 5), ([0x01F44A24], .subw 30 17 5),
    ([0x01F44A25], .sel 30 17 5)] : List (List U32 × Instr)), decode e.1 = some e.2 := by decide +kernel

/-- R24, R45, R109: the immediate words by op6. -/
theorem test_decode_alu_immediate : ∀ e ∈ ([
    ([0x024D2001], .addi 9 20 0x2001), ([0x034D2001], .andi 9 20 0x2001), ([0x044D2001], .ori 9 20 0x2001),
    ([0x054D2001], .xori 9 20 0x2001), ([0x064D002A], .shli 9 20 0x2a), ([0x074D002A], .shri 9 20 0x2a),
    ([0x084D002A], .srai 9 20 0x2a), ([0x094D2001], .slti 9 20 0x2001), ([0x0A4D2001], .sltui 9 20 0x2001),
    ([0x0B4D2001], .muli 9 20 0x2001), ([0x0C4C0001], .lih 9 0x40001), ([0x0D4D02E8], .extr 9 20 11 40),
    ([0x0E4D02E8], .extru 9 20 11 40), ([0x0F4D02E8], .insr 9 20 11 40)] : List (List U32 × Instr)), decode e.1 = some e.2 := by decide +kernel

/-- R24, R45, R48: branches and jumps. -/
theorem test_decode_control_flow : ∀ e ∈ ([
    ([0x10298401], .br 5 6 0 0x401), ([0x10298C01], .br 5 6 1 0x401), ([0x10299401], .br 5 6 2 0x401),
    ([0x10299C01], .br 5 6 3 0x401), ([0x1029A401], .br 5 6 4 0x401), ([0x1029AC01], .br 5 6 5 0x401),
    ([0x113807FE], .loop 7 0x7FE), ([0x12800001], .j 0x800001), ([0x13000002], .call 2), ([0x14010008], .jr 4 8),
    ([0x15013FFC], .callr 4 0x3FFC)] : List (List U32 × Instr)), decode e.1 = some e.2 := by decide +kernel

/-- R24, R45: scratch, global and CSR words by op6. -/
theorem test_decode_memory_and_csr : ∀ e ∈ ([
    ([0x185B0018], .ldsB 11 12 24), ([0x195B0018], .ldsBu 11 12 24), ([0x1A5B0018], .ldsH 11 12 24),
    ([0x1B5B0018], .ldsHu 11 12 24), ([0x1C5B0018], .ldsW 11 12 24), ([0x1D5B0018], .ldsWu 11 12 24),
    ([0x1E5B0018], .ldsD 11 12 24), ([0x205B0018], .stsB 11 12 24), ([0x215B0018], .stsH 11 12 24),
    ([0x225B0018], .stsW 11 12 24), ([0x235B0018], .stsD 11 12 24), ([0x245B0018], .ldgW 11 12 24),
    ([0x255B0018], .ldgWu 11 12 24), ([0x265B0018], .ldgD 11 12 24), ([0x275B0018], .stgW 11 12 24),
    ([0x285B0018], .stgD 11 12 24), ([0x2C58010F], .csrrd 11 0x10F), ([0x2D5B010F], .csrwr 11 12 0x10F),
    ([0x2E5B010F], .csrset 11 12 0x10F), ([0x2F5B010F], .csrclr 11 12 0x10F)] : List (List U32 × Instr)), decode e.1 = some e.2 := by decide +kernel

/-- R24, R209, R223: token, barrier, group and ring words. -/
theorem test_decode_tokens_and_rings : ∀ e ∈ ([
    ([0x30280060], .qpop 5 1 2 0), ([0x31024021], .qpush 9 0 2 1), ([0x32280030], .qpeek 5 3),
    ([0x33280070], .qcnt 5 1 3), ([0x34290003], .fork 5 4 3), ([0x35000000], .rendz), ([0x3619C010], .waitb 3 7 16),
    ([0x3701FFFF], .arrive 7 0x3FFF), ([0x3819C000], .barinit 3 7), ([0x3918000F], .join 3 15),
    ([0x3A18000F], .leave 3 15), ([0x3B00000F], .gbar 15), ([0x3C19C010], .putf 3 7 16), ([0x3D19C010], .getf 3 7 16),
    ([0x3E01C006], .ringset 7 6), ([0x3F280060], .ringopTail 5 6), ([0x3F000061], .ringopFill 6),
    ([0x3F280062], .ringopHead 5 6), ([0x3F000063], .ringopFree 6), ([0x3F280064], .ringopCount 5 6),
    ([0x3F000065], .ringopReset 6)] : List (List U32 × Instr)), decode e.1 = some e.2 := by decide +kernel

/-- R24, R224: the SYS words by fn9. -/
theorem test_decode_system : ∀ e ∈ ([
    ([0x00188200], .illegal 3 2 1), ([0x00000001], .nop), ([0x00018002], .trap 6), ([0x00000003], .eret),
    ([0x00000004], .halt), ([0x00018005], .exit 6), ([0x00018006], .fence 1 2), ([0x0007C007], .mark 31),
    ([0x00000008], .brk), ([0x00000009], .retire), ([0x0001800A], .sstep 6), ([0x0001800B], .frame 6),
    ([0x0001800C], .waitt 6), ([0x0001800D], .waitd 6), ([0x0001800E], .abortg 6), ([0x0000000F], .abchk),
    ([0x00298010], .launch 5 6)] : List (List U32 × Instr)), decode e.1 = some e.2 := by decide +kernel

/-- R25, R49, R51: the vector words by op8 and x3. -/
theorem test_decode_vector : ∀ e ∈ ([
    ([0x40054C58, 0xE00006AF, 0xCDE40402], .vmov (someVector 0)),
    ([0x40454C58, 0xE00006AF, 0xCDE40402], .vadd (someVector 0)),
    ([0x40854C58, 0xE00006AF, 0xCDE40402], .vsub (someVector 0)),
    ([0x40C54C58, 0xE00006AF, 0xCDE40402], .vmul (someVector 0)),
    ([0x41054C58, 0xE00006AF, 0xCDE40402], .vfma (someVector 0)),
    ([0x41454C58, 0xE00006AF, 0xCDE40402], .vfms (someVector 0)),
    ([0x41854C58, 0xE00006AF, 0xCDE40402], .vfnma (someVector 0)),
    ([0x41C54C58, 0xE00006AF, 0xCDE40402], .vmin (someVector 0)),
    ([0x42054C58, 0xE00006AF, 0xCDE40402], .vmax (someVector 0)),
    ([0x42454C58, 0xE00006AF, 0xCDE40402], .vabs (someVector 0)),
    ([0x42854C58, 0xE00006AF, 0xCDE40402], .vneg (someVector 0)),
    ([0x42C54C58, 0xE00006AF, 0xCDE40402], .vrcp (someVector 0)),
    ([0x43054C58, 0xE00006AF, 0xCDE40402], .vrsq (someVector 0)),
    ([0x43454C58, 0xE00006AF, 0xCDE40402], .vsqrt (someVector 0)),
    ([0x43854C58, 0xE00006AF, 0xCDE40402], .vdiv (someVector 0)),
    ([0x43C54C58, 0xE00006AF, 0xCDE40402], .vfexp2 (someVector 0)),
    ([0x44054C58, 0xE00006AF, 0xCDE40402], .vflog2 (someVector 0)),
    ([0x44454C58, 0xE00006AF, 0xCDE40402], .vrndi (someVector 0)),
    ([0x44854C58, 0xE00006AF, 0xCDE40402], .vscalb (someVector 0)),
    ([0x44C54C58, 0xE00006AF, 0xCDE40402], .vgetexp (someVector 0)),
    ([0x45054C58, 0xE00006AF, 0xCDE40402], .vgetmant (someVector 0)),
    ([0x45454C58, 0xE00006AF, 0xCDE40402], .vclass (someVector 0)),
    ([0x45854C58, 0xE00006AF, 0xCDE40402], .vcmp (someVector 0)),
    ([0x45C54C58, 0xE00006AF, 0xCDE40402], .vsel (someVector 0)),
    ([0x46054C58, 0xE00006AF, 0xCDE40402], .vmaskop (someVector 0)),
    ([0x48054C58, 0xE00006AF, 0xCDE40402], .viadd (someVector 0)),
    ([0x48454C58, 0xE00006AF, 0xCDE40402], .visub (someVector 0)),
    ([0x48854C58, 0xE00006AF, 0xCDE40402], .vimul (someVector 0)),
    ([0x48C54C58, 0xE00006AF, 0xCDE40402], .vimin (someVector 0)),
    ([0x49054C58, 0xE00006AF, 0xCDE40402], .vimax (someVector 0)),
    ([0x49454C58, 0xE00006AF, 0xCDE40402], .vand (someVector 0)),
    ([0x49854C58, 0xE00006AF, 0xCDE40402], .vor (someVector 0)),
    ([0x49C54C58, 0xE00006AF, 0xCDE40402], .vxor (someVector 0)),
    ([0x4A054C58, 0xE00006AF, 0xCDE40402], .vshl (someVector 0)),
    ([0x4A454C58, 0xE00006AF, 0xCDE40402], .vshr (someVector 0)),
    ([0x4A854C58, 0xE00006AF, 0xCDE40402], .vsra (someVector 0)),
    ([0x4AC54C58, 0xE00006AF, 0xCDE40402], .viminu (someVector 0)),
    ([0x4B054C58, 0xE00006AF, 0xCDE40402], .vimaxu (someVector 0)),
    ([0x4C054C58, 0xE00006AF, 0xCDE40402], .vcmul (someVector 0)),
    ([0x4C454C58, 0xE00006AF, 0xCDE40402], .vcmac (someVector 0)),
    ([0x4E054C58, 0xE00006AF, 0xCDE40402], .vradd (someVector 0)),
    ([0x4E454C58, 0xE00006AF, 0xCDE40402], .vrmax (someVector 0)),
    ([0x4E854C58, 0xE00006AF, 0xCDE40402], .vrmin (someVector 0)),
    ([0x4EC54C58, 0xE00006AF, 0xCDE40402], .vramax (someVector 0)),
    ([0x4F054C58, 0xE00006AF, 0xCDE40402], .vscan (someVector 0)),
    ([0x58054C58, 0xE00006AF, 0xCDE40402], .vcvt (someVector 0)),
    ([0x58454C58, 0xE00006AF, 0xCDE40402], .vamaxb (someVector 0)),
    ([0x58854C58, 0xE00006AF, 0xCDE40402], .vqnt (someVector 0)),
    ([0x58C54C58, 0xE00006AF, 0xCDE40402], .vdqnt (someVector 0)),
    ([0x59054C58, 0xE00006AF, 0xCDE40402], .vlqdec (someVector 0)),
    ([0x59454C58, 0xE00006AF, 0xCDE40402], .vhad (someVector 0)),
    ([0x59854C58, 0xE00006AF, 0xCDE40402], .vpack (someVector 0)),
    ([0x59C54C58, 0xE00006AF, 0xCDE40402], .vunpk (someVector 0)),
    ([0x5A054C58, 0xE00006AF, 0xCDE40402], .vperm (someVector 0)),
    ([0x5A454C58, 0xE00006AF, 0xCDE40402], .vshuf (someVector 0)),
    ([0x5A854C58, 0xE00006AF, 0xCDE40402], .vslide (someVector 0)),
    ([0x5AC54C58, 0xE00006AF, 0xCDE40402], .vbcast (someVector 0)),
    ([0x5B054C58, 0xE00006AF, 0xCDE40402], .vgath (someVector 0)),
    ([0x5B454C58, 0xE00006AF, 0xCDE40402], .vscat (someVector 0)),
    ([0x5B854C58, 0xE00006AF, 0xCDE40402], .vcomp (someVector 0)),
    ([0x5BC54C58, 0xE00006AF, 0xCDE40402], .vexpd (someVector 0)),
    ([0x5C054C58, 0xE00006AF, 0xCDE40402], .vtos (someVector 0)),
    ([0x50054C58, 0xE00006AF, 0xCDE40402], .vlfsrRead (someVector 0)),
    ([0x50054C59, 0xE00006AF, 0xCDE40402], .vlfsrWrite (someVector 1)),
    ([0x50054C5A, 0xE00006AF, 0xCDE40402], .vlfsrAdvance (someVector 2)),
    ([0x50054C5B, 0xE00006AF, 0xCDE40402], .vlfsrReseed (someVector 3)),
    ([0x5C454C58, 0xE00006AF, 0xCDE40402], .cbldConst (someVector 0)),
    ([0x5C454C59, 0xE00006AF, 0xCDE40402], .cbldCodebook (someVector 1)),
    ([0x5C454C5C, 0xE00006AF, 0xCDE40402], .cbldCodebook (someVector 4))] : List (List U32 × Instr)), decode e.1 = some e.2 := by decide +kernel

/-- R26, R27, R49: the engine words by op8, with a stamp and a literal. -/
theorem test_decode_engine : ∀ e ∈ ([
    ([0x70000280, 0xD2A5B3FF, 0xFAEDFABC, 0xC000004D, 0xDEADBEEF], .cpy someEngine),
    ([0x70400280, 0xD2A5B3FF, 0xFAEDFABC, 0xC000004D, 0xDEADBEEF], .cpyo someEngine),
    ([0x70800280, 0xD2A5B3FF, 0xFAEDFABC, 0xC000004D, 0xDEADBEEF], .cpyg someEngine),
    ([0x70C00280, 0xD2A5B3FF, 0xFAEDFABC, 0xC000004D, 0xDEADBEEF], .cpys someEngine),
    ([0x71000280, 0xD2A5B3FF, 0xFAEDFABC, 0xC000004D, 0xDEADBEEF], .cpyr someEngine),
    ([0x71400280, 0xD2A5B3FF, 0xFAEDFABC, 0xC000004D, 0xDEADBEEF], .cpyq someEngine),
    ([0x71800280, 0xD2A5B3FF, 0xFAEDFABC, 0xC000004D, 0xDEADBEEF], .cpydq someEngine),
    ([0x71C00280, 0xD2A5B3FF, 0xFAEDFABC, 0xC000004D, 0xDEADBEEF], .pref someEngine),
    ([0x72000280, 0xD2A5B3FF, 0xFAEDFABC, 0xC000004D, 0xDEADBEEF], .cflush someEngine),
    ([0x72400280, 0xD2A5B3FF, 0xFAEDFABC, 0xC000004D, 0xDEADBEEF], .xfft someEngine),
    ([0x72800280, 0xD2A5B3FF, 0xFAEDFABC, 0xC000004D, 0xDEADBEEF], .xifft someEngine),
    ([0x72C00280, 0xD2A5B3FF, 0xFAEDFABC, 0xC000004D, 0xDEADBEEF], .xhad someEngine),
    ([0x73000280, 0xD2A5B3FF, 0xFAEDFABC, 0xC000004D, 0xDEADBEEF], .xexp someEngine),
    ([0x73400280, 0xD2A5B3FF, 0xFAEDFABC, 0xC000004D, 0xDEADBEEF], .xtrl someEngine),
    ([0x73800280, 0xD2A5B3FF, 0xFAEDFABC, 0xC000004D, 0xDEADBEEF], .sacc someEngine),
    ([0x73C00280, 0xD2A5B3FF, 0xFAEDFABC, 0xC000004D, 0xDEADBEEF], .amo someEngine),
    ([0x74000280, 0xD2A5B3FF, 0xFAEDFABC, 0xC000004D, 0xDEADBEEF], .publ someEngine),
    ([0x74400280, 0xD2A5B3FF, 0xFAEDFABC, 0xC000004D, 0xDEADBEEF], .disc someEngine),
    ([0x74800280, 0xD2A5B3FF, 0xFAEDFABC, 0xC000004D, 0xDEADBEEF], .lxfer someEngine),
    ([0x74C00280, 0xD2A5B3FF, 0xFAEDFABC, 0xC000004D, 0xDEADBEEF], .nxtx someEngine),
    ([0x75000280, 0xD2A5B3FF, 0xFAEDFABC, 0xC000004D, 0xDEADBEEF], .nxarm someEngine)] : List (List U32 × Instr)), decode e.1 = some e.2 := by decide +kernel

/-- R28, R52: the matrix words by op8. -/
theorem test_decode_matrix : ∀ e ∈ ([
    ([0x801E6B5D, 0xEF65DFA5, 0xD2345678, 0xEBCDEF01, 0xD5555555, 0xEAAAAAAA], .mma (someMatrix 0x2BCDEF01)),
    ([0x805E6B5D, 0xEF65DFA5, 0xD2345678, 0xEBCDEF01, 0xD5555555, 0xEAAAAAAA], .mmaq (someMatrix 0x2BCDEF01)),
    ([0x809E6B5D, 0xEF65DFA5, 0xD2345678, 0xEBCDEF01, 0xD5555555, 0xEAAAAAAA], .mmal (someMatrix 0x2BCDEF01)),
    ([0x80DE6B5D, 0xEF65DFA5, 0xD2345678, 0xEBCDEF01, 0xD5555555, 0xEAAAAAAA], .mmas (someMatrix 0x2BCDEF01)),
    ([0x811E6B5D, 0xEF65DFA5, 0xD2345678, 0xEBCDEF01, 0xD5555555, 0xEAAAAAAA], .mzero (someMatrix 0x2BCDEF01)),
    ([0x815E6B5D, 0xEF65DFA5, 0xD2345678, 0xEBCDEF01, 0xD5555555, 0xEAAAAAAA], .mlda (someMatrix 0x2BCDEF01)),
    ([0x819E6B5D, 0xEF65DFA5, 0xD2345678, 0xEBCDEF01, 0xD5555555, 0xEAAAAAAA], .msta (someMatrix 0x2BCDEF01)),
    ([0x81DE6B5D, 0xEF65DFA5, 0xD2345678, 0xEBCDEF01, 0xD5555555, 0xEAAAAAAA], .mcopy (someMatrix 0x2BCDEF01)),
    ([0x821E6B5D, 0xEF65DFA5, 0xD2345678, 0xEBCDEF01, 0xD5555555, 0xEAAAAAAA], .mtrn (someMatrix 0x2BCDEF01)),
    ([0x825E6B5D, 0xEF65DFA5, 0xD2345678, 0xEBCDEF01, 0xD5555555, 0xEAAAAAAA], .mscal (someMatrix 0x2BCDEF01)),
    ([0x829E6B5D, 0xEF65DFA5, 0xD2345678, 0xEBCDEF01, 0xD5555555, 0xEAAAAAAA], .madd (someMatrix 0x2BCDEF01)),
    ([0x82DE6B5D, 0xEF65DFA5, 0xD2345678, 0xEBCDEF01, 0xD5555555, 0xEAAAAAAA], .mred (someMatrix 0x2BCDEF01)),
    ([0x831E6B5D, 0xEF65DFA5, 0xD2345678, 0xEBCDEF01, 0xD5555555, 0xEAAAAAAA], .mspill (someMatrix 0x2BCDEF01)),
    ([0x835E6B5D, 0xEF65DFA5, 0xD2345678, 0xEBCDEF01, 0xD5555555, 0xEAAAAAAA], .mfill (someMatrix 0x2BCDEF01)),
    ([0x839E6B5D, 0xEF65DFA5, 0xD2345678, 0xCBCDEF01, 0xD5555555, 0xEAAAAAAA], .mownClaim (someMatrix 0xBCDEF01)),
    ([0x839E6B5D, 0xEF65DFA5, 0xD2345678, 0xDBCDEF01, 0xD5555555, 0xEAAAAAAA], .mownRelease (someMatrix 0x1BCDEF01))] : List (List U32 × Instr)), decode e.1 = some e.2 := by decide +kernel

/-- The spec's own encodings (chapters 7 to 12 and 17). -/
theorem test_decode_worked : ∀ e ∈ ([
    ([0x01190A01], .sub 3 4 5), ([0x0121D025], .sel 4 7 8), ([0x02087FFF], .addi 1 1 0x3FFF),
    ([0x0C29FC00], .lih 5 0x1FC00), ([0x0E1182C8], .extru 2 6 11 8), ([0x10100FFD], .br 2 0 1 0x7FD),
    ([0x13000014], .call 0x14), ([0x1C490080], .ldsW 9 4 128), ([0x2C180000], .csrrd 3 0),
    ([0x30280000], .qpop 5 0 0 0), ([0x31024021], .qpush 9 0 2 1), ([0x34290003], .fork 5 4 3),
    ([0x3619C000], .waitb 3 7 0), ([0x3701C001], .arrive 7 1), ([0x3F000011], .ringopFill 1), ([0x00014005], .exit 5),
    ([0x0000C007], .mark 3), ([0x00008006], .fence 0 2), ([0x34180002], .fork 3 0 2),
    ([0x41000400, 0xC0005000, 0xC0148005], .vfma ⟨{ plainHead with mask := 1 }, 20, 1, 0x48005⟩),
    ([0x45840802, 0xC0000C00, 0xC0500006], .vcmp ⟨{ plainHead with etype := 1, mask := 2, x3 := 2 }, 3, 5, 6⟩),
    ([0x4C1C0000, 0xC000A800, 0xC2800029], .vcmul ⟨{ plainHead with etype := 7 }, 42, 40, 41⟩),
    ([0x580C0000, 0xC0000C00, 0xC02C0000], .vcvt ⟨{ plainHead with etype := 3 }, 3, 2, 0xC0000⟩),
    ([0x588C0000, 0xC0003000, 0xC0A0000B], .vqnt ⟨{ plainHead with etype := 3 }, 12, 10, 11⟩),
    ([0x40000080, 0xC0000C00, 0xC0060000, 0x3D800008], .vmov ⟨{ plainHead with lits := [0x3D800008] }, 3, 0, 0x60000⟩),
    ([0x80DDD150, 0xC4184000, 0xC0000000, 0xC0000000, 0xC0000000, 0xC0000000], .mmas { mword with tA := 7, tB := 7, tC := 1, acc := 5, init := 1, popA := 1, ringB := 1, popB := 1, spec := 1 }),
    ([0x818C00C0, 0xD4800400, 0xC0000000, 0xC3FC0000, 0xC0000000, 0xC0000000], .msta { mword with tA := 3, acc := 3, ringA := 2, popA := 1, scA := 1, den := 1, p4 := 0x3FC0000 }),
    ([0x70000000, 0xC8531C01, 0xC4010000], .cpy { eword with ed := 4, es := 5, eh := 6, eb := 7, inc := 1, cvtType := 1, doneEn := 1 })] : List (List U32 × Instr)), decode e.1 = some e.2 := by decide +kernel

/-- An instruction runs to a next state of which `p` holds. -/
def ranTo (i : Instr) (s : State) (p : State → Bool) : Bool :=
  match exec i s with
  | .next t => p t
  | _ => false

/-- The X-core of a tile with some scalar registers, and with some vector lanes. -/
def withRegs (r : Store U64) : State := oneCore .X { someCore with regs := r }
def withLanes (v : Store U32) : State := oneTile .X fun t => { t with xr := { t.xr with v := v, m := [(1, 15), (2, 15)] } }
/-- Lane `j` of a vector register. -/
def laneOf (s : State) (n j : Nat) : U32 := Store.get 0 s.myTile.xr.v (64 * n + j)
/-- The flags of the words in flight. -/
def raised (s : State) : BitVec 5 := s.me.pend.foldl (fun f p => f ||| p.flags) 0

/-- R106: sums wrap (by hand). -/
theorem test_add_wraps : ranTo (.add 3 1 2) (withRegs [(1, 0xFFFFFFFFFFFFFFFF), (2, 2)]) (fun t => t.me.reg 3 == 1) = true := by
  decide +kernel
/-- R107: a quotient truncates toward zero (by hand). -/
theorem test_div_truncates :
    ranTo (.div 3 1 2) (withRegs [(1, 0xFFFFFFFFFFFFFFF9), (2, 2)]) (fun t => t.me.reg 3 == 0xFFFFFFFFFFFFFFFD) = true := by
  decide +kernel
/-- R108: SEL reads d as its condition (the rule's own example). -/
theorem test_sel_zero : ranTo (.sel 4 7 8) (withRegs [(7, 70), (8, 80)]) (fun t => t.me.reg 4 == 80) = true := by decide +kernel
/-- Chapter 7: LIH s5, 0x1FC00 gives FP32 1.0. -/
theorem test_lih : ranTo (.lih 5 0x1FC00) (withRegs []) (fun t => t.me.reg 5 == 0x3F800000) = true := by decide +kernel
/-- R109: EXTRU of 12 bits from bit 8 (by hand). -/
theorem test_extru : ranTo (.extru 2 6 11 8) (withRegs [(6, 0xABCDE12345)]) (fun t => t.me.reg 2 == 0x123) = true := by
  decide +kernel
/-- R116: LOOP falls through when its count ends (chapter 7's loop). -/
theorem test_loop_ends : ranTo (.loop 7 0x7FD) (withRegs [(7, 1)]) (fun t => t.me.reg 7 == 0 && t.me.pc == 4) = true := by
  decide +kernel
/-- R114, R117: a byte load extends its sign (by hand). -/
theorem test_ldsB_signed :
    ranTo (.ldsB 6 1 0) (oneTile .X fun t => { t with scratch := [(64, 0x80)] })
      (fun t => (t.grantTile 0).me.reg 6 == 0xFFFFFFFFFFFFFF80) = true := by decide +kernel
/-- R118: a load of the tail row reads zero and latches its address (chapter 7). -/
theorem test_lds_out_of_range :
    ranTo (.ldsW 6 4 0) (withRegs [(4, 327360)])
      (fun t => t.me.reg 6 == 0 && t.myTile.oorFlag && t.myTile.oorAddr == 327360) = true := by decide +kernel
/-- R226: TRAP enters the handler with 0x17, its operand, and the address of the next word. -/
theorem test_trap :
    ranTo (.trap 1) (withRegs [(1, 9)])
      (fun t => t.me.priv == 1 && t.me.tcause == 0x17 && t.me.tval == 9 && t.me.tpc == 4) = true := by decide +kernel
/-- R130: chapter 8's worked VFMA. -/
theorem test_vfma_worked :
    ranTo (.vfma ⟨{ plainHead with mask := 1 }, 20, 1, 0x48005⟩)
      (oneTile .X fun t =>
        { t with xr := { t.xr with
            m := [(1, 15)], c := [(5, 0x40000000)]
            v := [(64, 0x3FC00000), (65, 0x7F800000), (66, 0x7F000000), (67, 1), (1280, 0x3F800000), (1281, 0xFF800000),
              (1282, 0x7F000000), (1283, 0x80000000), (1284, 7)] } })
      (fun t => (List.range 5).map (laneOf t 20) == [0x40800000, 0x7FC00000, 0x7F800000, 2, 7] && raised t == 0x15) = true := by
  decide +kernel
/-- R139, R75: chapter 8's worked VCMUL. -/
theorem test_vcmul_worked :
    ranTo (.vcmul ⟨{ plainHead with etype := 7 }, 42, 40, 41⟩)
      (withLanes [(2560, 0x4200), (2566, 0x4180), (2624, 0x3F00), (2625, 0x4000), (2631, 0x3F80)])
      (fun t => (List.range 9).map (laneOf t 42) == [0x4180, 0, 0, 0, 0, 0, 0, 0x4180, 0]) = true := by decide +kernel
/-- R140, R84: chapter 8's two sums of the same lanes. -/
theorem test_vradd_tree :
    ranTo (.vradd ⟨{ plainHead with mask := 2 }, 9, 8, 0⟩)
      (withLanes [(512, 0x4B800000), (513, 0x3F800000), (514, 0x3F800000), (515, 0x3F800000)])
      (fun t => laneOf t 9 0 == 0x4B800001 && laneOf t 9 1 == 0) = true := by decide +kernel
theorem test_vscan_serial :
    ranTo (.vscan ⟨{ plainHead with mask := 2 }, 10, 8, 0⟩)
      (withLanes [(512, 0x4B800000), (513, 0x3F800000), (514, 0x3F800000), (515, 0x3F800000), (644, 5)])
      (fun t => (List.range 5).map (laneOf t 10) == [0x4B800000, 0x4B800000, 0x4B800000, 0x4B800000, 5]) = true := by
  decide +kernel
/-- R148 to R150: chapter 9's worked block of E4M3. -/
def blockLanes : Store U32 := [(640, 0x40400000), (641, 0xC42F0000), (642, 0x3DCCCCCD), (680, 0x7FC00000)]
def blockScales : Store U32 := (List.range 64).map fun j => (704 + j, if j < 32 then 0x80 else 0xFF)
theorem test_vamaxb_worked :
    ranTo (.vamaxb ⟨{ plainHead with etype := 3 }, 11, 10, 0⟩) (withLanes blockLanes)
      (fun t => laneOf t 11 0 == 0x80 && laneOf t 11 31 == 0x80 && laneOf t 11 32 == 0xFF) = true := by decide +kernel
theorem test_vqnt_worked :
    ranTo (.vqnt ⟨{ plainHead with etype := 3 }, 12, 10, 11⟩) (withLanes (blockLanes ++ blockScales))
      (fun t => [0, 1, 2, 3, 32, 40].map (laneOf t 12) == [0x3C, 0xFB, 0x15, 0, 0x7F, 0x7F] && raised t == 0x11) = true := by
  decide +kernel
theorem test_vdqnt_worked :
    ranTo (.vdqnt ⟨{ plainHead with etype := 3 }, 13, 12, 11⟩)
      (withLanes (blockScales ++ [(768, 0x3C), (769, 0xFB), (770, 0x15), (808, 0x7F)]))
      (fun t => [0, 1, 2, 3, 32].map (laneOf t 13) == [0x40400000, 0xC4300000, 0x3DD00000, 0, 0x7FC00000]) = true := by
  decide +kernel
/-- R151, R73: chapter 9's worked codewords. -/
theorem test_vlqdec_worked :
    ranTo (.vlqdec ⟨{ plainHead with etype := 6 }, 30, 29, 0x50006⟩)
      (oneTile .X fun t =>
        { t with
          x := { t.x with regs := [(6, 126)] }
          xr := { t.xr with cb := [(0x2A, 0x87654321)], v := [(1856, 0x2A13)] } })
      (fun t => (List.range 9).map (laneOf t 30) ==
        [0xBF40, 0x3FA0, 0x3FE0, 0xC010, 0x4030, 0x4050, 0x4070, 0x4088, 0]) = true := by decide +kernel
/-- R173: chapter 10's circulant block, slots 0, 1, 6 and 7 of output block 0. -/
theorem test_mmas_worked :
    [0, 1, 6, 7].map (fun k => (productSum false 0 (spectralPairs [0x4200 + 0x4180 * 2 ^ 96]
      [0x3F00 + 0x4000 * 2 ^ 16 + 0x3F80 * 2 ^ 112] 1 0 0 k)).1) = [0x41800000, 0, 0, 0x41800000] := by decide +kernel
/-- R177, R82: chapter 10's MSTA figures: the scale bytes of its two blocks and the elements 450, 0.5 and 0.5 under them. -/
theorem test_msta_worked :
    (blockScale 3 (f32 0x43E10000 :: List.replicate 31 (f32 0x3F000000))).1 = 0x80 ∧
    (blockScale 3 (List.replicate 32 (f32 0x3F000000))).1 = 0x76 ∧
    (roundTo ((f32 0x43E10000).scale (-1)) 3 0 false 0).1 = 0x76 ∧
    (roundTo ((f32 0x3F000000).scale (-1)) 3 0 false 0).1 = 0x28 ∧
    (roundTo ((f32 0x3F000000).scale 9) 3 0 false 0).1 = 0x78 := by decide +kernel
/-- R98: DATUM counts one clock (by hand). -/
theorem test_datum : ranTo .datumTick { State.reset with agenda := [], turn := [] } (fun t => t.now == 1) = true := by decide +kernel

/-- Terms that no word and no place of the part has. -/
theorem test_ill_formed : ∀ i ∈ ([.vadd ⟨{ plainHead with lits := [1, 2, 3] }, 0, 0, 0⟩, .cpy { eword with h := { plainHead with lits := [1, 2, 3] } },
    .vlfsrRead (someVector 1), .vlfsrWrite (someVector 2), .vlfsrAdvance (someVector 3), .vlfsrReseed (someVector 4),
    .cbldConst (someVector 1), .cbldCodebook (someVector 0), .cbldCodebook (someVector 5), .mownClaim (someMatrix 0x10000000),
    .mownRelease (someMatrix 0), .transformUnitWork 640 .load, .closure 640, .accumulatorSpillEnd 0 48,
    .accumulatorFillEnd 640 0, .frameOrigin 256, .groupBarrierRelease 0 16, .groupAbortMarking 256 0, .tailDoorbell 4096 0,
    .cardAcceptance 4096, .dxuUpdate 4096 0, .twinSettlement 0 256, .shadow 4 0, .peerWrite 128 0 0 0 [], .peerReply 128 0 0 [],
    .frameReceive 2 true [], .ingestSlotFill 0 512, .frameTransmit 2, .refresh 16, .retraining 16, .thermalTrip (4, ⟨⟨[], []⟩, ⟨[], []⟩⟩),
    .controlFlit 128 0] : List Instr), i.wf = false := by decide +kernel
/-- The words of the decode tests are well formed, and so are steps at the last place of their range. -/
theorem test_well_formed : ∀ i ∈ ([.vlfsrReseed (someVector 3), .cbldCodebook (someVector 4), .mownRelease (someMatrix 0x10000000),
    .closure 639, .accumulatorSpillEnd 639 47, .frameOrigin 255, .twinSettlement 4095 255, .shadow 3 0, .ingestSlotFill 639 511,
    .refresh 15, .thermalTrip (3, ⟨⟨[], []⟩, ⟨[], []⟩⟩)] : List Instr), i.wf = true := by decide +kernel
/-- R22, R57, R223: units that begin no word, and fields that must be zero. -/
theorem test_decode_refused : ∀ us ∈ ([[0xC0000000], [0x16000000], [0x01000026], [0x00000011], [0x46400000, 0xC0000000, 0xC0000000],
    [0x75400000, 0xC0000000, 0xC0000000], [0x40400180, 0xC0000000, 0xC0000000], [0x40400000, 0x00000000, 0xC0000000], [0x40400000],
    [0x83C00000, 0xC0000000, 0xC0000000, 0xC0000000, 0xC0000000, 0xC0000000]] : List (List U32)), decode us = none := by
  decide +kernel

end Sys2Proof.Tests
end

/-!
What a step of the machine runs (R9, R20 to R23, R318, R338, R387): the choice that `step` makes between an event, a core's turn
and the end of the clock, what a core does in its turn, and the fetch of a word.
-/

namespace Sys2Proof.Machine

open Host (Outcome)

/-! Counting requests and fetches (R324) changes no tile and does not change the issuing core. -/

theorem State.countFrom_keeps (s : State) (die x ia : Nat) (nc : Bool) :
    (s.countFrom die x ia nc).tiles = s.tiles ∧ (s.countFrom die x ia nc).cur = s.cur := by
  unfold State.countFrom
  split
  · exact ⟨rfl, rfl⟩
  · dsimp only
    repeat' split
    all_goals exact ⟨rfl, rfl⟩

theorem State.countUnit_keeps (s : State) (g : Nat) (va : U64) :
    (s.countUnit g va).tiles = s.tiles ∧ (s.countUnit g va).cur = s.cur := by
  unfold State.countUnit State.countRequest
  split
  · split
    · split
      · exact ⟨rfl, rfl⟩
      · exact State.countFrom_keeps ..
    · exact ⟨rfl, rfl⟩
  · exact ⟨rfl, rfl⟩

theorem State.countUnits_keep (g : Nat) (va : Nat → U64) (js : List Nat) (s : State) :
    (js.foldl (fun s j => s.countUnit g (va j)) s).tiles = s.tiles ∧
      (js.foldl (fun s j => s.countUnit g (va j)) s).cur = s.cur := by
  induction js generalizing s with
  | nil => exact ⟨rfl, rfl⟩
  | cons j js ih =>
    obtain ⟨htiles, hcur⟩ := ih (s.countUnit g (va j))
    obtain ⟨htiles', hcur'⟩ := s.countUnit_keeps g (va j)
    exact ⟨htiles.trans htiles', hcur.trans hcur'⟩

theorem State.countFetch_keeps (s : State) (w : Who) :
    (s.countFetch w).tiles = s.tiles ∧ (s.countFetch w).cur = s.cur := by
  unfold State.countFetch
  dsimp only
  split
  · exact ⟨rfl, rfl⟩
  · split
    · exact ⟨rfl, rfl⟩
    · split
      · exact ⟨rfl, rfl⟩
      · exact State.countUnits_keep ..

@[simp] theorem State.countFetch_cur (s : State) (w : Who) : (s.countFetch w).cur = s.cur := (s.countFetch_keeps w).2

@[simp] theorem State.countFetch_core (s : State) (w v : Who) : (s.countFetch w).core v = s.core v := by
  simp only [State.core, State.tile, (s.countFetch_keeps w).1]

/-! The fetch of a word. -/

theorem State.fetchUnits_eq_ok (s : State) (g : Nat) (us : List U32) (va : Nat → U64)
    (h : ∀ k, k < us.length → s.fetchUnit g (va k) = .ok (us.getD k 0)) :
    s.fetchUnits g ((List.range us.length).map va) = .ok us := by
  induction us generalizing va with
  | nil => rfl
  | cons u us ih =>
    have hhead : s.fetchUnit g (va 0) = .ok u := h 0 (by simp)
    have htail : s.fetchUnits g ((List.range us.length).map (va ∘ Nat.succ)) = .ok us :=
      ih _ fun k hk => h (k + 1) (by simpa using hk)
    simp [List.range_succ_eq_map, State.fetchUnits, hhead, htail]

theorem unitClass_ne_three_of_decode {u : U32} {us : List U32} {i : Instr} (h : decode (u :: us) = some i) :
    unitClass u ≠ 3 := by
  intro hclass
  simp [decode, hclass] at h

theorem State.fetch_outside (s : State) (w : Who) (h : (s.core w).inCode (s.core w).pc = false) :
    s.fetch w = .bad 0x03 (s.core w).pc := by
  simp [State.fetch, h]

theorem State.fetch_word (s : State) (w : Who) (us : List U32) (i : Instr) (hlen : us.length = wordUnits (us.headD 0))
    (hdec : decode us = some i)
    (hunits : ∀ k, k < us.length → (s.core w).inCode ((s.core w).pc + 4 * BitVec.ofNat 64 k) = true ∧
      s.fetchUnit w.tile ((s.core w).pc + 4 * BitVec.ofNat 64 k) = .ok (us.getD k 0)) : s.fetch w = .word i := by
  cases us with
  | nil => cases hdec
  | cons u us =>
    have hcount : wordUnits u - 1 = us.length := Nat.sub_eq_of_eq_add hlen.symm
    have hfirst : (s.core w).inCode (s.core w).pc = true ∧ s.fetchUnit w.tile (s.core w).pc = .ok u := by
      simpa using hunits 0 (by simp)
    have hbounds : ((List.range us.length).map fun j => (s.core w).pc + 4 * BitVec.ofNat 64 (j + 1)).find?
        (fun a => !(s.core w).inCode a) = none := by
      simp only [List.find?_eq_none, List.mem_map, List.mem_range]
      rintro _ ⟨k, hk, rfl⟩
      simpa using (hunits (k + 1) (by simpa using hk)).1
    have hlater : s.fetchUnits w.tile ((List.range us.length).map fun j => (s.core w).pc + 4 * BitVec.ofNat 64 (j + 1)) =
        .ok us :=
      s.fetchUnits_eq_ok _ _ _ fun k hk => by simpa using (hunits (k + 1) (by simpa using hk)).2
    obtain ⟨hin, hunit⟩ := hfirst
    simp only [State.fetch, hin, hunit, unitClass_ne_three_of_decode hdec, hcount, hbounds, hlater, hdec, reduceCtorEq,
      if_false]

/-! A core's turn changes nothing that a fetch reads. -/

/-- The state in which core `w` issues, its turn taken off the list. -/
def State.giveTurn (s : State) (w : Who) (rest : List Who) : State := { s with turn := rest, cur := w }

@[simp] theorem State.giveTurn_cur (s : State) (w : Who) (rest : List Who) : (s.giveTurn w rest).cur = w := rfl

@[simp] theorem State.giveTurn_core (s : State) (w v : Who) (rest : List Who) : (s.giveTurn w rest).core v = s.core v := rfl

theorem State.giveTurn_translate_fetch (s : State) (w : Who) (rest : List Who) (g : Nat) (ws : Store (BitVec 128)) (va : Nat) :
    (s.giveTurn w rest).translate g ws va .fetch = s.translate g ws va .fetch := by
  have hrefuses : ∀ ia, (s.giveTurn w rest).refuses g .fetch ia = s.refuses g .fetch ia := fun _ => rfl
  simp only [State.translate, hrefuses, ne_eq, not_true_eq_false, false_and, if_false]

@[simp] theorem State.giveTurn_fetchUnit (s : State) (w : Who) (rest : List Who) (g : Nat) (va : U64) :
    (s.giveTurn w rest).fetchUnit g va = s.fetchUnit g va := by
  have hsnap : ∀ ia, (s.giveTurn w rest).snapUnit g ia = s.snapUnit g ia := fun _ => rfl
  have htile : (s.giveTurn w rest).tile g = s.tile g := rfl
  simp only [State.fetchUnit, State.giveTurn_translate_fetch, hsnap, htile]

@[simp] theorem State.giveTurn_fetchUnits (s : State) (w : Who) (rest : List Who) (g : Nat) (vas : List U64) :
    (s.giveTurn w rest).fetchUnits g vas = s.fetchUnits g vas := by
  induction vas with
  | nil => rfl
  | cons va vas ih => simp only [State.fetchUnits, State.giveTurn_fetchUnit, ih]

@[simp] theorem State.giveTurn_fetch (s : State) (w v : Who) (rest : List Who) :
    (s.giveTurn w rest).fetch v = s.fetch v := by
  simp only [State.fetch, State.giveTurn_core, State.giveTurn_fetchUnit, State.giveTurn_fetchUnits]

/-! What a core issues. -/

theorem exec_stopTaken (g : Nat) (c : CoreId) (s : State) : exec (.stopTaken g c) s = execStopTaken g c s := rfl

theorem State.issueWord_bad (s : State) {code : Nat} {tval : U64} (h : s.fetch s.cur = .bad code tval) :
    s.issueWord = .next ((s.countFetch s.cur).trap s.cur code tval s.me.pc false) := by
  simp [State.issueWord, h]

theorem State.issueWord_exec (s : State) {i : Instr} (h : s.fetch s.cur = .word i)
    (hstop : (s.core s.cur).stopIn = false ∨ (s.core s.cur).priv ≠ 0) : s.issueWord = exec i (s.countFetch s.cur) := by
  have hgo : ((s.core s.cur).stopIn && (s.core s.cur).priv == 0) = false := by
    rcases hstop with hstop | hpriv
    · rw [hstop, Bool.false_and]
    · rw [beq_false_of_ne hpriv, Bool.and_false]
  simp only [State.issueWord, h, State.me, State.countFetch_cur, State.countFetch_core, hgo, Bool.false_eq_true, if_false]

theorem State.issueWord_stop (s : State) {i : Instr} {t : State} (h : s.fetch s.cur = .word i)
    (hstop : (s.core s.cur).stopIn = true) (hpriv : (s.core s.cur).priv = 0)
    (hexec : exec i (s.countFetch s.cur) = .next t) (hrun : (t.core s.cur).priv ≠ 1) :
    s.issueWord = execStopTaken s.cur.tile s.cur.core (s.countFetch s.cur) := by
  have hfault : ¬ ((t.core s.cur).priv = 1 ∧ r23Fault i (t.core s.cur).tcause.toNat (t.core s.cur).tval s.cur.core = true) :=
    fun hf => hrun hf.1
  simp only [State.issueWord, State.issueOrStop, h, State.me, State.countFetch_cur, State.countFetch_core, hstop, hpriv, hexec,
    if_neg hfault, beq_self_eq_true, Bool.and_self, if_true]

/-! What a core does in its turn. -/

theorem State.act_yields (s : State) (w : Who) (rest : List Who) (h : s.yields w rest = true) :
    s.act w rest = .next (s.giveWay w rest) := by
  simp [State.act, h]

theorem State.act_issues (s : State) (w : Who) (rest : List Who) (hrun : (s.core w).run = .running)
    (hnext : (s.core w).nextAt ≤ s.now) (hfork : s.forkHeld w = false) (hyield : s.yields w rest = false) :
    s.act w rest = (s.giveTurn w rest).issueWord := by
  simp [State.act, hrun, hyield, hfork, Nat.not_lt.mpr hnext, State.giveTurn]

theorem State.yields_eq_false (s : State) (w : Who) (rest : List Who) (h : s.givesWay w = 0) : s.yields w rest = false := by
  simp [State.yields, h]

theorem State.act_early (s : State) (w : Who) (rest : List Who) (hrun : (s.core w).run = .running)
    (hnext : s.now < (s.core w).nextAt) : s.act w rest = .next { s with turn := rest } := by
  have hyield := s.yields_eq_false w rest (by simp [State.givesWay, hrun, hnext])
  simp [State.act, hyield, hrun, hnext]

/-- A core that neither runs nor waits has nothing to do in its turn. -/
theorem State.act_inactive (s : State) (w : Who) (rest : List Who)
    (hrun : (s.core w).run = .idle ∨ (s.core w).run = .draining ∨ (s.core w).run.isHalted = true) :
    s.act w rest = .next { s with turn := rest } := by
  cases hcase : (s.core w).run with
  | running => simp [hcase, Run.isHalted] at hrun
  | waiting r => simp [hcase, Run.isHalted] at hrun
  | idle | draining | halted =>
    have hyield := s.yields_eq_false w rest (by simp [State.givesWay, hcase])
    simp [State.act, hyield, hcase]

/-! What a step takes: an event, a turn, or the end of the clock. -/

theorem step_turn {s : State} {w : Who} {rest : List Who} (hagenda : s.agenda = []) (hturn : s.turn = w :: rest)
    (hpower : s.powered = true) : step s = s.act w rest := by
  simp [step, State.advance, State.nextEvent, takeFirst, hagenda, hturn, hpower]

theorem step_quiet {s : State} (hagenda : s.agenda = []) (hturn : s.turn = []) (hpower : s.powered = true) :
    step s = s.quiet := by
  simp [step, State.advance, State.nextEvent, takeFirst, hagenda, hturn, hpower]

theorem step_event {s : State} {i : Instr} {rest : List Instr} (h : s.nextEvent = some (i, rest)) :
    step s = State.takeEvent { s with agenda := rest } i := by
  simp [step, State.advance, h]

theorem afterCores_eq_false {i : Instr} (h : ∀ port ok bs, i ≠ .frameReceive port ok bs) : afterCores i = false := by
  unfold afterCores
  split
  · exact absurd rfl (h _ _ _)
  · rfl

/-- The oldest event comes next, a received frame only where no core's turn and no other event is left (R360). -/
theorem State.nextEvent_cons {s : State} {i : Instr} {rest : List Instr} (hagenda : s.agenda = i :: rest)
    (h : (∀ port ok bs, i ≠ .frameReceive port ok bs) ∨ (s.turn = [] ∧ rest = [])) : s.nextEvent = some (i, rest) := by
  cases hafter : afterCores i with
  | false => simp [State.nextEvent, hagenda, takeFirst, hafter]
  | true =>
    obtain ⟨hturn, rfl⟩ := h.resolve_left fun hno => by simp [afterCores_eq_false hno] at hafter
    cases hport : ofPort0 i <;> simp [State.nextEvent, hagenda, takeFirst, hafter, hturn, hport]

theorem State.takeEvent_powered {s : State} {i : Instr} (hevent : isEvent i = true) (hpower : s.powered = true)
    (hcxl : 130 ∉ s.downPorts ∨ overCxl i = false) : s.takeEvent i = exec i s := by
  have htaken : ¬ (isEvent i = false ∨ (s.downPorts.contains 130 = true ∧ overCxl i = true)) := by
    rcases hcxl with hport | hover
    · simp [hevent, hport]
    · simp [hevent, hover]
  unfold State.takeEvent
  rw [if_neg htaken, if_pos hpower]

theorem exec_datumTick (s : State) : exec .datumTick s = execDatumTick s := rfl

theorem State.quiet_datumTick {s : State} (hrising : s.rising = false) (hlost : ∀ g, s.lost g = false) :
    s.quiet = execDatumTick s := by
  have hnone : s.liveTiles.find?
      (fun g => s.lost g && decide ((s.tile g).closureWin.toNat ≤ (s.tile g).closureCount + 1)) = none :=
    List.find?_eq_none.mpr fun g _ => by simp [hlost]
  simp only [State.quiet, hrising, hnone, Bool.false_eq_true, if_false]

/-! A step in which a core has its turn and issues. -/

section
variable {s : State} {w : Who} {rest : List Who}

/-- It is the turn of core `w`, which may issue its word. -/
structure State.IssuesNow (s : State) (w : Who) (rest : List Who) : Prop where
  agenda : s.agenda = []
  turn : s.turn = w :: rest
  powered : s.powered = true
  running : (s.core w).run = .running
  due : (s.core w).nextAt ≤ s.now
  released : s.forkHeld w = false
  first : s.yields w rest = false

theorem State.IssuesNow.step_eq (h : s.IssuesNow w rest) : step s = (s.giveTurn w rest).issueWord := by
  rw [step_turn h.agenda h.turn h.powered, s.act_issues w rest h.running h.due h.released h.first]

theorem State.IssuesNow.step_exec (h : s.IssuesNow w rest) {i : Instr} (hword : s.fetch w = .word i)
    (hstop : (s.core w).stopIn = false ∨ (s.core w).priv ≠ 0) : step s = exec i ((s.giveTurn w rest).countFetch w) :=
  h.step_eq.trans (State.issueWord_exec _ (by simpa using hword) (by simpa using hstop))

theorem State.IssuesNow.step_stop (h : s.IssuesNow w rest) {i : Instr} {t : State} (hword : s.fetch w = .word i)
    (hstop : (s.core w).stopIn = true) (hpriv : (s.core w).priv = 0)
    (hexec : exec i ((s.giveTurn w rest).countFetch w) = .next t) (hrun : (t.core w).priv ≠ 1) :
    step s = exec (.stopTaken w.tile w.core) ((s.giveTurn w rest).countFetch w) := by
  rw [h.step_eq, exec_stopTaken]
  exact State.issueWord_stop _ (by simpa using hword) hstop hpriv hexec hrun

theorem State.IssuesNow.step_trap (h : s.IssuesNow w rest) {code : Nat} {tval : U64} (hbad : s.fetch w = .bad code tval) :
    step s = .next (((s.giveTurn w rest).countFetch w).trap w code tval (s.core w).pc false) :=
  h.step_eq.trans (State.issueWord_bad _ (by simpa using hbad))

end

end Sys2Proof.Machine

namespace Sys2Proof

open Sys2Proof.Machine

/-- Settles O58: `step` unfolds once into what is next (`step_turn`, `step_event`, `step_quiet`), and each clause is the lemma
about the turn, the fetch or the event that it speaks of. -/
theorem stepRunsWords : Obligations.StepRunsWords := by
  unfold Obligations.StepRunsWords
  refine ⟨?issue, ?inactive, ?gives, State.fetch_word, State.fetch_outside, ?event, ?quiet⟩
  case issue =>
    rintro s _ w rest hagenda hturn hpower hrun hdue hfork hyield rfl
    have h : s.IssuesNow w rest := ⟨hagenda, hturn, hpower, hrun, hdue, hfork, hyield⟩
    exact ⟨fun _ => h.step_exec, fun _ _ => h.step_stop, fun _ _ => h.step_trap⟩
  case inactive =>
    rintro s w rest hagenda hturn hpower (⟨hrun, hearly⟩ | hrun)
    · rw [step_turn hagenda hturn hpower, s.act_early w rest hrun hearly]
    · rw [step_turn hagenda hturn hpower, s.act_inactive w rest hrun]
  case gives =>
    intro s w rest hagenda hturn hpower hyield
    rw [step_turn hagenda hturn hpower, s.act_yields w rest hyield]
  case event =>
    intro s i rest hagenda hpower hevent hcxl hframe
    rw [step_event (State.nextEvent_cons hagenda hframe)]
    exact State.takeEvent_powered hevent hpower hcxl
  case quiet =>
    intro s hagenda hturn hpower hrising hlost
    rw [step_quiet hagenda hturn hpower, State.quiet_datumTick hrising hlost, exec_datumTick]

end Sys2Proof

/-!
How a vector word runs (R23, R91, R125 to R128): one rule for every word that runs by a plan. A word's statement then only names
the plan, whatever it says of the flags that the word may raise.
-/

namespace Sys2Proof.Machine

open Host (Outcome)

/-! The plan of a word. -/

/-- A word that has a plan runs by it. -/
theorem exec_eq_vectorWord {i : Instr} {s : State} {w : VWord} {p : VPlan}
    (h : vectorPlan s.myTile.xr s.myTile.task.recIndex i = some (w, p)) : exec i s = s.vectorWord i w p := by
  unfold vectorPlan at h
  split at h <;> cases h <;> rfl

/-- A word that has a plan ends by it. -/
theorem Tile.jobDone_eq_jobResult {t : Tile} {j : VJob} {w : VWord} {p : VPlan}
    (h : vectorPlan t.xr t.task.recIndex j.word = some (w, p)) (now : Nat) :
    t.jobDone now j = t.jobResult j p w ((p.ud.parse 0 w.h.lits.length w.d.toNat).getD .unused) now := by
  unfold Tile.jobDone
  split
  case h_5 => rw [h]
  all_goals next hword =>
    rw [hword] at h
    cases h

/-! Operands. -/

theorem Use.typeLines_le (u : Use) : typeLines u.ty ≤ u.lines := by
  have hfour : typeLines u.ty ≤ 4 := by unfold typeLines; split <;> omega
  unfold Use.lines
  split <;> omega

theorem Use.lines_pos (u : Use) : 0 < u.lines := by
  have hpos : 0 < typeLines u.ty := by unfold typeLines; split <;> omega
  exact Nat.lt_of_lt_of_le hpos u.typeLines_le

theorem XRes.opndLines_isEmpty (x : XRes) (o : Opnd) (u : Use) : (x.opndLines o u.lines).isEmpty = !strided o := by
  cases o with
  | walk =>
    simp only [XRes.opndLines, strided, List.isEmpty_map, Bool.not_true, List.isEmpty_eq_false_iff, ne_eq, List.range_eq_nil]
    exact Nat.ne_of_gt u.lines_pos
  | _ => rfl

theorem XRes.opndLines_mono (x : XRes) (o : Opnd) {m n : Nat} (h : m ≤ n) {l : Int} (hl : l ∈ x.opndLines o m) :
    l ∈ x.opndLines o n := by
  cases o with
  | walk =>
    obtain ⟨k, hk, rfl⟩ := List.mem_map.1 hl
    exact List.mem_map_of_mem (List.mem_range.2 (Nat.lt_of_lt_of_le (List.mem_range.1 hk) h))
  | _ => cases hl

/-- Moving a walk changes no other vector resource. -/
theorem XRes.post_eq (x : XRes) (o : Opnd) (n : Nat) : x.post o n = { x with w := (x.post o n).w } := by
  cases o <;> rfl

/-- The fields of a legal word are those that its uses parse. -/
theorem checkFields_ok_d {lost : Opnd → Bool} {ctlOk : Nat → Bool} {lits : Nat} {ud ua ub : Use} {w : VWord} {f : Fields}
    (h : checkFields lost ctlOk lits ud ua ub w = .ok f) : ud.parse 0 lits w.d.toNat = some f.d := by
  unfold checkFields at h
  split at h
  · cases h
  next d hd =>
    have hfield : d = f.d := by
      dsimp only at h
      repeat' split at h
      all_goals cases h
      all_goals rfl
    exact hfield ▸ hd

theorem Use.parse_no {pos lits n : Nat} {o : Opnd} (h : Use.no.parse pos lits n = some o) : o = .unused := by
  rw [Use.parse] at h
  split at h
  · exact (Option.some.inj h).symm
  · cases h

/-! What a vector word changes of its tile. -/

/-- The tile with the vector resources, the out-of-range latch and the requests of another. -/
def Tile.withVector (t u : Tile) : Tile :=
  { t with
    xr := { t.xr with v := u.xr.v, m := u.xr.m, w := u.xr.w, lfsr := u.xr.lfsr }
    oorFlag := u.oorFlag, oorAddr := u.oorAddr, oorWhen := u.oorWhen, asks := u.asks, vjobs := u.vjobs }

/-- From `t` to `u` nothing differs but the vector resources, the out-of-range latch and the requests. -/
def Tile.VectorChange (t u : Tile) : Prop := u = t.withVector u

theorem Tile.VectorChange.trans {t u v : Tile} (h : t.VectorChange u) (h' : u.VectorChange v) : t.VectorChange v :=
  Eq.trans h' (congrArg (·.withVector v) h)

theorem Tile.touchLines_eq (t : Tile) (now rank : Nat) (ls : List Int) :
    t.touchLines now rank ls = { t with
      oorFlag := (t.touchLines now rank ls).oorFlag, oorAddr := (t.touchLines now rank ls).oorAddr
      oorWhen := (t.touchLines now rank ls).oorWhen } := by
  unfold Tile.touchLines Tile.touch Tile.latch
  repeat' split
  all_goals rfl

@[simp] theorem Tile.touchLines_xr (t : Tile) (now rank : Nat) (ls : List Int) : (t.touchLines now rank ls).xr = t.xr := by
  rw [touchLines_eq]

@[simp] theorem Tile.touchLines_asks (t : Tile) (now rank : Nat) (ls : List Int) :
    (t.touchLines now rank ls).asks = t.asks := by
  rw [touchLines_eq]

@[simp] theorem Tile.touchLines_vjobs (t : Tile) (now rank : Nat) (ls : List Int) :
    (t.touchLines now rank ls).vjobs = t.vjobs := by
  rw [touchLines_eq]

theorem Tile.touchLines_change (t : Tile) (now rank : Nat) (ls : List Int) :
    t.VectorChange (t.touchLines now rank ls) := by
  rw [Tile.VectorChange, Tile.withVector, touchLines_xr, touchLines_asks, touchLines_vjobs]
  exact t.touchLines_eq now rank ls

theorem Tile.setLine_outside {t : Tile} {l : Int} (bs : List Byte) (h : inRange l = false) : t.setLine l bs = t :=
  if_neg (ne_true_of_eq_false h)

theorem foldl_eq_self {α β : Type} {f : α → β → α} {a : α} {bs : List β} (h : ∀ b ∈ bs, f a b = a) : bs.foldl f a = a := by
  induction bs with
  | nil => rfl
  | cons b bs ih => rw [List.foldl_cons, h b List.mem_cons_self]; exact ih fun c hc => h c (List.mem_cons_of_mem _ hc)

/-- A strided destination whose lines are out of range takes nothing. -/
theorem Tile.putElems_walk_outside {t : Tile} {ty w post : Nat} {off : Int} (new : List Nat) (wr : List Bool)
    (h : ∀ l ∈ t.xr.opndLines (.walk w post off) (typeLines ty), inRange l = false) :
    t.putElems ty (.walk w post off) new wr = t := by
  refine foldl_eq_self fun k hk => Tile.setLine_outside _ (h _ ?_)
  have hlen : k < (t.xr.opndLines (.walk w post off) (typeLines ty)).length := by
    simpa only [XRes.opndLines, List.length_map, List.length_range, List.mem_range] using hk
  rw [← List.getElem_eq_getD (h := hlen)]
  exact List.getElem_mem hlen

/-- A register destination takes the result; of a strided one nothing is left (R35, R125). -/
theorem Tile.putElems_eq {t : Tile} {ty : Nat} {o : Opnd} (new : List Nat) (wr : List Bool)
    (h : ∀ l ∈ t.xr.opndLines o (typeLines ty), inRange l = false) :
    t.putElems ty o new wr =
      { t with xr := { t.xr with v := (t.putElems ty o new wr).xr.v, m := (t.putElems ty o new wr).xr.m } } := by
  cases o with
  | walk => rw [putElems_walk_outside new wr h]
  | _ => rfl

/-- What stands in the destination does not depend on the rest of the tile. -/
theorem Tile.putElems_outside_eq {t u : Tile} {ty : Nat} {o : Opnd} (new : List Nat) (wr : List Bool) (hxr : u.xr = t.xr)
    (h : ∀ l ∈ t.xr.opndLines o (typeLines ty), inRange l = false) :
    u.putElems ty o new wr = { u with xr := (t.putElems ty o new wr).xr } := by
  cases o with
  | walk => rw [putElems_walk_outside new wr h, putElems_walk_outside new wr (hxr ▸ h), ← hxr]
  | vreg | mask => rw [Tile.putElems, Tile.putElems, hxr]
  | _ => exact hxr ▸ rfl

/-! The issue of a vector word. -/

theorem Tile.VectorChange.x {t u : Tile} (h : t.VectorChange u) : u.x = t.x := by
  rw [h]; rfl

/-- A word that changed only vector resources issues. -/
theorem State.issue_vector {s : State} {u : Tile} (hcore : s.cur.core = .X) (h : s.myTile.VectorChange u) (npc : U64)
    (q : Pend) : ∃ t, (s.setMyTile u).issue npc (s.now + 1) q = t ∧ LongIssued s t npc q ∧ OnlyVector s t ∧ t.myTile.xr = u.xr ∧
      t.myTile.asks = u.asks ∧ t.myTile.vjobs = u.vjobs := by
  let k : Core := { s.me with
    pc := npc, run := .running, held := none, nextAt := s.now + 1, pend := s.me.pend ++ [q] }
  have hme : s.me = s.myTile.x := by rw [State.me_eq, hcore]; rfl
  have hstate : (s.setMyTile u).issue npc (s.now + 1) q = s.setMyTile { u with x := k } := by
    have hx : (s.setMyTile u).me = s.me := by rw [State.me_setMyTile, hcore, hme]; exact h.x
    rw [State.issue, State.mapMe_eq, State.setMyTile_setMyTile, State.myTile_setMyTile, hx, State.setMyTile_cur, hcore]
    rfl
  have hmyTile : (s.setMyTile { u with x := k }).myTile = { u with x := k } := State.myTile_setMyTile _ _
  have hk : (s.setMyTile { u with x := k }).me = k := by rw [State.me_setMyTile, hcore]; rfl
  have hxr : u.xr = (s.myTile.withVector u).xr := congrArg Tile.xr (show u = s.myTile.withVector u from h)
  have hframe : { u with x := k } = { s.myTile.withVector u with x := k, xr := u.xr } :=
    (congrArg (fun v : Tile => { v with x := k }) h).trans
      (congrArg (fun r : XRes => { s.myTile.withVector u with x := k, xr := r }) hxr.symm)
  refine ⟨_, hstate, ?_, ⟨?_, ?_, ?_, ?_, ?_⟩, ?_⟩
  · rw [LongIssued, hk]; exact ⟨rfl, rfl, rfl, rfl⟩
  · rw [hmyTile]
  · rw [hk, hmyTile]; exact hframe
  · rw [OnlyFlow, hk]
  · rw [hk]
  · rw [hmyTile]; dsimp only; rw [hxr]; exact ⟨rfl, rfl, rfl, rfl⟩
  · rw [hmyTile]; exact ⟨rfl, rfl, rfl⟩

/-! The lines that a vector word reaches. -/

theorem linesIn_isEmpty_iff (reads : List (Nat × List Int)) (writes : List Int) :
    (linesIn ((reads.map fun r => r.2).flatten ++ writes)).isEmpty = true ↔ NoLine reads writes := by
  simp only [linesIn, List.isEmpty_map, List.isEmpty_iff, List.filter_eq_nil_iff, inRange, decide_eq_true_eq, NoLine,
    List.forall_mem_append, List.forall_mem_flatten, List.forall_mem_map]

theorem readsD_eq (w : VWord) (p : VPlan) : (p.ud.isRead || (w.h.capEn == 1 && !decide (w.h.nowb = 1) && w.h.mask != 0 &&
    p.ud != .no)) = readsD w p := by
  have hnowb : (!decide (w.h.nowb = 1)) = (w.h.nowb == 0) := by
    generalize w.h.nowb = n
    revert n
    decide
  rw [hnowb, readsD]

theorem isEmpty_filter_nonempty (rs : List (Nat × List Int)) :
    (rs.filter fun r => !r.2.isEmpty).isEmpty = rs.all fun r => r.2.isEmpty := by
  induction rs with
  | nil => rfl
  | cons r rs ih => cases hr : r.2.isEmpty <;> simp [hr, ih]

/-- A word reads no strided operand exactly where none of those that it reads is strided. -/
theorem vectorReads_isEmpty (s : State) (w : VWord) (p : VPlan) (f : Fields) :
    (vectorReads s w p f).isEmpty = !(strided f.a || strided f.b || (strided f.d && readsD w p)) := by
  have hd : (if readsD w p then s.myTile.xr.opndLines f.d p.ud.lines else []).isEmpty = !(strided f.d && readsD w p) := by
    cases readsD w p
    · simp
    · simpa using s.myTile.xr.opndLines_isEmpty f.d p.ud
  rw [vectorReads, isEmpty_filter_nonempty]
  simp only [List.all_cons, List.all_nil, hd, s.myTile.xr.opndLines_isEmpty, Bool.and_true]
  rw [Bool.and_comm, ← Bool.not_or, ← Bool.not_or]

/-- A word that reaches no line in range has no such line for its destination. -/
theorem NoLine.dest {s : State} {w : VWord} {p : VPlan} {f : Fields} (h : NoLine (vectorReads s w p f) (vectorWrites s w p f))
    (hnowb : w.h.nowb ≠ 1) (hunused : p.ud = .no → f.d = .unused) :
    ∀ l ∈ s.myTile.xr.opndLines f.d (typeLines p.ud.ty), inRange l = false := by
  intro l hl
  by_cases hud : p.ud = .no
  · rw [hunused hud] at hl; cases hl
  · have hwrites : vectorWrites s w p f = s.myTile.xr.opndLines f.d p.ud.lines := if_neg (not_or.2 ⟨hnowb, hud⟩)
    exact decide_eq_false (h.2 l (hwrites ▸ XRes.opndLines_mono _ _ p.ud.typeLines_le hl))

theorem Tile.ask_asks (t : Tile) (now rank within : Nat) (ls : List (Int × BankAct)) (pc : U64) :
    ∃ asks, (t.ask now rank within ls pc).asks = t.asks ++ asks ∧ (∀ x ∈ asks, x.since = now ∧ x.rank = rank) ∧
      asks.map (fun x => ((x.line : Int), x.act)) = ls.filter fun l => decide (0 ≤ l.1 ∧ l.1 ≤ 5114) := by
  refine ⟨_, rfl, fun x hx => ?_, ?_⟩
  · obtain ⟨k, hk, rfl⟩ := List.mem_mapIdx.1 hx
    exact ⟨rfl, rfl⟩
  · refine List.ext_getElem (by simp [inRange]) fun k hk hk' => ?_
    have hin := of_decide_eq_true (List.mem_filter.1 (List.getElem_mem hk')).2
    simp only [List.getElem_map, List.getElem_mapIdx, inRange, Int.toNat_of_nonneg hin.1]

/-! The effect of a vector word. -/

/-- The vector resources after the word's post-updates (R36). -/
def XRes.postAll (x : XRes) (p : VPlan) (f : Fields) : XRes :=
  ((x.post f.d p.ud.lines).post f.a p.ua.lines).post f.b p.ub.lines

theorem XRes.postAll_eq (x : XRes) (p : VPlan) (f : Fields) : x.postAll p f = { x with w := (x.postAll p f).w } := by
  unfold XRes.postAll
  rw [XRes.post_eq _ f.b, XRes.post_eq _ f.a, XRes.post_eq _ f.d]

/-- The word in flight, before it has a result. -/
def State.vectorPend (s : State) (p : VPlan) (lat : Nat) (res : List Res) : Pend :=
  { res := res, due := s.now + lat, flags := 0, cap := none, ew := (vectorWeight p.lat, 1), asks := some (s.now, lat) }

/-- The capture of a result (R93). -/
def vectorCap (w : VWord) (o : VOut) (d : List Nat) : Option (Nat × List U32) :=
  if w.h.capEn = 1 then some (w.h.capN.toNat, captured (w.h.nowb == 1) o d) else none

/-- A result written to its destination. -/
def Tile.putResult (t : Tile) (w : VWord) (p : VPlan) (f : Fields) (o : VOut) : Tile :=
  if w.h.nowb = 1 then t else t.putElems p.ud.ty f.d o.new o.wr

theorem Tile.putResult_eq {t : Tile} {w : VWord} {p : VPlan} {f : Fields} (o : VOut)
    (h : w.h.nowb ≠ 1 → ∀ l ∈ t.xr.opndLines f.d (typeLines p.ud.ty), inRange l = false) :
    t.putResult w p f o =
      { t with xr := { t.xr with v := (t.putResult w p f o).xr.v, m := (t.putResult w p f o).xr.m } } := by
  unfold Tile.putResult
  split
  · rfl
  next hnowb => exact Tile.putElems_eq _ _ (h hnowb)

theorem Tile.putResult_congr {t u : Tile} {w : VWord} {p : VPlan} {f : Fields} (o : VOut) (hxr : u.xr = t.xr)
    (h : w.h.nowb ≠ 1 → ∀ l ∈ t.xr.opndLines f.d (typeLines p.ud.ty), inRange l = false) :
    u.putResult w p f o = { u with xr := (t.putResult w p f o).xr } := by
  unfold Tile.putResult
  split
  · rw [← hxr]
  next hnowb => exact Tile.putElems_outside_eq _ _ hxr (h hnowb)

/-- A result in a tile: in its destination, with the walks moved and the LFSRs stepped (R36, R79, R125). -/
def Tile.withResult (t : Tile) (w : VWord) (p : VPlan) (f : Fields) (o : VOut) (walks : Store U64) (steps : Bool) : Tile :=
  { t.putResult w p f o with
    xr := { (t.putResult w p f o).xr with
      w := walks, lfsr := if steps then o.lfsr else (t.putResult w p f o).xr.lfsr } }

/-- Where the destination is no line in range only the vector resources differ. -/
theorem Tile.withResult_eq {t u : Tile} {w : VWord} {p : VPlan} {f : Fields} (o : VOut) (hxr : u.xr = t.xr)
    (h : w.h.nowb ≠ 1 → ∀ l ∈ t.xr.opndLines f.d (typeLines p.ud.ty), inRange l = false) (walks : Store U64) (steps : Bool) :
    u.withResult w p f o walks steps = { u with
      xr := { t.xr with
        v := (t.putResult w p f o).xr.v, m := (t.putResult w p f o).xr.m, w := walks
        lfsr := if steps then o.lfsr else t.xr.lfsr } } := by
  rw [Tile.withResult, Tile.putResult_congr o hxr h, Tile.putResult_eq o h]

theorem Tile.VectorChange.update {t u : Tile} (h : t.VectorChange u) (ws : Store U64) (asks : List Ask) (vjobs : List VJob) :
    t.VectorChange { u with xr := { t.xr with w := ws }, asks := asks, vjobs := vjobs } :=
  show _ = t.withVector _ from congrArg (fun v : Tile => { v with xr := { t.xr with w := ws }, asks := asks, vjobs := vjobs }) h

/-- A word that leaves requests has moved its walks and changed nothing else of its tile (R36, R127). -/
theorem Tile.startJob_change (t : Tile) (now slack lat : Nat) (i : Instr) (v : VIn) (reads : List (Nat × List Int))
    (writes : List Int) (pc : U64) (walks : List (Nat × U64 × U64)) (ws : Store U64) :
    t.VectorChange { t.startJob now slack lat i v reads writes pc none walks with xr := { t.xr with w := ws } } := by
  have htouched := t.touchLines_change now rankVector ((reads.map fun r => r.2).flatten ++ writes)
  unfold Tile.startJob Tile.ask
  generalize t.touchLines now rankVector ((reads.map fun r => r.2).flatten ++ writes) = u at htouched
  exact htouched.update _ _ _

theorem JobLeft.congr {s t u : State} {i : Instr} {v : VIn} {reads : List (Nat × List Int)} {writes : List Int}
    (h : JobLeft s t i v reads writes) (hxr : u.myTile.xr = t.myTile.xr) (hasks : u.myTile.asks = t.myTile.asks)
    (hvjobs : u.myTile.vjobs = t.myTile.vjobs) : JobLeft s u i v reads writes := by
  unfold JobLeft at *
  rwa [hxr, hasks, hvjobs]

section
variable {s : State} {i : Instr} {w : VWord} {p : VPlan} {f : Fields} {lat : Nat} {res : List Res}

/-- A word that reaches no line in range has its result at once. -/
theorem State.vectorEffect_noLine {o : VOut} (ho : o = p.run (vectorIn s w p f))
    (h : NoLine (vectorReads s w p f) (vectorWrites s w p f)) (hunused : p.ud = .no → f.d = .unused) :
    ∃ u, s.vectorEffect i w p f (readsD w p) (vectorReads s w p f) (vectorWrites s w p f) lat res =
        (s.setMyTile u).issue (s.afterLong w.h) (s.now + 1)
          ((s.vectorPend p lat res).result o.flags (vectorCap w o (vectorIn s w p f).d)) ∧
      s.myTile.VectorChange u ∧ u.asks = s.myTile.asks ∧ u.vjobs = s.myTile.vjobs ∧
      u.xr = { s.myTile.xr with
        v := (s.myTile.putResult w p f o).xr.v, m := (s.myTile.putResult w p f o).xr.m, w := (s.myTile.xr.postAll p f).w
        lfsr := if p.usesLfsr (s.me.rounding w.h.rnd.toNat) then o.lfsr else s.myTile.xr.lfsr } := by
  let t := s.myTile.touchLines s.now rankVector (((vectorReads s w p f).map fun r => r.2).flatten ++ vectorWrites s w p f)
  have hxr : t.xr = s.myTile.xr := s.myTile.touchLines_xr _ _ _
  have hresult := Tile.withResult_eq (w := w) (p := p) (f := f) o hxr (fun hnowb => h.dest hnowb hunused)
    (s.myTile.xr.postAll p f).w (p.usesLfsr (s.me.rounding w.h.rnd.toNat))
  refine ⟨t.withResult w p f o (s.myTile.xr.postAll p f).w (p.usesLfsr (s.me.rounding w.h.rnd.toNat)), ?_, ?_⟩
  · subst ho
    exact if_pos ((linesIn_isEmpty_iff _ _).2 h)
  · rw [hresult, ← hxr]
    exact ⟨(s.myTile.touchLines_change _ _ _).trans rfl, s.myTile.touchLines_asks _ _ _, s.myTile.touchLines_vjobs _ _ _, rfl⟩

/-- A word that reaches a line in range leaves its requests. -/
theorem State.vectorEffect_lines (h : ¬ NoLine (vectorReads s w p f) (vectorWrites s w p f)) :
    ∃ u, s.vectorEffect i w p f (readsD w p) (vectorReads s w p f) (vectorWrites s w p f) lat res =
        (s.setMyTile u).issue (s.afterLong w.h) (s.now + 1) (s.vectorPend p lat res) ∧
      s.myTile.VectorChange u ∧ u.xr = s.myTile.xr.postAll p f ∧
      JobLeft s (s.setMyTile u) i (vectorIn s w p f) (vectorReads s w p f) (vectorWrites s w p f) := by
  let t := s.myTile.startJob s.now lineSlack lat i (vectorIn s w p f) (vectorReads s w p f) (vectorWrites s w p f) s.me.pc
    (walks := s.myTile.xr.walksTo (s.myTile.xr.postAll p f))
  let touched := s.myTile.touchLines s.now rankVector (((vectorReads s w p f).map fun r => r.2).flatten ++ vectorWrites s w p f)
  refine ⟨{ t with xr := s.myTile.xr.postAll p f }, if_neg fun hempty => h ((linesIn_isEmpty_iff _ _).1 hempty), ?_, rfl, ?_⟩
  · rw [XRes.postAll_eq]
    exact s.myTile.startJob_change _ _ _ _ _ _ _ _ _ _
  · obtain ⟨asks, hasks, hsince, hlines⟩ := touched.ask_asks s.now rankVector lineSlack
      (lineAsks (vectorReads s w p f) (vectorWrites s w p f)) s.me.pc
    rw [s.myTile.touchLines_asks] at hasks
    unfold JobLeft
    rw [State.myTile_setMyTile, XRes.postAll_eq]
    exact ⟨⟨_, congrArg (· ++ _) (s.myTile.touchLines_vjobs _ _ _), rfl, rfl, rfl, rfl, rfl, rfl, rfl⟩,
      ⟨asks, hasks, hsince, hlines⟩, rfl, rfl, rfl⟩

/-- A word whose effect comes runs, at once or with its lines (R125, R127). -/
theorem State.vectorRuns (hcore : s.cur.core = .X) (hunused : p.ud = .no → f.d = .unused)
    (hlatch : w.h.capEn = 1 → res.any Res.isLatch = true)
    (hexec : exec i s = .next (s.vectorEffect i w p f (readsD w p) (vectorReads s w p f) (vectorWrites s w p f)
      (if (vectorReads s w p f).isEmpty then p.lat else p.lat + 4) res)) :
    VectorRuns i s w p f (p.run (vectorIn s w p f)) := by
  have hlat : (if (vectorReads s w p f).isEmpty then p.lat else p.lat + 4) =
      p.lat + (if strided f.a || strided f.b || (strided f.d && readsD w p) then 4 else 0) := by
    rw [vectorReads_isEmpty]
    cases strided f.a || strided f.b || (strided f.d && readsD w p) <;> rfl
  rw [hlat] at hexec
  by_cases h : NoLine (vectorReads s w p f) (vectorWrites s w p f)
  case pos =>
    obtain ⟨u, heffect, hchange, hasks, hvjobs, hxr⟩ := State.vectorEffect_noLine rfl h hunused
    obtain ⟨t, ht, hissued, honly, htxr, htasks, htvjobs⟩ := State.issue_vector hcore hchange _ _
    have hcap : (if res.any Res.isLatch then vectorCap w (p.run (vectorIn s w p f)) (vectorIn s w p f).d else none) =
        vectorCap w (p.run (vectorIn s w p f)) (vectorIn s w p f).d := by
      by_cases hen : w.h.capEn = 1
      · rw [if_pos (hlatch hen)]
      · rw [vectorCap, if_neg hen, ite_self]
    refine ⟨t, _, _, hexec.trans (congrArg _ (heffect.trans ht)), hissued, (Nat.add_assoc ..).symm, ?_, honly, rfl,
      fun _ => ⟨rfl, hcap, ?_⟩, absurd h⟩
    · rw [htxr, hxr]; rfl
    · rw [htxr, htasks, htvjobs, hxr]; exact ⟨rfl, rfl, rfl, hasks, hvjobs⟩
  case neg =>
    obtain ⟨u, heffect, hchange, hxr, hleft⟩ := State.vectorEffect_lines h
    obtain ⟨t, ht, hissued, honly, htxr, htasks, htvjobs⟩ := State.issue_vector hcore hchange _ _
    refine ⟨t, _, _, hexec.trans (congrArg _ (heffect.trans ht)), hissued, (Nat.add_assoc ..).symm, ?_, honly, rfl,
      fun hnone => absurd hnone h, fun _ => hleft.congr ?_ ?_ ?_⟩
    · rw [htxr, hxr]; rfl
    all_goals rw [State.myTile_setMyTile]; assumption

end

/-! The checks of a vector word and its issue (R23, R91, R99 to R101, R127, R128). -/

section
variable {s : State} {i : Instr} {w : VWord} {p : VPlan} {f : Fields}

theorem State.vectorWord_illegal (h : p.ok5 = false ∨ s.unstamped w.h.stamp = true ∨ s.cur.core ≠ .X) :
    s.vectorWord i w p = s.fault 0x01 (headUnit i) :=
  if_pos h

theorem State.vectorWord_badOperand {pos : Nat} (hok : p.ok5 = true) (hstamp : s.unstamped w.h.stamp = false)
    (hcore : s.cur.core = .X)
    (h : checkFields (s.myTile.latchLost s.now) p.ctlOk w.h.lits.length p.ud p.ua p.ub w = .error pos) :
    s.vectorWord i w p = s.fault 0x04 (operandTval pos (fieldOf w pos)) := by
  have hlegal : ¬ (p.ok5 = false ∨ s.unstamped w.h.stamp = true ∨ s.cur.core ≠ .X) := by simp [hok, hstamp, hcore]
  rw [State.vectorWord, State.longWord, if_neg hlegal, h]
  rfl

theorem Due.stamped {stamp : Option (BitVec 30)} (h : Due s stamp) : s.unstamped stamp = false := by
  rcases h with hfree | ⟨st, rfl, -⟩
  · rw [State.unstamped, hfree, Bool.false_and]
  · exact Bool.and_false _

theorem Due.atStamp_eq {stamp : Option (BitVec 30)} (h : Due s stamp) (go : Outcome State Fault Refusal) :
    s.atStamp stamp go = go := by
  unfold State.atStamp
  split
  next hdatum =>
    rcases h with hfree | ⟨st, rfl, hheld | ⟨hheld, hclock, hframe⟩⟩
    · rw [hfree] at hdatum; cases hdatum
    · simp [hheld]
    · simp [hheld, hclock, Nat.not_le.2 hframe]
  next => rfl

theorem VectorReady.vectorWord_eq (h : VectorReady s w p f) : s.vectorWord i w p = s.vectorIssue i w p f := by
  obtain ⟨hok, hcore, hdue, hfields, -⟩ := h
  have hlegal : ¬ (p.ok5 = false ∨ s.unstamped w.h.stamp = true ∨ s.cur.core ≠ .X) := by simp [hok, hdue.stamped, hcore]
  rw [State.vectorWord, State.longWord, if_neg hlegal, hfields]
  exact hdue.atStamp_eq _

/-- The resources that a vector word writes (R91). -/
def State.vectorRes (s : State) (w : VWord) (p : VPlan) (f : Fields) : List Res :=
  (if w.h.nowb = 1 then [] else f.d.writes) ++ (if w.h.capEn = 1 then [Res.byp w.h.capN.toNat] else []) ++
    (if p.usesLfsr (s.me.rounding w.h.rnd.toNat) then [Res.lfsr] else []) ++ (if p.raises then [Res.fflags] else []) ++
    readerRes f p.book

theorem State.vectorRes_isLatch (h : w.h.capEn = 1) : (s.vectorRes w p f).any Res.isLatch = true := by
  simp [State.vectorRes, h, Res.isLatch]

/-- Nothing keeps a ready word from issuing but its domains (R91, R127, R128). -/
theorem VectorReady.vectorIssue_eq (h : VectorReady s w p f) : s.vectorIssue i w p f =
    (domainOf s p f).elim
      (.next (s.vectorEffect i w p f (readsD w p) (vectorReads s w p f) (vectorWrites s w p f)
        (if (vectorReads s w p f).isEmpty then p.lat else p.lat + 4) (s.vectorRes w p f)))
      fun pos => s.fault 0x0C (operandTval pos (fieldOf w pos)) := by
  obtain ⟨-, -, -, -, hres, hlines⟩ := h
  have hnone : ∀ rs : List Res, rs.any (s.me.pending s.now) = false := fun rs =>
    List.any_eq_false.2 fun r _ => ne_true_of_eq_false (hres r)
  unfold State.vectorIssue domainOf
  simp only [readsD_eq, hnone, hlines, Bool.or_self, Bool.false_eq_true, if_false]
  cases domainField s.myTile.task p.domain (s.myTile.xr.opndLines f.d p.ud.lines) (s.myTile.xr.opndLines f.a p.ua.lines)
    (s.myTile.xr.opndLines f.b p.ub.lines) <;> rfl

theorem VectorReady.vectorWord_domain {pos : Nat} (h : VectorReady s w p f) (hdom : domainOf s p f = some pos) :
    s.vectorWord i w p = s.fault 0x0C (operandTval pos (fieldOf w pos)) := by
  rw [h.vectorWord_eq, h.vectorIssue_eq, hdom, Option.elim_some]

theorem VectorReady.vectorRuns (h : VectorReady s w p f) (hdom : domainOf s p f = none)
    (hexec : exec i s = s.vectorWord i w p) : VectorRuns i s w p f (p.run (vectorIn s w p f)) := by
  rw [h.vectorWord_eq, h.vectorIssue_eq, hdom, Option.elim_none] at hexec
  obtain ⟨-, hcore, -, hfields, -⟩ := h
  have hunused : p.ud = .no → f.d = .unused := fun hud => by
    have hd := checkFields_ok_d hfields
    rw [hud] at hd
    exact Use.parse_no hd
  exact State.vectorRuns hcore hunused State.vectorRes_isLatch hexec

end

/-- A word that has a plan means what the plan says, whether or not the plan tells it to raise flags. -/
theorem vectorMeansWhere_of_plan {mk : VWord → Instr} {form : VWord → Prop} {plan : State → VWord → VPlan}
    (h : ∀ s w, form w → ∃ raises, vectorPlan s.myTile.xr s.myTile.task.recIndex (mk w) =
      some (w, { plan s w with raises := raises })) : VectorMeansWhere mk form plan := by
  rintro s w _ hform rfl
  obtain ⟨raises, hplan⟩ := h s w hform
  have hexec := exec_eq_vectorWord hplan
  refine ⟨fun hill => ?illegal, fun pos hok hstamp hcore hfield => ?operand, fun f pos hready hdom => ?domain,
    fun f hready hdom => ?runs, fun s0 f j hword hvin hparse => ?ends⟩
  case illegal => exact hexec.trans (State.vectorWord_illegal hill)
  case operand => exact hexec.trans (State.vectorWord_badOperand hok hstamp hcore hfield)
  case domain => exact hexec.trans (VectorReady.vectorWord_domain (f := f) hready hdom)
  case runs => exact VectorReady.vectorRuns (p := { plan s w with raises := raises }) hready hdom hexec
  case ends =>
    rw [Tile.jobDone_eq_jobResult (hword ▸ hplan), hparse]
    rfl

theorem vectorMeans_of_plan {mk : VWord → Instr} {plan : State → VWord → VPlan}
    (h : ∀ s w, ∃ raises, vectorPlan s.myTile.xr s.myTile.task.recIndex (mk w) =
      some (w, { plan s w with raises := raises })) : VectorMeans mk plan :=
  vectorMeansWhere_of_plan fun s w _ => h s w

end Sys2Proof.Machine

/-!
Reductions and scans of integers without sat (R84, R140): a node wraps its sum to the type, so that the bits of a tree's root,
and those of a scan in a lane, stand for the sum of the active lanes modulo the type's width.
-/

namespace Sys2Proof.Machine

/-! Integers and the bits that stand for them (R63). -/

/-- Two integers have the same bits in type `t`. -/
def SameBits (t : Nat) (x y : Int) : Prop := x % (2 ^ typeBits t : Nat) = y % (2 ^ typeBits t : Nat)

theorem SameBits.trans {t : Nat} {x y z : Int} (h : SameBits t x y) (h' : SameBits t y z) : SameBits t x z := Eq.trans h h'

theorem SameBits.add {t : Nat} {x x' y y' : Int} (h : SameBits t x x') (h' : SameBits t y y') :
    SameBits t (x + y) (x' + y') := by
  unfold SameBits at *
  rw [Int.add_emod, h, h', ← Int.add_emod]

theorem SameBits.add_right {t : Nat} {x x' : Int} (h : SameBits t x x') (y : Int) : SameBits t (x + y) (x' + y) :=
  h.add rfl

theorem SameBits.intBits_eq {t : Nat} {x y : Int} (h : SameBits t x y) : intBits t x = intBits t y := congrArg Int.toNat h

theorem sameBits_intBits (t : Nat) (x : Int) : SameBits t (intBits t x) x := by
  have hne : ((2 ^ typeBits t : Nat) : Int) ≠ 0 := Int.natCast_ne_zero.2 (Nat.ne_of_gt (Nat.two_pow_pos _))
  rw [SameBits, intBits, wrapTo, Int.toNat_of_nonneg (Int.emod_nonneg x hne)]
  exact Int.emod_emod x _

theorem signed_emod (n v : Nat) : signed n v % (2 ^ n : Nat) = v % (2 ^ n : Nat) := by
  have hv : ((v % 2 ^ n : Nat) : Int) % (2 ^ n : Nat) = v % (2 ^ n : Nat) := by
    rw [Int.natCast_emod v (2 ^ n)]
    exact Int.emod_emod v _
  unfold signed
  split
  · exact hv
  · rw [Int.sub_emod_right, hv]

theorem sameBits_decodeInt (t x : Nat) : SameBits t (decodeInt t x) x := by
  unfold decodeInt
  split
  · exact signed_emod _ _
  · rw [SameBits, Int.natCast_emod x (2 ^ typeBits t)]
    exact Int.emod_emod x _

theorem intBits_decodeInt {t x : Nat} (hx : x < 2 ^ typeBits t) : intBits t (decodeInt t x) = x := by
  rw [(sameBits_decodeInt t x).intBits_eq, intBits, wrapTo, ← Int.natCast_emod, Int.toNat_natCast, Nat.mod_eq_of_lt hx]

/-! The sum of the active lanes. -/

/-- The integer that an active lane adds to a sum; a lane masked off adds nothing (R84). -/
def VIn.addend (i : VIn) (t j : Nat) : Int := if i.act.getD j false then decodeInt t (i.a.getD j 0) else 0

theorem VIn.addend_active {t j : Nat} (i : VIn) (hact : i.act.getD j false = true) :
    i.addend t j = decodeInt t (i.a.getD j 0) := if_pos hact

theorem VIn.addend_inactive {t j : Nat} (i : VIn) (hact : i.act.getD j false = false) : i.addend t j = 0 :=
  if_neg (ne_true_of_eq_false hact)

/-- The sum of the active lanes among the first `n`. -/
def VIn.activeSum (i : VIn) (t n : Nat) : Int :=
  (((List.range n).filter fun j => i.act.getD j false).map fun j => decodeInt t (i.a.getD j 0)).sum

theorem VIn.activeSum_succ (i : VIn) (t n : Nat) : i.activeSum t (n + 1) = i.activeSum t n + i.addend t n := by
  have hlane : (([n].filter fun j => i.act.getD j false).map fun j => decodeInt t (i.a.getD j 0)).sum = i.addend t n := by
    cases hact : i.act.getD n false with
    | false =>
      rw [List.filter_cons_of_neg (p := fun j => i.act.getD j false) (ne_true_of_eq_false hact), i.addend_inactive hact]
      rfl
    | true =>
      rw [List.filter_cons_of_pos (p := fun j => i.act.getD j false) hact, i.addend_active hact]
      exact List.sum_singleton
  rw [activeSum, List.range_succ, List.filter_append, List.map_append, List.sum_append, hlane, activeSum]

theorem VIn.sum_addend (i : VIn) (t n : Nat) : ((List.range n).map (i.addend t)).sum = i.activeSum t n := by
  induction n with
  | zero => rfl
  | succ n ih =>
    rw [i.activeSum_succ, List.range_succ, List.map_append, List.sum_append, ih, List.map_singleton, List.sum_singleton]

/-! The tree (R84, R140). -/

theorem sameBits_sum_map {t : Nat} {f g : Nat → Int} (h : ∀ k, SameBits t (f k) (g k)) (ks : List Nat) :
    SameBits t (ks.map f).sum (ks.map g).sum := by
  induction ks with
  | nil => rfl
  | cons k ks ih => exact (h k).add ih

theorem sum_pairs (m : Nat) (v : List Int) (hlen : v.length = 2 * m) :
    ((List.range m).map fun k => v.getD (2 * k) 0 + v.getD (2 * k + 1) 0).sum = v.sum := by
  induction m generalizing v with
  | zero => rw [List.eq_nil_of_length_eq_zero hlen]; rfl
  | succ m ih =>
    match v, hlen with
    | x :: y :: v, hlen =>
      have hrest := ih v (by simpa [Nat.mul_succ] using hlen)
      simp only [List.getD_eq_getElem?_getD] at hrest
      simp [List.range_succ_eq_map, Function.comp_def, Nat.mul_succ, hrest, Int.add_assoc]

theorem sameBits_intNode_add (t : Nat) (x y : Int) : SameBits t (Red.add.intNode t false x y) (x + y) :=
  (sameBits_decodeInt t _).trans (sameBits_intBits t _)

/-- The root of a tree of sums stands for the sum of its leaves. -/
theorem sameBits_intTree_add (t n : Nat) (v : List Int) (hlen : v.length = 2 ^ n) :
    SameBits t (intTree .add t false n v) v.sum := by
  induction n generalizing v with
  | zero =>
    obtain ⟨x, rfl⟩ := List.length_eq_one_iff.1 hlen
    rw [List.sum_singleton]
    rfl
  | succ n ih =>
    rw [Nat.pow_succ'] at hlen
    have hhalf : v.length / 2 = 2 ^ n := by omega
    have hlevel := ih ((List.range (2 ^ n)).map fun k => Red.add.intNode t false (v.getD (2 * k) 0) (v.getD (2 * k + 1) 0))
      (by rw [List.length_map, List.length_range])
    have hnodes := sameBits_sum_map (fun k => sameBits_intNode_add t (v.getD (2 * k) 0) (v.getD (2 * k + 1) 0))
      (List.range (2 ^ n))
    rw [sum_pairs _ v hlen] at hnodes
    rw [intTree, hhalf]
    exact hlevel.trans hnodes

theorem reduceRun_add_eq {t : Nat} {i : VIn} (ht : typeInt t = true) (hsat : i.sat = false) :
    (reduceRun .add t i).new.getD 0 0 = intBits t (i.activeSum t 64) := by
  have hroot : (reduceRun .add t i).new.getD 0 0 = intBits t (intTree .add t false 6 ((List.range 64).map (i.addend t))) := by
    rw [reduceRun, if_pos ht, ← hsat]
    rfl
  rw [hroot, ← i.sum_addend]
  exact (sameBits_intTree_add t 6 _ (List.length_map _ |>.trans List.length_range)).intBits_eq

/-! Scans (R84, R140). -/

/-- What a scan of sums leaves in a lane: the sum's bits where the lane is active. -/
def VIn.scanLane (i : VIn) (t j : Nat) : Nat := if i.act.getD j false then intBits t (i.activeSum t (j + 1)) else 0

theorem VIn.scanLane_active {t j : Nat} (i : VIn) (hact : i.act.getD j false = true) :
    i.scanLane t j = intBits t (i.activeSum t (j + 1)) := if_pos hact

theorem VIn.scanLane_inactive {t j : Nat} (i : VIn) (hact : i.act.getD j false = false) : i.scanLane t j = 0 :=
  if_neg (ne_true_of_eq_false hact)

/-- A scan has come to lane `n`: what it carries stands for the sum of the active lanes before it, and each of those has its
own. -/
structure Scan.Reached (p : Scan) (t : Nat) (i : VIn) (n : Nat) : Prop where
  pre : p.pre.getD 0 = intBits t (i.activeSum t n)
  out : p.out = ((List.range n).map (i.scanLane t)).reverse

theorem scanStep_inactive {t : Nat} {i : VIn} {j : Nat} (p : Scan) (hact : i.act.getD j false = false) :
    (scanStep t i p j).pre = p.pre ∧ (scanStep t i p j).out = 0 :: p.out := by
  rw [scanStep, if_pos hact]
  exact ⟨rfl, rfl⟩

/-- The first active lane's bits are taken unchanged, which are those of its sum with nothing. -/
theorem scanStep_active {t : Nat} {i : VIn} {j : Nat} (p : Scan) (ht : typeInt t = true) (hsat : i.sat = false)
    (hact : i.act.getD j false = true) (hx : i.a.getD j 0 < 2 ^ typeBits t) :
    (scanStep t i p j).pre = some (intBits t (p.pre.getD 0 + decodeInt t (i.a.getD j 0))) ∧
      (scanStep t i p j).out = intBits t (p.pre.getD 0 + decodeInt t (i.a.getD j 0)) :: p.out := by
  rw [scanStep, if_neg (ne_false_of_eq_true hact)]
  cases hpre : p.pre with
  | none =>
    have hsum : i.a.getD j 0 = intBits t ((0 : Nat) + decodeInt t (i.a.getD j 0)) := by
      rw [Int.natCast_zero, Int.zero_add, intBits_decodeInt hx]
    exact ⟨congrArg some hsum, congrArg (· :: p.out) hsum⟩
  | some y =>
    have hsum : fitInt t i.sat (decodeInt t y + decodeInt t (i.a.getD j 0)) = intBits t (y + decodeInt t (i.a.getD j 0)) := by
      rw [fitInt, hsat, if_neg Bool.false_ne_true]
      exact ((sameBits_decodeInt t y).add_right _).intBits_eq
    simp only [ht, if_true, hsum, Option.getD_some, and_self]

theorem Scan.Reached.step {p : Scan} {t : Nat} {i : VIn} {n : Nat} (h : p.Reached t i n) (ht : typeInt t = true)
    (hsat : i.sat = false) (hx : i.a.getD n 0 < 2 ^ typeBits t) : (scanStep t i p n).Reached t i (n + 1) := by
  have hsucc : (List.range (n + 1)).map (i.scanLane t) = (List.range n).map (i.scanLane t) ++ [i.scanLane t n] := by
    simp [List.range_succ]
  cases hact : i.act.getD n false with
  | false =>
    obtain ⟨hpre, hout⟩ := scanStep_inactive (t := t) p hact
    have hsame : i.activeSum t (n + 1) = i.activeSum t n := by rw [i.activeSum_succ, i.addend_inactive hact, Int.add_zero]
    exact ⟨by rw [hpre, hsame, h.pre], by rw [hout, h.out, hsucc, i.scanLane_inactive hact, List.reverse_concat]⟩
  | true =>
    obtain ⟨hpre, hout⟩ := scanStep_active p ht hsat hact hx
    have hbits : intBits t (p.pre.getD 0 + decodeInt t (i.a.getD n 0)) = intBits t (i.activeSum t (n + 1)) := by
      rw [i.activeSum_succ, i.addend_active hact, h.pre]
      exact ((sameBits_intBits t _).add_right _).intBits_eq
    exact ⟨by rw [hpre, hbits, Option.getD_some],
      by rw [hout, hbits, h.out, hsucc, i.scanLane_active hact, List.reverse_concat]⟩

theorem Scan.reached (t n : Nat) (i : VIn) (ht : typeInt t = true) (hsat : i.sat = false)
    (hx : ∀ k, i.a.getD k 0 < 2 ^ typeBits t) : ((List.range n).foldl (scanStep t i) ⟨none, [], 0, []⟩).Reached t i n := by
  induction n with
  | zero => exact ⟨by simp [VIn.activeSum, intBits, wrapTo], rfl⟩
  | succ n ih =>
    rw [List.range_succ, List.foldl_append]
    exact ih.step ht hsat (hx n)

theorem scanRun_eq {t j : Nat} {i : VIn} (ht : typeInt t = true) (hsat : i.sat = false) (hj : j < 64)
    (hact : i.act.getD j false = true) (hx : ∀ k, i.a.getD k 0 < 2 ^ typeBits t) :
    (scanRun t i).new.getD j 0 = intBits t (i.activeSum t (j + 1)) := by
  have hnew : (scanRun t i).new = (List.range 64).map (i.scanLane t) := by
    rw [scanRun, (Scan.reached t 64 i ht hsat hx).out, List.reverse_reverse]
  rw [hnew, ← i.scanLane_active hact]
  simp [hj]

end Sys2Proof.Machine

/-!
Reductions, scans, the words of the lane LFSRs, block scales and rotations (R80, R84, R140, R141, R148, R152).
-/

namespace Sys2Proof.Machine

/-- The head of a reduction or scan as its word's type reads it (R50). -/
theorem reduceHead_eq (w : VWord) : reduceHead w.h = (w.h.x3 == 0 && ((decide (typeOf w ≤ 2) && w.h.rnd != 7) ||
    ((w.h.etype == 12 || w.h.etype == 13) && w.h.rnd == 0))) := by
  have htype : ∀ e : BitVec 4, (e.toNat == 12 || e.toNat == 13) = (e == 12 || e == 13) := by decide
  rw [reduceHead, htype, typeOf]

theorem vectorMeans_reduceWord {mk : VWord → Instr} {run : VWord → VIn → VOut}
    (h : ∀ x r w, vectorPlan x r (mk w) = some (w, reduceWord w (run w))) : VectorMeans mk fun _ w =>
      { ok5 := w.h.x3 == 0 && ((decide (typeOf w ≤ 2) && w.h.rnd != 7) ||
          ((w.h.etype == 12 || w.h.etype == 13) && w.h.rnd == 0)),
        ud := .wr (typeOf w), ua := .rd (typeOf w), ub := .no, ctlOk := fun _ => true, lat := 12, domain := some true,
        lfsr := some false, book := none, run := run w } :=
  vectorMeans_of_plan fun s w => ⟨!typeInt (typeOf w), by rw [h, reduceWord, reduceHead_eq]⟩

theorem quantType_bareHead (t : Nat) (h : VHead) :
    (quantType t && bareHead h) = (quantType t && h.rnd == 0 && h.sat == 0 && h.x3 == 0) := by
  simp only [bareHead, Bool.and_assoc]

end Sys2Proof.Machine

namespace Sys2Proof

open Sys2Proof.Machine

/-- Settles O45: the words mean what their plans say (`vectorMeans_of_plan`), and an integer tree or scan gives the sum of its
active lanes (`reduceRun_add_eq`, `scanRun_eq`). -/
theorem vectorReductions : Obligations.VectorReductions := by
  unfold Obligations.VectorReductions
  refine ⟨?reduce, ?sum, ?scan, ?lfsr, ?scale, ?rotate⟩
  case reduce =>
    simp only [List.forall_mem_cons]
    refine ⟨?_, ?_, ?_, ?_, ?_, List.forall_mem_nil _⟩
    all_goals exact vectorMeans_reduceWord fun _ _ _ => rfl
  case sum =>
    rintro t i (rfl | rfl) hsat
    all_goals exact reduceRun_add_eq rfl hsat
  case scan =>
    rintro t i j (rfl | rfl) hsat hj hact hx
    all_goals exact scanRun_eq rfl hsat hj hact hx
  case lfsr =>
    simp only [List.forall_mem_cons]
    refine ⟨?_, ?_, ?_, ?_, List.forall_mem_nil _⟩
    all_goals exact vectorMeans_of_plan fun _ _ => ⟨false, rfl⟩
  case scale =>
    refine vectorMeans_of_plan fun _ w => ⟨true, ?_⟩
    rw [← quantType_bareHead]
    rfl
  case rotate => exact vectorMeans_of_plan fun _ _ => ⟨true, rfl⟩

end Sys2Proof

/-!
Compares, integer element words, mask words and the movement of elements (R131, R135 to R138, R145, R153 to R157).
-/

namespace Sys2Proof.Machine

/-- A word that raises no flag means what its plan says. -/
theorem vectorMeans_of_plan_eq {mk : VWord → Instr} {plan : State → VWord → VPlan}
    (h : ∀ s w, vectorPlan s.myTile.xr s.myTile.task.recIndex (mk w) = some (w, { plan s w with raises := false })) :
    VectorMeans mk plan :=
  vectorMeans_of_plan fun s w => ⟨false, h s w⟩

theorem vectorMeans_intWord {mk : VWord → Instr} {f : Nat → Bool → Nat → Nat → Nat}
    (h : ∀ x r w, vectorPlan x r (mk w) = some (w, intWord w (f (typeOf w)))) : VectorMeans mk fun _ w =>
      { ok5 := typeInt (typeOf w) && w.h.rnd == 0 && w.h.x3 == 0, ud := .wr (typeOf w), ua := .rd (typeOf w),
        ub := .rd (typeOf w), ctlOk := fun _ => true, lat := 2, domain := none, lfsr := none, book := none,
        run := fun i => i.lanes false fun j _ => (f (typeOf w) i.sat (i.a.getD j 0) (i.b.getD j 0), 0) } :=
  vectorMeans_of_plan_eq fun _ _ => h _ _ _

/-- A mask word whose operation is not the reserved one computes it on each bit (R51, R136). -/
theorem vectorMeansWhere_vmaskop {k : Nat} (hk : k ≠ 7) : VectorMeansWhere .vmaskop (fun w => w.h.x3.toNat = k) fun _ w =>
    { ok5 := w.h.etype == 0 && w.h.rnd == 0 && w.h.sat == 0 && w.h.mask == 0 && w.h.nowb == 0 && w.h.capEn == 0,
      ud := .maskWr, ua := .maskRd, ub := if 5 ≤ k then .no else .maskRd, ctlOk := fun _ => true, lat := 2,
      domain := none, lfsr := none, book := none,
      run := fun i => ⟨(List.range 64).map fun j => maskBitOp k (i.a.getD j 0) (i.b.getD j 0), List.replicate 64 true, 0,
        i.lfsr⟩ } := by
  refine vectorMeansWhere_of_plan fun _ w hx3 => ⟨false, ?_⟩
  subst hx3
  rw [vectorPlan, planVmaskop, bne_iff_ne.2 hk, Bool.and_true]
  rfl

/-- The last operation of VMASKOP is reserved (R51). -/
theorem planVmaskop_reserved {w : VWord} (hx3 : w.h.x3 = 7) : (planVmaskop w).ok5 = false := by
  rw [planVmaskop, hx3]
  exact Bool.and_false _

end Sys2Proof.Machine

namespace Sys2Proof

open Sys2Proof.Machine

/-- Settles O44: each word means what its plan says (`vectorMeans_of_plan`); a plan is that of an integer word
(`vectorMeans_intWord`), of a mask word by its operation (`vectorMeansWhere_vmaskop`), or is told by the word alone. VMASKOP with
the reserved operation has an illegal head (`planVmaskop_reserved`). -/
theorem vectorMoves : Obligations.VectorMoves := by
  unfold Obligations.VectorMoves
  refine ⟨?integer, ?move, ?compare, ?select, ?mask, ?reserved, ?lanes, ?shuffle, ?pack, ?compress⟩
  case integer =>
    intro row hrow
    refine vectorMeans_intWord (f := row.2) ?_
    revert row
    simp only [List.forall_mem_cons]
    refine ⟨?_, ?_, ?_, ?_, ?_, ?_, ?_, ?_, ?_, ?_, ?_, ?_, ?_, List.forall_mem_nil _⟩
    all_goals exact fun _ _ _ => rfl
  case compare => exact vectorMeans_of_plan fun _ w => ⟨decide (2 ≤ w.h.x3.toNat ∧ w.h.x3.toNat ≤ 5), rfl⟩
  case move | select | pack | compress => exact vectorMeans_of_plan_eq fun _ _ => rfl
  case mask =>
    simp only [List.forall_mem_cons]
    refine ⟨?_, ?_, ?_, ?_, ?_, ?_, ?_, List.forall_mem_nil _⟩
    all_goals exact vectorMeansWhere_vmaskop (by decide)
  case reserved =>
    intro s w hx3
    exact (exec_eq_vectorWord rfl).trans (State.vectorWord_illegal (.inl (planVmaskop_reserved hx3)))
  case lanes =>
    simp only [List.forall_mem_cons, List.countP_eq_length_filter]
    refine ⟨?_, ?_, ?_, ?_, ?_, List.forall_mem_nil _⟩
    all_goals exact vectorMeans_of_plan_eq fun _ _ => rfl
  case shuffle =>
    refine vectorMeans_of_plan_eq fun _ _ => ?_
    simp only [vectorPlan, planVshuf, shuffleLane, bitsAt, Nat.pow_zero, Nat.div_one] <;> rfl

end Sys2Proof

/-!
How an engine command completes (R188, R191, R192, R197, R199, R202 to R204): the step that a command alone in its FIFOs may
make, what its completion leaves of the tile, and the effect that each command has then.
-/

namespace Sys2Proof

/-! What is read back of bytes that were written. -/

@[simp] theorem Memory.length_bytes (m : Memory) (a n : Nat) : (Memory.bytes m a n).length = n := by
  induction n generalizing a with
  | zero => rfl
  | succ n ih => rw [Memory.bytes, List.length_cons, ih]

theorem Memory.getElem_bytes (m : Memory) (a n i : Nat) (h : i < (Memory.bytes m a n).length) :
    (Memory.bytes m a n)[i] = m.byte (a + i) := by
  induction n generalizing a i with
  | zero => cases h
  | succ n ih =>
    cases i with
    | zero => rfl
    | succ i =>
      have hrest := ih (a + 1) i (by simpa [Memory.bytes] using h)
      simpa only [Memory.bytes, List.getElem_cons_succ, Nat.add_right_comm, Nat.add_assoc] using hrest

theorem Memory.bytes_setBytes (m : Memory) (a : Nat) (bs : List Byte) :
    Memory.bytes (Memory.setBytes m a bs) a bs.length = bs :=
  List.ext_getElem (Memory.length_bytes ..) fun i _ h => by
    rw [Memory.getElem_bytes, Memory.byte_setBytes_inside bs m a i h]

theorem leNat_lt (bs : List Byte) : leNat bs < 256 ^ bs.length := by
  induction bs with
  | nil => exact Nat.one_pos
  | cons b bs ih =>
    have hb : b.toNat < 256 := b.isLt
    rw [leNat, List.length_cons, Nat.pow_succ]
    omega

theorem Memory.num_setBytes (m : Memory) (a : Nat) {n v : Nat} (h : v < 256 ^ n) :
    Memory.num (Memory.setBytes m a (leBytes n v)) a n = v := by
  have hbytes := Memory.bytes_setBytes m a (leBytes n v)
  rw [leBytes_length] at hbytes
  rw [Memory.num, hbytes, leNat_leBytes, Nat.mod_eq_of_lt h]

/-- Changing every value of a store changes the one at a key, where the default stays. -/
theorem Store.get_map {α : Type} {d : α} (f : α → α) (hd : f d = d) (m : Store α) (k : Nat) :
    Store.get d (m.map fun e => (e.1, f e.2)) k = f (Store.get d m k) := by
  induction m with
  | nil => exact hd.symm
  | cons e m ih =>
    rw [List.map_cons, Store.get, Store.get, ih]
    split <;> rfl

end Sys2Proof

namespace Sys2Proof.Machine

theorem Reached.inRange {ea : Int} (h : Reached ea) : inRange (ea / 64) = true := by
  obtain ⟨hlow, hhigh⟩ := h
  exact decide_eq_true ⟨Int.ediv_nonneg hlow (by decide), hhigh⟩

/-! What an access to scratch changes of its tile. -/

/-- The tile with the scratch, the last barrier updates, the out-of-range latch and the charges of another. -/
def Tile.withScratch (t u : Tile) : Tile :=
  { t with
    scratch := u.scratch, stirred := u.stirred, barUpds := u.barUpds, oorFlag := u.oorFlag, oorAddr := u.oorAddr
    oorWhen := u.oorWhen, charges := u.charges }

/-- From `t` to `u` nothing differs but scratch, the last barrier updates, the out-of-range latch and the charges. -/
def Tile.ScratchChange (t u : Tile) : Prop := u = t.withScratch u

theorem Tile.ScratchChange.refl (t : Tile) : t.ScratchChange t := rfl

theorem Tile.ScratchChange.trans {t u v : Tile} (h : t.ScratchChange u) (h' : u.ScratchChange v) : t.ScratchChange v :=
  Eq.trans h' (congrArg (·.withScratch v) h)

theorem Tile.latch_change (t : Tile) (now rank : Nat) (addr : U64) : t.ScratchChange (t.latch now rank addr) := by
  unfold Tile.latch
  repeat' split
  all_goals rfl

theorem Tile.touch_change (t : Tile) (now rank : Nat) (line : Int) : t.ScratchChange (t.touch now rank line) := by
  unfold Tile.touch
  split
  · exact .refl t
  · exact t.latch_change ..

theorem Tile.touchAt_change (t : Tile) (now rank : Nat) (ea : Int) : t.ScratchChange (t.touchAt now rank ea) := by
  unfold Tile.touchAt
  split
  · exact .refl t
  · exact t.latch_change ..

theorem Tile.writeAt_change (t : Tile) (ea : Int) (bs : List Byte) : t.ScratchChange (t.writeAt ea bs) := by
  unfold Tile.writeAt
  split <;> rfl

theorem Tile.updateBarrier_change (t : Tile) (now rank : Nat) (ba : Int) (da ds fl : Nat) :
    t.ScratchChange (t.updateBarrier now rank ba da ds fl) := by
  unfold Tile.updateBarrier
  dsimp only
  split
  · exact t.touchAt_change ..
  · exact ((t.touchAt_change ..).trans (Tile.writeAt_change ..)).trans rfl

theorem Tile.writeAt_scratch (t : Tile) {ea : Nat} (bs : List Byte) (h : Reached ea) :
    (t.writeAt ea bs).scratch = Memory.setBytes t.scratch ea bs := by
  rw [Tile.writeAt, if_pos h.inRange]
  rfl

theorem Tile.latch_scratch (t : Tile) (now rank : Nat) (addr : U64) : (t.latch now rank addr).scratch = t.scratch := by
  unfold Tile.latch
  repeat' split
  all_goals rfl

@[simp] theorem Tile.touch_scratch (t : Tile) (now rank : Nat) (line : Int) :
    (t.touch now rank line).scratch = t.scratch := by
  unfold Tile.touch
  split
  · rfl
  · exact t.latch_scratch ..

@[simp] theorem Tile.touchAt_scratch (t : Tile) (now rank : Nat) (ea : Int) :
    (t.touchAt now rank ea).scratch = t.scratch := by
  unfold Tile.touchAt
  split
  · rfl
  · exact t.latch_scratch ..

/-- The cores, the FIFOs and the queues of two tiles are the same. -/
structure Tile.SameWork (t u : Tile) : Prop where
  l : u.l = t.l
  x : u.x = t.x
  s : u.s = t.s
  loadQ : u.loadQ = t.loadQ
  storeQ : u.storeQ = t.storeQ
  queues : u.queues = t.queues

theorem Tile.SameWork.refl (t : Tile) : t.SameWork t := ⟨rfl, rfl, rfl, rfl, rfl, rfl⟩

theorem Tile.SameWork.core {t u : Tile} (h : t.SameWork u) : ∀ k, u.core k = t.core k
  | .L => h.l
  | .X => h.x
  | .S => h.s

theorem Tile.SameWork.fifo {t u : Tile} (h : t.SameWork u) : ∀ f, u.fifo f = t.fifo f
  | .load => h.loadQ
  | .store => h.storeQ

theorem Tile.SameWork.queue {t u : Tile} (h : t.SameWork u) (q : Nat) : u.queue q = t.queue q :=
  congrArg (Store.get Queue.fresh · q) h.queues

theorem Tile.ScratchChange.sameWork {t u : Tile} (h : t.ScratchChange u) : t.SameWork u := by
  rw [h]
  exact ⟨rfl, rfl, rfl, rfl, rfl, rfl⟩

theorem Tile.ScratchChange.armed {t u : Tile} (h : t.ScratchChange u) : u.armed = t.armed := by
  rw [h]
  rfl

/-! What charging and writing scratch change of the package. -/

/-- From `s` to `t` tiles have been charged: no byte differs, and no work of a tile. -/
structure State.Charged (s t : State) : Prop where
  tile : ∀ h, (s.tile h).ScratchChange (t.tile h)
  scratch : ∀ h, (t.tile h).scratch = (s.tile h).scratch
  hbm : t.hbm = s.hbm
  host : t.host = s.host

theorem State.Charged.refl (s : State) : s.Charged s := ⟨fun _ => rfl, fun _ => rfl, rfl, rfl⟩

theorem State.charged_setTile (s : State) (g n : Nat) : s.Charged (s.setTile g { s.tile g with charges := n }) := by
  refine ⟨fun h => ?_, fun h => ?_, rfl, rfl⟩
  all_goals
    rw [State.tile_setTile]
    split
    · next hg => exact hg ▸ rfl
    · rfl

theorem State.charged_charge (s : State) (g cls n : Nat) : s.Charged (s.charge g cls n) := by
  unfold State.charge
  dsimp only
  split
  · exact .refl s
  · split
    · exact .refl s
    · exact s.charged_setTile ..

theorem State.charged_chargeOwn (s : State) (g : Nat) (line : Int) : s.Charged (s.chargeOwn g line) := by
  unfold State.chargeOwn State.chargeLines
  repeat' split
  · exact .refl s
  · exact s.charged_charge ..
  · exact .refl s

/-- From `s` to `t` bytes `bs` are written into the scratch of tile `g` from `a` on. -/
structure State.WritesScratch (s t : State) (g a : Nat) (bs : List Byte) : Prop where
  tile : (s.tile g).ScratchChange (t.tile g)
  scratch : (t.tile g).scratch = Memory.setBytes (s.tile g).scratch a bs
  others : ∀ h, h ≠ g → (t.tile h).scratch = (s.tile h).scratch
  hbm : t.hbm = s.hbm
  host : t.host = s.host

theorem State.writesScratch_setTile {s : State} {g a : Nat} {bs : List Byte} {t : Tile} (h : (s.tile g).ScratchChange t)
    (hscratch : t.scratch = Memory.setBytes (s.tile g).scratch a bs) : s.WritesScratch (s.setTile g t) g a bs := by
  refine ⟨?_, ?_, fun h hg => ?_, rfl, rfl⟩
  · rwa [State.tile_setTile_same]
  · rwa [State.tile_setTile_same]
  · rw [State.tile_setTile_ne s t hg]

theorem State.WritesScratch.charged {s t u : State} {g a : Nat} {bs : List Byte} (h : s.WritesScratch t g a bs)
    (h' : t.Charged u) : s.WritesScratch u g a bs where
  tile := h.tile.trans (h'.tile g)
  scratch := (h'.scratch g).trans h.scratch
  others k hk := (h'.scratch k).trans (h.others k hk)
  hbm := h'.hbm.trans h.hbm
  host := h'.host.trans h.host

theorem State.Charged.writesScratch {s t u : State} {g a : Nat} {bs : List Byte} (h : s.Charged t)
    (h' : t.WritesScratch u g a bs) : s.WritesScratch u g a bs where
  tile := (h.tile g).trans h'.tile
  scratch := h'.scratch.trans (congrArg (Memory.setBytes · a bs) (h.scratch g))
  others k hk := (h'.others k hk).trans (h.scratch k)
  hbm := h'.hbm.trans h.hbm
  host := h'.host.trans h.host

/-! What a completion leaves of its tile. -/

theorem Tile.popPair_noMarks {t : Tile} (h : ∀ m ∈ t.cmds, m.op ≠ 256) : t.popPair = t := by
  have hload : ∀ m q, t.loadQ = m :: q → m.op ≠ 256 := fun m q hq => h m (by simp [Tile.cmds, hq])
  have hstore : ∀ n r, t.storeQ = n :: r → n.op ≠ 256 := fun n r hr => h n (by simp [Tile.cmds, hr])
  unfold Tile.popPair
  split
  · next m q hq =>
    simp only [hload m q hq, false_and, if_false]
    split
    · next n r hr => simp only [hstore n r hr, false_and, if_false]
    · rfl
  · next n r _ hr => simp only [hstore n r hr, false_and, if_false]
  · rfl

theorem Tile.popMarks_noMarks {t : Tile} (h : ∀ m ∈ t.cmds, m.op ≠ 256) (now : Nat) : t.popMarks now = t.endDrain now := by
  unfold Tile.popMarks
  rw [foldl_eq_self fun _ _ => t.popPair_noMarks h]

/-- The end of draining changes no more of a tile than what its L-core and its S-core run. -/
theorem Tile.endDrain_eq (t : Tile) (now : Nat) :
    t.endDrain now = { t with l := { t.l with run := (t.endDrain now).l.run }
                              s := { t.s with run := (t.endDrain now).s.run } } := by
  unfold Tile.endDrain
  dsimp only
  repeat' split
  all_goals rfl

@[simp] theorem Tile.fifo_setFifo_same (t : Tile) (f : Fifo) (q : List Cmd) : (t.setFifo f q).fifo f = q := by cases f <;> rfl

@[simp] theorem Tile.fifo_setFifo_other (t : Tile) (f : Fifo) (q : List Cmd) :
    (t.setFifo f q).fifo (otherFifo f) = t.fifo (otherFifo f) := by cases f <;> rfl

@[simp] theorem Tile.core_setFifo (t : Tile) (f : Fifo) (q : List Cmd) (k : CoreId) : (t.setFifo f q).core k = t.core k := by
  cases f <;> cases k <;> rfl

@[simp] theorem Tile.queue_setFifo (t : Tile) (f : Fifo) (q : List Cmd) (n : Nat) : (t.setFifo f q).queue n = t.queue n := by
  cases f <;> rfl

@[simp] theorem Tile.scratch_setFifo (t : Tile) (f : Fifo) (q : List Cmd) : (t.setFifo f q).scratch = t.scratch := by
  cases f <;> rfl

@[simp] theorem Tile.armed_setFifo (t : Tile) (f : Fifo) (q : List Cmd) : (t.setFifo f q).armed = t.armed := by
  cases f <;> rfl

@[simp] theorem Tile.fifo_setCore (t : Tile) (k : CoreId) (c : Core) (f : Fifo) : (t.setCore k c).fifo f = t.fifo f := by
  cases f <;> cases k <;> rfl

@[simp] theorem Tile.queue_setCore (t : Tile) (k : CoreId) (c : Core) (n : Nat) : (t.setCore k c).queue n = t.queue n := by
  cases k <;> rfl

theorem Tile.regs_setCore_fflags (t : Tile) (c k : CoreId) (fl : BitVec 5) :
    ((t.setCore c { t.core c with fflags := fl }).core k).regs = (t.core k).regs := by
  cases c <;> cases k <;> rfl

/-- A done token changes no more of its tile than the queue that it is pushed to. -/
theorem Tile.pushDone_eq (t : Tile) (q : Option Nat) (tok : U32) (now rank : Nat) :
    t.pushDone q tok now rank = { t with queues := (t.pushDone q tok now rank).queues } := by
  cases q <;> rfl

@[simp] theorem Tile.fifo_pushDone (t : Tile) (q : Option Nat) (tok : U32) (now rank : Nat) (f : Fifo) :
    (t.pushDone q tok now rank).fifo f = t.fifo f := by
  rw [pushDone_eq]
  cases f <;> rfl

@[simp] theorem Tile.core_pushDone (t : Tile) (q : Option Nat) (tok : U32) (now rank : Nat) (k : CoreId) :
    (t.pushDone q tok now rank).core k = t.core k := by
  rw [pushDone_eq]
  cases k <;> rfl

@[simp] theorem Tile.scratch_pushDone (t : Tile) (q : Option Nat) (tok : U32) (now rank : Nat) :
    (t.pushDone q tok now rank).scratch = t.scratch := by
  rw [pushDone_eq]

@[simp] theorem Tile.armed_pushDone (t : Tile) (q : Option Nat) (tok : U32) (now rank : Nat) :
    (t.pushDone q tok now rank).armed = t.armed := by
  rw [pushDone_eq]

theorem Tile.toks_pushDone (t : Tile) (n : Nat) (tok : U32) (now rank : Nat) :
    ((t.pushDone (some n) tok now rank).queue n).toks = insertToken ⟨tok, now, rank, 0⟩ (t.queue n).toks := by
  rw [Tile.pushDone, Tile.queue_setQueue_same]
  rfl

/-- From `t` to `u` command `c` completes at the head of FIFO `f`. -/
structure Tile.Completes (t u : Tile) (f : Fifo) (c : Cmd) (now : Nat) : Prop where
  fifo : u.fifo f = (t.fifo f).tail
  other : u.fifo (otherFifo f) = t.fifo (otherFifo f)
  fflags : (u.core (fifoCore f)).fflags = (t.core (fifoCore f)).fflags ||| c.flags
  regs : ∀ k, (u.core k).regs = (t.core k).regs
  toks : ∀ q, c.doneQ = some q → (u.queue q).toks = insertToken ⟨c.doneToken, now, 1, 0⟩ (t.queue q).toks
  scratch : c.w.eb = 0 → u.scratch = t.scratch
  armed : u.armed = t.armed

/-- The barrier of a command is told of its completion. -/
def Tile.tellBarrier (t : Tile) (f : Fifo) (c : Cmd) (now : Nat) : Tile :=
  if c.w.eb = 0 then t
  else t.updateBarrier now (fifoRank f) (c.eb.toNat : Int) c.w.inc.toNat 0 (c.flags.toNat + (if c.late then 128 else 0))

theorem Tile.tellBarrier_change (t : Tile) (f : Fifo) (c : Cmd) (now : Nat) : t.ScratchChange (t.tellBarrier f c now) := by
  unfold Tile.tellBarrier
  split
  · exact .refl t
  · exact t.updateBarrier_change ..

/-- The tile of a command that completes, its flags and its token delivered and its place free. -/
def Tile.deliverDone (t : Tile) (f : Fifo) (c : Cmd) (now : Nat) : Tile :=
  let k := t.core (fifoCore f)
  ((t.setCore (fifoCore f) { k with fflags := k.fflags ||| c.flags }).pushDone c.doneQ c.doneToken now 1).setFifo f
    (t.fifo f).tail

theorem State.completeHead_eq (s : State) (g : Nat) (f : Fifo) (c : Cmd) :
    s.completeHead g f c = s.setTile g (((s.tile g).tellBarrier f c s.now).deliverDone f c s.now) := by
  simp only [State.completeHead, Tile.deliverDone, Tile.tellBarrier, Tile.fifo_pushDone, Tile.fifo_setCore]

theorem Tile.completes_deliverDone (t : Tile) (f : Fifo) (c : Cmd) (now : Nat) :
    t.Completes (t.deliverDone f c now) f c now where
  fifo := by rw [deliverDone, fifo_setFifo_same]
  other := by rw [deliverDone, fifo_setFifo_other, fifo_pushDone, fifo_setCore]
  fflags := by rw [deliverDone, core_setFifo, core_pushDone, core_setCore_same]
  regs k := by rw [deliverDone, core_setFifo, core_pushDone, regs_setCore_fflags]
  toks q hq := by rw [deliverDone, queue_setFifo, hq, toks_pushDone, queue_setCore]
  scratch _ := by rw [deliverDone, scratch_setFifo, scratch_pushDone, setCore_scratch]
  armed := by rw [deliverDone, armed_setFifo, armed_pushDone, setCore_armed]

theorem Tile.Completes.tellBarrier {t u : Tile} {f : Fifo} {c : Cmd} {now : Nat}
    (h : (t.tellBarrier f c now).Completes u f c now) : t.Completes u f c now := by
  have hwork := (t.tellBarrier_change f c now).sameWork
  refine ⟨?_, ?_, ?_, fun k => ?_, fun q hq => ?_, fun heb => ?_, ?_⟩
  · rw [h.fifo, hwork.fifo]
  · rw [h.other, hwork.fifo]
  · rw [h.fflags, hwork.core]
  · rw [h.regs, hwork.core]
  · rw [h.toks q hq, hwork.queue]
  · rw [h.scratch heb, Tile.tellBarrier, if_pos heb]
  · rw [h.armed, (t.tellBarrier_change f c now).armed]

theorem Tile.Completes.endDrain {t u : Tile} {f : Fifo} {c : Cmd} {now : Nat} (h : t.Completes u f c now) :
    t.Completes (u.endDrain now) f c now := by
  have hcore : ∀ k, ((u.endDrain now).core k).regs = (u.core k).regs ∧
      ((u.endDrain now).core k).fflags = (u.core k).fflags := by
    intro k
    rw [endDrain_eq]
    cases k <;> exact ⟨rfl, rfl⟩
  have hfifo : ∀ e, (u.endDrain now).fifo e = u.fifo e := by
    intro e
    rw [endDrain_eq]
    cases e <;> rfl
  refine ⟨?_, ?_, ?_, fun k => ?_, fun q hq => ?_, fun heb => ?_, ?_⟩
  · rw [hfifo, h.fifo]
  · rw [hfifo, h.other]
  · rw [(hcore _).2, h.fflags]
  · rw [(hcore k).1, h.regs]
  · rw [endDrain_eq]; exact h.toks q hq
  · rw [endDrain_eq]; exact h.scratch heb
  · rw [endDrain_eq]; exact h.armed

theorem Tile.mem_cmds {t : Tile} {m : Cmd} (f : Fifo) : m ∈ t.cmds ↔ m ∈ t.fifo f ∨ m ∈ t.fifo (otherFifo f) := by
  cases f
  · exact List.mem_append
  · exact List.mem_append.trans or_comm

theorem Tile.Completes.cmds {t u : Tile} {f : Fifo} {c : Cmd} {now : Nat} (h : t.Completes u f c now) {m : Cmd}
    (hm : m ∈ u.cmds) : m ∈ t.cmds := by
  rw [mem_cmds f, h.fifo, h.other] at hm
  exact (mem_cmds f).2 (hm.imp_left List.mem_of_mem_tail)

theorem State.followEngine_eq (s : State) (g : Nat) : s.followEngine g = s.setTile g ((s.tile g).popMarks s.now) := rfl

theorem State.dueEngine_eq (s : State) (g : Nat) : ∃ l, s.dueEngine g = { s with agenda := l } := by
  unfold State.dueEngine State.dueOnce State.due
  dsimp only
  repeat' split
  all_goals exact ⟨_, rfl⟩

/-- From `s` to `t` command `c` completes at the head of FIFO `f` of tile `g`. -/
structure State.Completes (s t : State) (g : Nat) (f : Fifo) (c : Cmd) : Prop where
  tile : (s.tile g).Completes (t.tile g) f c s.now
  others : ∀ h, h ≠ g → t.tile h = s.tile h
  hbm : t.hbm = s.hbm
  host : t.host = s.host
  ctxs : t.ctxs = s.ctxs

theorem State.completes_dueEngine {s : State} {g : Nat} (f : Fifo) (c : Cmd) (hmarks : ∀ m ∈ (s.tile g).cmds, m.op ≠ 256) :
    s.Completes (((s.completeHead g f c).followEngine g).dueEngine g) g f c := by
  obtain ⟨l, hl⟩ := ((s.completeHead g f c).followEngine g).dueEngine_eq g
  have hhead := ((Tile.completes_deliverDone _ f c s.now).tellBarrier : (s.tile g).Completes _ f c s.now)
  rw [hl, State.followEngine_eq, State.completeHead_eq, State.setTile_setTile, State.tile_setTile_same, State.setTile_now,
    Tile.popMarks_noMarks fun m hm => hmarks m (hhead.cmds hm)]
  exact ⟨(State.tile_setTile_same s g _).symm ▸ hhead.endDrain, fun h hg => State.tile_setTile_ne s _ hg, rfl, rfl, rfl⟩

theorem exec_engineCommandCompletion (g : Nat) (f : Fifo) (s : State) :
    exec (.engineCommandCompletion g f) s = execEngineCommandCompletion g f s := rfl

/-- A command whose completion meets no fault completes (R188, R191, R192). -/
theorem State.exec_completion {s s1 : State} {g : Nat} {f : Fifo} {c c1 : Cmd} (hmove : s.engineMove g f = some (c, .done))
    (hfinish : s.finishCommand g f c = .ok (s1, c1)) (hmarks : ∀ m ∈ (s1.tile g).cmds, m.op ≠ 256) :
    ∃ t, exec (.engineCommandCompletion g f) s = .next t ∧ s1.Completes t g f c1 := by
  refine ⟨_, ?_, State.completes_dueEngine f c1 hmarks⟩
  rw [exec_engineCommandCompletion, execEngineCommandCompletion, hmove]
  dsimp only
  rw [hfinish]

/-! The step that a command alone in its FIFOs may make. -/

section
variable {s : State} {g : Nat} {f : Fifo} {c : Cmd}

/-- Nothing keeps a line from a command that is alone on a tile whose words have reached all of theirs. -/
theorem EngineAlone.lineOpen (h : EngineAlone s g f c) (l : Int × Bool) : (s.tile g).lineOpen f c l = true := by
  obtain ⟨-, hother, -, -, -, -, -, -, -, hbanks, hjobs, hopen⟩ := h
  simp [Tile.lineOpen, Tile.lockedOut, Tile.linePast, hother, hbanks, hjobs, hopen]

theorem EngineAlone.waitsPeers (h : EngineAlone s g f c) : s.waitsPeers g f c = false := by
  obtain ⟨-, -, -, -, -, -, -, -, hpeers, -⟩ := h
  rw [State.waitsPeers, hpeers]
  rfl

theorem EngineAlone.afterMarks (h : EngineAlone s g f c) : (s.tile g).afterMarks f c = true := by
  obtain ⟨-, hother, -⟩ := h
  rw [Tile.afterMarks, hother]
  rfl

theorem EngineAlone.dueIn (h : EngineAlone s g f c) (datum : Bool) : dueIn s.now datum [] [c] = some ([], c) := by
  obtain ⟨-, -, -, -, hop, hfaulted, htrouble, hdue, -⟩ := h
  simp [Machine.dueIn, hop, hfaulted, htrouble, hdue]

/-- A command with no write left and its source read, where it has one, reads nothing next. -/
theorem Cmd.readsNow_eq_false (hplan : c.plan = []) (hreads : c.reads = true → c.started = true) : c.readsNow = false := by
  rw [Cmd.readsNow, hplan]
  cases hr : c.reads with
  | false => rfl
  | true => rw [hreads hr]; rfl

theorem State.stepOf_done (s : State) (g : Nat) (hunits : c.unitsLeft = false) (hplan : c.plan = [])
    (hreads : c.reads = true → c.started = true) : s.stepOf g c = .done := by
  simp [State.stepOf, Cmd.nextMove, hunits, hplan, Cmd.readsNow_eq_false hplan hreads]

theorem EngineAlone.linesLet_done (h : EngineAlone s g f c) (hplan : c.plan = []) (hreads : c.reads = true → c.started = true) :
    s.linesLet g f c .done = true := by
  have hlines : c.linesLet .done (c.stepLines (s.tile g) g .done) ((s.tile g).lineOpen f c) = true :=
    List.all_eq_true.2 fun l _ => h.lineOpen l
  rw [State.linesLet, hlines, Cmd.readsNow_eq_false hplan hreads]
  simp

theorem EngineAlone.mayStep_done (h : EngineAlone s g f c) (hunits : c.unitsLeft = false) (hplan : c.plan = [])
    (hreads : c.reads = true → c.started = true) (hsent : c.op = 0xD3 → c.sent = true) : s.mayStep g f [] c = true := by
  have hgone : (c.op == 0xD3 && !c.sent) = false := by
    by_cases hop : c.op = 0xD3
    · rw [hsent hop, Bool.not_true, Bool.and_false]
    · rw [beq_false_of_ne hop, Bool.false_and]
  simp [State.mayStep, s.stepOf_done g hunits hplan hreads, h.afterMarks, h.linesLet_done hplan hreads, h.waitsPeers, hgone]

/-- The requests of a command's completion stand granted, or there are none to make, and it completes (R188, R190). -/
theorem EngineAlone.engineMove_done (h : EngineAlone s g f c) (hunits : c.unitsLeft = false) (hplan : c.plan = [])
    (hreads : c.reads = true → c.started = true) (hsent : c.op = 0xD3 → c.sent = true) (hopen : s.asksOpen g f c = false)
    (hasked : c.asked = true ∨ s.stepAsks g f c .done = []) : s.engineMove g f = some (c, .done) := by
  have hstep : s.askFirst g f c = some (c, .done) := by
    rw [State.askFirst, s.stepOf_done g hunits hplan hreads, hopen]
    rcases hasked with hasked | hnone
    · simp [hasked]
    · simp [hnone]
  have hmay := h.mayStep_done hunits hplan hreads hsent
  have hdueIn := h.dueIn (s.datumTile g)
  obtain ⟨hfifo, -, hlive, hrun, -, -, htrouble, hdue, -⟩ := h
  have hrun' : ((s.tile g).core (fifoCore f)).run.isHalted = false := hrun
  have hengine : s.engineStep g f = some (c, .done) := by
    simp [State.engineStep, hfifo, hlive, hrun', htrouble, hdueIn, hdue, hmay, hstep]
  rw [State.engineMove, hengine]

end

/-- A command without a line and without a global address of its own at its completion makes no request then. -/
theorem State.stepAsks_done_nil (s : State) (g : Nat) (f : Fifo) {c : Cmd} (hop : c.op ∉ [0xC5, 0xCF, 0xD3]) :
    s.stepAsks g f c .done = [] := by
  simp only [List.mem_cons, List.not_mem_nil, or_false, not_or] at hop
  obtain ⟨hcpyq, hamo, hnxtx⟩ := hop
  simp [State.stepAsks, Cmd.stepLines, State.farLines, hcpyq, hamo, hnxtx]

theorem State.stepAsks_datum {s : State} {g : Nat} (f : Fifo) (c : Cmd) (m : Move) (h : s.datumTile g = true) :
    s.stepAsks g f c m = [] := by
  simp [State.stepAsks, h]

/-- A command alone whose last requests are granted completes. -/
theorem EngineAlone.engineMove_granted {s : State} {g : Nat} {f : Fifo} {c : Cmd} (h : EngineAlone s g f c)
    (hgranted : EngineGranted s g f c) (hplan : c.plan = []) (hunits : c.unitsLeft = false)
    (hreads : c.reads = true → c.started = true) (hsent : c.op = 0xD3 → c.sent = true) :
    s.engineMove g f = some (c, .done) := by
  obtain ⟨hopen, hasked⟩ := hgranted
  exact h.engineMove_done hunits hplan hreads hsent hopen (hasked.symm.imp_right (s.stepAsks_datum f c .done))

/-- A command alone that completes without a fault leaves its FIFO empty, and its flags ORed into those of its core. -/
theorem EngineAlone.completes {s s1 : State} {g : Nat} {f : Fifo} {c : Cmd} (h : EngineAlone s g f c)
    (hmove : s.engineMove g f = some (c, .done)) (hfinish : s.finishCommand g f c = .ok (s1, c))
    (hwork : (s.tile g).SameWork (s1.tile g)) :
    ∃ t, exec (.engineCommandCompletion g f) s = .next t ∧ s1.Completes t g f c ∧ (t.tile g).fifo f = [] ∧
      (t.core ⟨g, fifoCore f⟩).fflags = (s.core ⟨g, fifoCore f⟩).fflags ||| c.flags := by
  obtain ⟨hfifo, hother, -, -, hop, -⟩ := h
  have hmarks : ∀ m ∈ (s1.tile g).cmds, m.op ≠ 256 := by
    intro m hm
    rw [Tile.mem_cmds f, hwork.fifo, hwork.fifo, hfifo, hother] at hm
    obtain rfl : m = c := by simpa using hm
    exact hop
  obtain ⟨t, hexec, ht⟩ := State.exec_completion hmove hfinish hmarks
  refine ⟨t, hexec, ht, ?_, ?_⟩
  · rw [ht.tile.fifo, hwork.fifo, hfifo, List.tail_cons]
  · exact ht.tile.fflags.trans (congrArg (·.fflags ||| c.flags) (hwork.core _))

/-! The flip of a twin group (R328). -/

/-- From `s` to `t` pages have been settled: no tile differs, and no twin group of context `x`. -/
structure State.Settles (x : Nat) (s t : State) : Prop where
  tiles : t.tiles = s.tiles
  now : t.now = s.now
  twins : (t.ctx x).map (·.twins) = (s.ctx x).map (·.twins)

theorem State.Settles.refl (x : Nat) (s : State) : s.Settles x s := ⟨rfl, rfl, rfl⟩

theorem State.Settles.trans {x : Nat} {s t u : State} (h : State.Settles x s t) (h' : State.Settles x t u) :
    State.Settles x s u :=
  ⟨h'.tiles.trans h.tiles, h'.now.trans h.now, h'.twins.trans h.twins⟩

theorem State.settles_setCtx {s : State} {x : Nat} {c c' : Ctx} (hctx : s.ctx x = some c) (h : c'.twins = c.twins) :
    State.Settles x s (s.setCtx x c') := by
  refine ⟨rfl, rfl, ?_⟩
  rw [hctx, State.ctx, State.setCtx, Store.find_put_same]
  exact congrArg some h

theorem State.Settles.writePhys {x : Nat} {s t : State} (h : State.Settles x s t) (a : Nat) (bs : List Byte) :
    State.Settles x s (t.writePhys a bs) := ⟨h.tiles, h.now, h.twins⟩

theorem State.Settles.copyPhys {x : Nat} {s t : State} (h : State.Settles x s t) (src dst n : Nat) :
    State.Settles x s (t.copyPhys src dst n) := ⟨h.tiles, h.now, h.twins⟩

theorem State.settles_setPage (s : State) (x p : Nat) (w : U64) : State.Settles x s (s.setPage x p w) := by
  unfold State.setPage
  split
  · next c hctx =>
    refine State.Settles.writePhys ?_ ..
    exact State.settles_setCtx hctx rfl
  · exact .refl x s

theorem State.settles_settlePage (s : State) (x p : Nat) (datum : Bool) : State.Settles x s (s.settlePage x p datum) := by
  unfold State.settlePage
  split
  · exact .refl x s
  · dsimp only
    split
    · exact (s.settles_setPage x p _).copyPhys ..
    · exact s.settles_setPage x p _

theorem State.settles_foldl {x : Nat} {f : State → Nat → State} (h : ∀ s p, State.Settles x s (f s p)) (ps : List Nat)
    (s : State) : State.Settles x s (ps.foldl f s) := by
  induction ps generalizing s with
  | nil => exact .refl x s
  | cons p ps ih => exact (h s p).trans (ih _)

theorem State.settles_settleGroup (s : State) (x grp : Nat) (datum : Bool) :
    State.Settles x s (s.settleGroup x grp datum) := by
  unfold State.settleGroup
  split
  · exact .refl x s
  · next c _ =>
    dsimp only
    have hpages : ∀ (s : State) (p : Nat), State.Settles x s
        (if bit (Store.get 0 c.pages p).toNat 13 = 1 ∧ hasShadow (Store.get 0 c.pages p).toNat (c.twin grp) = false then
          s.settlePage x p datum else s) := by
      intro s p
      split
      · exact s.settles_settlePage x p datum
      · exact .refl x s
    have hall := State.settles_foldl hpages (c.groupPages grp) s
    split
    · exact hall
    · next c' hctx => exact hall.trans (State.settles_setCtx hctx rfl)

/-- The tile after a flip of group `grp` of context `x`, which its task has then not written (R327). -/
def Tile.forgetTwin (t : Tile) (x grp : Nat) : Tile :=
  if t.task.ctx = x then { t with task := { t.task with twins := t.task.twins.erase grp } } else t

theorem Tile.forgetTwin_idle (x grp : Nat) : Tile.idle.forgetTwin x grp = Tile.idle := by
  unfold Tile.forgetTwin
  split <;> rfl

theorem Tile.forgetTwin_sameWork (t : Tile) (x grp : Nat) : t.SameWork (t.forgetTwin x grp) := by
  unfold Tile.forgetTwin
  split
  · exact ⟨rfl, rfl, rfl, rfl, rfl, rfl⟩
  · exact .refl t

/-- A flip settles its group's last one; where the context exists, the group then has its next epoch, for every tile. -/
theorem State.flip_cases (s : State) (x grp : Nat) (publish datum : Bool) (stamp : Nat) :
    ∃ t, State.Settles x s t ∧
      ((t.ctx x = none ∧ s.flip x grp publish datum stamp = t) ∨
        ∃ c saved until_, t.ctx x = some c ∧ s.flip x grp publish datum stamp =
          (State.setCtx { t with tiles := t.tiles.map (fun e => (e.1, e.2.forgetTwin x grp)), saved := saved } x
            { c with twins := Store.put c.twins grp (!(c.twin grp).1, publish)
                     settle := Store.put c.settle grp until_ }).tick) := by
  refine ⟨_, s.settles_settleGroup x grp datum, ?_⟩
  unfold State.flip
  dsimp only
  split
  · next hctx => exact .inl ⟨hctx, rfl⟩
  · next c hctx => exact .inr ⟨c, _, _, hctx, rfl⟩

theorem State.flip_sameWork (s : State) (x grp : Nat) (publish datum : Bool) (stamp g : Nat) :
    (s.tile g).SameWork ((s.flip x grp publish datum stamp).tile g) := by
  obtain ⟨t, ht, ⟨-, hflip⟩ | ⟨c, saved, until_, -, hflip⟩⟩ := s.flip_cases x grp publish datum stamp
  · rw [hflip, State.tile, State.tile, ht.tiles]
    exact .refl _
  · have htile : (s.flip x grp publish datum stamp).tile g =
        Store.get Tile.idle (t.tiles.map fun e => (e.1, e.2.forgetTwin x grp)) g := congrArg (·.tile g) hflip
    rw [htile, Store.get_map (Tile.forgetTwin · x grp) (Tile.forgetTwin_idle x grp), ht.tiles]
    exact Tile.forgetTwin_sameWork ..

theorem State.flip_now (s : State) (x grp : Nat) (publish datum : Bool) (stamp : Nat) :
    (s.flip x grp publish datum stamp).now = s.now := by
  obtain ⟨t, ht, ⟨-, hflip⟩ | ⟨c, saved, until_, -, hflip⟩⟩ := s.flip_cases x grp publish datum stamp
  all_goals exact (congrArg State.now hflip).trans ht.now

theorem State.flip_twin {s : State} {x : Nat} {c : Ctx} (hctx : s.ctx x = some c) (grp : Nat) (publish datum : Bool)
    (stamp : Nat) : ∃ c', (s.flip x grp publish datum stamp).ctx x = some c' ∧ c'.twin grp = (!(c.twin grp).1, publish) := by
  obtain ⟨t, ht, hcases⟩ := s.flip_cases x grp publish datum stamp
  obtain ⟨c1, hctx1, htwins⟩ := Option.map_eq_some_iff.1 (ht.twins.trans (congrArg (Option.map (·.twins)) hctx))
  rcases hcases with ⟨hnone, -⟩ | ⟨c2, saved, until_, hctx2, hflip⟩
  · cases hnone.symm.trans hctx1
  · obtain rfl : c2 = c1 := Option.some.inj (hctx2.symm.trans hctx1)
    rw [hflip]
    refine ⟨_, Store.find_put_same _ _ _, ?_⟩
    rw [Ctx.twin, Store.get_put_same, Ctx.twin, Ctx.twin, htwins]

/-! What commands do at their completion. -/

theorem SameBytes.refl (s : State) : SameBytes s s := ⟨fun _ => rfl, fun _ => rfl, fun _ _ => rfl⟩

/-- Where a command names no barrier, its completion leaves every scratch as its own effect left it. -/
theorem State.Completes.scratch {s t : State} {g : Nat} {f : Fifo} {c : Cmd} (h : s.Completes t g f c) (heb : c.w.eb = 0)
    (k : Nat) : (t.tile k).scratch = (s.tile k).scratch := by
  by_cases hk : k = g
  · rw [hk]
    exact h.tile.scratch heb
  · rw [h.others k hk]

theorem State.Completes.sameBytes {s s1 t : State} {g : Nat} {f : Fifo} {c : Cmd} (h : s1.Completes t g f c) (heb : c.w.eb = 0)
    (hs : SameBytes s s1) : SameBytes s t := by
  obtain ⟨hhbm, hhost, hscratch⟩ := hs
  refine ⟨fun a => ?_, fun a => ?_, fun k a => ?_⟩
  · rw [h.hbm, hhbm]
  · rw [h.host, hhost]
  · rw [h.scratch heb, hscratch]

/-- What a command other than CPYQ, AMO and NXTX does at its completion: a command of a twin group flips it, NXARM binds its
flow to its ring, and the others have no effect of their own (R199, R204). -/
structure State.Finishes (s s1 : State) (g : Nat) (c : Cmd) : Prop where
  work : (s.tile g).SameWork (s1.tile g)
  now : s1.now = s.now
  bytes : c.op ≠ 0xD0 → c.op ≠ 0xD1 → SameBytes s s1
  twin : ∀ cx, c.op = 0xD0 ∨ c.op = 0xD1 → s.ctx (s.tile g).task.ctx = some cx →
    ∃ cx', s1.ctx (s.tile g).task.ctx = some cx' ∧
      cx'.twin c.w.count.toNat = (!(cx.twin c.w.count.toNat).1, decide (c.op = 0xD0))
  armed : c.op = 0xD4 → (c.es.toNat, c.w.count.toNat) ∈ (s1.tile g).armed ∧
    ∀ b ∈ (s1.tile g).armed, b.1 = c.es.toNat ∨ b.2 = c.w.count.toNat → b = (c.es.toNat, c.w.count.toNat)

theorem State.finishes_flip {s : State} {g : Nat} (f : Fifo) {c : Cmd} (hop : c.op = 0xD0 ∨ c.op = 0xD1)
    (hdatum : s.datumTile g = false) : ∃ s1, s.finishCommand g f c = .ok (s1, c) ∧ s.Finishes s1 g c := by
  have hfinish : s.finishCommand g f c =
      .ok (s.flip (s.tile g).task.ctx c.w.count.toNat (decide (c.op = 0xD0)) false c.base, c) := by
    rcases hop with hop | hop
    all_goals simp [State.finishCommand, hop, hdatum]
  refine ⟨_, hfinish, s.flip_sameWork .., s.flip_now .., fun hpubl hdisc => absurd hop (not_or.2 ⟨hpubl, hdisc⟩),
    fun cx _ hctx => State.flip_twin hctx .., fun harm => ?_⟩
  rw [harm] at hop
  exact absurd hop (by decide)

/-- The tile after NXARM of a flow and a ring (R204). -/
def Tile.arm (t : Tile) (flow ring : Nat) : Tile :=
  { t with armed := t.armed.filter (fun b => b.1 != flow && b.2 != ring) ++ [(flow, ring)] }

theorem Tile.mem_armed_arm {t : Tile} {flow ring : Nat} {b : Nat × Nat} (hb : b ∈ (t.arm flow ring).armed)
    (h : b.1 = flow ∨ b.2 = ring) : b = (flow, ring) := by
  rcases List.mem_append.1 hb with hkept | hnew
  · have hneither := (List.mem_filter.1 hkept).2
    rw [Bool.and_eq_true, bne_iff_ne, bne_iff_ne] at hneither
    exact absurd h (not_or.2 hneither)
  · exact List.mem_singleton.1 hnew

theorem State.finishes_arm (s : State) (g : Nat) (f : Fifo) {c : Cmd} (hop : c.op = 0xD4) :
    ∃ s1, s.finishCommand g f c = .ok (s1, c) ∧ s.Finishes s1 g c := by
  have hfinish : s.finishCommand g f c = .ok ({ s.setTile g ((s.tile g).arm c.es.toNat c.w.count.toNat) with
      flowSeq := s.flowSeq.erase c.es.toNat }, c) := by
    rw [State.finishCommand, hop]
    rfl
  have htile : ∀ h, (State.tile { s.setTile g ((s.tile g).arm c.es.toNat c.w.count.toNat) with
      flowSeq := s.flowSeq.erase c.es.toNat } h) = if h = g then (s.tile g).arm c.es.toNat c.w.count.toNat else s.tile h :=
    fun h => s.tile_setTile g h _
  refine ⟨_, hfinish, ?_, rfl, fun _ _ => ⟨fun _ => rfl, fun _ => rfl, fun h a => ?_⟩, fun cx hflip => ?_, fun _ => ?_⟩
  · rw [htile, if_pos rfl]
    exact ⟨rfl, rfl, rfl, rfl, rfl, rfl⟩
  · rw [htile]
    split
    · next hg => exact hg ▸ rfl
    · rfl
  · rw [hop] at hflip
    exact absurd hflip (by decide)
  · rw [htile, if_pos rfl]
    exact ⟨List.mem_append_right _ List.mem_cons_self, fun b => Tile.mem_armed_arm⟩

theorem State.finishes_plain (s : State) (g : Nat) (f : Fifo) {c : Cmd} (hop : c.op ∉ [0xC5, 0xCF, 0xD3])
    (hflip : ¬(c.op = 0xD0 ∨ c.op = 0xD1)) (hnxarm : c.op ≠ 0xD4) :
    ∃ s1, s.finishCommand g f c = .ok (s1, c) ∧ s.Finishes s1 g c := by
  have hfinish : s.finishCommand g f c = .ok (s, c) := by
    obtain ⟨hpubl, hdisc⟩ := not_or.1 hflip
    simp only [List.mem_cons, List.not_mem_nil, or_false, not_or] at hop
    obtain ⟨hcpyq, hamo, hnxtx⟩ := hop
    unfold State.finishCommand
    split
    · next h => exact absurd h hcpyq
    · next h => exact absurd h hamo
    · next h => exact absurd h hpubl
    · next h => exact absurd h hdisc
    · next h => exact absurd h hnxtx
    · next h => exact absurd h hnxarm
    · rfl
  exact ⟨s, hfinish, .refl _, rfl, fun _ _ => .refl s, fun _ h => absurd h hflip, fun h => absurd h hnxarm⟩

theorem State.finishes {s : State} {g : Nat} (f : Fifo) {c : Cmd} (hop : c.op ∉ [0xC5, 0xCF, 0xD3])
    (hdatum : c.op = 0xD0 ∨ c.op = 0xD1 → s.datumTile g = false) :
    ∃ s1, s.finishCommand g f c = .ok (s1, c) ∧ s.Finishes s1 g c := by
  by_cases hflip : c.op = 0xD0 ∨ c.op = 0xD1
  · exact State.finishes_flip f hflip (hdatum hflip)
  by_cases hnxarm : c.op = 0xD4
  · exact s.finishes_arm g f hnxarm
  · exact s.finishes_plain g f hop hflip hnxarm

/-! The commands that write scratch at their completion: CPYQ its record, NXTX its slot, AMO its cell. -/

/-- A command that names no barrier, and whose own effect writes some bytes of scratch, completes with those bytes there. -/
theorem State.Completes.writesScratch {s s1 t : State} {g a : Nat} {f : Fifo} {c : Cmd} {bs : List Byte}
    (h : s1.Completes t g f c) (heb : c.w.eb = 0) (hw : s.WritesScratch s1 g a bs) :
    Memory.bytes (t.tile g).scratch a bs.length = bs ∧ SameBytesBut s t g a bs.length := by
  refine ⟨?_, fun b => ?_, fun b => ?_, fun k b hb => ?_⟩
  · rw [h.scratch heb, hw.scratch, Memory.bytes_setBytes]
  · rw [h.hbm, hw.hbm]
  · rw [h.host, hw.host]
  · rw [h.scratch heb]
    by_cases hk : k = g
    · rw [hk, hw.scratch, Memory.byte_setBytes_outside bs _ _ _ (hb.resolve_left fun hne => hne hk)]
    · rw [hw.others k hk]

theorem State.finishCommand_cpyq (s : State) (g : Nat) (f : Fifo) {c : Cmd} (hop : c.op = 0xC5)
    (ha : Reached (c.eh.toNat + 32 : Nat)) :
    ∃ s1, s.finishCommand g f c = .ok (s1, c) ∧ s.WritesScratch s1 g (c.eh.toNat + 32) c.newRecord := by
  have hfinish : s.finishCommand g f c = .ok ((s.setTile g (((s.tile g).touch s.now (fifoRank f)
      ((c.eh.toNat / 64 : Nat) : Int)).writeAt ((c.eh.toNat + 32 : Nat) : Int) c.newRecord)).chargeOwn g
      ((c.eh.toNat / 64 : Nat) : Int), c) := by
    rw [State.finishCommand, hop]
    rfl
  refine ⟨_, hfinish, .charged (State.writesScratch_setTile ?_ ?_) (State.charged_chargeOwn ..)⟩
  · exact (Tile.touch_change ..).trans (Tile.writeAt_change ..)
  · rw [Tile.writeAt_scratch _ _ ha, Tile.touch_scratch]

theorem State.finishCommand_nxtx (s : State) (g : Nat) (f : Fifo) {c : Cmd} (hop : c.op = 0xD3)
    (ha : Reached (c.es.toNat + 8 : Nat)) :
    ∃ s1, s.finishCommand g f c = .ok (s1, c) ∧ s.WritesScratch s1 g (c.es.toNat + 8) (leBytes 8 c.next) := by
  have hfinish : s.finishCommand g f c =
      .ok (s.setTile g ((s.tile g).writeAt ((c.es.toNat + 8 : Nat) : Int) (leBytes 8 c.next)), c) := by
    rw [State.finishCommand, hop]
    rfl
  exact ⟨_, hfinish, State.writesScratch_setTile (Tile.writeAt_change ..) (Tile.writeAt_scratch _ _ ha)⟩

/-- The record bytes of CPYQ, field by field of the word and of the record that it read (R197). -/
theorem Cmd.newRecord_eq (c : Cmd) : c.newRecord = leBytes 4 (c.w.cvtType.toNat +
    bitsAt c.shape 256 32 / 2 ^ 4 % 2 ^ 6 * 2 ^ 4 + 2 * 2 ^ 10 +
    (if c.w.had = 0 then 0 else 2 ^ 12 + c.w.had.toNat * 2 ^ 13 + (c.w.had.toNat + 3) * 2 ^ 24) +
    bitsAt c.shape 256 32 / 2 ^ 16 % 2 ^ 6 * 2 ^ 16) := by
  have hhad : c.w.had.toNat = 0 ↔ c.w.had = 0 := (BitVec.toNat_eq (y := 0)).symm
  simp only [Cmd.newRecord, Cmd.ct, bitsAt, hhad]

/-! AMO (R202, R203). -/

/-- A request of a tile's own die, or in datum mode, is not counted (R324). -/
theorem State.countRequest_local {s : State} {g x ia : Nat} {nc : Bool} {cx : Ctx} (hctx : s.ctx x = some cx)
    (h : s.datumTile g = true ∨ (bitsAt (Store.get 0 cx.pages (pageOf ia)).toNat 62 2 = 1 ∧
      bitsAt (Store.get 0 cx.pages (pageOf ia)).toNat 60 2 = dieOf g)) : s.countRequest g x ia nc = s := by
  unfold State.countRequest
  split
  · rfl
  · next hfree =>
    unfold State.countFrom
    simp only [hctx, h.resolve_left hfree, and_self, if_true]
    split <;> rfl

theorem State.reach_region0 {s : State} {x ia : Nat} {cx : Ctx} (twins : List Nat) (hregion : regionOf ia = 0)
    (hctx : s.ctx x = some cx) : s.reach x twins ia = cx.place twins ia := by
  simp only [State.reach, hregion, hctx]

/-- How many bytes AMO reads and writes at its address. -/
def Cmd.amoBytes (c : Cmd) : Nat := if c.w.count.toNat % 4 = 1 then 8 else 4

/-- AMO's new value, with its flags, where bytes `bs` stand at its address and its compare value in its cell. -/
def State.amoValue (s : State) (g : Nat) (c : Cmd) (bs : List Byte) : Nat × Flags :=
  c.atomic (leNat bs) c.es.toNat (Memory.num (s.tile g).scratch c.eh.toNat 8)

/-- The state after AMO at HBM address `p`, where bytes `bs` stood. -/
def State.afterAmo (s : State) (g : Nat) (f : Fifo) (c : Cmd) (p : Nat) (bs : List Byte) : State :=
  let cell : Int := (c.eh.toNat : Nat)
  let s1 := (s.charge g 12 1).writePhys p (leBytes c.amoBytes (s.amoValue g c bs).1)
  (s1.setTile g (((s1.tile g).touchAt s1.now (fifoRank f) cell).writeAt cell (leBytes 8 (leNat bs)))).chargeOwn g (cell / 64)

theorem State.atomicStep_hbm {s : State} {g p ia : Nat} (f : Fifo) {c : Cmd} {nc : Bool} {cx : Ctx} {bs : List Byte}
    (hop : c.op = 0xCF) (hcell : Reached c.eh.toNat)
    (haddr : s.translate g (s.tile g).task.windows c.ed.toNat .write = .ok (ia, nc)) (hregion : regionOf ia = 0)
    (hctx : s.ctx (s.tile g).task.ctx = some cx) (hplace : cx.place [] ia = .hbm p) (hread : s.readPhys p c.amoBytes = some bs)
    (hcount : s.countRequest g (s.tile g).task.ctx ia nc = s) :
    s.atomicStep g f c = .ok (s.afterAmo g f c p bs, { c with flags := c.flags ||| (s.amoValue g c bs).2 }) := by
  have hcommand : s.commandAddr g c c.ed.toNat .write = .ok (ia, nc) := by
    simp [State.commandAddr, hop, haddr]
  have hreach : s.reach (s.tile g).task.ctx [] ia = .hbm p := (State.reach_region0 [] hregion hctx).trans hplace
  have hcmp : ((s.charge g 12 1).tile g).readAt (c.eh.toNat : Nat) 8 = Memory.num (s.tile g).scratch c.eh.toNat 8 := by
    rw [Tile.readAt, if_pos hcell.inRange, (s.charged_charge g 12 1).scratch]
    rfl
  rw [Cmd.amoBytes] at hread
  simp only [State.atomicStep, hcommand, hregion, hcount, hreach, hread, if_true, State.readReach, State.writeReach, hcmp]
  rfl

/-- AMO leaves its new value at its address and the old one in its cell. -/
theorem State.afterAmo_writes (s : State) (g : Nat) (f : Fifo) {c : Cmd} (p : Nat) (bs : List Byte)
    (hcell : Reached c.eh.toNat) :
    (s.writePhys p (leBytes c.amoBytes (s.amoValue g c bs).1)).WritesScratch (s.afterAmo g f c p bs) g c.eh.toNat
      (leBytes 8 (leNat bs)) := by
  have hcharge := s.charged_charge g 12 1
  have hpaid : (s.writePhys p (leBytes c.amoBytes (s.amoValue g c bs).1)).Charged
      ((s.charge g 12 1).writePhys p (leBytes c.amoBytes (s.amoValue g c bs).1)) :=
    ⟨hcharge.tile, hcharge.scratch, congrArg (Memory.setBytes · p _) hcharge.hbm, hcharge.host⟩
  refine .charged (hpaid.writesScratch (State.writesScratch_setTile ?_ ?_)) (State.charged_chargeOwn ..)
  · exact (Tile.touchAt_change ..).trans (Tile.writeAt_change ..)
  · rw [Tile.writeAt_scratch _ _ hcell, Tile.touchAt_scratch]

/-- The width in bits of AMO's integers (R202). -/
def Cmd.amoBits (c : Cmd) : Nat := if c.w.count.toNat % 4 = 1 then 64 else 32

theorem Cmd.amoBits_div (c : Cmd) : c.amoBits / 8 = c.amoBytes := by
  unfold Cmd.amoBits Cmd.amoBytes
  split <;> rfl

theorem Cmd.amoBytes_le (c : Cmd) : c.amoBytes ≤ 8 := by
  unfold Cmd.amoBytes
  split <;> decide

theorem Cmd.two_pow_amoBits (c : Cmd) : 2 ^ c.amoBits = 256 ^ c.amoBytes := by
  unfold Cmd.amoBits Cmd.amoBytes
  split <;> rfl

/-- AMO on integers with sub-code `k` leaves what `f` computes of the width, the old value, the operand and the compare value,
without a flag. -/
def AmoMeans (k : Nat) (f : Nat → Nat → Nat → Nat → Nat) : Prop :=
  ∀ (c : Cmd) (old v cmp : Nat), c.w.h.x3.toNat = k → c.w.count.toNat % 4 < 2 → old < 2 ^ c.amoBits →
    c.atomic old v cmp = (f c.amoBits old (v % 2 ^ c.amoBits) (cmp % 2 ^ c.amoBits), 0) ∧
      f c.amoBits old (v % 2 ^ c.amoBits) (cmp % 2 ^ c.amoBits) < 2 ^ c.amoBits

theorem amoMeans {k : Nat} {f : Nat → Nat → Nat → Nat → Nat}
    (hvalue : ∀ (c : Cmd) (old v cmp : Nat), c.w.h.x3.toNat = k → c.w.count.toNat % 4 ≠ 2 →
      c.atomic old v cmp = (f c.amoBits (old % 2 ^ c.amoBits) (v % 2 ^ c.amoBits) (cmp % 2 ^ c.amoBits), 0))
    (hbound : ∀ b old v cmp, old < 2 ^ b → v < 2 ^ b → f b old v cmp < 2 ^ b) : AmoMeans k f := by
  intro c old v cmp hk hsize hold
  have hmod := hvalue c old v cmp hk (Nat.ne_of_lt hsize)
  rw [Nat.mod_eq_of_lt hold] at hmod
  exact ⟨hmod, hbound _ _ _ _ hold (Nat.mod_lt _ (Nat.two_pow_pos _))⟩

theorem amoMeans_add : AmoMeans 0 fun b o v _ => (o + v) % 2 ^ b :=
  amoMeans (fun c old v cmp hk hsize => by simp only [Cmd.atomic, hk, hsize, if_false]; rfl)
    fun b _ _ _ _ _ => Nat.mod_lt _ (Nat.two_pow_pos b)

theorem amoMeans_min : AmoMeans 1 fun b o v _ => if signed b o ≤ signed b v then o else v :=
  amoMeans (fun c old v cmp hk hsize => by simp only [Cmd.atomic, hk, hsize, if_false]; rfl)
    fun _ _ _ _ ho hv => by split <;> assumption

theorem amoMeans_max : AmoMeans 2 fun b o v _ => if signed b o ≤ signed b v then v else o :=
  amoMeans (fun c old v cmp hk hsize => by simp only [Cmd.atomic, hk, hsize, if_false]; rfl)
    fun _ _ _ _ ho hv => by split <;> assumption

theorem amoMeans_swap : AmoMeans 3 fun _ _ v _ => v :=
  amoMeans (fun c old v cmp hk _ => by simp only [Cmd.atomic, hk]; rfl) fun _ _ _ _ _ hv => hv

theorem amoMeans_cas : AmoMeans 4 fun _ o v m => if o = m then v else o :=
  amoMeans (fun c old v cmp hk _ => by simp only [Cmd.atomic, hk]; rfl)
    fun _ _ _ _ ho hv => by split <;> assumption

theorem amoMeans_and : AmoMeans 5 fun _ o v _ => o &&& v :=
  amoMeans (fun c old v cmp hk _ => by simp only [Cmd.atomic, hk]; rfl)
    fun _ _ _ _ _ hv => Nat.and_lt_two_pow _ hv

theorem amoMeans_or : AmoMeans 6 fun _ o v _ => o ||| v :=
  amoMeans (fun c old v cmp hk _ => by simp only [Cmd.atomic, hk]; rfl)
    fun _ _ _ _ ho hv => Nat.or_lt_two_pow ho hv

/-! Commands alone in their FIFOs complete. -/

theorem Cmd.doneToken_eq (c : Cmd) : c.doneToken = BitVec.ofNat 32 (3 * 2 ^ 28 + c.op * 2 ^ 20 +
    (if c.op ∈ [0xC0, 0xC2, 0xC4, 0xC5, 0xC6, 0xC9, 0xCA, 0xCB, 0xCC, 0xCD] then c.ed.toNat / 64 % 2 ^ 13 else 0)) := by
  have hown : (c.op == 0xC0 || c.op == 0xC2 || decide (0xC4 ≤ c.op ∧ c.op ≤ 0xC6) || isTransform c.op) = true ↔
      c.op ∈ [0xC0, 0xC2, 0xC4, 0xC5, 0xC6, 0xC9, 0xCA, 0xCB, 0xCC, 0xCD] := by
    simp only [isTransform, Bool.or_eq_true, beq_iff_eq, decide_eq_true_eq, List.mem_cons, List.not_mem_nil, or_false]
    omega
  simp only [Cmd.doneToken, hown]

theorem Cmd.unitsLeft_eq_false {c : Cmd} (h : isTransform c.op = false) : c.unitsLeft = false := by
  rw [Cmd.unitsLeft, h, Bool.false_and]

/-- CPYQ and NXTX alone complete with the bytes that they write then (R197, R204). -/
theorem EngineAlone.completes_writing {s s1 : State} {g a : Nat} {f : Fifo} {c : Cmd} {bs : List Byte} (h : EngineAlone s g f c)
    (hgranted : EngineGranted s g f c) (hplan : c.plan = []) (hstarted : c.started = true) (heb : c.w.eb = 0)
    (hop : c.op = 0xC5 ∨ c.op = 0xD3) (hsent : c.op = 0xD3 → c.sent = true) (hfinish : s.finishCommand g f c = .ok (s1, c))
    (hwrites : s.WritesScratch s1 g a bs) :
    ∃ t, exec (.engineCommandCompletion g f) s = .next t ∧ (t.tile g).fifo f = [] ∧
      (t.core ⟨g, fifoCore f⟩).fflags = (s.core ⟨g, fifoCore f⟩).fflags ||| c.flags ∧
      Memory.bytes (t.tile g).scratch a bs.length = bs ∧ SameBytesBut s t g a bs.length := by
  have htransform : isTransform c.op = false := by
    rcases hop with hop | hop
    all_goals exact hop ▸ rfl
  have hmove := h.engineMove_granted hgranted hplan (Cmd.unitsLeft_eq_false htransform) (fun _ => hstarted) hsent
  obtain ⟨t, hexec, ht, hfifo, hflags⟩ := h.completes hmove hfinish hwrites.tile.sameWork
  exact ⟨t, hexec, hfifo, hflags, ht.writesScratch heb hwrites⟩

/-- AMO on integers alone completes with its new value at an address in HBM and the old one in its cell (R202, R203). -/
theorem EngineAlone.completes_amo {s : State} {g k p ia : Nat} {f : Fifo} {c : Cmd} {val : Nat → Nat → Nat → Nat → Nat}
    {nc : Bool} {cx : Ctx} {bs : List Byte} (hmeans : AmoMeans k val) (h : EngineAlone s g f c) (hgranted : EngineGranted s g f c)
    (hop : c.op = 0xCF) (hplan : c.plan = []) (heb : c.w.eb = 0) (hk : c.w.h.x3.toNat = k) (hsize : c.w.count.toNat % 4 < 2)
    (hcell : Reached c.eh.toNat) (haddr : s.translate g (s.tile g).task.windows c.ed.toNat .write = .ok (ia, nc))
    (hregion : regionOf ia = 0) (hctx : s.ctx (s.tile g).task.ctx = some cx) (hplace : cx.place [] ia = .hbm p)
    (hread : s.readPhys p c.amoBytes = some bs) (hcount : s.countRequest g (s.tile g).task.ctx ia nc = s) :
    ∃ t, exec (.engineCommandCompletion g f) s = .next t ∧ (t.tile g).fifo f = [] ∧
      Memory.num t.hbm p c.amoBytes = val c.amoBits (leNat bs) (c.es.toNat % 2 ^ c.amoBits)
        (Memory.num (s.tile g).scratch c.eh.toNat 8 % 2 ^ c.amoBits) ∧
      (∀ a, (a < p ∨ p + c.amoBytes ≤ a) → Memory.byte t.hbm a = Memory.byte s.hbm a) ∧
      Memory.num (t.tile g).scratch c.eh.toNat 8 = leNat bs ∧
      (∀ h a, (h ≠ g ∨ a < c.eh.toNat ∨ c.eh.toNat + 8 ≤ a) →
        Memory.byte (t.tile h).scratch a = Memory.byte (s.tile h).scratch a) ∧
      (t.core ⟨g, fifoCore f⟩).fflags = (s.core ⟨g, fifoCore f⟩).fflags ||| c.flags := by
  have hold : leNat bs < 256 ^ c.amoBytes := by
    obtain rfl : Memory.bytes s.hbm p c.amoBytes = bs := by
      unfold State.readPhys at hread
      split at hread
      · cases hread
      · exact Option.some.inj hread
    simpa using leNat_lt (Memory.bytes s.hbm p c.amoBytes)
  obtain ⟨hvalue, hbound⟩ := hmeans c (leNat bs) c.es.toNat (Memory.num (s.tile g).scratch c.eh.toNat 8) hk hsize
    (c.two_pow_amoBits ▸ hold)
  have hnew : s.amoValue g c bs = (_, 0) := hvalue
  have hfinish : s.finishCommand g f c = .ok (s.afterAmo g f c p bs, c) := by
    rw [State.finishCommand, hop]
    refine (State.atomicStep_hbm f hop hcell haddr hregion hctx hplace hread hcount).trans ?_
    have hflags : c.flags ||| (s.amoValue g c bs).2 = c.flags := by
      rw [hnew]
      exact BitVec.or_zero
    rw [hflags]
  have hwrites := s.afterAmo_writes g f p bs hcell
  rw [hnew] at hwrites
  have hmove := h.engineMove_granted hgranted hplan (Cmd.unitsLeft_eq_false (hop ▸ rfl))
    (fun hreads => by simp [Cmd.reads, movesRows, hop] at hreads) (fun hnxtx => by simp [hop] at hnxtx)
  obtain ⟨t, hexec, ht, hfifo, hflags⟩ := h.completes hmove hfinish hwrites.tile.sameWork
  obtain ⟨hcellBytes, -, -, hothers⟩ := ht.writesScratch heb hwrites
  have hhbm := ht.hbm.trans hwrites.hbm
  refine ⟨t, hexec, hfifo, ?_, fun a ha => ?_, ?_, fun k a ha => ?_, hflags⟩
  · rw [hhbm]
    exact Memory.num_setBytes _ _ (c.two_pow_amoBits ▸ hbound)
  · rw [hhbm]
    exact Memory.byte_setBytes_outside _ _ _ _ (by rwa [leBytes_length])
  · rw [leBytes_length] at hcellBytes
    rw [Memory.num, hcellBytes, leNat_leBytes]
    exact Nat.mod_eq_of_lt (Nat.lt_of_lt_of_le hold (Nat.pow_le_pow_right (by decide) c.amoBytes_le))
  · exact hothers k a (by rwa [leBytes_length])

end Sys2Proof.Machine

namespace Sys2Proof

open Sys2Proof.Machine

/-- Settles O31: a command alone in its FIFOs makes the step that completes it (`EngineAlone.engineMove_done`); what it does then
is the lemma about its opcode (`State.finishes`, `State.finishCommand_cpyq`, `State.finishCommand_nxtx`, `State.atomicStep_hbm`),
and its place, its flags and its token are delivered alike for all (`State.exec_completion`). -/
theorem engineCompletes : Obligations.EngineCompletes := by
  unfold Obligations.EngineCompletes
  refine ⟨?any, ?plain, ?writing, ?amo⟩
  case any =>
    intro s s1 g f c c1 hmove hfinish hmarks
    obtain ⟨t, hexec, ht⟩ := State.exec_completion hmove hfinish hmarks
    exact ⟨t, hexec, ht.tile.fifo, ht.tile.fflags, ht.tile.regs _, ht.hbm, ht.host, ht.tile.scratch⟩
  case plain =>
    intro s g f c h hunits hplan hreads hop hopen hdatum
    obtain ⟨s1, hfinish, hs1⟩ := State.finishes f hop hdatum
    have hmove := h.engineMove_done hunits hplan hreads (fun hnxtx => absurd (hnxtx ▸ hop) (by decide)) hopen
      (.inr (s.stepAsks_done_nil g f hop))
    obtain ⟨t, hexec, ht, hfifo, hflags⟩ := h.completes hmove hfinish hs1.work
    refine ⟨t, hexec, hfifo, hflags, fun k => ?regs, fun heb hpubl hdisc => ht.sameBytes heb (hs1.bytes hpubl hdisc),
      fun q hq => ?token, fun cx hflip hctx => ?twin, fun harm => ?armed⟩
    case regs => exact (ht.tile.regs k).trans (congrArg (·.regs) (hs1.work.core k))
    case token => rw [ht.tile.toks q hq, hs1.now, hs1.work.queue, Cmd.doneToken_eq]
    case twin =>
      rw [State.ctx, ht.ctxs]
      exact hs1.twin cx hflip hctx
    case armed =>
      rw [ht.tile.armed]
      exact hs1.armed harm
  case writing =>
    rintro s g f c a bs h hgranted hplan hstarted heb (⟨hop, rfl, rfl⟩ | ⟨hop, hsent, rfl, rfl⟩) - hreached
    · obtain ⟨s1, hfinish, hwrites⟩ := s.finishCommand_cpyq g f hop hreached
      rw [Cmd.newRecord_eq] at hwrites
      exact h.completes_writing hgranted hplan hstarted heb (.inl hop) (fun hnxtx => by simp [hop] at hnxtx) hfinish hwrites
    · obtain ⟨s1, hfinish, hwrites⟩ := s.finishCommand_nxtx g f hop hreached
      exact h.completes_writing hgranted hplan hstarted heb (.inr hop) (fun _ => hsent) hfinish hwrites
  case amo =>
    intro row hrow
    have hmeans : AmoMeans row.1 row.2 := by
      revert row
      simp only [List.forall_mem_cons]
      exact ⟨amoMeans_add, amoMeans_min, amoMeans_max, amoMeans_swap, amoMeans_cas, amoMeans_and, amoMeans_or,
        List.forall_mem_nil _⟩
    intro s g f c b e p ia nc x bs h hgranted hop hplan heb hk hsize hb he _ hcell haddr hregion hctx hplace hread hlocal
    obtain rfl : b = c.amoBits := hb
    subst he
    rw [c.amoBits_div] at hread ⊢
    exact h.completes_amo hmeans hgranted hop hplan heb hk hsize hcell haddr hregion hctx hplace hread
      (State.countRequest_local hctx hlocal)

end Sys2Proof

/-!
How cards reach the hub's queues and their records the tiles (R235, R303 to R311, R387): the doorbells, the acceptance of a card
with the writing of its status record, and the start of a task.
-/

namespace Sys2Proof.Machine

open Host (Outcome)

/-! What each replacement of a context or a card leaves. -/

@[simp] theorem State.ctx_setCtx_same (s : State) (x : Nat) (c : Ctx) : (s.setCtx x c).ctx x = some c :=
  Store.find_put_same ..

@[simp] theorem State.setCtx_setCtx (s : State) (x : Nat) (c c' : Ctx) : (s.setCtx x c).setCtx x c' = s.setCtx x c' := by
  simp [State.setCtx]

@[simp] theorem State.card_setCard_same (s : State) (n : Nat) (c : Card) : (s.setCard n c).card n = some c :=
  Store.find_put_same ..

theorem SameBytes.setCtx (s : State) (x : Nat) (c : Ctx) : SameBytes s (s.setCtx x c) := SameBytes.refl s

/-- The context with one more refused card (R303, R351). -/
def Ctx.refuse (c : Ctx) : Ctx := { c with refused := BitVec.ofNat 32 (min (c.refused.toNat + 1) (2 ^ 32 - 1)) }

theorem State.countRefused_of_ctx {s : State} {x : Nat} {c : Ctx} (h : s.ctx x = some c) :
    s.countRefused x = s.setCtx x c.refuse := by
  rw [State.countRefused, h]
  rfl

/-! The doorbells (R304, R387). -/

theorem State.exec_tailDoorbell_rising {s : State} (x : Nat) (v : U32) (h : s.rising = true) :
    exec (.tailDoorbell x v) s = .next s := by
  change execTailDoorbell x v s = _
  rw [execTailDoorbell, h]
  rfl

theorem State.exec_appendDoorbell_rising {s : State} (x : Nat) (va : U64) (h : s.rising = true) :
    exec (.appendDoorbell x va) s = .next s := by
  change execAppendDoorbell x va s = _
  rw [execAppendDoorbell, h]
  rfl

section
variable {s : State} {x : Nat} {c : Ctx} (hctx : s.ctx x = some c) (hrising : s.rising = false)
include hctx hrising

theorem State.exec_tailDoorbell (v : U32) : exec (.tailDoorbell x v) s = .next (s.setCtx x { c with
    qTail := if 2 ^ c.cfg.qlog < (v - c.qHead).toNat then c.qHead + BitVec.ofNat 32 (2 ^ c.cfg.qlog) else v }) := by
  change execTailDoorbell x v s = _
  simp [execTailDoorbell, hctx, hrising]

theorem State.exec_appendDoorbell_refused {va : U64}
    (h : va.toNat % 128 ≠ 0 ∨ 2 ^ c.cfg.qlog ≤ (c.qTail - c.qHead).toNat) :
    exec (.appendDoorbell x va) s = .next (s.setCtx x (Ctx.refuse { c with appDb := va })) := by
  have hdropped : va.toNat % 128 ≠ 0 ∨ Ctx.queueFull { c with appDb := va } = true := h.imp_right decide_eq_true
  change execAppendDoorbell x va s = _
  simp only [execAppendDoorbell, hctx, hrising, Bool.false_eq_true, if_false, if_pos hdropped]
  rw [State.countRefused_of_ctx (State.ctx_setCtx_same ..), State.setCtx_setCtx]

theorem State.exec_appendDoorbell_read {va : U64} {bs : List Byte} (haligned : va.toNat % 128 = 0)
    (hplace : (c.qTail - c.qHead).toNat < 2 ^ c.cfg.qlog)
    (hread : (s.setCtx x { c with appDb := va }).hubRead x c.cfg.vw va.toNat 2 = .data bs) :
    exec (.appendDoorbell x va) s =
      .next ((s.setCtx x { c with appDb := va }).appendCard x { c with appDb := va } va bs) := by
  have htaken : ¬(va.toNat % 128 ≠ 0 ∨ Ctx.queueFull { c with appDb := va } = true) := by
    rw [Ctx.queueFull, decide_eq_true_eq]
    exact not_or.2 ⟨fun hodd => hodd haligned, Nat.not_le.2 hplace⟩
  change execAppendDoorbell x va s = _
  simp only [execAppendDoorbell, hctx, hrising, Bool.false_eq_true, if_false, if_neg htaken, hread]

end

theorem State.appendCard_bytes (s : State) (x : Nat) (c : Ctx) (va : U64) (bs : List Byte) :
    Memory.bytes (s.appendCard x c va bs).hbm (c.cfg.qbase + 128 * (c.qTail.toNat % 2 ^ c.cfg.qlog)) bs.length = bs :=
  Memory.bytes_setBytes ..

/-! The writing of a status record (R306): it records its card, and may hold the write back or count it as refused. -/

/-- From `s` to `t` the hub has recorded card `n` as `c`: its status write may be held, and a context may count it
as refused. -/
structure State.Records (s t : State) (n : Nat) (c : Card) : Prop where
  card : ∃ held, t.card n = some { c with heldWr := held }
  ctx : ∀ x cx, s.ctx x = some cx → ∃ r, t.ctx x = some { cx with refused := r }

theorem State.records_setCard (s : State) (n : Nat) (c : Card) (held : List (List Byte)) :
    s.Records (s.setCard n { c with heldWr := held }) n c where
  card := ⟨held, s.card_setCard_same ..⟩
  ctx _ cx h := ⟨cx.refused, h⟩

section
variable {s t : State} {n : Nat} {c : Card} (h : s.Records t n c)
include h

/-- What changes neither a card nor a context keeps what is recorded. -/
theorem State.Records.keep {u : State} (hcards : u.cards = t.cards) (hctxs : u.ctxs = t.ctxs) : s.Records u n c where
  card := by rw [State.card, hcards]; exact h.card
  ctx := by simp only [State.ctx, hctxs]; exact h.ctx

theorem State.Records.countRefused (x : Nat) : s.Records (t.countRefused x) n c := by
  unfold State.countRefused
  split
  · exact h
  · next c' hc' =>
    refine ⟨h.card, fun y cx hy => ?_⟩
    obtain ⟨r, hr⟩ := h.ctx y cx hy
    by_cases hxy : y = x
    · subst hxy
      obtain rfl : c' = { cx with refused := r } := Option.some.inj (hc'.symm.trans hr)
      exact ⟨_, State.ctx_setCtx_same ..⟩
    · exact ⟨r, (Store.find_put_ne _ _ hxy).trans hr⟩

theorem State.Records.emit (o : Out) : s.Records (t.emit o) n c := h.keep rfl rfl

theorem State.Records.writeReach (w : HostWriter) (r : Reach) (bs : List Byte) : s.Records (t.writeReach w r bs) n c := by
  cases r
  all_goals exact h.keep rfl rfl

end

theorem State.records_putStatus (s : State) (n : Nat) (c : Card) (bs : List Byte) : s.Records (s.putStatus n c bs) n c := by
  have hset := s.records_setCard n c c.heldWr
  unfold State.putStatus
  split
  · exact s.records_setCard n c _
  · exact (hset.countRefused _).emit _
  · split
    · exact (hset.countRefused _).emit _
    · exact hset.writeReach ..
  · exact hset.writeReach ..

theorem State.records_writeStatus (s : State) (n : Nat) (c : Card) : s.Records (s.writeStatus n c) n c := by
  unfold State.writeStatus
  split
  · exact s.records_putStatus ..
  · exact s.records_setCard n c _

/-! The acceptance of the next card of a queue (R303, R305). -/

/-- The state in which the hub has taken the head of a queue and numbered its card (R304, R305). -/
def State.takeCard (s : State) (x : Nat) (cx : Ctx) : State := { s.setCtx x cx.taken with nextCard := s.nextCard + 1 }

theorem State.takeCard_ctx (s : State) (x : Nat) (cx : Ctx) : (s.takeCard x cx).ctx x = some cx.taken :=
  s.ctx_setCtx_same x _

/-- A card that stands in a queue belongs to the queue's context, and nothing of it has been refused or done. -/
theorem State.nextCardOf_fresh {s : State} {x : Nat} {cx : Ctx} {c : Card} (h : s.nextCardOf x = some (cx, some c)) :
    c.ctx = x ∧ c.state = 1 := by
  unfold State.nextCardOf at h
  split at h
  · cases h
  · split at h
    · cases h
    · obtain ⟨-, hcard⟩ := Prod.mk.inj (Option.some.inj h)
      obtain ⟨bs, -, rfl⟩ := Option.map_eq_some_iff.1 hcard
      exact ⟨rfl, rfl⟩

/-- Away from a period boundary no datum card may be accepted (R383). -/
theorem State.datum_of_mayAccept {s : State} {x : Nat} {c : Card} (h : s.mayAccept x c false = true) : c.datum = false := by
  cases hdatum : c.datum
  · rfl
  · simp [State.mayAccept, hdatum] at h

section
variable {s : State} {x : Nat} {cx : Ctx} {c : Card} (hnext : s.nextCardOf x = some (cx, some c))
  (hmay : s.mayAccept x c false = true) (hstatus : c.statusOk cx = true)
include hnext hmay hstatus

theorem State.accept_refused {k : Nat} (hrefusal : s.refusal cx c = some k) : s.accept x false =
    ((s.takeCard x cx).writeStatus s.nextCard { c with state := 4, cause := k }).emit (.msix 1) := by
  rw [State.accept, hnext]
  simp only [hmay, hstatus, Bool.true_eq_false, if_false]
  split
  · next j hj =>
    obtain rfl : j = k := Option.some.inj (hj.symm.trans hrefusal)
    rfl
  · next hnone => cases hnone.symm.trans hrefusal

theorem State.accept_accepted (hrefusal : s.refusal cx c = none) :
    s.accept x false = (s.takeCard x cx).writeStatus s.nextCard c := by
  rw [State.accept, hnext]
  simp only [hmay, hstatus, State.datum_of_mayAccept hmay, Bool.true_eq_false, Bool.false_eq_true, if_false]
  split
  · next k hk => cases hk.symm.trans hrefusal
  · split
    all_goals rfl

/-- The card is recorded under the next number: refused with the cause of the first check that it fails, or accepted. -/
theorem State.accept_records : ∃ c', (s.takeCard x cx).Records (s.accept x false) s.nextCard c' ∧
    c'.img = c.img ∧ c'.ctx = x ∧ (∀ k, s.refusal cx c = some k → c'.state = 4 ∧ c'.cause = k) ∧
      (s.refusal cx c = none → c'.state = 1) := by
  obtain ⟨hx, hfresh⟩ := State.nextCardOf_fresh hnext
  cases hrefusal : s.refusal cx c with
  | some k =>
    refine ⟨{ c with state := 4, cause := k }, ?_, rfl, hx, fun j hj => ⟨rfl, Option.some.inj hj⟩, nofun⟩
    rw [State.accept_refused hnext hmay hstatus hrefusal]
    exact (State.records_writeStatus ..).emit _
  | none =>
    refine ⟨c, ?_, rfl, hx, nofun, fun _ => hfresh⟩
    rw [State.accept_accepted hnext hmay hstatus hrefusal]
    exact State.records_writeStatus ..

end

/-! The start of a task (R235, R311). -/

/-- From `t` to `u` the context's entry is loaded, or the task's snapshot is taken: nothing else differs. -/
def Tile.EntryLoaded (t u : Tile) : Prop :=
  u = { t with
    energy := u.energy, oorAddr := u.oorAddr, oorFlag := u.oorFlag, oorWhen := u.oorWhen
    task := { t.task with snap := u.task.snap } }

theorem Tile.EntryLoaded.core {t u : Tile} (h : t.EntryLoaded u) (k : CoreId) : u.core k = t.core k := by
  rw [h]
  cases k <;> rfl

theorem Tile.EntryLoaded.scratch {t u : Tile} (h : t.EntryLoaded u) : u.scratch = t.scratch := by rw [h]

theorem Tile.EntryLoaded.chunk {t u : Tile} (h : t.EntryLoaded u) : u.chunk = t.chunk := by rw [h]

theorem Tile.EntryLoaded.task {t u : Tile} (h : t.EntryLoaded u) : u.task = { t.task with snap := u.task.snap } := by
  rw [h]

theorem Tile.EntryLoaded.snap {t u : Tile} (h : t.EntryLoaded u) (m : Snapshot) :
    t.EntryLoaded { u with task := { u.task with snap := m } } := by
  rw [h]
  rfl

/-- Every core of a started tile stands at the values of task start (R235). -/
theorem Tile.started_core (t : Tile) (x : Ctx) (c : Card) (k : Task) (rec_ consts book : List Byte) (first : Nat)
    (cr : CoreId) :
    let core := (t.started x c k rec_ consts book first).core cr
    core.priv = 0 ∧ core.fflags = 0 ∧ core.frm = 0 ∧ ∀ r, core.reg r = 0 := by
  cases cr
  all_goals exact ⟨rfl, rfl, rfl, fun r => ite_self 0⟩

theorem State.loadEntry_keeps (s : State) (g x : Nat) : (s.tile g).EntryLoaded ((s.loadEntry g x).tile g) ∧
    (s.loadEntry g x).hbm = s.hbm ∧ (s.loadEntry g x).host = s.host := by
  unfold State.loadEntry
  split
  · exact ⟨rfl, rfl, rfl⟩
  · rw [State.tile_setTile_same]
    exact ⟨rfl, rfl, rfl⟩

theorem State.returnChunk_nil {s : State} {g : Nat} (h : (s.tile g).chunk = []) :
    s.returnChunk g = s.setTile g { s.tile g with chunk := [] } := by
  simp only [State.returnChunk, h, List.foldl_nil]

/-- The state in which a record has left the chunk of tile `g`, which keeps `rest`. -/
def State.takeRecord (s : State) (g : Nat) (rest : List (Nat × Nat)) : State := s.setTile g { s.tile g with chunk := rest }

theorem State.takeRecord_tile (s : State) (g : Nat) (rest : List (Nat × Nat)) :
    (s.takeRecord g rest).tile g = { s.tile g with chunk := rest } := s.tile_setTile_same ..

/-- The state in which record `i` of card `n` has become task `k`, with tile `g` as `u`, before the context's entry
is loaded. -/
def State.placeTask (s : State) (g n i : Nat) (c : Card) (k : Task) (u : Tile) : State :=
  { (s.setCard n { c with ids := Store.put c.ids i k.taskId }).setTile g u with
    nextUid := s.nextUid + 1, fresh := s.fresh + 1 }

/-- The state in which record `i` of card `n` runs as task `k`: its context's entry is loaded and its snapshot taken. -/
def State.startTask (s : State) (g n i : Nat) (c : Card) (k : Task) (u : Tile) : State :=
  let s1 := (s.placeTask g n i c k u).loadEntry g c.ctx
  s1.setTile g { s1.tile g with task := { (s1.tile g).task with snap := s1.snapshot c.ctx } }

/-- The state in which record `i` of card `n` is parked at an absent page (R311). -/
def State.parkRecord (s : State) (n i va pg : Nat) (c : Card) : State :=
  { s.setCard n { c with parked := c.parked ++ [⟨i, BitVec.ofNat 64 va, pg, false, s.nextUid⟩] } with
    nextUid := s.nextUid + 1 }

theorem State.startTask_keeps (s : State) (g n i : Nat) (c : Card) (k : Task) (u : Tile) :
    u.EntryLoaded ((s.startTask g n i c k u).tile g) ∧ (s.startTask g n i c k u).hbm = s.hbm ∧
      (s.startTask g n i c k u).host = s.host := by
  have hplaced : (s.placeTask g n i c k u).tile g = u := Store.get_put_same ..
  obtain ⟨htile, hhbm, hhost⟩ := (s.placeTask g n i c k u).loadEntry_keeps g c.ctx
  rw [hplaced] at htile
  refine ⟨?_, hhbm, hhost⟩
  rw [State.startTask, State.tile_setTile_same]
  exact htile.snap _

section
variable {s : State} {g i n : Nat} {rest : List (Nat × Nat)} {c : Card} {x : Ctx}
  (hchunk : (s.tile g).chunk = (i, n) :: rest) (hlive : (s.tile g).task.live = false)
  (hservice : (s.tile g).inService = true) (hcard : s.card n = some c) (hctx : s.ctx c.ctx = some x)
include hchunk hlive hservice hcard hctx

/-- A record whose set-up is read starts on its tile, and no memory of the package changes (R235, R311). -/
theorem State.exec_taskStart_ok {rec_ consts book : List Byte} {pds : List Nat}
    (hsetup : (s.takeRecord g rest).setup x c i = .ok rec_ pds consts book) :
    let s' := s.takeRecord g rest
    let u := (s'.tile g).started x c (s'.newTask x c n i pds) rec_ consts book (s.firstClock g)
    ∃ t, exec (.taskStart g) s = .next t ∧ u.EntryLoaded (t.tile g) ∧ t.hbm = s.hbm ∧ t.host = s.host := by
  intro s' u
  have hmay : ¬((s.tile g).task.live = true ∨ (s.tile g).inService = false) := by simp [hlive, hservice]
  have hcard' : (s.takeRecord g rest).card n = some c := hcard
  have hctx' : (s.takeRecord g rest).ctx c.ctx = some x := hctx
  rw [State.takeRecord] at hcard' hctx' hsetup
  refine ⟨s'.startTask g n i c (s'.newTask x c n i pds) u, ?_, State.startTask_keeps ..⟩
  change execTaskStart g s = _
  simp only [execTaskStart, hchunk, if_neg hmay, hcard', hctx', hsetup]
  rfl

/-- A record of a free-mode card whose set-up meets an absent page is parked, and the tile returns its chunk (R311). -/
theorem State.exec_taskStart_absent {va pg : Nat}
    (hsetup : (s.takeRecord g rest).setup x c i = .absent va pg) (hfree : c.datum = false) :
    exec (.taskStart g) s = .next (((s.takeRecord g rest).parkRecord n i va pg c).returnChunk g) := by
  have hmay : ¬((s.tile g).task.live = true ∨ (s.tile g).inService = false) := by simp [hlive, hservice]
  have hcard' : (s.takeRecord g rest).card n = some c := hcard
  have hctx' : (s.takeRecord g rest).ctx c.ctx = some x := hctx
  rw [State.takeRecord] at hcard' hctx' hsetup
  change execTaskStart g s = _
  simp only [execTaskStart, hchunk, if_neg hmay, hcard', hctx', hsetup, hfree, Bool.false_eq_true, if_false]
  rfl

end

end Sys2Proof.Machine

namespace Sys2Proof

open Sys2Proof.Machine

/-- Settles O39: what a doorbell leaves is an equation per case (`State.exec_tailDoorbell`, `State.exec_appendDoorbell_read`,
`State.exec_appendDoorbell_refused`), and an acceptance takes the head of the queue and records the card, whatever becomes
of the write of its status record (`State.accept_records`). -/
theorem cardsArrive : Obligations.CardsArrive := by
  unfold Obligations.CardsArrive
  refine ⟨?rising, ?tail, ?append, ?acceptance⟩
  case rising =>
    exact fun s x v va hrising => ⟨s.exec_tailDoorbell_rising x v hrising, s.exec_appendDoorbell_rising x va hrising⟩
  case tail =>
    exact fun s x v c hctx hrising => ⟨_, State.exec_tailDoorbell hctx hrising v, .setCtx .., s.ctx_setCtx_same ..⟩
  case append =>
    refine fun s x va c hctx hrising => ⟨fun bs haligned hplace hread hlen => ?_, fun hdropped => ?_⟩
    · refine ⟨_, _, State.exec_appendDoorbell_read hctx hrising haligned hplace hread, State.ctx_setCtx_same ..,
        Store.find_put_same .., ?_⟩
      have hbytes := State.appendCard_bytes (s.setCtx x { c with appDb := va }) x { c with appDb := va } va bs
      rwa [hlen] at hbytes
    · exact ⟨_, State.exec_appendDoorbell_refused hctx hrising hdropped, .setCtx .., s.ctx_setCtx_same ..⟩
  case acceptance =>
    intro s x cx c hnext hmay hstatus
    obtain ⟨c', hrecords, himg, hx, hrefused, haccepted⟩ := State.accept_records hnext hmay hstatus
    obtain ⟨held, hcard⟩ := hrecords.card
    obtain ⟨r, hctx⟩ := hrecords.ctx x _ (s.takeCard_ctx x cx)
    exact ⟨_, _, _, rfl, hctx, rfl, hcard, himg, hx, hrefused, haccepted⟩

/-- Settles O41: the tile is as `Tile.started` makes it but for the context's entry and the snapshot of the fetch
(`State.startTask_keeps`); a record that cannot start is parked behind those of its card (`State.exec_taskStart_absent`). -/
theorem tasksStart : Obligations.TasksStart := by
  unfold Obligations.TasksStart
  refine fun s g i n rest c x hchunk hlive hservice hcard hctx => ⟨?starts, ?parks⟩
  case starts =>
    intro rec_ pds consts book hsetup
    obtain ⟨t, hexec, htile, hhbm, hhost⟩ := State.exec_taskStart_ok hchunk hlive hservice hcard hctx hsetup
    refine ⟨t, hexec, ?_, ?_, ?_, ?_, ?_, ?_, ?_, ?_, fun cr => ?_, ?_, fun a ha => ?_, hhbm, hhost⟩
    · exact congrArg (·.live) htile.task
    · exact congrArg (·.uid) htile.task
    · exact congrArg (·.recIndex) htile.task
    · exact htile.chunk.trans (congrArg (·.chunk) (s.takeRecord_tile g rest))
    · exact congrArg (·.run) (htile.core .X)
    · exact congrArg (·.pc) (htile.core .X)
    · exact congrArg (·.run) (htile.core .L)
    · exact congrArg (·.run) (htile.core .S)
    · rw [State.core, htile.core]
      exact Tile.started_core ..
    · rw [htile.scratch]
      exact Memory.bytes_setBytes ..
    · rw [htile.scratch]
      exact Memory.byte_setBytes_outside _ _ _ _ (.inr ((Nat.zero_add _).symm ▸ ha))
  case parks =>
    rintro va pg hsetup hfree rfl
    have htaken : ((s.takeRecord g []).parkRecord n i va pg c).tile g = { s.tile g with chunk := [] } :=
      s.takeRecord_tile g []
    have hexec := State.exec_taskStart_absent hchunk hlive hservice hcard hctx hsetup hfree
    rw [State.returnChunk_nil (congrArg (·.chunk) htaken)] at hexec
    refine ⟨_, _, hexec, State.card_setCard_same .., ?_, rfl⟩
    rw [State.tile_setTile_same, htaken]
    exact hlive

end Sys2Proof

/-!
Translation at work (R311, R323, R325, R328, R343, R374): a word put into force and what it makes ready, its acknowledge, the
end of a migration, and a settlement.
-/

namespace Sys2Proof

theorem Store.find_map {α : Type} (f : α → α) (m : Store α) (k : Nat) :
    Store.find (m.map fun e => (e.1, f e.2)) k = (Store.find m k).map f := by
  induction m with
  | nil => rfl
  | cons e m ih =>
    rw [List.map_cons, Store.find, Store.find, ih]
    split <;> rfl

/-- What is read beside the bytes that were written is as it was. -/
theorem Memory.num_setBytes_outside (m : Memory) {a b n : Nat} (bs : List Byte)
    (h : ∀ i, i < n → b + i < a ∨ a + bs.length ≤ b + i) :
    Memory.num (Memory.setBytes m a bs) b n = Memory.num m b n := by
  refine congrArg leNat (List.ext_getElem (by simp) fun i hi _ => ?_)
  rw [Memory.length_bytes] at hi
  rw [Memory.getElem_bytes, Memory.getElem_bytes, Memory.byte_setBytes_outside _ _ _ _ (h i hi)]

/-! A field of a number replaced (R5). -/

/-- `b` with its `n` bits at `lo` replaced by those of `v`. -/
def withField (b lo n v : Nat) : Nat := b - bitsAt b lo n * 2 ^ lo + v % 2 ^ n * 2 ^ lo

theorem withField_eq (b lo n v : Nat) :
    withField b lo n v = 2 ^ lo * (2 ^ n * (b / 2 ^ lo / 2 ^ n) + v % 2 ^ n) + b % 2 ^ lo := by
  have hhigh := Nat.div_add_mod b (2 ^ lo)
  have hfield := congrArg (2 ^ lo * ·) (Nat.div_add_mod (b / 2 ^ lo) (2 ^ n))
  simp only [Nat.mul_add] at hfield ⊢
  rw [withField, bitsAt, Nat.mul_comm (_ % _), Nat.mul_comm (v % _)]
  omega

theorem testBit_withField (b lo n v j : Nat) :
    (withField b lo n v).testBit j = if lo ≤ j ∧ j < lo + n then v.testBit (j - lo) else b.testBit j := by
  rw [withField_eq, Nat.testBit_two_pow_mul_add _ (Nat.mod_lt _ (Nat.two_pow_pos lo)),
    Nat.testBit_two_pow_mul_add _ (Nat.mod_lt _ (Nat.two_pow_pos n))]
  by_cases hlow : j < lo
  · simp [hlow, Nat.not_le.2 hlow, Nat.testBit_mod_two_pow]
  · have hj : j - lo < n ↔ j < lo + n := by omega
    by_cases hin : j < lo + n
    · simp [hlow, Nat.le_of_not_lt hlow, hin, hj, Nat.testBit_mod_two_pow]
    · simp only [hlow, hj, hin, and_false, if_false, Nat.testBit_div_two_pow]
      congr 1
      omega

theorem bitsAt_withField_same (b lo n v : Nat) : bitsAt (withField b lo n v) lo n = v % 2 ^ n := by
  refine Nat.eq_of_testBit_eq fun j => ?_
  rw [Nat.testBit_mod_two_pow, Nat.testBit_div_two_pow, testBit_withField, Nat.testBit_mod_two_pow]
  by_cases hj : j < n
  · rw [if_pos (by omega)]
    simp [hj]
  · simp [hj]

theorem bitsAt_withField_disjoint {b lo n v j k : Nat} (h : lo + n ≤ j ∨ j + k ≤ lo) :
    bitsAt (withField b lo n v) j k = bitsAt b j k := by
  refine Nat.eq_of_testBit_eq fun i => ?_
  simp only [Nat.testBit_mod_two_pow, Nat.testBit_div_two_pow, testBit_withField]
  by_cases hi : i < k
  · rw [if_neg (by omega)]
  · simp [hi]

theorem withField_lt {b lo n v w : Nat} (hb : b < 2 ^ w) (h : lo + n ≤ w) : withField b lo n v < 2 ^ w := by
  refine Nat.lt_pow_two_of_testBit _ fun j hj => ?_
  rw [testBit_withField, if_neg (by omega)]
  exact Nat.testBit_lt_two_pow (Nat.lt_of_lt_of_le hb (Nat.pow_le_pow_right (by decide) hj))

end Sys2Proof

namespace Sys2Proof.Machine

open Host (Outcome)

theorem putBits_toNat (w : U64) (lo n v : Nat) (h : lo + n ≤ 64) :
    (putBits w lo n v).toNat = withField w.toNat lo n v := by
  rw [putBits, BitVec.toNat_ofNat]
  exact Nat.mod_eq_of_lt (withField_lt w.isLt h)

theorem pageStack_eq (e : Nat) : pageStack e = bitsAt e 58 4 := by
  simp only [pageStack, bitsAt]
  omega

theorem State.setPage_of_ctx {s : State} {x : Nat} {c : Ctx} (h : s.ctx x = some c) (p : Nat) (w : U64) :
    s.setPage x p w =
      (s.setCtx x { c with pages := Store.set 0 c.pages p w }).writePhys (c.cfg.tbase + 8 * p) (leBytes 8 w.toNat) := by
  rw [State.setPage, h]

theorem State.ctx_writePhys (s : State) (a : Nat) (bs : List Byte) (x : Nat) : (s.writePhys a bs).ctx x = s.ctx x := rfl

theorem State.migs_writePhys (s : State) (a : Nat) (bs : List Byte) : (s.writePhys a bs).migs = s.migs := rfl

theorem State.ctx_setPage {s : State} {x : Nat} {c : Ctx} (h : s.ctx x = some c) (p : Nat) (w : U64) :
    (s.setPage x p w).ctx x = some { c with pages := Store.set 0 c.pages p w } := by
  rw [State.setPage_of_ctx h, State.ctx_writePhys, State.ctx_setCtx_same]

theorem State.migs_setPage (s : State) (x p : Nat) (w : U64) : (s.setPage x p w).migs = s.migs := by
  unfold State.setPage
  split <;> rfl

/-! The bitmap of free frames (R374). -/

/-- The byte of its stack's bitmap that holds a frame's bit. -/
def freeByte (stack f : Nat) : Nat := serviceFrame stack + f / 8

/-- The two frames of a pair have their bits in one byte. -/
theorem freeByte_succ (stack : Nat) {f : Nat} (h : f % 2 = 0) : freeByte stack (f + 1) = freeByte stack f := by
  rw [freeByte, freeByte]
  omega

theorem State.hbm_setFree (s : State) (stack f : Nat) (v : Bool) :
    (s.setFree stack f v).hbm = Memory.setByte s.hbm (freeByte stack f)
      (BitVec.ofNat 8 (withField (Memory.byte s.hbm (freeByte stack f)).toNat (f % 8) 1 v.toNat)) := by
  cases v <;> simp [State.setFree, State.writePhys, Memory.setBytes, withField, freeByte, bit]

theorem State.byte_setFree (s : State) (stack f : Nat) (v : Bool) :
    (Memory.byte (s.setFree stack f v).hbm (freeByte stack f)).toNat =
      withField (Memory.byte s.hbm (freeByte stack f)).toNat (f % 8) 1 v.toNat := by
  rw [State.hbm_setFree, Memory.byte_setByte_same, BitVec.toNat_ofNat]
  exact Nat.mod_eq_of_lt (withField_lt (BitVec.isLt _) (by omega))

/-- A frame that is set free has its bit. -/
theorem State.freeBit_setFree_same (s : State) (stack f : Nat) :
    bit (Memory.byte (s.setFree stack f true).hbm (freeByte stack f)).toNat (f % 8) = 1 := by
  rw [State.byte_setFree, bit, bitsAt_withField_same]
  rfl

/-- What becomes of the second frame of a pair leaves the first one's bit. -/
theorem State.freeBit_setFree_succ (s : State) (stack : Nat) {f : Nat} (v : Bool) (h : f % 2 = 0) :
    bit (Memory.byte (s.setFree stack (f + 1) v).hbm (freeByte stack f)).toNat (f % 8) =
      bit (Memory.byte s.hbm (freeByte stack f)).toNat (f % 8) := by
  rw [← freeByte_succ stack h, State.byte_setFree]
  exact bitsAt_withField_disjoint (.inr (by omega))

theorem State.num_setFree_outside (s : State) {stack f b n : Nat} (v : Bool)
    (h : freeByte stack f < b ∨ b + n ≤ freeByte stack f) :
    Memory.num (s.setFree stack f v).hbm b n = Memory.num s.hbm b n := by
  rw [State.hbm_setFree]
  refine Memory.num_setBytes_outside _ [_] fun i hi => ?_
  rw [List.length_singleton]
  omega

/-! A word put into force (R323). -/

/-- A saved task after `w` has been put into force for page `p` of context `x`: ready, if it is parked there (R343). -/
def Saved.named (x p : Nat) (w : U64) (v : Saved) : Saved :=
  if v.kind = 1 ∧ v.tile.task.ctx = x ∧ faultPage v.tile.task.windows v.fault = p ∧ pageAbsent w.toNat = false then
    { v with ready := true }
  else v

/-- A card after page `p` of context `x` has been named: its unstarted records parked there are ready (R311). -/
def Card.named (x p : Nat) (d : Card) : Card :=
  if d.ctx = x then { d with parked := d.parked.map fun q => if q.page = p then { q with ready := true } else q } else d

/-- The context whose page that DXUPAGE names has the word `w`, an update not acknowledged. -/
def Ctx.named (c : Ctx) (w : U64) (now : Nat) : Ctx :=
  { c with dxuWord := w, acks := c.acks ++ [now], pages := Store.set 0 c.pages c.dxuPage w }

/-- The state in which `w` is in force for the page that DXUPAGE of context `x` names, before held status writes go. -/
def State.named (s : State) (x : Nat) (c : Ctx) (w : U64) : State :=
  { (s.setCtx x (c.named w s.now)).writePhys (c.cfg.tbase + 8 * c.dxuPage) (leBytes 8 w.toNat) with
    saved := s.saved.map fun e => (e.1, e.2.named x c.dxuPage w)
    cards := s.cards.map fun e => (e.1, e.2.named x c.dxuPage) }

theorem Card.named_heldWr (x p : Nat) (d : Card) : (d.named x p).heldWr = d.heldWr := by
  unfold Card.named
  split <;> rfl

theorem State.card_named (s : State) (x : Nat) (c : Ctx) (w : U64) (n : Nat) :
    (s.named x c w).card n = (s.card n).map (Card.named x c.dxuPage) := Store.find_map ..

theorem State.saved_named (s : State) (x : Nat) (c : Ctx) (w : U64) (k : Nat) :
    Store.find (s.named x c w).saved k = (Store.find s.saved k).map (Saved.named x c.dxuPage w) := Store.find_map ..

/-- Where no card holds status writes, none go (R306). -/
theorem State.flushHeld_of_none {s : State} (h : ∀ n d, s.card n = some d → d.heldWr = []) (n : Nat) :
    s.flushHeld n = s := by
  unfold State.flushHeld
  split
  · rfl
  · next c hc => rw [if_pos (.inl (by rw [h n c hc]; rfl))]

theorem State.foldl_flushHeld_of_none {s : State} (h : ∀ n d, s.card n = some d → d.heldWr = []) (ns : List Nat) :
    ns.foldl (fun s n => s.flushHeld n) s = s := by
  induction ns with
  | nil => rfl
  | cons n ns ih => rw [List.foldl_cons, State.flushHeld_of_none h, ih]

theorem State.exec_dxuUpdate {s : State} {x : Nat} {c : Ctx} (w : U64) (hctx : s.ctx x = some c)
    (hheld : ∀ n d, s.card n = some d → d.heldWr = []) : exec (.dxuUpdate x w) s = .next (s.named x c w) := by
  have hheld' : ∀ n d, (s.named x c w).card n = some d → d.heldWr = [] := by
    intro n d hd
    rw [State.card_named] at hd
    obtain ⟨d, hcard, rfl⟩ := Option.map_eq_some_iff.1 hd
    rw [Card.named_heldWr, hheld n d hcard]
  change execDxuUpdate x w s = _
  simp only [execDxuUpdate, hctx, State.setPage_of_ctx (State.ctx_setCtx_same ..), State.setCtx_setCtx]
  exact congrArg Outcome.next (State.foldl_flushHeld_of_none hheld' _)

theorem State.exec_dxuUpdateAck_due {s : State} {x a : Nat} {c : Ctx} {rest : List Nat} (hctx : s.ctx x = some c)
    (hacks : c.acks = a :: rest) (hpast : a < s.now) (hclosed : s.openSince x a = false) :
    exec (.dxuUpdateAck x) s = .next (s.setCtx x { c with acks := rest, dxuAck := c.dxuAck + 1 }) := by
  change execDxuUpdateAck x s = _
  simp [execDxuUpdateAck, hctx, State.ackable, hacks, hpast, hclosed]

theorem State.exec_dxuUpdateAck_open {s : State} {x a : Nat} {c : Ctx} {rest : List Nat} (hctx : s.ctx x = some c)
    (hacks : c.acks = a :: rest) (hopen : s.openSince x a = true) : exec (.dxuUpdateAck x) s = .next s := by
  change execDxuUpdateAck x s = _
  simp [execDxuUpdateAck, hctx, State.ackable, hacks, hopen]

/-! The end of a migration (R325). -/

/-- The word of a page that migration `m` has moved. -/
def Mig.word (m : Mig) (w : U64) : U64 := putBits (putBits w 58 4 m.stack) 43 15 m.frame

/-- The word of a moved page names the stack and the frame that it moved to (R321). -/
theorem Mig.word_place {m : Mig} (w : U64) (hstack : m.stack < 16) (hframe : m.frame < 30516) :
    pageStack (m.word w).toNat = m.stack ∧ pageFrame (m.word w).toNat = m.frame := by
  rw [Mig.word, putBits_toNat _ _ _ _ (by decide), putBits_toNat _ _ _ _ (by decide), pageStack_eq, pageFrame,
    bitsAt_withField_disjoint (.inl (by decide)), bitsAt_withField_same, bitsAt_withField_same]
  exact ⟨Nat.mod_eq_of_lt hstack, Nat.mod_eq_of_lt (Nat.lt_trans hframe (by decide))⟩

/-- The state in which migration `m` has ended its copy of a page whose word is `w`. -/
def State.copyPage (s : State) (m : Mig) (w : U64) : State :=
  { s with migs := s.migs.erase m }.copyPhys (pageStack w.toNat * 2 ^ 36 + pageFrame w.toNat * 2 ^ 21)
    (m.stack * 2 ^ 36 + m.frame * 2 ^ 21) (if bit w.toNat 15 = 1 then 2 ^ 22 else 2 ^ 21)

/-- The state in which migration `m` has moved its page, whose word was `w`, and its counters are zero: its old frame is not yet
free. -/
def State.movePage (s : State) (c : Ctx) (m : Mig) (w : U64) : State :=
  ((s.copyPage m w).setPage m.ctx m.page (m.word w)).writePhys (c.cfg.cbase + 8 * m.page) (leBytes 8 0)

/-- The state in which a page has left its frame, or both of its frames. -/
def State.freePage (s : State) (w : U64) : State :=
  let freed := s.setFree (pageStack w.toNat) (pageFrame w.toNat) true
  if bit w.toNat 15 = 1 then freed.setFree (pageStack w.toNat) (pageFrame w.toNat + 1) true else freed

theorem State.ctx_copyPage (s : State) (m : Mig) (w : U64) (x : Nat) : (s.copyPage m w).ctx x = s.ctx x := rfl

theorem State.migs_copyPage (s : State) (m : Mig) (w : U64) : (s.copyPage m w).migs = s.migs.erase m := rfl

theorem State.ctx_movePage {s : State} {c : Ctx} {m : Mig} (hctx : s.ctx m.ctx = some c) (w : U64) :
    (s.movePage c m w).ctx m.ctx = some { c with pages := Store.set 0 c.pages m.page (m.word w) } := by
  rw [State.movePage, State.ctx_writePhys, State.ctx_setPage ((s.ctx_copyPage ..).trans hctx)]

theorem State.migs_movePage (s : State) (c : Ctx) (m : Mig) (w : U64) : (s.movePage c m w).migs = s.migs.erase m := by
  rw [State.movePage, State.migs_writePhys, State.migs_setPage, State.migs_copyPage]

theorem State.num_movePage (s : State) (c : Ctx) (m : Mig) (w : U64) :
    Memory.num (s.movePage c m w).hbm (c.cfg.cbase + 8 * m.page) 8 = 0 := by
  rw [State.movePage, State.writePhys]
  exact Memory.num_setBytes _ _ (Nat.pow_pos (by decide))

theorem State.ctx_freePage (s : State) (w : U64) (x : Nat) : (s.freePage w).ctx x = s.ctx x := by
  rw [State.freePage]
  split <;> rfl

theorem State.migs_freePage (s : State) (w : U64) : (s.freePage w).migs = s.migs := by
  rw [State.freePage]
  split <;> rfl

section
variable (s : State) {w : U64} (hpair : bit w.toNat 15 = 1 → pageFrame w.toNat % 2 = 0)
include hpair

theorem State.freeBit_freePage :
    bit (Memory.byte (s.freePage w).hbm (freeByte (pageStack w.toNat) (pageFrame w.toNat))).toNat
      (pageFrame w.toNat % 8) = 1 := by
  rw [State.freePage]
  split
  · next h => rw [State.freeBit_setFree_succ _ _ _ (hpair h), State.freeBit_setFree_same]
  · exact State.freeBit_setFree_same ..

theorem State.num_freePage_outside {b n : Nat} (h : freeByte (pageStack w.toNat) (pageFrame w.toNat) < b ∨
      b + n ≤ freeByte (pageStack w.toNat) (pageFrame w.toNat)) :
    Memory.num (s.freePage w).hbm b n = Memory.num s.hbm b n := by
  rw [State.freePage]
  split
  · next hset =>
    rw [State.num_setFree_outside _ _ (by rwa [freeByte_succ _ (hpair hset)]), State.num_setFree_outside _ _ h]
  · exact State.num_setFree_outside _ _ h

end

/-- A migration whose clock has come, and whose page's word system software has left alone, moves its page. -/
theorem State.exec_migrationComplete {s : State} {c : Ctx} {m : Mig} {w : U64} (hctx : s.ctx m.ctx = some c)
    (hmigs : s.migs = [m]) (hdue : m.due ≤ s.now) (hword : w = Store.get 0 c.pages m.page) (hold : w = m.old)
    (hlocal : w.toNat / 2 ^ 62 = 1) :
    exec (.migrationComplete m.ctx m.page) s = .next ((s.movePage c m w).freePage w) := by
  have hkept : ¬(bitsAt w.toNat 62 2 ≠ 1 ∨ bitsAt w.toNat 43 19 ≠ bitsAt m.old.toNat 43 19 ∨
      bit w.toNat 15 ≠ bit m.old.toNat 15) := by
    have hfield : bitsAt w.toNat 62 2 = 1 := congrArg (· % 2 ^ 2) hlocal
    simp only [← hold, hfield, ne_eq, not_true_eq_false, or_self, not_false_eq_true]
  have hfound : s.migs.find? (fun m' => m'.ctx == m.ctx && m'.page == m.page && decide (m'.due ≤ s.now)) = some m := by
    simp [hmigs, hdue]
  change execMigrationComplete m.ctx m.page s = _
  simp only [execMigrationComplete, hfound, hctx, ← hword, if_neg hkept]
  rfl

/-! A settlement (R328). -/

theorem State.settle_settleGroup {s : State} {x grp : Nat} {datum : Bool} {c : Ctx}
    (h : (s.settleGroup x grp datum).ctx x = some c) : Store.find c.settle grp = none := by
  unfold State.settleGroup at h
  split at h
  · next hnone => cases hnone.symm.trans h
  · dsimp only at h
    split at h
    · next hnone => cases hnone.symm.trans h
    · rw [State.ctx_setCtx_same] at h
      cases h
      exact Store.find_erase_same ..

/-- A group settled has no settlement to come, and the context's twin groups are as they were. -/
theorem State.ctx_settleGroup {s : State} {x : Nat} {c : Ctx} (hctx : s.ctx x = some c) (grp : Nat) (datum : Bool) :
    ∃ c', (s.settleGroup x grp datum).ctx x = some c' ∧ Store.find c'.settle grp = none ∧ c'.twins = c.twins := by
  have htwins := (s.settles_settleGroup x grp datum).twins
  rw [hctx] at htwins
  obtain ⟨c', hc', hsame⟩ := Option.map_eq_some_iff.1 htwins
  exact ⟨c', hc', State.settle_settleGroup hc', hsame⟩

section
variable {s : State} {x grp n : Nat} {c : Ctx} (hctx : s.ctx x = some c) (hsettle : Store.find c.settle grp = some n)
include hctx hsettle

theorem State.exec_twinSettlement_due (h : n ≤ s.now) :
    exec (.twinSettlement x grp) s = .next (s.settleGroup x grp (s.datumCtx x)) := by
  change execTwinSettlement x grp s = _
  simp only [execTwinSettlement, hctx, hsettle, if_neg (Nat.not_lt.2 h)]

theorem State.exec_twinSettlement_early (h : s.now < n) : exec (.twinSettlement x grp) s = .next s := by
  change execTwinSettlement x grp s = _
  simp only [execTwinSettlement, hctx, hsettle, if_pos h]

end

end Sys2Proof.Machine

namespace Sys2Proof

open Sys2Proof.Machine

/-- Settles O52: an update leaves the state with the word put into force and what waits for its page named
(`State.exec_dxuUpdate`); a migration leaves its page moved and then its old frames free (`State.exec_migrationComplete`), whose
bits lie apart from the page's counters; acknowledges and settlements are an equation per case. -/
theorem translationUpdates : Obligations.TranslationUpdates := by
  unfold Obligations.TranslationUpdates
  refine ⟨?update, ?parked, ?acknowledge, ?migration, ?settlement⟩
  case update =>
    intro s x w c hctx _ hheld
    refine ⟨_, _, State.exec_dxuUpdate w hctx hheld, State.ctx_setCtx_same .., Store.get_set_same ..,
      fun q hq => Store.get_set_ne _ _ _ hq, rfl, rfl, ?_, rfl, ?_⟩
    · have hbytes := Memory.bytes_setBytes s.hbm (c.cfg.tbase + 8 * c.dxuPage) (leBytes 8 w.toNat)
      rwa [leBytes_length] at hbytes
    · intro k v hv hkind htask hpage hpresent
      rw [State.saved_named, hv, Option.map_some, Saved.named, if_pos ⟨hkind, htask, hpage, hpresent⟩]
  case parked =>
    intro s x n w c d hctx hcard hx hheld
    refine ⟨_, d.named x c.dxuPage, State.exec_dxuUpdate w hctx hheld, ?_, ?_, ?_⟩
    · rw [State.card_named, hcard, Option.map_some]
    · rw [Card.named, if_pos hx]
    · rw [Card.named, if_pos hx]
  case acknowledge =>
    exact fun s x a c rest hctx hacks =>
      ⟨State.exec_dxuUpdateAck_due hctx hacks, State.exec_dxuUpdateAck_open hctx hacks⟩
  case migration =>
    rintro s _ _ c m w hctx hmigs rfl rfl hdue hword hold hlocal hpair hstack hframe hapart
    obtain ⟨hstack', hframe'⟩ := Mig.word_place w hstack hframe
    refine ⟨_, _, State.exec_migrationComplete hctx hmigs hdue hword hold hlocal,
      (State.ctx_freePage ..).trans (State.ctx_movePage hctx w), ?_, ?_, ?_, ?_, State.freeBit_freePage _ hpair⟩
    · rw [State.migs_freePage, State.migs_movePage, hmigs, List.erase_cons_head]
    · rwa [Store.get_set_same]
    · rwa [Store.get_set_same]
    · rw [State.num_freePage_outside _ hpair (hapart _ rfl), State.num_movePage]
  case settlement =>
    refine fun s x grp n c hctx hsettle => ⟨fun hdue => ?_, State.exec_twinSettlement_early hctx hsettle⟩
    obtain ⟨c', hctx', hsettled, htwins⟩ := State.ctx_settleGroup hctx grp (s.datumCtx x)
    exact ⟨_, c', State.exec_twinSettlement_due hctx hsettle hdue, hctx', hsettled, htwins⟩

end Sys2Proof

/-!
Decoding and encoding agree (R20 to R28, R45 to R52): the units of a word give back its fields, and the fields of what decodes
give back its units.
-/

namespace Sys2Proof

open Machine

/-! Fields of a unit. -/

theorem toNat_fld (n u lo : Nat) : (fld n u lo).toNat = bitsAt u lo n := by
  simp [fld]

theorem fld_eq_iff {n u lo : Nat} {x : BitVec n} : fld n u lo = x ↔ bitsAt u lo n = x.toNat := by
  rw [← BitVec.toNat_inj, toNat_fld]

theorem toNat_ofNat_unit {u : Nat} (hu : u < 2 ^ 32) : (BitVec.ofNat 32 u).toNat = u := by
  rw [BitVec.toNat_ofNat, Nat.mod_eq_of_lt hu]

/-! Scalar words (R24, R45): one unit of class 0. -/

theorem decode_scalar {u : Nat} (hu : u < 2 ^ 30) : decode [BitVec.ofNat 32 u] = decodeScalar u := by
  have hnat : (BitVec.ofNat 32 u).toNat = u := toNat_ofNat_unit (by omega)
  have hclass : unitClass (BitVec.ofNat 32 u) = 0 := by
    simp only [unitClass, bitsAt, hnat]
    omega
  simp only [decode, hclass, hnat]

section
variable {i : Instr} {op : Nat}

/-- A word of the SI form decodes to what its op6, its two registers and its immediate say. -/
theorem decode_encSI {d a : BitVec 5} {imm : Nat} (hop : op < 64) (himm : imm < 2 ^ 14)
    (h : ∀ u, bitsAt u 24 6 = op → fld 5 u 19 = d → fld 5 u 14 = a → bitsAt u 0 14 = imm → decodeScalar u = some i) :
    decode (encSI op d.toNat a.toNat imm) = some i := by
  rw [encSI, decode_scalar (by omega)]
  apply h <;> simp only [fld_eq_iff, bitsAt] <;> omega

/-- A word of the SB form decodes to what its op6, its two registers, its condition and its offset say. -/
theorem decode_encSB {a b : BitVec 5} {c : BitVec 3} {o : BitVec 11} (hop : op < 64)
    (h : ∀ u, bitsAt u 24 6 = op → fld 5 u 19 = a → fld 5 u 14 = b → fld 3 u 11 = c → fld 11 u 0 = o →
      decodeScalar u = some i) :
    decode (encSB op a.toNat b.toNat c.toNat o.toNat) = some i := by
  rw [encSB, decode_scalar (by omega)]
  apply h <;> simp only [fld_eq_iff, bitsAt] <;> omega

/-- A word of the SU form decodes to what its op6, its register and its immediate say. -/
theorem decode_encSU {d : BitVec 5} {k : BitVec 19} (hop : op < 64)
    (h : ∀ u, bitsAt u 24 6 = op → fld 5 u 19 = d → fld 19 u 0 = k → decodeScalar u = some i) :
    decode (encSU op d.toNat k.toNat) = some i := by
  rw [encSU, decode_scalar (by omega)]
  apply h <;> simp only [fld_eq_iff, bitsAt] <;> omega

/-- A word of the SJ form decodes to what its op6 and its offset say. -/
theorem decode_encSJ {o : BitVec 24} (hop : op < 64)
    (h : ∀ u, bitsAt u 24 6 = op → fld 24 u 0 = o → decodeScalar u = some i) :
    decode (encSJ op o.toNat) = some i := by
  rw [encSJ, decode_scalar (by omega)]
  apply h <;> simp only [fld_eq_iff, bitsAt] <;> omega

/-- A word of the SR form decodes to what its op6, its three registers and its function say. -/
theorem decode_encSR {d a b : BitVec 5} {fn : Nat} (hop : op < 64) (hfn : fn < 2 ^ 9)
    (h : ∀ u, bitsAt u 24 6 = op → bitsAt u 0 9 = fn → fld 5 u 19 = d → fld 5 u 14 = a → fld 5 u 9 = b →
      decodeScalar u = some i) :
    decode (encSR op d.toNat a.toNat b.toNat fn) = some i := by
  rw [encSR, decode_scalar (by omega)]
  apply h <;> simp only [fld_eq_iff, bitsAt] <;> omega

end

theorem decodeScalar_sys {u : Nat} (h : bitsAt u 24 6 = 0x00) : decodeScalar u = decodeSys u := by
  rw [decodeScalar, h]
  rfl

theorem decodeScalar_alu {u : Nat} (h : bitsAt u 24 6 = 0x01) : decodeScalar u = decodeAlu u := by
  rw [decodeScalar, h]
  rfl

theorem decodeScalar_ringop {u : Nat} (h : bitsAt u 24 6 = 0x3f) : decodeScalar u = decodeRingop u := by
  rw [decodeScalar, h]
  rfl

theorem bitsAt_eq_zero_of_fld {n u lo : Nat} (h : fld n u lo = 0) : bitsAt u lo n = 0 := by
  simpa using fld_eq_iff.1 h

/-- A field within the low 14 bits is one of the immediate. -/
theorem bitsAt_low {u imm lo n : Nat} (h : bitsAt u 0 14 = imm) (hlo : lo + n ≤ 14) : bitsAt u lo n = bitsAt imm lo n := by
  subst h
  refine Nat.eq_of_testBit_eq fun k => ?_
  simp only [bitsAt, Nat.testBit_mod_two_pow, Nat.testBit_div_two_pow]
  by_cases hk : k < n
  · simp [hk, show k + lo < 14 by omega]
  · simp [hk]

theorem fld_low {u imm lo n : Nat} {x : BitVec n} (h : bitsAt u 0 14 = imm) (hlo : lo + n ≤ 14)
    (hx : bitsAt imm lo n = x.toNat) : fld n u lo = x :=
  fld_eq_iff.2 ((bitsAt_low h hlo).trans hx)

/-- A RINGOP word decodes to what its operation, its register and its ring say (R223). -/
theorem decode_ringop {i : Instr} {d : BitVec 5} {n : BitVec 3} {k : Nat} (hk : k < 2 ^ 4)
    (h : ∀ u, bitsAt u 0 4 = k → fld 5 u 19 = d → bitsAt u 14 5 = 0 → fld 3 u 4 = n → bitsAt u 7 7 = 0 →
      decodeRingop u = some i) :
    decode (encSI 0x3f d.toNat 0 (n.toNat * 2 ^ 4 + k)) = some i := by
  refine decode_encSI (a := 0) (by decide) (by omega) fun u hop hd ha hi => ?_
  rw [decodeScalar_ringop hop]
  refine h u ?_ hd (bitsAt_eq_zero_of_fld ha) (fld_low hi (by decide) ?_) ?_
  · rw [bitsAt_low hi (by decide), bitsAt]
    omega
  · rw [bitsAt]
    omega
  · rw [bitsAt_low hi (by decide), bitsAt]
    omega

/-! Long words (R25, R26): a head, two tails, a stamp where there is one, and the literals. -/

theorem unitClass_tail {x : Nat} (hx : x < 2 ^ 30) : unitClass (BitVec.ofNat 32 (3 * 2 ^ 30 + x)) = 3 := by
  simp only [unitClass, bitsAt, toNat_ofNat_unit (show 3 * 2 ^ 30 + x < 2 ^ 32 by omega)]
  omega

/-- The first unit of a long word, as a number. -/
def longUnit (op : Nat) (h : VHead) : Nat :=
  1 * 2 ^ 30 + op * 2 ^ 22 + h.etype.toNat * 2 ^ 18 + h.rnd.toNat * 2 ^ 15 + h.sat.toNat * 2 ^ 14
    + h.nowb.toNat * 2 ^ 13 + h.mask.toNat * 2 ^ 10 + (if h.stamp.isSome then 1 else 0) * 2 ^ 9
    + h.lits.length * 2 ^ 7 + h.capN.toNat * 2 ^ 4 + h.capEn.toNat * 2 ^ 3 + h.x3.toNat

/-- The units after the tails. -/
def longRest (h : VHead) : List U32 :=
  match h.stamp with
  | some s => BitVec.ofNat 32 (3 * 2 ^ 30 + s.toNat) :: h.lits
  | none => h.lits

theorem encodeLong_eq (op : Nat) (h : VHead) (t2 t3 : Nat) : encodeLong op h t2 t3 =
    BitVec.ofNat 32 (longUnit op h) :: BitVec.ofNat 32 (3 * 2 ^ 30 + t2) :: BitVec.ofNat 32 (3 * 2 ^ 30 + t3) :: longRest h :=
  rfl

theorem VHead.wf_iff {h : VHead} : h.wf = true ↔ h.lits.length ≤ 2 := by
  simp [VHead.wf]

/-- What the first unit of a long word says, field by field. -/
structure LongFields (u op : Nat) (h : VHead) : Prop where
  lt : u < 2 ^ 32
  cls : bitsAt u 30 2 = 1
  op : bitsAt u 22 8 = op
  stamped : bitsAt u 9 1 = if h.stamp.isSome then 1 else 0
  lits : bitsAt u 7 2 = h.lits.length
  x3 : bitsAt u 0 3 = h.x3.toNat
  head : decodeHead u h.stamp h.lits = h

theorem longFields {op : Nat} {h : VHead} (hop : op < 256) (hwf : h.wf = true) : LongFields (longUnit op h) op h := by
  have hlits := VHead.wf_iff.1 hwf
  obtain ⟨etype, rnd, sat, nowb, mask, capN, capEn, x3, stamp, lits⟩ := h
  have hstamp : (if stamp.isSome = true then 1 else 0) < 2 := by split <;> decide
  simp only at hlits
  constructor <;> simp only [longUnit, decodeHead, VHead.mk.injEq, fld_eq_iff, bitsAt, and_true] <;>
    generalize (if stamp.isSome = true then 1 else 0) = st at * <;> omega

theorem decodeRest_longRest {u op : Nat} {h : VHead} (hu : LongFields u op h) (hwf : h.wf = true) :
    decodeRest u (longRest h) = some (h.stamp, h.lits) := by
  have hlits := VHead.wf_iff.1 hwf
  have hstamped := hu.stamped
  unfold decodeRest longRest
  rw [hu.lits]
  cases hst : h.stamp with
  | none =>
    rw [hst] at hstamped
    rw [if_neg (by simp [hstamped]), if_pos ⟨hlits, rfl⟩]
  | some st =>
    rw [hst] at hstamped
    have hfld : fld 30 (BitVec.ofNat 32 (3 * 2 ^ 30 + st.toNat)).toNat 0 = st := by
      rw [toNat_ofNat_unit (by omega), fld_eq_iff, bitsAt]
      omega
    simp only [hstamped, Option.isSome_some, if_true, unitClass_tail st.isLt, hlits, and_self, hfld]

theorem decode_long {u u2 u3 : U32} {op : Nat} {h : VHead} (hu : LongFields u.toNat op h) (hwf : h.wf = true)
    (h2 : unitClass u2 = 3) (h3 : unitClass u3 = 3) : decode (u :: u2 :: u3 :: longRest h) =
      if op < 0xC0 then vectorOp op h.x3.toNat (decodeVWord h u2.toNat u3.toNat)
      else engineOp op (decodeEWord h u2.toNat u3.toNat) := by
  have hcls : unitClass u = 1 := hu.cls
  simp only [decode, hcls, decodeLong, h2, h3, and_self, if_true, decodeRest_longRest hu hwf, hu.op, hu.x3, hu.head]

theorem decode_encodeLong {op t2 t3 : Nat} {h : VHead} (hop : op < 256) (hwf : h.wf = true) (h2 : t2 < 2 ^ 30)
    (h3 : t3 < 2 ^ 30) : decode (encodeLong op h t2 t3) =
      if op < 0xC0 then vectorOp op h.x3.toNat (decodeVWord h (3 * 2 ^ 30 + t2) (3 * 2 ^ 30 + t3))
      else engineOp op (decodeEWord h (3 * 2 ^ 30 + t2) (3 * 2 ^ 30 + t3)) := by
  have hu := longFields hop hwf
  rw [encodeLong_eq, decode_long (by rwa [toNat_ofNat_unit hu.lt]) hwf (unitClass_tail h2) (unitClass_tail h3),
    toNat_ofNat_unit (show 3 * 2 ^ 30 + t2 < 2 ^ 32 by omega), toNat_ofNat_unit (show 3 * 2 ^ 30 + t3 < 2 ^ 32 by omega)]

theorem decode_encodeV {op : Nat} {w : VWord} (hop : op < 0xC0) (hwf : w.h.wf = true) :
    decode (encodeV op w) = vectorOp op w.h.x3.toNat w := by
  obtain ⟨h, d, a, b⟩ := w
  rw [encodeV, decode_encodeLong (by omega) hwf (by simp only; omega) (by simp only; omega), if_pos hop]
  congr 1
  simp only [decodeVWord, VWord.mk.injEq, true_and, ← BitVec.toNat_inj, BitVec.toNat_ofNat, toNat_fld, bitsAt]
  omega

theorem decode_encodeE {op : Nat} {w : EWord} (hlo : 0xC0 ≤ op) (hop : op < 256) (hwf : w.h.wf = true) :
    decode (encodeE op w) = engineOp op w := by
  obtain ⟨h, ed, es, eh, eb, inc, cvtType, cvtRnd, cvtSat, had, donePort, doneEn, xpEn, xp, twin, count⟩ := w
  rw [encodeE, decode_encodeLong hop hwf (by simp only; omega) (by simp only; omega), if_neg (by omega)]
  congr 1
  simp only [decodeEWord, EWord.mk.injEq, true_and, fld_eq_iff, bitsAt]
  omega

/-! Matrix words (R28): six units. -/

theorem decode_matrix {u1 u2 u3 u4 u5 u6 : U32} (h1 : unitClass u1 = 2) (h2 : unitClass u2 = 3) (h3 : unitClass u3 = 3)
    (h4 : unitClass u4 = 3) (h5 : unitClass u5 = 3) (h6 : unitClass u6 = 3) : decode [u1, u2, u3, u4, u5, u6] =
      matrixOp (bitsAt u1.toNat 22 8) (decodeMWord u1.toNat u2.toNat u3.toNat u4.toNat u5.toNat u6.toNat) := by
  simp only [decode, h1, h2, h3, h4, h5, h6, and_self, if_true]

/-- The first two units of a matrix word, as numbers. -/
def matrixUnit1 (op : Nat) (w : MWord) : Nat :=
  2 * 2 ^ 30 + op * 2 ^ 22 + w.tA.toNat * 2 ^ 18 + w.tB.toNat * 2 ^ 14 + w.tC.toNat * 2 ^ 12
    + w.acc.toNat * 2 ^ 6 + w.init.toNat * 2 ^ 4 + w.ksteps.toNat
def matrixUnit2 (w : MWord) : Nat :=
  3 * 2 ^ 30 + w.ringA.toNat * 2 ^ 27 + w.popA.toNat * 2 ^ 26 + w.trA.toNat * 2 ^ 25
    + w.scA.toNat * 2 ^ 23 + w.ringB.toNat * 2 ^ 20 + w.popB.toNat * 2 ^ 19 + w.trB.toNat * 2 ^ 18
    + w.scB.toNat * 2 ^ 16 + w.neg.toNat * 2 ^ 15 + w.spec.toNat * 2 ^ 14 + w.dport.toNat * 2 ^ 11
    + w.den.toNat * 2 ^ 10 + w.sv.toNat * 2 ^ 9 + w.resv.toNat

/-- A unit of class 3 with 30 bits below its class. -/
def tailUnit (x : BitVec 30) : U32 := BitVec.ofNat 32 (3 * 2 ^ 30 + x.toNat)

theorem unitClass_tailUnit (x : BitVec 30) : unitClass (tailUnit x) = 3 := unitClass_tail x.isLt

theorem fld_tailUnit (x : BitVec 30) : fld 30 (tailUnit x).toNat 0 = x := by
  rw [tailUnit, toNat_ofNat_unit (by omega), fld_eq_iff, bitsAt]
  omega

theorem encodeM_eq (op : Nat) (w : MWord) : encodeM op w =
    [BitVec.ofNat 32 (matrixUnit1 op w), BitVec.ofNat 32 (matrixUnit2 w), tailUnit w.stamp, tailUnit w.p4, tailUnit w.p5,
      tailUnit w.p6] := rfl

theorem matrixUnit1_lt {op : Nat} (w : MWord) (hop : op < 256) : matrixUnit1 op w < 2 ^ 32 := by
  simp only [matrixUnit1]
  omega

theorem matrixUnit2_lt (w : MWord) : matrixUnit2 w < 2 ^ 32 := by
  simp only [matrixUnit2]
  omega

theorem bitsAt_matrixUnit1 {op : Nat} (w : MWord) (hop : op < 256) :
    bitsAt (matrixUnit1 op w) 30 2 = 2 ∧ bitsAt (matrixUnit1 op w) 22 8 = op := by
  simp only [matrixUnit1, bitsAt]
  omega

theorem bitsAt_matrixUnit2 (w : MWord) : bitsAt (matrixUnit2 w) 30 2 = 3 := by
  simp only [matrixUnit2, bitsAt]
  omega

theorem decodeMWord_units (op : Nat) (w : MWord) :
    decodeMWord (matrixUnit1 op w) (matrixUnit2 w) (tailUnit w.stamp).toNat (tailUnit w.p4).toNat (tailUnit w.p5).toNat
      (tailUnit w.p6).toNat = w := by
  simp only [decodeMWord, fld_tailUnit]
  obtain ⟨tA, tB, tC, acc, init, ksteps, ringA, popA, trA, scA, ringB, popB, trB, scB, neg, spec, dport, den, sv, resv,
    stamp, p4, p5, p6⟩ := w
  simp only [MWord.mk.injEq, and_true, fld_eq_iff, matrixUnit1, matrixUnit2, bitsAt]
  omega

theorem decode_encodeM {op : Nat} {w : MWord} (hop : op < 256) : decode (encodeM op w) = matrixOp op w := by
  have h1 := toNat_ofNat_unit (matrixUnit1_lt w hop)
  have h2 := toNat_ofNat_unit (matrixUnit2_lt w)
  have ⟨hcls, hop'⟩ := bitsAt_matrixUnit1 w hop
  rw [encodeM_eq, decode_matrix (by rw [unitClass, h1, hcls]) (by rw [unitClass, h2, bitsAt_matrixUnit2])
    (unitClass_tailUnit _) (unitClass_tailUnit _) (unitClass_tailUnit _) (unitClass_tailUnit _), h1, h2, hop',
    decodeMWord_units op w]

theorem decode_encode (i : Instr) (hwf : i.wf = true) (hword : isEvent i = false) : decode (encode i) = some i := by
  cases i
  case add | sub | and | or | xor | andn | orn | xnor | shl | shr | sra | rotr | rotl | mul | mulh | mulhu | div | divu | rem
      | remu | min | max | minu | maxu | slt | sltu | seq | sne | addw | subw | sel =>
    refine decode_encSR (by decide) (by decide) fun u hop hfn hd ha hb => ?_
    subst hd ha hb
    rw [decodeScalar_alu hop, decodeAlu, hfn]
    rfl
  case clz | ctz | popc | brev | sextb | sexth | sextw =>
    refine decode_encSR (b := 0) (by decide) (by decide) fun u hop hfn hd ha hb => ?_
    subst hd ha
    rw [decodeScalar_alu hop, decodeAlu, hfn]
    exact if_pos (bitsAt_eq_zero_of_fld hb)
  case illegal =>
    refine decode_encSR (by decide) (by decide) fun u hop hfn hd ha hb => ?_
    subst hd ha hb
    rw [decodeScalar_sys hop, decodeSys, hfn]
    rfl
  case nop | eret | halt | brk | retire | abchk =>
    refine decode_encSR (d := 0) (a := 0) (b := 0) (by decide) (by decide) fun u hop hfn hd ha hb => ?_
    simp only [fld_eq_iff, bitsAt, BitVec.ofNat_eq_ofNat, BitVec.toNat_ofNat] at hd ha hb
    rw [decodeScalar_sys hop, decodeSys, hfn]
    exact if_pos (by simp only [bitsAt]; omega)
  case trap | exit | mark | sstep | frame | waitt | waitd | abortg =>
    refine decode_encSR (d := 0) (b := 0) (by decide) (by decide) fun u hop hfn hd ha hb => ?_
    subst ha
    rw [decodeScalar_sys hop, decodeSys, hfn]
    exact if_pos ⟨bitsAt_eq_zero_of_fld hb, bitsAt_eq_zero_of_fld hd⟩
  case launch =>
    refine decode_encSR (b := 0) (by decide) (by decide) fun u hop hfn hd ha hb => ?_
    subst hd ha
    rw [decodeScalar_sys hop, decodeSys, hfn]
    exact if_pos (bitsAt_eq_zero_of_fld hb)
  case addi | andi | ori | xori | slti | sltui | muli | ldsB | ldsBu | ldsH | ldsHu | ldsW | ldsWu | ldsD | stsB | stsH | stsW
      | stsD | ldgW | ldgWu | ldgD | stgW | stgD | csrwr | csrset | csrclr | waitb | putf | getf =>
    refine decode_encSI (by decide) (BitVec.isLt _) fun u hop hd ha hi => ?_
    rw [← fld_eq_iff] at hi
    subst hd ha hi
    rw [decodeScalar, hop]
    rfl
  case jr | callr | arrive =>
    refine decode_encSI (d := 0) (by decide) (BitVec.isLt _) fun u hop hd ha hi => ?_
    rw [← fld_eq_iff] at hi
    subst ha hi
    rw [decodeScalar, hop]
    exact if_pos (bitsAt_eq_zero_of_fld hd)
  case csrrd =>
    refine decode_encSI (a := 0) (by decide) (BitVec.isLt _) fun u hop hd ha hi => ?_
    rw [← fld_eq_iff] at hi
    subst hd hi
    rw [decodeScalar, hop]
    exact if_pos (bitsAt_eq_zero_of_fld ha)
  case shli d a k | shri d a k | srai d a k =>
    refine decode_encSI (by decide) (by omega) fun u hop hd ha hi => ?_
    have hk : fld 6 u 0 = k := fld_low hi (by decide) (by simp only [bitsAt]; omega)
    subst hd ha hk
    rw [decodeScalar, hop]
    exact if_pos (by rw [bitsAt_low hi (by decide), bitsAt]; omega)
  case extr d a l p | extru d a l p | insr d a l p =>
    refine decode_encSI (by decide) (by omega) fun u hop hd ha hi => ?_
    have hp : fld 6 u 0 = p := fld_low hi (by decide) (by simp only [bitsAt]; omega)
    have hl : fld 6 u 6 = l := fld_low hi (by decide) (by simp only [bitsAt]; omega)
    subst hd ha hp hl
    rw [decodeScalar, hop]
    exact if_pos (by rw [bitsAt_low hi (by decide), bitsAt]; omega)
  case fork d a e =>
    refine decode_encSI (by decide) (by omega) fun u hop hd ha hi => ?_
    have he : fld 2 u 0 = e := fld_low hi (by decide) (by simp only [bitsAt]; omega)
    subst hd ha he
    rw [decodeScalar, hop]
    exact if_pos (by rw [bitsAt_low hi (by decide), bitsAt]; omega)
  case barinit d a =>
    refine decode_encSI (by decide) (by decide) fun u hop hd ha hi => ?_
    subst hd ha
    rw [decodeScalar, hop]
    exact if_pos hi
  case qpop d y k t =>
    refine decode_encSI (a := 0) (by decide) (by omega) fun u hop hd ha hi => ?_
    have hy : fld 1 u 6 = y := fld_low hi (by decide) (by simp only [bitsAt]; omega)
    have hk : fld 2 u 4 = k := fld_low hi (by decide) (by simp only [bitsAt]; omega)
    have ht : fld 4 u 0 = t := fld_low hi (by decide) (by simp only [bitsAt]; omega)
    have ha := bitsAt_eq_zero_of_fld ha
    rw [decodeScalar, hop, ← hd, ← hy, ← hk, ← ht]
    exact if_pos (by simp only [bitsAt] at *; omega)
  case qpush a r k t =>
    refine decode_encSI (d := 0) (by decide) (by omega) fun u hop hd ha hi => ?_
    have hr : fld 1 u 6 = r := fld_low hi (by decide) (by simp only [bitsAt]; omega)
    have hk : fld 2 u 4 = k := fld_low hi (by decide) (by simp only [bitsAt]; omega)
    have ht : fld 4 u 0 = t := fld_low hi (by decide) (by simp only [bitsAt]; omega)
    rw [decodeScalar, hop, ← ha, ← hr, ← hk, ← ht]
    exact if_pos ⟨by rw [bitsAt_low hi (by decide), bitsAt]; omega, bitsAt_eq_zero_of_fld hd⟩
  case qpeek d k =>
    refine decode_encSI (a := 0) (by decide) (by omega) fun u hop hd ha hi => ?_
    have hk : fld 2 u 4 = k := fld_low hi (by decide) (by simp only [bitsAt]; omega)
    have ha := bitsAt_eq_zero_of_fld ha
    rw [decodeScalar, hop, ← hd, ← hk]
    exact if_pos (by simp only [bitsAt] at *; omega)
  case qcnt d o k =>
    refine decode_encSI (a := 0) (by decide) (by omega) fun u hop hd ha hi => ?_
    have ho : fld 1 u 6 = o := fld_low hi (by decide) (by simp only [bitsAt]; omega)
    have hk : fld 2 u 4 = k := fld_low hi (by decide) (by simp only [bitsAt]; omega)
    have ha := bitsAt_eq_zero_of_fld ha
    rw [decodeScalar, hop, ← hd, ← ho, ← hk]
    exact if_pos (by simp only [bitsAt] at *; omega)
  case rendz =>
    refine decode_encSI (d := 0) (a := 0) (by decide) (by decide) fun u hop hd ha hi => ?_
    have hd := bitsAt_eq_zero_of_fld hd
    have ha := bitsAt_eq_zero_of_fld ha
    rw [decodeScalar, hop]
    exact if_pos (by simp only [bitsAt] at *; omega)
  case join d g | leave d g =>
    refine decode_encSI (a := 0) (by decide) (by omega) fun u hop hd ha hi => ?_
    have hg : fld 4 u 0 = g := fld_low hi (by decide) (by simp only [bitsAt]; omega)
    have ha := bitsAt_eq_zero_of_fld ha
    rw [decodeScalar, hop, ← hd, ← hg]
    exact if_pos (by simp only [bitsAt] at *; omega)
  case gbar g =>
    refine decode_encSI (d := 0) (a := 0) (by decide) (by omega) fun u hop hd ha hi => ?_
    have hg : fld 4 u 0 = g := fld_low hi (by decide) (by simp only [bitsAt]; omega)
    have hd := bitsAt_eq_zero_of_fld hd
    have ha := bitsAt_eq_zero_of_fld ha
    rw [decodeScalar, hop, ← hg]
    exact if_pos (by simp only [bitsAt] at *; omega)
  case ringset a n =>
    refine decode_encSI (d := 0) (by decide) (by omega) fun u hop hd ha hi => ?_
    have hn : fld 3 u 0 = n := fld_low hi (by decide) (by simp only [bitsAt]; omega)
    rw [decodeScalar, hop, ← ha, ← hn]
    exact if_pos ⟨by rw [bitsAt_low hi (by decide), bitsAt]; omega, bitsAt_eq_zero_of_fld hd⟩
  case ringopTail d n =>
    rw [encode, ← Nat.add_zero (n.toNat * 2 ^ 4)]
    refine decode_ringop (by decide) fun u hop hd ha hn hz => ?_
    rw [decodeRingop, hop, ← hd, ← hn]
    exact if_pos (by simp only [bitsAt] at *; omega)
  case ringopHead d n | ringopCount d n =>
    refine decode_ringop (by decide) fun u hop hd ha hn hz => ?_
    rw [decodeRingop, hop, ← hd, ← hn]
    exact if_pos (by simp only [bitsAt] at *; omega)
  case ringopFill n | ringopFree n | ringopReset n =>
    refine decode_ringop (d := 0) (by decide) fun u hop hd ha hn hz => ?_
    have hd := bitsAt_eq_zero_of_fld hd
    rw [decodeRingop, hop, ← hn]
    exact if_pos (by simp only [bitsAt] at *; omega)
  case fence k s =>
    rw [encode, show k.toNat * 4 + s.toNat = (BitVec.ofNat 5 (k.toNat * 4 + s.toNat)).toNat by
      rw [BitVec.toNat_ofNat]; omega]
    refine decode_encSR (d := 0) (b := 0) (by decide) (by decide) fun u hop hfn hd ha hb => ?_
    have hd := bitsAt_eq_zero_of_fld hd
    have ha := fld_eq_iff.1 ha
    rw [BitVec.toNat_ofNat] at ha
    have hk : fld 2 u 16 = k := fld_eq_iff.2 (by simp only [bitsAt] at *; omega)
    have hs : fld 2 u 14 = s := fld_eq_iff.2 (by simp only [bitsAt] at *; omega)
    rw [decodeScalar_sys hop, decodeSys, hfn, ← hk, ← hs]
    exact if_pos ⟨bitsAt_eq_zero_of_fld hb, by simp only [bitsAt] at *; omega⟩
  case br a b c o =>
    refine decode_encSB (by decide) fun u hop ha hb hc ho => ?_
    subst ha hb hc ho
    rw [decodeScalar, hop]
    rfl
  case loop a o =>
    refine decode_encSB (b := 0) (c := 0) (by decide) fun u hop ha hb hc ho => ?_
    have hb := bitsAt_eq_zero_of_fld hb
    have hc := bitsAt_eq_zero_of_fld hc
    rw [decodeScalar, hop, ← ha, ← ho]
    exact if_pos (by simp only [bitsAt] at *; omega)
  case lih d k =>
    refine decode_encSU (by decide) fun u hop hd hk => ?_
    subst hd hk
    rw [decodeScalar, hop]
    rfl
  case j o | call o =>
    refine decode_encSJ (by decide) fun u hop ho => ?_
    subst ho
    rw [decodeScalar, hop]
    rfl
  case vlfsrRead | vlfsrWrite | vlfsrAdvance | vlfsrReseed | cbldConst => 
    obtain ⟨hwf, hx3⟩ := Bool.and_eq_true_iff.1 hwf
    rw [encode, decode_encodeV (by decide) hwf, of_decide_eq_true hx3]
    rfl
  case cbldCodebook =>
    obtain ⟨hwf, hx3⟩ := Bool.and_eq_true_iff.1 hwf
    have hx3 := of_decide_eq_true hx3
    rw [encode, decode_encodeV (by decide) hwf, vectorOp, if_neg (by omega), if_pos hx3.2]
  case vmov | vadd | vsub | vmul | vfma | vfms | vfnma | vmin | vmax | vabs | vneg | vrcp | vrsq | vsqrt | vdiv | vfexp2
      | vflog2 | vrndi | vscalb | vgetexp | vgetmant | vclass | vcmp | vsel | vmaskop | viadd | visub | vimul | vimin | vimax
      | vand | vor | vxor | vshl | vshr | vsra | viminu | vimaxu | vcmul | vcmac | vradd | vrmax | vrmin | vramax | vscan | vcvt
      | vamaxb | vqnt | vdqnt | vlqdec | vhad | vpack | vunpk | vperm | vshuf | vslide | vbcast | vgath | vscat | vcomp | vexpd
      | vtos =>
    exact decode_encodeV (by decide) hwf
  case cpy | cpyo | cpyg | cpys | cpyr | cpyq | cpydq | pref | cflush | xfft | xifft | xhad | xexp | xtrl | sacc | amo | publ
      | disc | lxfer | nxtx | nxarm =>
    exact decode_encodeE (by decide) (by decide) hwf
  case mma | mmaq | mmal | mmas | mzero | mlda | msta | mcopy | mtrn | mscal | madd | mred | mspill | mfill =>
    exact decode_encodeM (by decide)
  case mownClaim =>
    rw [encode, decode_encodeM (by decide), matrixOp, if_pos (of_decide_eq_true hwf)]
  case mownRelease =>
    have hmo := of_decide_eq_true hwf
    rw [encode, decode_encodeM (by decide), matrixOp, if_neg (by omega), if_pos hmo]
  all_goals exact Bool.noConfusion hword

/-! What decodes (R20 to R28). -/

/-- An instruction is a word, and its units are these. -/
structure IsWordOf (i : Instr) (us : List U32) : Prop where
  wf : i.wf = true
  word : isEvent i = false
  units : encode i = us

theorem unit_congr {x u : Nat} (h : x = u) : [BitVec.ofNat 32 x] = [BitVec.ofNat 32 u] := by rw [h]

section
variable {u : Nat} {i : Instr} (hu : u < 2 ^ 30)
include hu

theorem decodeSys_some (hop : bitsAt u 24 6 = 0x00) (h : decodeSys u = some i) : IsWordOf i [BitVec.ofNat 32 u] := by
  unfold decodeSys at h
  split at h
  case h_1 =>
    cases h
    exact ⟨rfl, rfl, unit_congr (by simp only [toNat_fld, bitsAt] at *; omega)⟩
  case h_18 => exact nomatch h
  all_goals
    obtain ⟨hzero, h⟩ := Option.ite_none_right_eq_some.1 h
    cases h
    exact ⟨rfl, rfl, unit_congr (by simp only [toNat_fld, bitsAt] at *; omega)⟩

theorem encSR_fields {op fn : Nat} (hop : bitsAt u 24 6 = op) (hfn : bitsAt u 0 9 = fn) :
    encSR op (fld 5 u 19).toNat (fld 5 u 14).toNat (fld 5 u 9).toNat fn = [BitVec.ofNat 32 u] :=
  unit_congr (by simp only [toNat_fld, bitsAt] at *; omega)

theorem encSR_fields_two {op fn : Nat} (hop : bitsAt u 24 6 = op) (hfn : bitsAt u 0 9 = fn) (hb : bitsAt u 9 5 = 0) :
    encSR op (fld 5 u 19).toNat (fld 5 u 14).toNat 0 fn = [BitVec.ofNat 32 u] :=
  unit_congr (by simp only [toNat_fld, bitsAt] at *; omega)

theorem encSI_fields {op : Nat} (hop : bitsAt u 24 6 = op) :
    encSI op (fld 5 u 19).toNat (fld 5 u 14).toNat (fld 14 u 0).toNat = [BitVec.ofNat 32 u] :=
  unit_congr (by simp only [toNat_fld, bitsAt] at *; omega)

theorem decodeAlu_some (hop : bitsAt u 24 6 = 0x01) (h : decodeAlu u = some i) : IsWordOf i [BitVec.ofNat 32 u] := by
  unfold decodeAlu at h
  split at h
  case h_39 => exact nomatch h
  case h_29 hfn | h_30 hfn | h_31 hfn | h_32 hfn | h_33 hfn | h_34 hfn | h_35 hfn =>
    obtain ⟨hzero, h⟩ := Option.ite_none_right_eq_some.1 h
    cases h
    exact ⟨rfl, rfl, encSR_fields_two hu hop hfn hzero⟩
  all_goals
    rename bitsAt u 0 9 = _ => hfn
    cases h
    exact ⟨rfl, rfl, encSR_fields hu hop hfn⟩

theorem decodeRingop_some (hop : bitsAt u 24 6 = 0x3f) (h : decodeRingop u = some i) : IsWordOf i [BitVec.ofNat 32 u] := by
  unfold decodeRingop at h
  split at h
  case h_7 => exact nomatch h
  all_goals
    obtain ⟨hzero, h⟩ := Option.ite_none_right_eq_some.1 h
    cases h
    exact ⟨rfl, rfl, unit_congr (by simp only [toNat_fld, bitsAt] at *; omega)⟩

theorem decodeScalar_some (h : decodeScalar u = some i) : IsWordOf i [BitVec.ofNat 32 u] := by
  unfold decodeScalar at h
  split at h
  case h_1 hop => exact decodeSys_some hu hop h
  case h_2 hop => exact decodeAlu_some hu hop h
  case h_58 hop => exact decodeRingop_some hu hop h
  case h_59 => exact nomatch h
  case h_7 | h_8 | h_9 | h_14 | h_15 | h_16 | h_18 | h_21 | h_22 | h_39 | h_43 | h_44 | h_45 | h_46 | h_47 | h_48 | h_50 | h_51
      | h_52 | h_53 | h_54 | h_57 =>
    obtain ⟨hzero, h⟩ := Option.ite_none_right_eq_some.1 h
    cases h
    exact ⟨rfl, rfl, unit_congr (by simp only [toNat_fld, bitsAt] at *; omega)⟩
  case h_13 | h_17 | h_19 | h_20 =>
    cases h
    exact ⟨rfl, rfl, unit_congr (by simp only [toNat_fld, bitsAt] at *; omega)⟩
  all_goals
    rename bitsAt u 24 6 = _ => hop
    cases h
    exact ⟨rfl, rfl, encSI_fields hu hop⟩

end

theorem vectorOp_some {op : Nat} {w : VWord} {i : Instr} (hwf : w.h.wf = true) (h : vectorOp op w.h.x3.toNat w = some i) :
    IsWordOf i (encodeV op w) := by
  unfold vectorOp at h
  split at h
  case h_46 =>
    split at h
    case h_5 => exact nomatch h
    all_goals
      rename w.h.x3.toNat = _ => hx3
      cases h
      exact ⟨Bool.and_eq_true_iff.2 ⟨hwf, decide_eq_true hx3⟩, rfl, rfl⟩
  case h_64 =>
    split at h
    case isTrue hx3 =>
      cases h
      exact ⟨Bool.and_eq_true_iff.2 ⟨hwf, decide_eq_true hx3⟩, rfl, rfl⟩
    case isFalse hx3 =>
      obtain ⟨hle, h⟩ := Option.ite_none_right_eq_some.1 h
      cases h
      exact ⟨Bool.and_eq_true_iff.2 ⟨hwf, decide_eq_true ⟨by omega, hle⟩⟩, rfl, rfl⟩
  case h_65 => exact nomatch h
  all_goals
    cases h
    exact ⟨hwf, rfl, rfl⟩

theorem engineOp_some {op : Nat} {w : EWord} {i : Instr} (hwf : w.h.wf = true) (h : engineOp op w = some i) :
    IsWordOf i (encodeE op w) := by
  unfold engineOp at h
  split at h
  case h_22 => exact nomatch h
  all_goals
    cases h
    exact ⟨hwf, rfl, rfl⟩

theorem matrixOp_some {op : Nat} {w : MWord} {i : Instr} (h : matrixOp op w = some i) : IsWordOf i (encodeM op w) := by
  unfold matrixOp at h
  split at h
  case h_15 =>
    split at h
    case isTrue hmo =>
      cases h
      exact ⟨decide_eq_true hmo, rfl, rfl⟩
    case isFalse =>
      obtain ⟨hmo, h⟩ := Option.ite_none_right_eq_some.1 h
      cases h
      exact ⟨decide_eq_true hmo, rfl, rfl⟩
  case h_16 => exact nomatch h
  all_goals
    cases h
    exact ⟨rfl, rfl, rfl⟩

theorem ofNat_eq_of_toNat {u : U32} {x : Nat} (h : x = u.toNat) : BitVec.ofNat 32 x = u := by
  rw [h, BitVec.ofNat_toNat, BitVec.setWidth_eq]

/-- The bits of a number from `lo + n` on, and the `n` bits below them. -/
theorem join_bits (u lo n : Nat) : u / 2 ^ (lo + n) * 2 ^ (lo + n) + bitsAt u lo n * 2 ^ lo = u / 2 ^ lo * 2 ^ lo := by
  rw [bitsAt, Nat.pow_add, ← Nat.div_div_eq_div_mul, Nat.mul_comm (2 ^ lo), ← Nat.mul_assoc, ← Nat.add_mul,
    Nat.div_add_mod']

theorem join_low_bits (u n : Nat) : u / 2 ^ n * 2 ^ n + bitsAt u 0 n = u := by
  rw [bitsAt, Nat.pow_zero, Nat.div_one, Nat.div_add_mod']

theorem unitClass_bits {u : U32} {k : Nat} (h : unitClass u = k) : k * 2 ^ 30 = u.toNat / 2 ^ 30 * 2 ^ 30 := by
  rw [unitClass, bitsAt] at h
  omega

theorem tailUnit_fld {u : U32} (hu : unitClass u = 3) : tailUnit (fld 30 u.toNat 0) = u := by
  rw [unitClass, bitsAt] at hu
  refine ofNat_eq_of_toNat ?_
  rw [toNat_fld, bitsAt]
  omega

theorem decodeRest_some {u : Nat} {rest lits : List U32} {stamp : Option (BitVec 30)}
    (h : decodeRest u rest = some (stamp, lits)) : bitsAt u 9 1 = (if stamp.isSome then 1 else 0) ∧
      bitsAt u 7 2 = lits.length ∧ lits.length ≤ 2 ∧ longRest (decodeHead u stamp lits) = rest := by
  unfold decodeRest at h
  split at h
  case isTrue hst =>
    split at h
    case h_1 st lits' =>
      obtain ⟨⟨hcls, hn, hlen⟩, h⟩ := Option.ite_none_right_eq_some.1 h
      cases h
      exact ⟨hst, hlen.symm, hlen ▸ hn, congrArg (· :: lits) (tailUnit_fld hcls)⟩
    case h_2 => exact nomatch h
  case isFalse hst =>
    obtain ⟨⟨hn, hlen⟩, h⟩ := Option.ite_none_right_eq_some.1 h
    cases h
    refine ⟨?_, hlen.symm, hlen ▸ hn, rfl⟩
    simp only [bitsAt] at hst ⊢
    simp
    omega


theorem longUnit_fields {u : Nat} {stamp : Option (BitVec 30)} {lits : List U32} (hu : u < 2 ^ 32) (hcls : bitsAt u 30 2 = 1)
    (hst : bitsAt u 9 1 = if stamp.isSome then 1 else 0) (hlits : bitsAt u 7 2 = lits.length) :
    longUnit (bitsAt u 22 8) (decodeHead u stamp lits) = u := by
  cases stamp <;>
    simp only [longUnit, decodeHead, toNat_fld, ← hlits, Option.isSome_none, Option.isSome_some, Bool.false_eq_true, if_false,
      if_true, bitsAt] at * <;>
    omega

theorem decodeHead_x3 (u : Nat) (stamp : Option (BitVec 30)) (lits : List U32) :
    (decodeHead u stamp lits).x3.toNat = bitsAt u 0 3 := toNat_fld ..

theorem decodeHead_wf {u : Nat} {stamp : Option (BitVec 30)} {lits : List U32} (h : lits.length ≤ 2) :
    (decodeHead u stamp lits).wf = true := VHead.wf_iff.2 h

section
variable {op : Nat} {h : VHead} {u1 u2 u3 : U32} (h1 : longUnit op h = u1.toNat) (h2 : unitClass u2 = 3)
  (h3 : unitClass u3 = 3)
include h1 h2 h3

theorem encodeV_fields : encodeV op (decodeVWord h u2.toNat u3.toNat) = u1 :: u2 :: u3 :: longRest h := by
  rw [unitClass, bitsAt] at h2 h3
  rw [encodeV, encodeLong_eq, show (decodeVWord h u2.toNat u3.toNat).h = h from rfl, ofNat_eq_of_toNat h1]
  refine congrArg _ (congrArg₂ _ (ofNat_eq_of_toNat ?_) (congrArg (· :: _) (ofNat_eq_of_toNat ?_))) <;>
    simp only [decodeVWord, toNat_fld, BitVec.toNat_ofNat, bitsAt] <;>
    omega

theorem encodeE_fields : encodeE op (decodeEWord h u2.toNat u3.toNat) = u1 :: u2 :: u3 :: longRest h := by
  rw [encodeE, encodeLong_eq, show (decodeEWord h u2.toNat u3.toNat).h = h from rfl, ofNat_eq_of_toNat h1]
  refine congrArg _ (congrArg₂ _ (ofNat_eq_of_toNat ?_) (congrArg (· :: _) (ofNat_eq_of_toNat ?_)))
  · simp only [decodeEWord, toNat_fld, ← Nat.add_assoc]
    rw [unitClass_bits h2, join_bits _ 25 5, join_bits _ 20 5, join_bits _ 15 5, join_bits _ 10 5, join_low_bits]
  · simp only [decodeEWord, toNat_fld, ← Nat.add_assoc]
    rw [unitClass_bits h3, join_bits _ 26 4, join_bits _ 23 3, join_bits _ 22 1, join_bits _ 20 2, join_bits _ 17 3,
      join_bits _ 16 1, join_bits _ 15 1, join_bits _ 13 2, join_bits _ 12 1, join_low_bits]

end

theorem decodeLong_some {u1 u2 u3 : U32} {rest : List U32} {i : Instr} (h1 : unitClass u1 = 1)
    (h : decodeLong u1 u2 u3 rest = some i) : IsWordOf i (u1 :: u2 :: u3 :: rest) := by
  unfold decodeLong at h
  obtain ⟨⟨h2, h3⟩, h⟩ := Option.ite_none_right_eq_some.1 h
  split at h
  case h_1 => exact nomatch h
  case h_2 stamp lits hrest =>
    obtain ⟨hst, hlits, hlen, hrest⟩ := decodeRest_some hrest
    have hunit := longUnit_fields u1.isLt h1 hst hlits
    have hwf : (decodeHead u1.toNat stamp lits).wf = true := decodeHead_wf hlen
    rw [← hrest]
    dsimp only at h
    split at h
    case isTrue =>
      rw [← decodeHead_x3 u1.toNat stamp lits] at h
      rw [← encodeV_fields hunit h2 h3]
      exact vectorOp_some hwf h
    case isFalse =>
      rw [← encodeE_fields hunit h2 h3]
      exact engineOp_some hwf h

theorem encodeM_fields {u1 u2 u3 u4 u5 u6 : U32} (h1 : unitClass u1 = 2) (h2 : unitClass u2 = 3) (h3 : unitClass u3 = 3)
    (h4 : unitClass u4 = 3) (h5 : unitClass u5 = 3) (h6 : unitClass u6 = 3) : encodeM (bitsAt u1.toNat 22 8)
      (decodeMWord u1.toNat u2.toNat u3.toNat u4.toNat u5.toNat u6.toNat) = [u1, u2, u3, u4, u5, u6] := by
  rw [encodeM_eq, show (decodeMWord u1.toNat u2.toNat u3.toNat u4.toNat u5.toNat u6.toNat).stamp = fld 30 u3.toNat 0 from rfl,
    show (decodeMWord u1.toNat u2.toNat u3.toNat u4.toNat u5.toNat u6.toNat).p4 = fld 30 u4.toNat 0 from rfl,
    show (decodeMWord u1.toNat u2.toNat u3.toNat u4.toNat u5.toNat u6.toNat).p5 = fld 30 u5.toNat 0 from rfl,
    show (decodeMWord u1.toNat u2.toNat u3.toNat u4.toNat u5.toNat u6.toNat).p6 = fld 30 u6.toNat 0 from rfl,
    tailUnit_fld h3, tailUnit_fld h4, tailUnit_fld h5, tailUnit_fld h6]
  refine congrArg₂ _ (ofNat_eq_of_toNat ?_) (congrArg (· :: _) (ofNat_eq_of_toNat ?_))
  · simp only [matrixUnit1, decodeMWord, toNat_fld]
    rw [unitClass_bits h1, join_bits _ 22 8, join_bits _ 18 4, join_bits _ 14 4, join_bits _ 12 2, join_bits _ 6 6,
      join_bits _ 4 2, join_low_bits]
  · simp only [matrixUnit2, decodeMWord, toNat_fld]
    rw [unitClass_bits h2, join_bits _ 27 3, join_bits _ 26 1, join_bits _ 25 1, join_bits _ 23 2, join_bits _ 20 3,
      join_bits _ 19 1, join_bits _ 18 1, join_bits _ 16 2, join_bits _ 15 1, join_bits _ 14 1, join_bits _ 11 3,
      join_bits _ 10 1, join_bits _ 9 1, join_low_bits]

theorem decode_some {us : List U32} {i : Instr} (h : decode us = some i) : IsWordOf i us := by
  unfold decode at h
  split at h
  case h_1 => exact nomatch h
  case h_2 u rest =>
    split at h
    case h_1 hcls =>
      have hu : u.toNat < 2 ^ 30 := by
        have := u.isLt
        rw [unitClass, bitsAt] at hcls
        omega
      have hword := decodeScalar_some hu h
      rwa [ofNat_eq_of_toNat rfl] at hword
    case h_2 hcls => exact decodeLong_some hcls h
    case h_3 hcls =>
      obtain ⟨⟨h2, h3, h4, h5, h6⟩, h⟩ := Option.ite_none_right_eq_some.1 h
      rw [← encodeM_fields hcls h2 h3 h4 h5 h6]
      exact matrixOp_some h
    case h_4 => exact nomatch h

/-- Settles O56: each format's units give back its fields (`decode_encode`, by cases of the word), and the fields of what decodes
give back its units (`decode_some`, by cases of the decoder's tables). -/
theorem decodeEncode : Obligations.DecodeEncode := by
  unfold Obligations.DecodeEncode
  refine ⟨decode_encode, fun us i h => ?_⟩
  obtain ⟨hwf, hword, hunits⟩ := decode_some h
  exact ⟨hwf, hword, hunits⟩

end Sys2Proof

/-!
Words written out from the spec's encodings (R24 to R28, R45 to R52), and units that begin no word (R20, R23).
-/

namespace Sys2Proof

/-- No word begins with a unit of class 3 (R20). -/
theorem decode_class_three {u : U32} (hu : unitClass u = 3) (us : List U32) : decode (u :: us) = none := by
  cases h : decode (u :: us) with
  | none => rfl
  | some i => exact absurd hu (Machine.unitClass_ne_three_of_decode h)

/-- A unit of class 0 whose op6 is unassigned begins no word (R45). -/
theorem decode_class_zero {u : U32} (hu : unitClass u = 0) (hop : decodeScalar u.toNat = none) (us : List U32) :
    decode (u :: us) = none := by
  cases us <;> simp only [decode, hu, hop]

/-- A long word with a literal count of 3 is none (R23). -/
theorem decode_three_literals {u : U32} (hu : unitClass u = 1) (hlits : bitsAt u.toNat 7 2 = 3) (us : List U32) :
    decode (u :: us) = none := by
  have hrest : ∀ rest, decodeRest u.toNat rest = none := fun rest => by
    cases h : decodeRest u.toNat rest with
    | none => rfl
    | some r =>
      obtain ⟨_, hlen, hle, _⟩ := decodeRest_some h
      omega
  rcases us with _ | ⟨u2, _ | ⟨u3, rest⟩⟩ <;> simp [decode, hu, decodeLong, hrest]

/-- Settles O57: each word is decoded from its bits, and the three families of units that begin no word are
`decode_class_three`, `decode_class_zero` and `decode_three_literals`. -/
theorem specWordsDecode : Obligations.SpecWordsDecode := by
  unfold Obligations.SpecWordsDecode
  refine ⟨by decide +kernel, by decide +kernel, by decide +kernel, by decide +kernel, by decide +kernel, by decide +kernel,
    by decide +kernel, by decide +kernel, by decide +kernel, by decide +kernel, by decide +kernel, by decide +kernel,
    decode_class_three (by decide), decode_class_zero (by decide) (by decide), decode_three_literals (by decide) (by decide)⟩

end Sys2Proof

/-!
The scalar words that compute a result of registers (R104 to R111): what each computes, where it runs and where it stops.
-/

namespace Sys2Proof.Machine

/-! The values of the scalar tables (R106 to R111), each as the model computes it. -/

theorem shl_eq (x y : U64) : x <<< shiftCount y = BitVec.ofNat 64 (x.toNat * 2 ^ (y.toNat % 64)) :=
  BitVec.eq_of_toNat_eq (by rw [BitVec.toNat_shiftLeft, BitVec.toNat_ofNat, Nat.shiftLeft_eq, shiftCount])

theorem shr_eq (x y : U64) : x >>> shiftCount y = BitVec.ofNat 64 (x.toNat / 2 ^ (y.toNat % 64)) := by
  apply BitVec.eq_of_toNat_eq
  rw [BitVec.toNat_ushiftRight, BitVec.toNat_ofNat, Nat.shiftRight_eq_div_pow, shiftCount,
    Nat.mod_eq_of_lt (Nat.lt_of_le_of_lt (Nat.div_le_self ..) x.isLt)]

theorem sra_eq (x : U64) (k : Nat) : x.sshiftRight k = BitVec.ofInt 64 (x.toInt / 2 ^ k) := by
  rw [BitVec.sshiftRight, Int.shiftRight_eq_div_pow, Nat.cast_pow, Nat.cast_ofNat]

theorem rotr_eq (x y : U64) :
    x.rotateRight (shiftCount y) = x >>> (y.toNat % 64) ||| x <<< (64 - y.toNat % 64) := by
  rw [BitVec.rotateRight, shiftCount, Nat.mod_mod, BitVec.rotateRightAux]

theorem rotl_eq (x y : U64) :
    x.rotateLeft (shiftCount y) = x <<< (y.toNat % 64) ||| x >>> (64 - y.toNat % 64) := by
  rw [BitVec.rotateLeft, shiftCount, Nat.mod_mod, BitVec.rotateLeftAux]

theorem mul_eq (x y : U64) : x * y = BitVec.ofNat 64 (x.toNat * y.toNat) :=
  BitVec.eq_of_toNat_eq (by rw [BitVec.toNat_mul, BitVec.toNat_ofNat])

theorem mulHigh_eq (x y : U64) : mulHigh x y = BitVec.extractLsb' 64 64 (x.signExtend 128 * y.signExtend 128) := by
  rw [BitVec.signExtend, BitVec.signExtend, ← BitVec.ofInt_mul, ← BitVec.toNat_inj, BitVec.extractLsb'_toNat,
    Nat.shiftRight_eq_div_pow, mulHigh, BitVec.toNat_ofInt, BitVec.toNat_ofInt]
  generalize x.toInt * y.toInt = v
  omega

theorem mulHighU_eq (x y : U64) : mulHighU x y = BitVec.extractLsb' 64 64 (x.setWidth 128 * y.setWidth 128) := by
  apply BitVec.eq_of_toNat_eq
  have hx := x.isLt
  have hy := y.isLt
  have hlt : x.toNat * y.toNat < 2 ^ 128 := by nlinarith
  rw [mulHighU, BitVec.toNat_ofNat, BitVec.extractLsb'_toNat, BitVec.toNat_mul, BitVec.toNat_setWidth_of_le (by decide),
    BitVec.toNat_setWidth_of_le (by decide), Nat.mod_eq_of_lt hlt, Nat.shiftRight_eq_div_pow]

theorem divSigned_eq (x y : U64) : divSigned x y = if y = 0 then BitVec.allOnes 64 else x.sdiv y := by
  unfold divSigned
  split
  · rfl
  · rw [← BitVec.toInt_inj, BitVec.toInt_sdiv, BitVec.toInt_ofInt]

theorem divUnsigned_eq (x y : U64) : divUnsigned x y = if y = 0 then BitVec.allOnes 64 else x.udiv y := by
  unfold divUnsigned
  split
  · rfl
  · exact BitVec.udiv_def.symm

theorem remSigned_eq (x y : U64) : remSigned x y = if y = 0 then x else x.srem y := by
  unfold remSigned
  split
  · rfl
  · rw [← BitVec.toInt_srem, BitVec.ofInt_toInt]

theorem remUnsigned_eq (x y : U64) : remUnsigned x y = if y = 0 then x else x.umod y := by
  unfold remUnsigned
  split
  · rfl
  · exact BitVec.umod_def.symm

theorem min_eq (x y : U64) : (if x.slt y then x else y) = if x.toInt ≤ y.toInt then x else y := by
  rw [BitVec.slt_eq_decide]
  rcases Int.lt_trichotomy x.toInt y.toInt with h | h | h
  · simp [h, Int.le_of_lt h]
  · simp [BitVec.eq_of_toInt_eq h]
  · simp [Int.not_lt.2 (Int.le_of_lt h), Int.not_le.2 h]

theorem max_eq (x y : U64) : (if x.slt y then y else x) = if y.toInt ≤ x.toInt then x else y := by
  rw [BitVec.slt_eq_decide]
  by_cases h : x.toInt < y.toInt
  · simp [h, Int.not_le.2 h]
  · simp [h, Int.not_lt.1 h]

theorem minu_eq (x y : U64) : (if x.ult y then x else y) = if x.toNat ≤ y.toNat then x else y := by
  rw [BitVec.ult_eq_decide]
  rcases Nat.lt_trichotomy x.toNat y.toNat with h | h | h
  · simp [h, Nat.le_of_lt h]
  · simp [BitVec.eq_of_toNat_eq h]
  · simp [Nat.not_lt.2 (Nat.le_of_lt h), Nat.not_le.2 h]

theorem maxu_eq (x y : U64) : (if x.ult y then y else x) = if y.toNat ≤ x.toNat then x else y := by
  rw [BitVec.ult_eq_decide]
  by_cases h : x.toNat < y.toNat
  · simp [h, Nat.not_le.2 h]
  · simp [h, Nat.not_lt.1 h]

theorem slt_eq (x y : U64) : flag (x.slt y) = if x.toInt < y.toInt then 1 else 0 := by
  simp [flag, BitVec.slt_eq_decide]

theorem sltu_eq (x y : U64) : flag (x.ult y) = if x.toNat < y.toNat then 1 else 0 := by
  simp [flag, BitVec.ult_eq_decide]

theorem seq_eq (x y : U64) : flag (x == y) = if x = y then 1 else 0 := by
  simp [flag]

theorem sne_eq (x y : U64) : flag (x != y) = if x = y then 0 else 1 := by
  by_cases h : x = y <;> simp [flag, h]

theorem addw_eq (x y : U64) :
    ((x + y).truncate 32).signExtend 64 = (x.truncate 32 + y.truncate 32 : U32).signExtend 64 := by
  rw [BitVec.truncate_eq_setWidth, BitVec.setWidth_add _ _ (by decide)]

theorem subw_eq (x y : U64) :
    ((x - y).truncate 32).signExtend 64 = (x.truncate 32 - y.truncate 32 : U32).signExtend 64 := by
  congr 1
  apply BitVec.eq_of_toNat_eq
  simp only [BitVec.truncate_eq_setWidth, BitVec.toNat_setWidth, BitVec.toNat_sub]
  omega

/-- A test that holds below `n` and not at `n` holds of the first `n` numbers and no more. -/
theorem length_takeWhile_range {p : Nat → Bool} {n N : Nat} (hn : n < N) (hbelow : ∀ i < n, p i = true) (hat : p n = false) :
    ((List.range N).takeWhile p).length = n := by
  obtain ⟨m, rfl⟩ := Nat.exists_eq_add_of_lt hn
  rw [show n + m + 1 = n + (m + 1) by omega, List.range_add, List.takeWhile_append_of_pos (by simpa using hbelow),
    List.range_succ_eq_map, List.map_cons, Nat.add_zero, List.takeWhile_cons_of_neg (by simp [hat]), List.append_nil,
    List.length_range]

theorem clz_eq (x : U64) :
    BitVec.ofNat 64 (leadingZeros x) = if x = 0 then 64 else BitVec.ofNat 64 (63 - Nat.log2 x.toNat) := by
  split
  · next h => subst h; decide
  next h =>
    have hx : x.toNat ≠ 0 := fun h0 => h (BitVec.eq_of_toNat_eq h0)
    have hlog : Nat.log2 x.toNat < 64 := (Nat.log2_lt hx).2 x.isLt
    congr 1
    refine length_takeWhile_range (by omega) (fun i hi => ?_) ?_
    · rw [← BitVec.testBit_toNat, Nat.testBit_lt_two_pow, Bool.not_false]
      exact (Nat.log2_lt hx).1 (by omega)
    · rw [← BitVec.testBit_toNat, show 63 - (63 - Nat.log2 x.toNat) = Nat.log2 x.toNat by omega, Nat.testBit_log2 hx,
        Bool.not_true]

/-- The lowest one bit of a word that is not 0. -/
theorem exists_lowest_one {x : U64} (h : x ≠ 0) : ∃ k < 64, x.getLsbD k = true ∧ ∀ j < k, x.getLsbD j = false := by
  have hex : ∃ k, x.getLsbD k = true := by
    by_contra hno
    exact h (BitVec.eq_of_getLsbD_eq fun i _ => by simpa using fun hi => hno ⟨i, hi⟩)
  refine ⟨Nat.find hex, ?_, Nat.find_spec hex, fun j hj => by simpa using Nat.find_min hex hj⟩
  by_contra hge
  have := Nat.find_spec hex
  rw [BitVec.getLsbD_of_ge _ _ (by omega)] at this
  cases this

theorem ctz_eq (x : U64) :
    BitVec.ofNat 64 (trailingZeros x) = if x = 0 then 64 else BitVec.ofNat 64 (Nat.log2 (x &&& -x).toNat) := by
  split
  · next h => subst h; decide
  next h =>
    obtain ⟨k, hk, hone, hbelow⟩ := exists_lowest_one h
    have hlow : x &&& -x = BitVec.twoPow 64 k := by
      refine BitVec.eq_of_getLsbD_eq fun i hi => ?_
      rw [BitVec.getLsbD_and, BitVec.getLsbD_neg, BitVec.getLsbD_twoPow, decide_eq_true hi, decide_eq_true hk, Bool.true_and, Bool.true_and]
      rcases Nat.lt_trichotomy i k with hik | rfl | hik
      · simp [hbelow i hik, Nat.ne_of_gt hik]
      · have hno : ¬ ∃ j < i, x.getLsbD j = true := fun ⟨j, hj, h⟩ => by simp [hbelow j hj] at h
        rw [hone, decide_eq_false hno, decide_eq_true rfl]
        rfl
      · have hex : ∃ j < i, x.getLsbD j = true := ⟨k, hik, hone⟩
        rw [decide_eq_true hex, decide_eq_false (Nat.ne_of_lt hik), Bool.xor_true, Bool.and_not_self]
    rw [hlow, BitVec.toNat_twoPow, Nat.mod_eq_of_lt (Nat.pow_lt_pow_right (by decide) hk), Nat.log2_two_pow]
    congr 1
    exact length_takeWhile_range hk (fun i hi => by rw [hbelow i hi]; rfl) (by rw [hone]; rfl)

theorem getLsbD_eq_bit (x : U64) (i : Nat) : x.getLsbD i = decide (x.toNat / 2 ^ i % 2 = 1) := by
  rw [← BitVec.testBit_toNat, Nat.testBit_eq_decide_div_mod_eq]

theorem popc_eq (x : U64) :
    BitVec.ofNat 64 (onesIn x) = BitVec.ofNat 64 ((List.range 64).map (fun i => x.toNat / 2 ^ i % 2)).sum := by
  have h : ∀ is : List Nat, (is.filter (fun i => x.getLsbD i)).length = (is.map (fun i => x.toNat / 2 ^ i % 2)).sum := by
    intro is
    induction is with
    | nil => rfl
    | cons i is ih =>
      rw [List.map_cons, List.sum_cons, ← ih, List.filter_cons, getLsbD_eq_bit]
      rcases Nat.mod_two_eq_zero_or_one (x.toNat / 2 ^ i) with h | h <;> simp [h]
      omega
  rw [onesIn, h]

/-- A number is the sum of its bits. -/
theorem sum_bits (v n : Nat) : ∑ j ∈ Finset.range n, v / 2 ^ j % 2 * 2 ^ j = v % 2 ^ n := by
  induction n with
  | zero => simp [Nat.mod_one]
  | succ n ih => rw [Finset.sum_range_succ, ih, Nat.mod_pow_succ, Nat.mul_comm]

theorem brev_eq (x : U64) :
    x.reverse = BitVec.ofNat 64 ((List.range 64).map (fun i => x.toNat / 2 ^ i % 2 * 2 ^ (63 - i))).sum := by
  have hbit : ∀ j < 64, x.reverse.toNat / 2 ^ j % 2 = x.toNat / 2 ^ (63 - j) % 2 := by
    intro j hj
    have h : x.reverse.getLsbD j = x.getLsbD (63 - j) := by
      rw [BitVec.getLsbD_reverse, BitVec.getMsbD_eq_getLsbD, decide_eq_true hj, Bool.true_and]
    rw [getLsbD_eq_bit, getLsbD_eq_bit] at h
    have := decide_eq_decide.1 h
    omega
  have hsum : ((List.range 64).map (fun i => x.toNat / 2 ^ i % 2 * 2 ^ (63 - i))).sum =
      ∑ i ∈ Finset.range 64, x.toNat / 2 ^ i % 2 * 2 ^ (63 - i) := rfl
  have hrev : ∑ i ∈ Finset.range 64, x.toNat / 2 ^ i % 2 * 2 ^ (63 - i) =
      ∑ j ∈ Finset.range 64, x.reverse.toNat / 2 ^ j % 2 * 2 ^ j := by
    rw [← Finset.sum_range_reflect]
    refine Finset.sum_congr rfl fun j hj => ?_
    have hj := Finset.mem_range.1 hj
    rw [hbit j hj, show 64 - 1 - j = 63 - j by omega, show 63 - (63 - j) = j by omega]
  rw [hsum, hrev, sum_bits, Nat.mod_eq_of_lt x.reverse.isLt, BitVec.ofNat_toNat, BitVec.setWidth_eq]

/-! Bit-fields (R111). -/

theorem extractZero_eq (x : U64) {l p : Nat} (h : p + (l + 1) ≤ 64) :
    extractZero x p (l + 1) = (x <<< (63 - p - l)) >>> (63 - l) := by
  refine BitVec.eq_of_getLsbD_eq fun j hj => ?_
  rw [extractZero, BitVec.getLsbD_ofNat, bitsAt, Nat.testBit_mod_two_pow, Nat.testBit_div_two_pow, BitVec.testBit_toNat,
    BitVec.getLsbD_ushiftRight, BitVec.getLsbD_shiftLeft]
  by_cases hjl : j < l + 1
  · simp [hj, hjl, show 63 - l + j < 64 by omega, show ¬ 63 - l + j < 63 - p - l by omega,
      show 63 - l + j - (63 - p - l) = j + p by omega]
  · simp [hjl, show ¬ 63 - l + j < 64 by omega]

/-- A number of `l + 1` bits read as two's complement is the word of that width, sign-extended. -/
theorem ofInt_signed (l v : Nat) : BitVec.ofInt 64 (signed (l + 1) v) = (BitVec.ofNat (l + 1) v).signExtend 64 := by
  have hmod := Nat.mod_lt v (Nat.two_pow_pos (l + 1))
  have hpow : 2 ^ (l + 1) = 2 * 2 ^ l := Nat.pow_succ'
  rw [BitVec.signExtend, BitVec.toInt_eq_toNat_cond, BitVec.toNat_ofNat, signed, Nat.add_sub_cancel]
  congr 1
  by_cases h : v % 2 ^ (l + 1) < 2 ^ l
  · rw [if_pos h, if_pos (by omega)]
  · rw [if_neg h, if_neg (by omega)]

theorem extractSigned_eq (x : U64) {l p : Nat} (h : p + (l + 1) ≤ 64) :
    extractSigned x p (l + 1) = (x <<< (63 - p - l)).sshiftRight (63 - l) := by
  have hbit : ∀ i < l + 1, (bitsAt x.toNat p (l + 1)).testBit i = x.getLsbD (i + p) := fun i hi => by
    rw [bitsAt, Nat.testBit_mod_two_pow, Nat.testBit_div_two_pow, BitVec.testBit_toNat, decide_eq_true hi, Bool.true_and]
  have hmsb : (BitVec.ofNat (l + 1) (bitsAt x.toNat p (l + 1))).msb = (x <<< (63 - p - l)).msb := by
    rw [BitVec.msb_eq_getLsbD_last, BitVec.msb_eq_getLsbD_last, BitVec.getLsbD_ofNat, hbit _ (by omega),
      BitVec.getLsbD_shiftLeft]
    simp [show ¬ 63 < 63 - p - l by omega, show 63 - (63 - p - l) = l + p by omega]
  refine BitVec.eq_of_getLsbD_eq fun j hj => ?_
  rw [extractSigned, ofInt_signed, BitVec.getLsbD_signExtend, BitVec.getLsbD_sshiftRight, hmsb, BitVec.getLsbD_ofNat,
    BitVec.getLsbD_shiftLeft]
  by_cases hjl : j < l + 1
  · simp [hj, hjl, hbit j hjl, show 63 - l + j < 64 by omega, show ¬ 63 - l + j < 63 - p - l by omega,
      show 63 - l + j - (63 - p - l) = j + p by omega]
  · simp [hj, hjl, show ¬ 63 - l + j < 64 by omega]

theorem getLsbD_insertField (old x : U64) {l p : Nat} (h : p + (l + 1) ≤ 64) (j : Nat) :
    (insertField old x p (l + 1)).getLsbD j =
      if p ≤ j ∧ j < p + (l + 1) then x.getLsbD (j - p) else old.getLsbD j := by
  rw [← BitVec.testBit_toNat, insertField, putBits_toNat _ _ _ _ h, testBit_withField, BitVec.testBit_toNat,
    BitVec.testBit_toNat]

/-! What a word that computes does (R30, R32, R91). -/

theorem State.compute_dead {s : State} {srcs : List Nat} {d p : Nat}
    (h : s.take (srcs.map (·, false) ++ [(d, true)]) = .dead p) (lat : Nat) (f : List U64 → U64) :
    s.compute srcs d lat f = s.fault 0x08 (BitVec.ofNat 64 p) := by
  have hdead : deadPort s.cur.core (srcs.map (·, false) ++ [(d, true)]) = some p := by
    unfold State.take at h
    split at h
    · cases h; assumption
    · split at h <;> cases h
  have hbad : s.badToken (srcs.map (·, false)) d f = none := by
    unfold State.badToken
    rw [hdead]
    split <;> rfl
  rw [State.compute, hbad, State.withRegs, h]

theorem State.compute_waits {s : State} {srcs : List Nat} {d lat : Nat} {f : List U64 → U64} {w : Wait}
    (h : s.take (srcs.map (·, false) ++ [(d, true)]) = .waits w) (hbad : s.badToken (srcs.map (·, false)) d f = none) :
    s.compute srcs d lat f = .next (s.mapMe fun k => { k with run := .waiting w }) := by
  rw [State.compute, hbad, State.withRegs, h]
  rfl

theorem State.badToken_of_register (s : State) (us : List (Nat × Bool)) {d : Nat} (f : List U64 → U64) (hd : d < 28) :
    s.badToken us d f = none := if_pos (by simp [isPort, hd])

theorem State.badToken_of_waits {s : State} {us : List (Nat × Bool)} {d : Nat} {f : List U64 → U64} {w : Wait}
    (h : s.take us = .waits w) : s.badToken us d f = none := by
  unfold State.badToken
  rw [h]
  split
  · rfl
  · split
    · contradiction
    · rfl

/-- A token may be pushed where its type is below 5 (R32). -/
theorem mayNotPush_iff {d : Nat} {v : U64} :
    MayNotPush d v ↔ 28 ≤ d ∧ forbiddenToken (BitVec.ofNat 32 v.toNat) = true := by
  have h : bitsAt (v.toNat % 2 ^ 32) 28 4 = v.toNat / 2 ^ 28 % 16 := by
    rw [bitsAt]
    omega
  rw [MayNotPush, forbiddenToken, BitVec.toNat_ofNat, h, decide_eq_true_iff]

theorem State.take_srcs_alive {s s' : State} {srcs : List Nat} {vs : List U64} {d : Nat}
    (h : s.take (srcs.map (·, false)) = .ok s' vs) (hd : 28 ≤ d → (outQueue s.cur.core (d - 28)).isSome = true) :
    deadPort s.cur.core (srcs.map (·, false) ++ [(d, true)]) = none := by
  have hsrcs := State.take_alive h
  clear h
  induction srcs with
  | nil =>
    refine if_neg ?_
    simp only [isPort, if_true, Bool.and_eq_true, decide_eq_true_eq]
    rintro ⟨hport, hnone⟩
    simp [Option.isNone_iff_eq_none.1 hnone] at hd
    omega
  | cons n srcs ih =>
    simp only [List.map_cons, List.cons_append, deadPort, Bool.false_eq_true, if_false] at hsrcs ⊢
    split at hsrcs
    · cases hsrcs
    · next hn => rw [if_neg hn, ih hsrcs]

/-- A result that may not be pushed stops its word, whatever its port waits for (R23, R32). -/
theorem State.compute_forbidden {s s' : State} {srcs : List Nat} {d : Nat} {vs : List U64} {f : List U64 → U64}
    (h : s.take (srcs.map (·, false)) = .ok s' vs) (hd : 28 ≤ d → (outQueue s.cur.core (d - 28)).isSome = true)
    (hv : MayNotPush d (f vs)) (lat : Nat) :
    s.compute srcs d lat f = s.fault 0x08 (BitVec.ofNat 64 ((f vs).toNat % 2 ^ 32)) := by
  obtain ⟨hport, hforbidden⟩ := mayNotPush_iff.1 hv
  have hbad : s.badToken (srcs.map (·, false)) d f = some (BitVec.ofNat 64 ((f vs).toNat % 2 ^ 32)) := by
    rw [State.badToken, if_neg (by simp [isPort, hport]), State.take_srcs_alive h hd, h]
    exact if_pos hforbidden
  rw [State.compute, hbad]

theorem State.badToken_allowed {s s' : State} {srcs : List Nat} {d : Nat} {vs : List U64} {f : List U64 → U64}
    (h : s.take (srcs.map (·, false)) = .ok s' vs) (hv : ¬ MayNotPush d (f vs)) :
    s.badToken (srcs.map (·, false)) d f = none := by
  rw [State.badToken]
  split
  · rfl
  · next hport =>
    rw [h]
    split
    · next hok =>
      cases hok
      exact if_neg fun hf => hv (mayNotPush_iff.2 ⟨by simpa [isPort] using hport, hf⟩)
    · rfl

section
variable {i : Instr} {srcs : List Nat} {d lat : Nat} {f : List U64 → U64} (hexec : ∀ s, exec i s = s.compute srcs d lat f)
include hexec

theorem runs_of_compute {s s' : State} {vs : List U64} (h : s.take (srcs.map (·, false) ++ [(d, true)]) = .ok s' vs)
    {v : U64} (hval : f vs = v) (hv : ¬ MayNotPush d v) : Runs i s s' d v lat := by
  subst hval
  rw [Runs, hexec]
  exact State.compute_ok h lat f hv

theorem resultStops_of_compute {g : List U64 → U64} (hval : ∀ vs, f vs = g vs) : ResultStops i srcs d g := by
  obtain rfl : f = g := funext hval
  intro s s' vs h
  refine ⟨fun w hw hv => ?_, fun hd hv => ?_⟩
  · rw [hexec, State.compute_waits hw (State.badToken_allowed h hv)]
  · rw [hexec, State.compute_forbidden h hd hv]

end

/-! The tables (R106 to R111): each row's word computes what the row says. -/

theorem aluRows_compute : ∀ row ∈ aluRows, ∃ f : U64 → U64 → U64, (∀ x y, f x y = row.2.1 x y) ∧
    ∀ d a b s, exec (row.1 d a b) s = s.alu2 d a b row.2.2 f := by
  simp only [aluRows, List.forall_mem_cons]
  refine ⟨?add, ?sub, ?and, ?or, ?xor, ?andn, ?orn, ?xnor, ⟨_, shl_eq, fun _ _ _ _ => rfl⟩, ⟨_, shr_eq, fun _ _ _ _ => rfl⟩,
    ⟨_, fun x y => sra_eq x _, fun _ _ _ _ => rfl⟩, ⟨_, rotr_eq, fun _ _ _ _ => rfl⟩, ⟨_, rotl_eq, fun _ _ _ _ => rfl⟩,
    ⟨_, mul_eq, fun _ _ _ _ => rfl⟩, ⟨_, mulHigh_eq, fun _ _ _ _ => rfl⟩, ⟨_, mulHighU_eq, fun _ _ _ _ => rfl⟩,
    ⟨_, divSigned_eq, fun _ _ _ _ => rfl⟩, ⟨_, divUnsigned_eq, fun _ _ _ _ => rfl⟩, ⟨_, remSigned_eq, fun _ _ _ _ => rfl⟩,
    ⟨_, remUnsigned_eq, fun _ _ _ _ => rfl⟩, ⟨_, min_eq, fun _ _ _ _ => rfl⟩, ⟨_, max_eq, fun _ _ _ _ => rfl⟩,
    ⟨_, minu_eq, fun _ _ _ _ => rfl⟩, ⟨_, maxu_eq, fun _ _ _ _ => rfl⟩, ⟨_, slt_eq, fun _ _ _ _ => rfl⟩,
    ⟨_, sltu_eq, fun _ _ _ _ => rfl⟩, ⟨_, seq_eq, fun _ _ _ _ => rfl⟩, ⟨_, sne_eq, fun _ _ _ _ => rfl⟩,
    ⟨_, addw_eq, fun _ _ _ _ => rfl⟩, ⟨_, subw_eq, fun _ _ _ _ => rfl⟩, nofun⟩
  all_goals exact ⟨_, fun _ _ => rfl, fun _ _ _ _ => rfl⟩

theorem unaryRows_compute : ∀ row ∈ unaryRows, ∃ f : U64 → U64, (∀ x, f x = row.2 x) ∧
    ∀ d a s, exec (row.1 d a) s = s.alu1 d a f := by
  simp only [unaryRows, List.forall_mem_cons]
  exact ⟨⟨_, clz_eq, fun _ _ _ => rfl⟩, ⟨_, ctz_eq, fun _ _ _ => rfl⟩, ⟨_, popc_eq, fun _ _ _ => rfl⟩,
    ⟨_, brev_eq, fun _ _ _ => rfl⟩, ⟨_, fun _ => rfl, fun _ _ _ => rfl⟩, ⟨_, fun _ => rfl, fun _ _ _ => rfl⟩,
    ⟨_, fun _ => rfl, fun _ _ _ => rfl⟩, nofun⟩

theorem immediateRows_compute : ∀ row ∈ immediateRows, ∃ f : U64 → U64 → U64, (∀ x m, f x m = row.2.1 x m) ∧
    ∀ d a i s, exec (row.1 d a i) s = s.aluImm d a i row.2.2 f := by
  simp only [immediateRows, List.forall_mem_cons]
  exact ⟨⟨_, fun _ _ => rfl, fun _ _ _ _ => rfl⟩, ⟨_, fun _ _ => rfl, fun _ _ _ _ => rfl⟩,
    ⟨_, fun _ _ => rfl, fun _ _ _ _ => rfl⟩, ⟨_, fun _ _ => rfl, fun _ _ _ _ => rfl⟩,
    ⟨_, slt_eq, fun _ _ _ _ => rfl⟩, ⟨_, sltu_eq, fun _ _ _ _ => rfl⟩, ⟨_, fun _ _ => rfl, fun _ _ _ _ => rfl⟩, nofun⟩

theorem shiftRows_compute : ∀ row ∈ shiftRows, ∃ f : U64 → Nat → U64, (∀ x k, f x k = row.2 x k) ∧
    ∀ d a k s, exec (row.1 d a k) s = s.shiftImm d a k f := by
  simp only [shiftRows, List.forall_mem_cons]
  refine ⟨⟨(· <<< ·), fun x k => ?_, fun _ _ _ _ => rfl⟩, ⟨(· >>> ·), fun x k => ?_, fun _ _ _ _ => rfl⟩,
    ⟨_, sra_eq, fun _ _ _ _ => rfl⟩, nofun⟩
  · exact BitVec.eq_of_toNat_eq (by rw [BitVec.toNat_shiftLeft, BitVec.toNat_ofNat, Nat.shiftLeft_eq])
  · apply BitVec.eq_of_toNat_eq
    rw [BitVec.toNat_ushiftRight, BitVec.toNat_ofNat, Nat.shiftRight_eq_div_pow,
      Nat.mod_eq_of_lt (Nat.lt_of_le_of_lt (Nat.div_le_self ..) x.isLt)]

theorem lih_eq (i : BitVec 19) : sext64 i <<< 13 = BitVec.ofInt 64 (i.toInt * 2 ^ 13) := by
  rw [BitVec.shiftLeft_eq_mul_twoPow, BitVec.ofInt_mul]
  rfl

theorem exec_extr {d a : BitVec 5} {l p : BitVec 6} (h : p.toNat + (l.toNat + 1) ≤ 64) (s : State) :
    exec (.extr d a l p) s = s.compute [a.toNat] d.toNat 1 fun v => extractSigned (val v 0) p.toNat (l.toNat + 1) :=
  if_neg (by simpa [fieldTooLong] using h)

theorem exec_extru {d a : BitVec 5} {l p : BitVec 6} (h : p.toNat + (l.toNat + 1) ≤ 64) (s : State) :
    exec (.extru d a l p) s = s.compute [a.toNat] d.toNat 1 fun v => extractZero (val v 0) p.toNat (l.toNat + 1) :=
  if_neg (by simpa [fieldTooLong] using h)

theorem exec_insr {d a : BitVec 5} {l p : BitVec 6} (h : p.toNat + (l.toNat + 1) ≤ 64) (hd : d.toNat < 28) (s : State) :
    exec (.insr d a l p) s =
      s.compute [a.toNat, d.toNat] d.toNat 1 fun v => insertField (val v 1) (val v 0) p.toNat (l.toNat + 1) :=
  if_neg (by simp [fieldTooLong, isPort]; omega)

theorem exec_sel {d a b : BitVec 5} (hd : d.toNat < 28) (s : State) :
    exec (.sel d a b) s =
      s.compute [a.toNat, b.toNat, d.toNat] d.toNat 1 fun v => if val v 2 ≠ 0 then val v 0 else val v 1 :=
  if_neg (by simpa [isPort] using hd)

/-- Every word of the scalar tables computes something of the registers that it names. -/
theorem aluUses_compute {i : Instr} {us : List (Nat × Bool)} (h : aluUses i = some us) : ∃ srcs d lat f,
    us = srcs.map (·, false) ++ [(d, true)] ∧ ∀ s, exec i s = s.compute srcs d lat f := by
  cases i
  case add | sub | and | or | xor | andn | orn | xnor | shl | shr | sra | rotr | rotl | mul | mulh | mulhu | div | divu | rem
      | remu | min | max | minu | maxu | slt | sltu | seq | sne | addw | subw | clz | ctz | popc | brev | sextb | sexth
      | sextw | addi | andi | ori | xori | slti | sltui | muli | shli | shri | srai | lih =>
    cases h
    exact ⟨_, _, _, _, rfl, fun _ => rfl⟩
  case sel =>
    obtain ⟨hd, h⟩ := Option.ite_none_left_eq_some.1 h
    cases h
    exact ⟨_, _, _, _, rfl, exec_sel (Nat.lt_of_not_le hd)⟩
  case insr =>
    obtain ⟨hd, h⟩ := Option.ite_none_left_eq_some.1 h
    cases h
    exact ⟨_, _, _, _, rfl, exec_insr (by omega) (by omega)⟩
  case extr =>
    obtain ⟨hd, h⟩ := Option.ite_none_left_eq_some.1 h
    cases h
    exact ⟨_, _, _, _, rfl, exec_extr (by omega)⟩
  case extru =>
    obtain ⟨hd, h⟩ := Option.ite_none_left_eq_some.1 h
    cases h
    exact ⟨_, _, _, _, rfl, exec_extru (by omega)⟩
  all_goals exact nomatch h

end Sys2Proof.Machine

namespace Sys2Proof

open Sys2Proof.Machine

/-- Settles O2: each word of the tables computes what its row says (`immediateRows_compute`, `shiftRows_compute`), a bit-field is
two shifts (`extractSigned_eq`, `extractZero_eq`), and a word that computes runs (`runs_of_compute`). -/
theorem immediateResults : Obligations.ImmediateResults := by
  unfold Obligations.ImmediateResults
  refine ⟨?immediate, ?shift, ?lih, ?extract, ?insert⟩
  case immediate =>
    intro row hrow s s' d a i x h hv
    obtain ⟨f, hf, hexec⟩ := immediateRows_compute row hrow
    exact runs_of_compute (srcs := [a.toNat]) (hexec d a i) h (hf ..) hv
  case shift =>
    intro row hrow s s' d a k x h hv
    obtain ⟨f, hf, hexec⟩ := shiftRows_compute row hrow
    exact runs_of_compute (srcs := [a.toNat]) (hexec d a k) h (hf ..) hv
  case lih =>
    intro s s' d i h hv
    exact runs_of_compute (srcs := []) (fun _ => rfl) h (lih_eq i) hv
  case extract =>
    intro s s' d a l p x hp h
    exact ⟨fun hv => runs_of_compute (srcs := [a.toNat]) (exec_extr hp) h (extractSigned_eq x hp) hv,
      fun hv => runs_of_compute (srcs := [a.toNat]) (exec_extru hp) h (extractZero_eq x hp) hv⟩
  case insert =>
    intro s s' d a l p x old hp hd h
    refine ⟨insertField old x p.toNat (l.toNat + 1), ?_, getLsbD_insertField old x hp⟩
    exact runs_of_compute (srcs := [a.toNat, d.toNat]) (exec_insr hp hd) h rfl fun hv => absurd hv.1 (by omega)

/-- Settles O3: a word of the tables computes something of its registers (`aluUses_compute`), so it stops where reading them does
(`State.compute_dead`, `State.compute_waits`) and where its result may not be pushed (`resultStops_of_compute`). -/
theorem aluStops : Obligations.AluStops := by
  unfold Obligations.AluStops
  refine ⟨?dead, ?waits, ?illegal, ?alu, ?unary, ?immediate, ?shift, ?lih, ?extract⟩
  case dead =>
    intro i us hus s p h
    obtain ⟨srcs, d, lat, f, rfl, hexec⟩ := aluUses_compute hus
    rw [hexec, State.compute_dead h]
  case waits =>
    intro i us hus s w h hready
    obtain ⟨srcs, d, lat, f, rfl, hexec⟩ := aluUses_compute hus
    rw [hexec]
    refine State.compute_waits h ?_
    rcases hready with hreg | ⟨w', hw'⟩
    · exact s.badToken_of_register _ f (hreg (d, true) (by simp) rfl)
    · have hfilter : ((srcs.map (·, false) ++ [(d, true)]).filter fun u => !u.2) = srcs.map (·, false) := by
        simp [List.filter_map, Function.comp_def]
      exact State.badToken_of_waits (hfilter ▸ hw')
  case illegal =>
    intro i hi s
    cases i
    case extr | extru => exact if_pos (by simpa [fieldTooLong, aluIllegal] using hi)
    case insr => exact if_pos (by simpa [fieldTooLong, isPort, aluIllegal] using hi)
    case sel => exact if_pos (by simpa [isPort, aluIllegal] using hi)
    all_goals exact hi.elim
  case alu =>
    intro row hrow d a b
    obtain ⟨f, hf, hexec⟩ := aluRows_compute row hrow
    exact resultStops_of_compute (hexec d a b) fun vs => hf ..
  case unary =>
    intro row hrow d a
    obtain ⟨f, hf, hexec⟩ := unaryRows_compute row hrow
    exact resultStops_of_compute (hexec d a) fun vs => hf ..
  case immediate =>
    intro row hrow d a i
    obtain ⟨f, hf, hexec⟩ := immediateRows_compute row hrow
    exact resultStops_of_compute (hexec d a i) fun vs => hf ..
  case shift =>
    intro row hrow d a k
    obtain ⟨f, hf, hexec⟩ := shiftRows_compute row hrow
    exact resultStops_of_compute (hexec d a k) fun vs => hf ..
  case lih => exact fun d i => resultStops_of_compute (fun _ => rfl) fun _ => lih_eq i
  case extract =>
    exact fun d a l p hp => ⟨resultStops_of_compute (exec_extr hp) fun vs => extractSigned_eq (vs.getD 0 0) hp,
      resultStops_of_compute (exec_extru hp) fun vs => extractZero_eq (vs.getD 0 0) hp⟩

end Sys2Proof

/-!
What reading registers gives, words without a result, and the branches (O4, O5).
-/

namespace Sys2Proof.Machine

open Host (Outcome)

/-! Reading registers (R30, R91). -/

theorem deadPort_registers {c : CoreId} {us : List (Nat × Bool)} (h : ∀ u ∈ us, u.1 < 28) : deadPort c us = none := by
  induction us with
  | nil => rfl
  | cons u us ih =>
    rw [List.forall_mem_cons] at h
    rw [deadPort, if_neg (by simp [isPort, h.1]), ih h.2]

theorem portLacks_registers (t : Tile) (c : CoreId) (now : Nat) {us : List (Nat × Bool)} (h : ∀ u ∈ us, u.1 < 28) :
    portLacks t c now us = ([], []) := by
  have hport : ∀ u ∈ us, isPort u.1 = false := fun u hu => by simpa [isPort] using h u hu
  have hnone : ∀ f : Nat × Bool → Option Nat, (∀ u ∈ us, f u = none) → us.filterMap f = [] := fun f hf =>
    List.filterMap_eq_nil_iff.2 hf
  rw [portLacks, hnone _ fun u hu => by simp [hport u hu], hnone _ fun u hu => by simp [hport u hu]]
  rfl

theorem takeUses_registers (c : CoreId) (now : Nat) {us : List (Nat × Bool)} (t : Tile) (h : ∀ u ∈ us, u.1 < 28) :
    takeUses c now t us = (t, (us.filter fun u => !u.2).map fun u => (t.core c).reg u.1) := by
  induction us with
  | nil => rfl
  | cons u us ih =>
    obtain ⟨n, w⟩ := u
    rw [List.forall_mem_cons] at h
    have hn : isPort n = false := by simpa [isPort] using h.1
    cases w <;> simp [takeUses, hn, ih h.2]

theorem usesWait_registers {t : Tile} {c : CoreId} {now : Nat} {us : List (Nat × Bool)}
    (h : ∀ u ∈ us, u.1 < 28 ∧ (t.core c).pending now (.s u.1) = false) : usesWait t c now us = none := by
  rw [usesWait, if_neg, portLacks_registers t c now fun u hu => (h u hu).1]
  · rfl
  · simp only [List.any_eq_true, Bool.and_eq_true, not_exists, not_and]
    exact fun u hu _ => by simp [(h u hu).2]

theorem State.take_registers {s : State} {us : List (Nat × Bool)}
    (h : ∀ u ∈ us, u.1 < 28 ∧ s.me.pending s.now (.s u.1) = false) :
    s.take us = .ok (s.setMyTile s.myTile) ((us.filter fun u => !u.2).map fun u => s.me.reg u.1) := by
  have hreg : ∀ u ∈ us, u.1 < 28 := fun u hu => (h u hu).1
  have hwait : usesWait s.myTile s.cur.core s.now us = none := usesWait_registers h
  rw [State.take, deadPort_registers hreg]
  dsimp only
  rw [hwait, takeUses_registers _ _ _ hreg]
  rfl

theorem State.take_pending {s : State} {us : List (Nat × Bool)} (hreg : ∀ u ∈ us, u.1 < 28)
    (h : ∃ u ∈ us, s.me.pending s.now (.s u.1) = true) : s.take us = .waits .res := by
  obtain ⟨u, hu, hpend⟩ := h
  have hwait : usesWait s.myTile s.cur.core s.now us = some .res :=
    if_pos (List.any_eq_true.2 ⟨u, hu, by
      rw [State.me_eq] at hpend
      simp [isPort, hreg u hu, hpend]⟩)
  rw [State.take, deadPort_registers hreg]
  dsimp only
  rw [hwait]

theorem deadPort_inQueue {c : CoreId} {n q : Nat} (hq : inQueue c (n - 28) = some q) : deadPort c [(n, false)] = none := by
  rw [deadPort, if_neg (by simp [hq])]
  rfl

section
variable {s : State} {n q : Nat} (hport : 28 ≤ n) (hq : inQueue s.cur.core (n - 28) = some q)
include hport hq

theorem State.usesWait_port : usesWait s.myTile s.cur.core s.now [(n, false)] =
    if s.myTile.poppable q s.now = 0 then some (.pop q) else none := by
  have hp : isPort n = true := decide_eq_true hport
  rw [usesWait, if_neg (by simp [hp])]
  by_cases h : s.myTile.poppable q s.now = 0
  · simp [portLacks, countUse, hp, hq, h, Option.filter, List.eraseDups, List.eraseDupsBy, List.eraseDupsBy.loop, lackWait]
  · simp [portLacks, countUse, hp, hq, h, Option.filter, List.eraseDups, List.eraseDupsBy, List.eraseDupsBy.loop, lackWait]

theorem State.take_port (h : 0 < s.myTile.poppable q s.now) : s.take [(n, false)] =
    .ok (s.setMyTile (s.myTile.setQueue q ((s.myTile.queue q).pop s.now))) [(s.myTile.queue q).head.setWidth 64] := by
  have hp : isPort n = true := decide_eq_true hport
  rw [State.take, deadPort_inQueue hq]
  dsimp only
  rw [State.usesWait_port hport hq, if_neg (by omega)]
  simp [takeUses, hp, hq]

theorem State.take_port_empty (h : s.myTile.poppable q s.now = 0) : s.take [(n, false)] = .waits (.pop q) := by
  rw [State.take, deadPort_inQueue hq]
  dsimp only
  rw [State.usesWait_port hport hq, if_pos h]

end

/-- A tile replaced by itself leaves every tile as it was. -/
theorem State.tile_setMyTile_self (s : State) (g : Nat) : (s.setMyTile s.myTile).tile g = s.tile g := by
  rw [State.setMyTile, State.tile_setTile]
  split
  · next h => rw [h]; rfl
  · rfl

/-! A word that issues without a result. -/

theorem State.sameBytes_setMyTile {s : State} {t : Tile} (h : t.scratch = s.myTile.scratch) : SameBytes s (s.setMyTile t) := by
  refine ⟨fun _ => rfl, fun _ => rfl, fun g a => ?_⟩
  rw [State.setMyTile, State.tile_setTile]
  split
  · next hg => rw [hg, h]; rfl
  · rfl

/-- What a word leaves that has read its registers, has no result, and goes on. -/
theorem State.goes_issue {s s' : State} (h : s' = s.setMyTile (s.myTile.withQueues s'.myTile.queues)) (npc : U64) (next : Nat) :
    Issued s (s'.issue npc next (plainPend (s.now + 1) [])) npc next 1 [] ∧
      (s'.issue npc next (plainPend (s.now + 1) [])).myTile.queues = s'.myTile.queues ∧
      OnlyRegister s (s'.issue npc next (plainPend (s.now + 1) [])) 0 := by
  generalize s'.myTile.queues = q at h ⊢
  subst h
  have hme : (s.setMyTile (s.myTile.withQueues q)).me = s.me := by rw [State.me_setMyTile, Tile.core_withQueues]; rfl
  refine ⟨⟨?_, ?_, ?_, none, ?_⟩, ?_, ⟨?_, ?_, fun n _ => ?_, ?_⟩⟩
  case refine_9 =>
    rw [State.issue, State.mapMe_eq, State.setMyTile_setMyTile]
    exact State.sameBytes_setMyTile (by simp)
  case refine_8 => simp [State.issue, State.mapMe_eq, hme, Core.reg]
  all_goals simp [State.issue, State.mapMe_eq, hme, plainPend, OnlyFlow, Tile.setCore_withQueues]

/-- A word runs without a result. -/
theorem goes_of_exec {i : Instr} {s s' : State} (h : s' = s.setMyTile (s.myTile.withQueues s'.myTile.queues)) {npc : U64}
    {next : Nat} (hexec : exec i s = .next (s'.issue npc next (plainPend (s.now + 1) []))) : Goes i s s' npc next :=
  ⟨_, hexec, State.goes_issue h npc next⟩

/-! Branches (R112). -/

theorem branchTaken_eq {c : BitVec 3} {x y : U64} {taken : Bool}
    (h : (c, taken) ∈ [((0 : BitVec 3), decide (x = y)), (1, decide (x ≠ y)), (2, decide (x.toInt < y.toInt)),
      (3, decide (y.toInt ≤ x.toInt)), (4, decide (x.toNat < y.toNat)), (5, decide (y.toNat ≤ x.toNat))]) :
    branchTaken c x y = some taken := by
  simp only [List.mem_cons, Prod.mk.injEq, List.not_mem_nil, or_false] at h
  obtain ⟨rfl, rfl⟩ | ⟨rfl, rfl⟩ | ⟨rfl, rfl⟩ | ⟨rfl, rfl⟩ | ⟨rfl, rfl⟩ | ⟨rfl, rfl⟩ := h
  · simp [branchTaken, beq_eq_decide]
  · simp [branchTaken, bne, beq_eq_decide]
  · simp [branchTaken, BitVec.slt]
  · rw [decide_eq_decide.2 not_lt.symm, decide_not]
    rfl
  · simp [branchTaken, BitVec.ult]
  · rw [decide_eq_decide.2 not_lt.symm, decide_not]
    rfl

/-- Whether a condition exists does not depend on what it compares. -/
theorem branchTaken_isNone {c : BitVec 3} {x y : U64} {b : Bool} (h : branchTaken c x y = some b) :
    (branchTaken c 0 0).isNone = false := by
  unfold branchTaken at h ⊢
  split at h <;> simp_all

theorem branchTaken_reserved {c : BitVec 3} (h : 6 ≤ c.toNat) (x y : U64) : branchTaken c x y = none := by
  unfold branchTaken
  split
  case h_7 => rfl
  all_goals omega

theorem target_eq (pc : U64) (o : BitVec 11) : target pc o = pc + BitVec.ofInt 64 (4 * o.toInt) := by
  rw [target, sext64, BitVec.signExtend, BitVec.mul_comm, BitVec.ofInt_mul]
  rfl

theorem State.jump_eq (s : State) (taken : Bool) (t pc : U64) (res : List Res) : s.jump taken t pc res =
    s.issue (if taken then t else pc + 4) (if taken then s.now + 2 else s.now + 1) (plainPend (s.now + 1) res) := by
  cases taken <;> rfl

theorem State.now_take {s s' : State} {us : List (Nat × Bool)} {vs : List U64} (h : s.take us = .ok s' vs) : s'.now = s.now := by
  rw [(State.take_ok h).1]
  rfl

theorem State.withRegs_ok {s s' : State} {us : List (Nat × Bool)} {vs : List U64} (h : s.take us = .ok s' vs)
    (k : State → List U64 → Outcome State Fault Refusal) : s.withRegs us k = k s' vs := by
  rw [State.withRegs, h]

theorem State.now_putReg (s : State) (d : Nat) (v : U64) (lat : Nat) : (s.putReg d v lat).now = s.now := by
  unfold State.putReg
  split
  · split <;> rfl
  · rfl

/-- A register that could be read may also be written. -/
theorem State.take_read_write {s s' : State} {n : Nat} {vs : List U64} (hn : n < 28) (h : s.take [(n, false)] = .ok s' vs) :
    s.take [(n, false), (n, true)] = .ok s' vs := by
  have hpend : s.me.pending s.now (.s n) = false := by
    by_contra hp
    rw [State.take_pending (by simpa using hn) (by simpa using hp)] at h
    cases h
  rw [State.take_registers (by simp [hn, hpend])] at h
  rw [State.take_registers (by simp [hn, hpend]), ← h]
  rfl

theorem exec_br {s s' : State} {a b : BitVec 5} {c : BitVec 3} {o : BitVec 11} {x y : U64} {taken : Bool}
    (hc : branchTaken c x y = some taken) (h : s.take [(a.toNat, false), (b.toNat, false)] = .ok s' [x, y]) :
    exec (.br a b c o) s = .next (s'.jump taken (target s.me.pc o) s.me.pc []) := by
  change execBr a b c o s = _
  rw [execBr, branchTaken_isNone hc, if_neg (by simp), State.withRegs_ok h]
  simp [val, hc]

theorem exec_loop {s s' : State} {a : BitVec 5} {o : BitVec 11} {x : U64} (hlo : 1 ≤ a.toNat) (hhi : a.toNat < 28)
    (h : s.take [(a.toNat, false)] = .ok s' [x]) :
    exec (.loop a o) s = .next ((s'.putReg a.toNat (x - 1) 1).jump (x - 1 != 0) (target s.me.pc o) s.me.pc [.s a.toNat]) := by
  change execLoop a o s = _
  rw [execLoop, if_neg (by simp [isPort]; omega), State.withRegs_ok h]
  rfl

/-- Settles O4: registers without ports read what they hold; a connected in-port gives its head token. -/
theorem registersRead : Obligations.RegistersRead := by
  refine ⟨fun s us h => ⟨_, State.take_registers h, State.tile_setMyTile_self s⟩, fun s us => State.take_pending,
    fun s n q hport hq h => ⟨_, State.take_port hport hq h, ?_, fun r hr => ?_⟩,
    fun s n q => State.take_port_empty, fun s s' us vs h => (State.take_ok h).1⟩
  · rw [State.myTile_setMyTile]
    exact Store.get_put_same _ _ _ _
  · rw [State.myTile_setMyTile]
    exact Tile.queue_setQueue_ne _ _ hr

/-- Settles O5: BR goes where its condition says, LOOP counts its register down, and the other forms are illegal. -/
theorem branchResults : Obligations.BranchResults := by
  refine ⟨fun s s' a b c o x y taken hc h => ?_, fun s s' a o x hlo hhi h => ?_, fun s a o ha => ?_, fun s a b c o hc => ?_⟩
  · have hexec := exec_br (o := o) (branchTaken_eq hc) h
    rw [State.jump_eq, State.now_take h, target_eq] at hexec
    exact goes_of_exec (State.take_ok h).1 hexec
  · have hexec := exec_loop (o := o) hlo hhi h
    rw [State.jump_eq, State.now_putReg, State.now_take h, target_eq] at hexec
    obtain ⟨hissued, hlanded, honly⟩ := State.delivered (State.take_read_write hhi h) a.toNat (by simp) (x - 1) 1
      (if x - 1 != 0 then s.me.pc + BitVec.ofInt 64 (4 * o.toInt) else s.me.pc + 4)
      (if x - 1 != 0 then s.now + 2 else s.now + 1) [.s a.toNat]
    have hzero : x - 1 = 0 ↔ x = 1 := sub_eq_zero
    refine ⟨_, hexec, ?_, honly, ?_⟩
    · rw [Landed, if_pos hhi] at hlanded
      exact hlanded.1.trans (if_neg (by omega))
    · simpa only [bne_iff_ne, ne_eq, hzero, ite_not] using hissued
  · refine if_pos ?_
    simpa [isPort, BitVec.toNat_eq] using ha
  · refine if_pos ?_
    rw [branchTaken_reserved hc]
    rfl

end Sys2Proof.Machine

/-!
Where CSR words stop (O12).
-/

namespace Sys2Proof.Machine

open Host (Outcome)

/-! Where a CSR word stops (R40, R123). -/

section
variable {s : State} {i : Instr} {op : CsrOp} {d a : Nat} {c : BitVec 14}

theorem State.csrWord_noWalk (hwalk : csrIsWalk c.toNat = true) (hcore : s.cur.core ≠ .X) :
    s.csrWord i op d a c = s.fault 0x01 (headUnit i) :=
  if_pos (by simp [hwalk, hcore])

theorem State.csrWord_check {code : Nat} (hwalk : csrIsWalk c.toNat = true → s.cur.core = .X) (hd : d < 28)
    (ha : op ≠ .rd → a < 28) (hcheck : csrCheck op d s.me.priv.toNat c.toNat = some code) :
    s.csrWord i op d a c = s.fault code (headUnit i) := by
  have hregs : ∀ u ∈ (if op = .rd then [(d, true)] else [(a, false), (d, true)]), u.1 < 28 := by
    split <;> simp_all
  have hno : ¬ (csrIsWalk c.toNat && s.cur.core != .X) = true := by
    simpa using hwalk
  have hport : ¬ (isPort d && forbiddenToken (BitVec.ofNat 32 (s.readCsr s.cur c.toNat))) = true := by simp [isPort, hd]
  rw [State.csrWord]
  dsimp only
  rw [if_neg hno, deadPort_registers hregs]
  dsimp only
  rw [if_neg hport, hcheck]

/-- FRM holds no token of a forbidden type, for it is below 8. -/
theorem State.csrWord_frm {s' : State} {x : U64} (hop : op ≠ .rd) (h : s.take [(a, false), (d, true)] = .ok s' [x])
    (hnew : 6 ≤ op.value s.me.frm.toNat x.toNat % 8) : s.csrWord i op d a 1 = s.fault 0x04 (operandTval 1 a) := by
  have hold : s.readCsr s.cur 1 = s.me.frm.toNat := rfl
  have hport : ¬ (isPort d && forbiddenToken (BitVec.ofNat 32 s.me.frm.toNat)) = true := by
    have hlt := s.me.frm.isLt
    simp only [forbiddenToken, bitsAt, BitVec.toNat_ofNat, Bool.and_eq_true, decide_eq_true_eq]
    omega
  have hcheck : csrCheck op d s.me.priv.toNat 1 = none := by
    simp [csrCheck, show csrRow 1 = some ⟨0, some 0⟩ from rfl]
  rw [State.csrWord]
  change (if (csrIsWalk 1 && s.cur.core != .X) = true then _ else _) = _
  rw [if_neg (by simp [csrIsWalk]), if_neg hop, State.take_alive h]
  change (if (isPort d && forbiddenToken (BitVec.ofNat 32 (s.readCsr s.cur 1))) = true then _ else _) = _
  rw [hold, if_neg hport]
  change (match csrCheck op d s.me.priv.toNat 1 with | some code => _ | none => _) = _
  rw [hcheck]
  change (if 1 = 0 ∧ _ then _ else _) = _
  rw [if_neg (by simp), State.withRegs_ok h]
  exact if_pos ⟨hop, rfl, by simpa [bitsAt, val, hold] using hnew⟩

end

theorem csrRow_walk {n : Nat} (h : csrIsWalk n = true) : csrRow n = some ⟨0, some 0⟩ := by
  have hn : 0x100 ≤ n ∧ n ≤ 0x10F := of_decide_eq_true h
  unfold csrRow
  rw [if_neg (by omega), if_pos hn]

theorem csrCheck_unassigned {op : CsrOp} {d priv n : Nat} (h : csrRow n = none) : csrCheck op d priv n = some 0x01 := by
  rw [csrCheck, h]

theorem csrCheck_rd {d priv n : Nat} {r : CsrRow} (h : csrRow n = some r) (hlow : priv < r.readAt) :
    csrCheck .rd d priv n = some 0x11 := by
  simp [csrCheck, h, hlow]

theorem csrCheck_readOnly {op : CsrOp} {d priv n : Nat} {r : CsrRow} (hop : op ≠ .rd) (h : csrRow n = some r)
    (hwrite : r.writeAt = none) : csrCheck op d priv n = some 0x01 := by
  simp [csrCheck, h, hop, hwrite]

theorem csrCheck_lowWrite {op : CsrOp} {d priv n l : Nat} {r : CsrRow} (hop : op ≠ .rd) (h : csrRow n = some r)
    (hwrite : r.writeAt = some l) (hlow : priv < l) : csrCheck op d priv n = some 0x11 := by
  simp [csrCheck, h, hop, hwrite, hlow]

/-- The three words that write a CSR, each with its operation. -/
theorem csrWriters {ctor : BitVec 5 → BitVec 5 → BitVec 14 → Instr} (h : ctor ∈ [Instr.csrwr, Instr.csrset, Instr.csrclr]) :
    ∃ op ≠ CsrOp.rd, ∀ (d a : BitVec 5) (c : BitVec 14) (s : State),
      exec (ctor d a c) s = s.csrWord (ctor d a c) op d.toNat a.toNat c := by
  simp only [List.mem_cons, List.not_mem_nil, or_false] at h
  obtain rfl | rfl | rfl := h
  · exact ⟨.wr, by simp, fun d a c s => rfl⟩
  · exact ⟨.set, by simp, fun d a c s => rfl⟩
  · exact ⟨.clr, by simp, fun d a c s => rfl⟩

theorem csrClear_value (old x : U64) : CsrOp.clr.value old.toNat x.toNat = (old &&& ~~~x).toNat := by
  rw [BitVec.toNat_and, BitVec.toNat_not]
  rfl

/-- The value that each writing word forms (R123). -/
theorem csrRows_value {row : (BitVec 5 → BitVec 5 → BitVec 14 → Instr) × (U64 → U64 → U64)}
    (h : row ∈ ([(.csrwr, fun _ x => x), (.csrset, fun old x => old ||| x), (.csrclr, fun old x => old &&& ~~~x)] :
      List ((BitVec 5 → BitVec 5 → BitVec 14 → Instr) × (U64 → U64 → U64)))) :
    ∃ op ≠ CsrOp.rd, (∀ (d a : BitVec 5) (c : BitVec 14) (s : State),
      exec (row.1 d a c) s = s.csrWord (row.1 d a c) op d.toNat a.toNat c) ∧
      ∀ old x : U64, op.value old.toNat x.toNat = (row.2 old x).toNat := by
  simp only [List.mem_cons, List.not_mem_nil, or_false] at h
  obtain rfl | rfl | rfl := h
  · exact ⟨.wr, by simp, fun d a c s => rfl, fun old x => rfl⟩
  · exact ⟨.set, by simp, fun d a c s => rfl, fun old x => (BitVec.toNat_or old x).symm⟩
  · exact ⟨.clr, by simp, fun d a c s => rfl, csrClear_value⟩

/-- Settles O12: the checks of R40 and R123, and FRM's of R123. -/
theorem csrStops : Obligations.CsrStops := by
  refine ⟨fun s d c hd hrow => ?_, fun s d c r hd hrow hwalk hlow => ?_, fun ctor hctor s d a c hd ha hwalk => ?_,
    fun s d a c hwalk hcore i hi => ?_, fun row hrow s s' d a x h hbad => ?_⟩
  · have hwalk : csrIsWalk c.toNat = false := by
      by_contra hw
      rw [csrRow_walk (by simpa using hw)] at hrow
      cases hrow
    exact State.csrWord_check (by simp [hwalk]) hd (by simp) (csrCheck_unassigned hrow)
  · exact State.csrWord_check hwalk hd (by simp) (csrCheck_rd hrow hlow)
  · obtain ⟨op, hop, hexec⟩ := csrWriters hctor
    refine ⟨fun hrow => ?_, fun r hrow hwrite => ?_, fun r l hrow hwrite hlow => ?_⟩ <;> rw [hexec]
    · exact State.csrWord_check hwalk hd (fun _ => ha) (csrCheck_unassigned hrow)
    · exact State.csrWord_check hwalk hd (fun _ => ha) (csrCheck_readOnly hop hrow hwrite)
    · exact State.csrWord_check hwalk hd (fun _ => ha) (csrCheck_lowWrite hop hrow hwrite hlow)
  · simp only [List.mem_cons, List.not_mem_nil, or_false] at hi
    obtain rfl | rfl | rfl | rfl := hi <;> exact State.csrWord_noWalk hwalk hcore
  · obtain ⟨op, hop, hexec, hvalue⟩ := csrRows_value hrow
    rw [hexec]
    refine State.csrWord_frm hop h ?_
    have hfrm : (s.me.frm.setWidth 64).toNat = s.me.frm.toNat := BitVec.toNat_setWidth_of_le (by omega)
    rwa [← hvalue, hfrm] at hbad

end Sys2Proof.Machine

/-!
Words that end the task, and the timed words (O24, O26).
-/

namespace Sys2Proof.Machine

open Host (Outcome)

/-! Words that end the task (R227), and the timed words (R230 to R232). -/

theorem State.sameBytes_mapMe (s : State) (f : Core → Core) : SameBytes s (s.mapMe f) := by
  rw [State.mapMe_eq]
  exact State.sameBytes_setMyTile (by simp)

theorem State.tile_beginEnd_ne (s : State) {g h : Nat} (hg : h ≠ g) (kind code clk : Nat) :
    (s.beginEnd g kind code clk).tile h = s.tile h :=
  State.tile_setTile_ne s _ hg

theorem State.tile_beginEnd (s : State) (g kind code clk : Nat) :
    ((s.beginEnd g kind code clk).tile g).task.ending = some (kind, code, clk) ∧
      (∀ c, (((s.beginEnd g kind code clk).tile g).core c).run = .idle) ∧
      ((s.beginEnd g kind code clk).tile g).scratch = (s.tile g).scratch := by
  have htile : ∃ t, (s.beginEnd g kind code clk).tile g = t ∧ t.task.ending = some (kind, code, clk) ∧
      (∀ c, (t.core c).run = .idle) ∧ t.scratch = (s.tile g).scratch :=
    ⟨_, State.tile_setTile_same s g _, rfl, fun c => by cases c <;> rfl, rfl⟩
  obtain ⟨t, rfl, h⟩ := htile
  exact h

/-- What begins the end of a task: every core idle, the end with its kind, code and clock, no byte changed. -/
theorem State.beginEnd_stepOn (s : State) (kind code clk : Nat) :
    (s.stepOn.beginEnd s.cur.tile kind code clk).myTile.task.ending = some (kind, code, clk) ∧
      (∀ c, ((s.stepOn.beginEnd s.cur.tile kind code clk).myTile.core c).run = .idle) ∧
      SameBytes s (s.stepOn.beginEnd s.cur.tile kind code clk) := by
  have hstep : SameBytes s s.stepOn := State.sameBytes_mapMe s _
  obtain ⟨hending, hidle, hscratch⟩ := s.stepOn.tile_beginEnd s.cur.tile kind code clk
  refine ⟨hending, hidle, hstep.1, hstep.2.1, fun g a => ?_⟩
  rw [← hstep.2.2 g a]
  by_cases hg : g = s.cur.tile
  · rw [hg, hscratch]
  · rw [State.tile_beginEnd_ne _ hg]

theorem State.exitTask_ends {s : State} (h : s.endsNothing s.cur.tile = false) (code : Nat) :
    s.exitTask code = .next (s.stepOn.beginEnd s.cur.tile 1 code s.now) :=
  if_neg (by simp [h])

theorem State.exitTask_nothing {s : State} (h : s.endsNothing s.cur.tile = true) (code : Nat) : s.exitTask code = .next s :=
  if_pos h

theorem exec_exit {s s' : State} {a : BitVec 5} {x : U64} (h : s.take [(a.toNat, false)] = .ok s' [x]) :
    exec (.exit a) s = s.exitTask (x.toNat % 2 ^ 16) := by
  change execExit a s = _
  rw [execExit, State.withRegs_ok h]
  simp [val, bitsAt]

theorem exec_halt {s : State} (hcore : s.cur.core = .X) : exec .halt s = s.exitTask 0 := if_pos hcore

theorem exec_retire {s : State} (hcore : s.cur.core = .X) :
    exec .retire s = if s.myTile.met then .next (s.retire s.cur.tile) else s.wait (.meet true) :=
  if_neg (by simp [hcore])

/-- Settles O24: EXIT, HALT on the X-core and RETIRE. -/
theorem taskEnds : Obligations.TaskEnds := by
  refine ⟨fun s s' a x h hends => ?_, fun s hcore hends => ?_, fun s hcore hmet hends => ?_, fun s hcore hmet => ?_,
    fun s s' a x hstop h => ?_, fun s hcore => if_pos hcore⟩
  · rw [exec_exit h, State.exitTask_ends hends]
    exact ⟨_, rfl, State.beginEnd_stepOn s 1 (x.toNat % 2 ^ 16) s.now⟩
  · rw [exec_halt hcore, State.exitTask_ends hends]
    exact ⟨_, rfl, State.beginEnd_stepOn s 1 0 s.now⟩
  · rw [exec_retire hcore, if_pos hmet, State.retire, if_neg (by simp [hends])]
    obtain ⟨hending, hidle, hsame⟩ := State.beginEnd_stepOn s 0 0 (if s.datumTile s.cur.tile then s.now + 652 else s.now)
    exact ⟨_, rfl, hidle, hsame, hending⟩
  · rw [exec_retire hcore, if_neg (by simp [hmet])]
    rfl
  · have hends : s.endsNothing s.cur.tile = true := by simpa [State.endsNothing, State.myTile] using hstop
    refine ⟨by rw [exec_exit h, State.exitTask_nothing hends], fun hcore => ⟨?_, fun hmet => ?_⟩⟩
    · rw [exec_halt hcore, State.exitTask_nothing hends]
    · rw [exec_retire hcore, if_pos hmet, State.retire, if_pos hends]

/-- What a word leaves that reads registers and goes on. -/
theorem State.stepOn_take {s s' : State} {us : List (Nat × Bool)} {vs : List U64} (h : s.take us = .ok s' vs) :
    s'.stepOn = s'.issue (s.me.pc + 4) (s.now + 1) (plainPend (s.now + 1) []) := by
  have hme : s'.me = s.me := by
    rw [(State.take_ok h).1, State.me_setMyTile, Tile.core_withQueues]
    rfl
  rw [State.stepOn, hme, State.now_take h]

theorem exec_sstep {s s' : State} {a : BitVec 5} {x : U64} (hdatum : s.datumTile s.cur.tile = true)
    (h : s.take [(a.toNat, false)] = .ok s' [x]) : exec (.sstep a) s =
      let s1 := s.mapMe fun k => { k with arrived := k.arrived || s.myTile.accessesDone s.cur.core s.now }
      if s.sstepLate s.cur.tile x.toNat then s1.fault 0x0B (missTval 5 x.toNat) else s1.wait (.sstep x.toNat a.toNat) := by
  change execSstep a s = _
  rw [execSstep, if_neg (by simp [hdatum]), State.withRegs_ok h]
  rfl

theorem exec_frame {s s' : State} {a : BitVec 5} {x : U64} (hcore : s.cur.core = .X)
    (h : s.take [(a.toNat, false)] = .ok s' [x]) : exec (.frame a) s =
      if s.askedOrigin a x < s.now + 64 then s.miss 0 0
      else
        match s.partOf s.cur.tile with
        | none => s.wait (.origin (s.askedOrigin a x) a.toNat)
        | some (p, pt) =>
          if pt.pendOrg.any (fun q => q != s.askedOrigin a x) then s.badOperand 1 a.toNat
          else State.wait { s with parts := Store.put s.parts p { pt with pendOrg := some (s.askedOrigin a x) } }
            (.origin (s.askedOrigin a x) a.toNat) := by
  change execFrame a s = _
  rw [execFrame, if_neg (by simp [hcore]), State.withRegs_ok h]
  rfl

/-- Settles O26: SSTEP, FRAME, WAITD and WAITT. -/
theorem timedWords : Obligations.TimedWords := by
  refine ⟨fun s s' s1 a x hdatum h hs1 => ?_, fun s a hfree => if_pos hfree, fun s s' a x o p pt hcore h ho => ?_,
    fun s s' a x h => ?_⟩
  · subst hs1
    have hlate : s.sstepLate s.cur.tile x.toNat = decide (x ≠ 0 ∧ (s.frameOrg s.cur.tile).toNat + x.toNat ≤ s.now) := by
      simp [State.sstepLate, BitVec.toNat_eq]
    rw [exec_sstep hdatum h, hlate]
    refine ⟨fun hwait => if_neg ?_, fun hx hpast => if_pos (decide_eq_true ⟨hx, hpast⟩)⟩
    simp only [decide_eq_true_eq, not_and]
    intro hx
    have := hwait.resolve_left hx
    omega
  · have ho : o = s.askedOrigin a x := ho
    rw [exec_frame hcore h, ← ho]
    refine ⟨fun hsoon => if_pos hsoon, fun hlate hpart hpend => ?_, fun q hlate hpart hpend hne => ?_⟩
    · rw [if_neg (by omega), hpart]
      dsimp only
      rw [if_neg (by obtain hp | hp := hpend <;> simp [hp])]
      refine ⟨_, rfl, ?_, ?_, ?_, ?_, State.sameBytes_mapMe { s with parts := _ } _⟩
      · exact Store.find_put_same _ _ _
      all_goals rw [State.me_mapMe]
      all_goals rfl
    · rw [if_neg (by omega), hpart]
      exact if_pos (by simp [hpend, hne])
  · have hwaitd : exec (.waitd a) s =
        if x.toNat ≤ s.now then .next s'.stepOn else s.wait (.datum x.toNat a.toNat) := State.withRegs_ok h _
    have hwaitt : exec (.waitt a) s =
        if x.toNat ≤ s.tai then .next s'.stepOn else s.wait (.tai x.toNat a.toNat) := State.withRegs_ok h _
    rw [State.stepOn_take h] at hwaitd hwaitt
    exact ⟨fun hcome => goes_of_exec (State.take_ok h).1 (hwaitd.trans (if_pos hcome)),
      fun hnot => hwaitd.trans (if_neg (by omega)),
      fun hcome => goes_of_exec (State.take_ok h).1 (hwaitt.trans (if_pos hcome)),
      fun hnot => hwaitt.trans (if_neg (by omega))⟩

end Sys2Proof.Machine

/-!
The token words, and the state of reset (O13, O59).
-/

namespace Sys2Proof.Machine

open Host (Outcome)

/-! The token words (R210 to R213). -/

section
variable {i : Instr} {s s' : State} {us : List (Nat × Bool)} {vs : List U64} {d lat : Nat} {v : U64}

theorem runs_of_finish (h : s.take us = .ok s' vs) (hd : (d, true) ∈ us)
    (hexec : exec i s = s.finish s' d v lat (s.me.pc + 4) (s.now + 1)) (hv : ¬ MayNotPush d v) : Runs i s s' d v lat := by
  refine ⟨_, hexec.trans ?_, State.delivered h d hd v lat (s.me.pc + 4) (s.now + 1) (regRes d)⟩
  rw [State.finish_ok _ _ _ _ _ _ _ hv, State.now_take h]

theorem runs_of_exec {srcs : List Nat} {f : List U64 → U64} (hexec : exec i s = s.compute srcs d lat f)
    (h : s.take (srcs.map (·, false) ++ [(d, true)]) = .ok s' vs) (hval : f vs = v) (hv : ¬ MayNotPush d v) :
    Runs i s s' d v lat := by
  subst hval
  rw [Runs, hexec]
  exact State.compute_ok h lat f hv

end

section
variable {s : State} {d : BitVec 5} {y : BitVec 1} {k : BitVec 2} {ty : BitVec 4} {q : Nat}

/-- A QPOP that finds a token (R211). -/
theorem exec_qpop (hlegal : ¬ ((y = 0 ∧ 5 ≤ ty.toNat) ∨ (y = 1 ∧ ty ≠ 0)))
    (halive : deadPort s.cur.core [(28 + k.toNat, false), (d.toNat, true)] = none)
    (hq : inQueue s.cur.core k.toNat = some q) (hpop : 0 < s.myTile.poppable q s.now) :
    exec (.qpop d y k ty) s =
      if y = 0 ∧ bitsAt (s.myTile.queue q).head.toNat 28 4 ≠ ty.toNat then
        s.fault 0x09 (BitVec.ofNat 64 (s.myTile.queue q).head.toNat)
      else s.withRegs [(28 + k.toNat, false), (d.toNat, true)] fun s' v =>
        s.finish s' d.toNat (val v 0) 1 (s.me.pc + 4) (s.now + 1) := by
  change execQpop d y k ty s = _
  rw [execQpop, if_neg hlegal]
  dsimp only
  rw [halive, hq]
  dsimp only
  rw [if_neg (by omega)]

theorem bitsAt_top (x : U32) : bitsAt x.toNat 28 4 = x.toNat / 2 ^ 28 := by
  have := x.isLt
  simp only [bitsAt]
  omega

theorem deadPort_pop (hd : d.toNat < 28) (hq : inQueue s.cur.core k.toNat = some q) :
    deadPort s.cur.core [(28 + k.toNat, false), (d.toNat, true)] = none := by
  rw [deadPort, if_neg (by simp [hq]), deadPort_registers (by simpa using hd)]

end

theorem pushedToken_typed {ty : BitVec 4} (x : U64) (h : ty.toNat < 5) (n : Nat) :
    ¬ MayNotPush n (BitVec.ofNat 64 (ty.toNat * 2 ^ 28 + x.toNat % 2 ^ 28)) := by
  simp only [MayNotPush, BitVec.toNat_ofNat]
  omega

theorem exec_qpush {r : BitVec 1} {ty : BitVec 4} (h : ¬ (r = 1 ∧ ty ≠ 0)) (a : BitVec 5) (k : BitVec 2) (s : State) :
    exec (.qpush a r k ty) s =
      s.compute [a.toNat] (28 + k.toNat) 1 fun v => BitVec.ofNat 64 (pushedToken r ty (val v 0)) := by
  change execQpush a r k ty s = _
  rw [execQpush, if_neg h]

/-- A token whose pusher still has an earlier request at a bank may not be popped (R239). -/
theorem Tile.poppable_eq_zero {t : Tile} {q now : Nat} {k : Token} {ks : List Token} {x : Ask}
    (htoks : (t.queue q).toks = k :: ks) (hrank : k.rank = 3) (hx : x ∈ t.asks) (hcore : askCore x.rank = some (pusher q))
    (hearly : x.since < k.issued) : t.poppable q now = 0 := by
  have hopen : t.performed (pusher q) k.issued = false := by
    rw [Tile.performed, Bool.and_assoc, Bool.and_eq_false_iff]
    exact .inl (List.all_eq_false.2 ⟨x, hx, by simp [hcore, hearly]⟩)
  simp [Tile.poppable, htoks, hrank, hopen]

/-- Settles O13: the token words. -/
theorem tokenResults : Obligations.TokenResults := by
  refine ⟨fun s s' d y k ty q x hq hpop h hv hform => ?_, fun s d k ty q hd hq hpop hty hne => ?_, fun s s' a k ty x hty h => ?_,
    fun s s' a k x hty h => ?_, fun s s' d k q v hq h hval hv => ?_,
    fun t q now k ks x htoks hrank hx hcore hearly => Tile.poppable_eq_zero htoks hrank hx hcore hearly,
    fun s s' d o k q v hform h hv => ?_⟩
  · refine runs_of_finish h (by simp) ?_ hv
    have hlegal : ¬ ((y = 0 ∧ 5 ≤ ty.toNat) ∨ (y = 1 ∧ ty ≠ 0)) := by
      obtain ⟨rfl, rfl⟩ | ⟨rfl, hlt, -⟩ := hform
      · simp
      · simp; omega
    rw [exec_qpop hlegal (State.take_alive h) hq hpop, if_neg, State.withRegs_ok h]
    · rfl
    · rw [bitsAt_top]
      obtain ⟨rfl, -⟩ | ⟨-, -, heq⟩ := hform
      · simp
      · exact fun hmis => hmis.2 heq
  · rw [exec_qpop (by simp; omega) (deadPort_pop hd hq) hq hpop, if_pos ⟨rfl, by rwa [bitsAt_top]⟩]
    congr 1
    exact BitVec.eq_of_toNat_eq (by simp)
  · refine runs_of_exec (exec_qpush (by simp) a k s) h ?_ (pushedToken_typed x hty _)
    simp [pushedToken, val]
  · refine runs_of_exec (exec_qpush (by simp) a k s) h ?_ ?_
    · exact BitVec.eq_of_toNat_eq (by simp [pushedToken, val])
    · simp only [MayNotPush, BitVec.truncate_eq_setWidth, BitVec.toNat_setWidth]
      omega
  · refine runs_of_exec (srcs := []) (vs := []) (f := fun _ =>
      if s.myTile.poppable q s.now = 0 then -1 else BitVec.ofNat 64 (s.myTile.queue q).head.toNat) ?_ h ?_ hv
    · change execQpeek d k s = _
      rw [execQpeek, hq]
    · rw [hval]
      split
      · rfl
      · exact BitVec.eq_of_toNat_eq (by simp)
  · refine runs_of_exec (srcs := []) (vs := []) (f := fun _ =>
      BitVec.ofNat 64 (if o = 1 then (s.myTile.queue q).places s.now else s.myTile.poppable q s.now)) ?_ h ?_ hv
    · change execQcnt d o k s = _
      obtain ⟨rfl, hq, -⟩ | ⟨rfl, hq, -⟩ := hform <;> simp [execQcnt, hq]
    · obtain ⟨rfl, -, rfl⟩ | ⟨rfl, -, rfl⟩ := hform <;> rfl

/-! The state of reset (R387). -/

theorem reset_hbm_byte (a : Nat) : (Memory.byte State.reset.hbm a).toNat =
    if a ∈ [0xEE6810000, 0xEE6811010, 0xEE6811052, 0xEE6811092, 0xEE68110D2, 0xEE6811112] then 0x10
    else if a ∈ [0xEE6810001, 0xEE6811011] then 0x0E else 0 := by
  simp only [Memory.byte, State.reset, Store.get, List.mem_cons, List.not_mem_nil, or_false]
  split_ifs <;> simp_all <;> omega

theorem reset_tile (g : Nat) : State.reset.tile g = Tile.idle := rfl

/-- Settles O59: the state after package reset. -/
theorem resetState : Obligations.ResetState := by
  refine ⟨rfl, rfl, rfl, rfl, rfl, rfl, rfl, rfl, rfl, rfl, rfl, by decide, reset_hbm_byte, by decide, by decide, by decide,
    fun a => rfl, fun g => ?_, State.reset_hbm_wf, rfl, by simp [State.reset], by simp [State.reset]⟩
  rw [reset_tile]
  refine ⟨rfl, rfl, rfl, rfl, fun c => ?_⟩
  rw [State.core, reset_tile]
  refine ⟨by cases c <;> rfl, by cases c <;> rfl, fun n => ?_⟩
  rw [Core.reg]
  split
  · rfl
  · cases c <;> rfl

end Sys2Proof.Machine

/-!
A datum round (O42).
-/

namespace Sys2Proof.Machine

open Host (Outcome)

/-! A datum round (R313, R314). -/

/-- Record `e.2` of card `n` dealt to tile `e.1`, where it is in service. -/
def State.dealTo (n : Nat) (s : State) (e : Nat × Nat) : State :=
  if (s.tile e.1).inService then (s.setTile e.1 { s.tile e.1 with chunk := [(e.2, n)] }).due (.taskStart e.1) else s

theorem State.parts_dealTo (n : Nat) (s : State) (e : Nat × Nat) : (s.dealTo n e).parts = s.parts := by
  unfold State.dealTo
  split <;> rfl

theorem State.tile_dealTo_ne {n g : Nat} {s : State} {e : Nat × Nat} (h : g ≠ e.1) : (s.dealTo n e).tile g = s.tile g := by
  unfold State.dealTo
  split
  · exact State.tile_setTile_ne s _ h
  · rfl

theorem State.tile_dealTo_same (n : Nat) (s : State) (e : Nat × Nat) : (s.dealTo n e).tile e.1 =
    if (s.tile e.1).inService then { s.tile e.1 with chunk := [(e.2, n)] } else s.tile e.1 := by
  unfold State.dealTo
  split
  · exact State.tile_setTile_same s _ _
  · rfl

theorem State.inService_dealTo (n g : Nat) (s : State) (e : Nat × Nat) :
    ((s.dealTo n e).tile g).inService = (s.tile g).inService := by
  by_cases h : g = e.1
  · rw [h, State.tile_dealTo_same]
    split <;> rfl
  · rw [State.tile_dealTo_ne h]

theorem State.sameBytes_dealTo {r s : State} (h : SameBytes r s) (n : Nat) (e : Nat × Nat) : SameBytes r (s.dealTo n e) := by
  have hhbm : (s.dealTo n e).hbm = s.hbm := by unfold State.dealTo; split <;> rfl
  have hhost : (s.dealTo n e).host = s.host := by unfold State.dealTo; split <;> rfl
  refine ⟨hhbm ▸ h.1, hhost ▸ h.2.1, fun g a => ?_⟩
  rw [← h.2.2 g a]
  by_cases hg : g = e.1
  · rw [hg, State.tile_dealTo_same]
    split <;> rfl
  · rw [State.tile_dealTo_ne hg]

theorem State.parts_foldl_dealTo (n : Nat) (es : List (Nat × Nat)) : ∀ s : State, (es.foldl (State.dealTo n) s).parts = s.parts := by
  induction es with
  | nil => exact fun s => rfl
  | cons e es ih => exact fun s => (ih _).trans (State.parts_dealTo n s e)

theorem State.sameBytes_foldl_dealTo {r : State} (n : Nat) (es : List (Nat × Nat)) :
    ∀ s : State, SameBytes r s → SameBytes r (es.foldl (State.dealTo n) s) := by
  induction es with
  | nil => exact fun s h => h
  | cons e es ih => exact fun s h => ih _ (State.sameBytes_dealTo h n e)

section
variable {n g i : Nat}

/-- A tile keeps its record while every record dealt to it is the same one. -/
theorem State.chunk_foldl_dealTo_kept {es : List (Nat × Nat)} (honly : ∀ e ∈ es, e.1 = g → e.2 = i) :
    ∀ s : State, (s.tile g).chunk = [(i, n)] → ((es.foldl (State.dealTo n) s).tile g).chunk = [(i, n)] := by
  induction es with
  | nil => exact fun s h => h
  | cons e es ih =>
    rw [List.forall_mem_cons] at honly
    refine fun s h => ih honly.2 _ ?_
    by_cases hg : g = e.1
    · rw [hg, State.tile_dealTo_same]
      split
      · simp [honly.1 hg.symm]
      · exact hg ▸ h
    · rw [State.tile_dealTo_ne hg, h]

theorem State.chunk_foldl_dealTo {es : List (Nat × Nat)} (honly : ∀ e ∈ es, e.1 = g → e.2 = i) (hmem : (g, i) ∈ es) :
    ∀ s : State, (s.tile g).inService = true → ((es.foldl (State.dealTo n) s).tile g).chunk = [(i, n)] := by
  induction es with
  | nil => cases hmem
  | cons e es ih =>
    rw [List.forall_mem_cons] at honly
    intro s hs
    obtain rfl | hmem := List.mem_cons.1 hmem
    · refine State.chunk_foldl_dealTo_kept honly.2 _ ?_
      rw [State.tile_dealTo_same n s (g, i), if_pos hs]
    · exact ih honly.2 hmem _ ((State.inService_dealTo n g s e).trans hs)

end

/-- The records that a round gives out, each with its tile. -/
def roundRecords (tiles : List Nat) (k count : Nat) : List (Nat × Nat) :=
  (List.range tiles.length).filterMap fun j =>
    if k * tiles.length + j < count then some (tiles.getD j 0, k * tiles.length + j) else none

theorem mem_roundRecords {tiles : List Nat} {k count : Nat} {e : Nat × Nat} : e ∈ roundRecords tiles k count ↔
    ∃ j < tiles.length, k * tiles.length + j < count ∧ e = (tiles.getD j 0, k * tiles.length + j) := by
  simp [roundRecords, eq_comm]

theorem roundRecords_unique {tiles : List Nat} {k count j : Nat} (hnodup : tiles.Nodup) (hj : j < tiles.length) :
    ∀ e ∈ roundRecords tiles k count, e.1 = tiles.getD j 0 → e.2 = k * tiles.length + j := by
  intro e he hg
  obtain ⟨l, hl, -, rfl⟩ := mem_roundRecords.1 he
  have hsame : tiles[l] = tiles[j] := by simpa [List.getD_eq_getElem, hl, hj] using hg
  rw [hnodup.getElem_inj_iff] at hsame
  rw [hsame]

/-- A partition whose round has been dealt. -/
def Part.withRound (pt : Part) (n k o count : Nat) (tiles : List Nat) : Part :=
  { pt with round := some (n, tiles, k, o, (roundRecords tiles k count).map (·.1)), origins := o :: pt.origins }

theorem exec_roundDeal {s : State} {p n k o : Nat} {tiles : List Nat} {pt : Part} {c : Card} (hp : Store.find s.parts p = some pt)
    (hdue : s.roundDue pt = true) (hround : pt.round = some (n, tiles, k, o, [])) (hc : s.card n = some c) (hk : k ≠ 0) :
    exec (.roundDeal p) s = .next ((roundRecords tiles k c.count).foldl (State.dealTo n) { s with
      parts := Store.put s.parts p (pt.withRound n k o c.count tiles) }) := by
  change Outcome.next (s.dealRound p) = _
  rw [State.dealRound, hp]
  dsimp only
  rw [if_neg (by simp [hdue]), hround]
  dsimp only
  rw [hc]
  dsimp only
  rw [if_neg hk, if_neg hk]
  rfl

theorem exec_roundOrigin {s : State} {p : Nat} {pt : Part} (hp : Store.find s.parts p = some pt) (hnow : s.now ∈ pt.origins)
    (hservice : ∀ n tiles k o given, pt.round = some (n, tiles, k, o, given) → ∀ g ∈ tiles, (s.tile g).inService = true) :
    exec (.roundOrigin p) s = .next { s with parts := Store.put s.parts p { pt with
      frameOrg := BitVec.ofNat 64 s.now, origins := pt.origins.filter (· != s.now) } } := by
  change execRoundOrigin p s = _
  rw [execRoundOrigin, hp]
  dsimp only
  rw [if_neg (by simp [hnow])]
  split
  · rfl
  · next n tiles k o given hround =>
    have hnone : (tiles.filter fun g => given.contains g && !(s.tile g).inService) = [] := by
      rw [List.filter_eq_nil_iff]
      exact fun g hg => by simp [hservice n tiles k o given hround g hg]
    split
    · rfl
    · change Outcome.next ((tiles.filter fun g => given.contains g && !(s.tile g).inService).foldl _ _) = _
      rw [hnone]
      rfl

/-- Settles O42: the deal of a datum round, and its origin. -/
theorem datumRounds : Obligations.DatumRounds := by
  refine ⟨fun s p n k o tiles pt c hp hdue hround hc hnodup hk => ?_, fun s p pt hp hnow hservice => ?_⟩
  · refine ⟨_, pt.withRound n k o c.count tiles, exec_roundDeal hp hdue hround hc hk, ?_, State.sameBytes_foldl_dealTo n _ _ ⟨fun _ => rfl, fun _ => rfl,
      fun _ _ => rfl⟩, ⟨_, rfl⟩, List.mem_cons_self, fun j hj hcount hg => ?_⟩
    · rw [State.parts_foldl_dealTo]
      exact Store.find_put_same _ _ _
    · exact State.chunk_foldl_dealTo (roundRecords_unique hnodup hj) (mem_roundRecords.2 ⟨j, hj, hcount, rfl⟩) _ hg
  · exact ⟨_, exec_roundOrigin hp hnow hservice, ⟨fun _ => rfl, fun _ => rfl, fun _ _ => rfl⟩, Store.find_put_same _ _ _⟩

end Sys2Proof.Machine

/-!
Words that ask at a bank.
-/

namespace Sys2Proof

/-- A table whose values are changed, each by its key: an unlisted key reads as before where the change keeps the default. -/
theorem Store.get_map_key {α : Type} {d : α} (f : Nat → α → α) (hd : ∀ k, f k d = d) (m : Store α) (k : Nat) :
    Store.get d (m.map fun e => (e.1, f e.1 e.2)) k = f k (Store.get d m k) := by
  induction m with
  | nil => exact (hd k).symm
  | cons e m ih =>
    rw [List.map_cons, Store.get, Store.get, ih]
    split
    · next h => rw [h]
    · rfl

end Sys2Proof

namespace Sys2Proof.Machine

open Host (Outcome)

/-! Addresses in scratch (R118). -/

theorem reached_iff_inRange {ea : Int} : Reached ea ↔ inRange (ea / 64) = true := by
  simp only [Reached, Machine.inRange, decide_eq_true_eq]
  omega

theorem ofNat_wrapTo (ea : Int) : BitVec.ofNat 64 (wrapTo 64 ea) = BitVec.ofInt 64 ea := by
  apply BitVec.eq_of_toNat_eq
  rw [BitVec.toNat_ofNat, BitVec.toNat_ofInt, wrapTo]
  omega

/-! A scalar request at a bank (R91, R95). -/

/-- A tile with another out-of-range latch and other requests at its banks. -/
def Tile.withAsks (t u : Tile) : Tile :=
  { t with oorFlag := u.oorFlag, oorAddr := u.oorAddr, oorWhen := u.oorWhen, asks := u.asks }

@[simp] theorem Tile.core_withAsks (t u : Tile) (c : CoreId) : (t.withAsks u).core c = t.core c := by cases c <;> rfl

theorem Tile.setCore_withAsks (t u : Tile) (c : CoreId) (k : Core) : (t.withAsks u).setCore c k = (t.setCore c k).withAsks u := by
  cases c <;> rfl

theorem Tile.touchAt_eq (t : Tile) (now rank : Nat) (ea : Int) : t.touchAt now rank ea = t.withAsks (t.touchAt now rank ea) := by
  unfold Tile.touchAt Tile.latch
  repeat' split
  all_goals rfl

/-- The tile of a word that asks for the line of a byte address. -/
def Tile.askAt (t : Tile) (now rank : Nat) (ea : Int) (act : BankAct) (pc : U64) : Tile :=
  (t.touchAt now rank ea).ask now rank lineSlack [(ea / 64, act)] pc

section
variable (t : Tile) (now rank : Nat) (ea : Int) (act : BankAct) (pc : U64)

theorem Tile.askAt_eq : t.askAt now rank ea act pc = t.withAsks (t.askAt now rank ea act pc) := by
  rw [Tile.askAt, Tile.touchAt_eq]
  rfl

variable {ea}

theorem Tile.askAt_reached (h : Reached ea) : (t.askAt now rank ea act pc).asks =
    t.asks ++ [⟨now, rank, (ea / 64).toNat, t.asks.length, act, now + 3, pc⟩] ∧
      (t.askAt now rank ea act pc).oorFlag = t.oorFlag ∧ (t.askAt now rank ea act pc).oorAddr = t.oorAddr := by
  have hin := h.inRange
  simp [Tile.askAt, Tile.touchAt, hin, Tile.ask, lineSlack]

theorem Tile.askAt_outside (h : ¬ Reached ea) : (t.askAt now rank ea act pc).asks = t.asks ∧
    (t.askAt now rank ea act pc).oorFlag = true ∧
      (t.oorFlag = false → (t.askAt now rank ea act pc).oorAddr = BitVec.ofInt 64 ea) := by
  have hout : inRange (ea / 64) = false := by simpa [reached_iff_inRange] using h
  have hask : t.askAt now rank ea act pc = t.latch now rank (BitVec.ofNat 64 (wrapTo 64 ea)) := by
    simp [Tile.askAt, Tile.touchAt, hout, Tile.ask]
  rw [hask, ofNat_wrapTo, Tile.latch]
  split
  · split <;> simp_all
  · simp

end

/-- A core with other registers. -/
def Core.withRegs (k : Core) (r : Store U64) : Core := { k with regs := r }

/-- What a scalar word leaves that asks at a bank, its queues `q` and its core's registers changed. -/
theorem State.asked_issue {s : State} (q : Store Queue) (r : Store U64) (u : Tile) {d : Nat} (npc : U64) (next : Nat) (res : List Res)
    (hreg : ∀ n, n ≠ d → (s.me.withRegs r).reg n = s.me.reg n) :
    let t := (s.setMyTile (((s.myTile.withQueues q).withAsks u).setCore s.cur.core (s.me.withRegs r))).issue npc next
      (s.scratchPend res)
    Issued s t npc next 4 res ∧ SameBytes s t ∧ OnlyScratch s t d ∧ t.myTile.queues = q ∧ t.myTile.asks = u.asks ∧
      t.myTile.oorFlag = u.oorFlag ∧ t.myTile.oorAddr = u.oorAddr ∧ ∀ n, t.me.reg n = (s.me.withRegs r).reg n := by
  intro t
  let k' : Core := { s.me with pc := npc, run := .running, held := none, nextAt := next, regs := r,
                               pend := s.me.pend ++ [s.scratchPend res] }
  have ht : t = s.setMyTile (((s.myTile.setCore s.cur.core k').withQueues q).withAsks u) := by
    simp only [t, State.issue, State.mapMe_eq, State.setMyTile_setMyTile, State.me_setMyTile, State.myTile_setMyTile,
      State.setMyTile_cur, Tile.core_setCore_same, Tile.setCore_setCore, Tile.setCore_withAsks, Tile.setCore_withQueues,
      Tile.core_withAsks, Tile.core_withQueues]
    rfl
  have hme : t.me = k' := by
    rw [ht, State.me_setMyTile, Tile.core_withAsks, Tile.core_withQueues, Tile.core_setCore_same]
  have htile : t.myTile = ((s.myTile.setCore s.cur.core k').withQueues q).withAsks u := by rw [ht, State.myTile_setMyTile]
  refine ⟨⟨by rw [hme], by rw [hme], by rw [hme], some (s.now, 4), by rw [hme]; rfl⟩, ?_, ⟨?_, ?_, ?_, ?_⟩, ?_, ?_, ?_, ?_, ?_⟩
  · rw [ht]
    exact State.sameBytes_setMyTile (Tile.setCore_scratch _ _ _)
  · rw [htile, ht]
  · rw [hme, htile]
    cases s.cur.core <;> rfl
  · rw [OnlyFlow, hme]
  · exact fun n hn => (congrArg (·.reg n) hme).trans (hreg n hn)
  · rw [htile]; rfl
  · rw [htile]; rfl
  · rw [htile]; rfl
  · rw [htile]; rfl
  · exact fun n => congrArg (·.reg n) hme

theorem Tile.setCore_self (t : Tile) (c : CoreId) : t.setCore c (t.core c) = t := by cases c <;> rfl

section
variable {s s' : State} {us : List (Nat × Bool)} {vs : List U64}

/-- A word's request, made in the state after its pops. -/
theorem State.askScalar_eq (h : s.take us = .ok s' vs) (ea : Int) (act : BankAct) :
    ∃ u, s'.askScalar ea act = s.setMyTile ((s.myTile.withQueues s'.myTile.queues).withAsks u) ∧
      (Reached ea → u.asks = s.myTile.asks ++
          [⟨s.now, rankScalar s.cur.core, (ea / 64).toNat, s.myTile.asks.length, act, s.now + 3, s.me.pc⟩] ∧
        u.oorFlag = s.myTile.oorFlag ∧ u.oorAddr = s.myTile.oorAddr) ∧
      (¬ Reached ea → u.asks = s.myTile.asks ∧ u.oorFlag = true ∧ (s.myTile.oorFlag = false → u.oorAddr = BitVec.ofInt 64 ea)) := by
  obtain ⟨hs, -⟩ := State.take_ok h
  generalize s'.myTile.queues = q at hs
  subst hs
  refine ⟨(s.myTile.withQueues q).askAt s.now (rankScalar s.cur.core) ea act s.me.pc, ?_,
    Tile.askAt_reached (s.myTile.withQueues q) s.now _ act _, Tile.askAt_outside (s.myTile.withQueues q) s.now _ act _⟩
  rw [← Tile.askAt_eq, State.askScalar, State.setMyTile_setMyTile, State.me_setMyTile, State.myTile_setMyTile,
    Tile.core_withQueues]
  rfl

/-- A word that asks at a bank and writes no register. -/
theorem State.leaves_issue (h : s.take us = .ok s' vs) (ea : Int) (act : BankAct) (res : List Res) :
    let t := (s'.askScalar ea act).issue (s.me.pc + 4) (s.now + 1) (s.scratchPend res)
    Leaves s t ea act 4 res ∧ t.myTile.queues = s'.myTile.queues ∧ OnlyScratch s t 0 := by
  intro t
  obtain ⟨u, heq, hin, hout⟩ := State.askScalar_eq h ea act
  have hself : s'.askScalar ea act =
      s.setMyTile (((s.myTile.withQueues s'.myTile.queues).withAsks u).setCore s.cur.core (s.me.withRegs s.me.regs)) := by
    have hcore : s.me.withRegs s.me.regs = ((s.myTile.withQueues s'.myTile.queues).withAsks u).core s.cur.core := by
      rw [Tile.core_withAsks, Tile.core_withQueues]
      rfl
    rw [hcore, Tile.setCore_self, heq]
  obtain ⟨hissued, hsame, honly, hqueues, hasks, hflag, haddr, -⟩ :=
    State.asked_issue s'.myTile.queues s.me.regs u (d := 0) (s.me.pc + 4) (s.now + 1) res (fun _ _ => rfl)
  rw [← hself] at hissued hsame honly hqueues hasks hflag haddr
  refine ⟨⟨hissued, ⟨fun hr => hasks.trans (hin hr).1, fun hr => hasks.trans (hout hr).1⟩,
    ⟨fun hr => ⟨hflag.trans (hin hr).2.1, haddr.trans (hin hr).2.2⟩,
      fun hr => ⟨hflag.trans (hout hr).2.1, fun hz => haddr.trans ((hout hr).2.2 hz)⟩⟩, hsame⟩, hqueues, honly⟩

/-- A result put into a register or a port by a word that has asked at a bank. -/
theorem State.putReg_asked {d : Nat} (hport : 28 ≤ d → ∃ q, outQueue s.cur.core (d - 28) = some q) (Q : Store Queue) (u : Tile)
    (v : U64) (lat : Nat) : ∃ q r,
    (s.setMyTile ((s.myTile.withQueues Q).withAsks u)).putReg d v lat =
      s.setMyTile (((s.myTile.withQueues q).withAsks u).setCore s.cur.core (s.me.withRegs r)) ∧
      (∀ n, n ≠ d → (s.me.withRegs r).reg n = s.me.reg n) ∧ (28 ≤ d → r = s.me.regs) ∧
      (d < 28 → (s.me.withRegs r).reg d = (if d = 0 then 0 else v) ∧ q = Q) ∧
      (28 ≤ d → ∃ n, outQueue s.cur.core (d - 28) = some n ∧
        Store.get Queue.fresh q n = (Store.get Queue.fresh Q n).push (v.truncate 32) (s.now + lat - 1) 3 s.now) := by
  have hme : ((s.myTile.withQueues Q).withAsks u).core s.cur.core = s.me := by
    rw [Tile.core_withAsks, Tile.core_withQueues]
    rfl
  by_cases hd : 28 ≤ d
  · obtain ⟨n, hn⟩ := hport hd
    refine ⟨Store.put Q n ((Store.get Queue.fresh Q n).push (v.truncate 32) (s.now + lat - 1) 3 s.now), s.me.regs, ?_,
      fun _ _ => rfl, fun _ => rfl, fun h => absurd h (by omega), fun _ => ⟨n, hn, Store.get_put_same _ _ _ _⟩⟩
    have hput : (s.setMyTile ((s.myTile.withQueues Q).withAsks u)).putReg d v lat =
        s.setMyTile ((s.myTile.withQueues
          (Store.put Q n ((Store.get Queue.fresh Q n).push (v.truncate 32) (s.now + lat - 1) 3 s.now))).withAsks u) := by
      rw [State.putReg, if_pos (by simpa [isPort] using hd), State.setMyTile_cur, hn]
      dsimp only
      rw [State.setMyTile_setMyTile, State.myTile_setMyTile]
      rfl
    rw [hput]
    congr 1
    refine (Tile.setCore_self _ s.cur.core).symm.trans ?_
    rw [Tile.core_withAsks, Tile.core_withQueues]
    rfl
  · have hreg : (s.me.setReg d v) = s.me.withRegs (s.me.setReg d v).regs := by
      unfold Core.setReg
      split <;> rfl
    refine ⟨Q, (s.me.setReg d v).regs, ?_, fun n hn => ?_, fun h => absurd h hd, fun _ => ⟨?_, rfl⟩, fun h => absurd h hd⟩
    · rw [State.putReg, if_neg (by simpa [isPort] using hd), State.mapMe_eq, State.setMyTile_setMyTile, State.me_setMyTile,
        State.myTile_setMyTile, State.setMyTile_cur, hme, ← hreg]
    · rw [← hreg]
      exact Core.reg_setReg_ne _ _ hn
    · rw [← hreg]
      exact Core.reg_setReg_same _ _ _

/-- A word that asks at a bank, and takes its place at a port, or has its result, in the clock of its issue. -/
theorem State.putReg_issue (h : s.take us = .ok s' vs) {d : Nat} (hd : (d, true) ∈ us) (ea : Int) (act : BankAct) (v : U64)
    (res : List Res) :
    let t := ((s'.askScalar ea act).putReg d v 4).issue (s.me.pc + 4) (s.now + 1) (s.scratchPend res)
    Leaves s t ea act 4 res ∧ Landed s s' t d v 4 ∧ OnlyScratch s t d ∧ (28 ≤ d → OnlyScratch s t 0) := by
  intro t
  obtain ⟨u, heq, hin, hout⟩ := State.askScalar_eq h ea act
  obtain ⟨q, r, hput, hreg, hkeep, hland, hpush⟩ := State.putReg_asked (s := s) (d := d) (fun hp => deadPort_none (State.take_alive h) hd hp)
    s'.myTile.queues u v 4
  rw [← heq] at hput
  obtain ⟨hissued, hsame, honly, hqueues, hasks, hflag, haddr, hregs⟩ :=
    State.asked_issue q r u (d := d) (s.me.pc + 4) (s.now + 1) res hreg
  have honly0 : 28 ≤ d → OnlyScratch s t 0 := fun hp => by
    have h0 := (State.asked_issue q r u (d := 0) (s.me.pc + 4) (s.now + 1) res (fun n _ => by rw [hkeep hp]; rfl)).2.2.1
    rwa [← hput] at h0
  rw [← hput] at hissued hsame honly hqueues hasks hflag haddr hregs
  refine ⟨⟨hissued, ⟨fun hr => hasks.trans (hin hr).1, fun hr => hasks.trans (hout hr).1⟩,
    ⟨fun hr => ⟨hflag.trans (hin hr).2.1, haddr.trans (hin hr).2.2⟩,
      fun hr => ⟨hflag.trans (hout hr).2.1, fun hz => haddr.trans ((hout hr).2.2 hz)⟩⟩, hsame⟩, ?_, honly, honly0⟩
  rw [Landed]
  split
  · next hlt => exact ⟨(hregs d).trans (hland hlt).1, hqueues.trans (hland hlt).2⟩
  · next hge =>
    obtain ⟨n, hn, hget⟩ := hpush (by omega)
    refine ⟨n, hn, ?_⟩
    rw [Tile.queue, hqueues, hget]
    rfl

end

end Sys2Proof.Machine

/-!
Scratch loads and stores, from issue to grant (O7, O8).
-/

namespace Sys2Proof.Machine

open Host (Outcome)

/-! A request that its bank serves alone (R96, R97, R102). -/

theorem Core.slip_nothing (k : Core) (c : CoreId) (now : Nat) (datum : Bool) : k.slip c now datum [] = k := by
  refine congrArg (fun pend => ({ k with pend := pend } : Core)) (List.map_id'' (fun p => ?_) k.pend)
  split <;> rfl

section
variable {t : Tile} {now : Nat} {datum : Bool} {x : Ask}

theorem ServedAlone.atBanks (h : ServedAlone t now datum x) (hfree : datum = false) : t.atBanks = [x] := by
  obtain ⟨hasks, -, -, hbank⟩ := h
  obtain ⟨-, hrun⟩ := hbank hfree
  rw [Tile.atBanks, hasks]
  refine congrArg ([x] ++ ·) (List.filterMap_eq_nil_iff.2 fun c _ => ?_)
  split
  · next heq => exact absurd heq (hrun c _ _ _)
  · rfl

theorem ServedAlone.serves (h : ServedAlone t now datum x) : t.serves now datum x = true := by
  have hgrant : (if datum then t.wheelGrants now else t.grants now) x = true := by
    cases datum with
    | false =>
      have hbanks := h.atBanks rfl
      obtain ⟨-, hmay, -, hbank⟩ := h
      have hopen : bankOf x.line ∉ t.served := (hbank rfl).1
      simp [Tile.grants, hbanks, hmay, hopen]
    | true =>
      obtain ⟨-, hmay, hdue, -⟩ := h
      simp [Tile.wheelGrants, hmay, hdue]
  unfold Tile.serves
  dsimp only
  split
  · rw [hgrant]; rfl
  · exact hgrant

theorem ServedAlone.arbitrate (h : ServedAlone t now datum x) :
    t.arbitrate now datum = { t with asks := [], served := [] }.serveAsk now x := by
  have hserves := h.serves
  obtain ⟨hasks, -⟩ := h
  simp [Tile.arbitrate, hasks, hserves, Core.slip_nothing]

end

theorem askCore_rankScalar (c : CoreId) : askCore (rankScalar c) = some c := by cases c <;> rfl

/-! What a load delivers (R117). -/

section
variable (t : Tile) (c : CoreId) (issued : Nat) {d : Nat} (v : U64)

theorem Tile.deliver_register (hd : d < 28) : t.deliver c issued d v = t.setCore c ((t.core c).setReg d v) := by
  rw [Tile.deliver]
  dsimp only
  rw [if_neg (by omega), Core.setReg]
  split
  · rw [Tile.setCore_self]
  · rfl

variable {c issued}

/-- A queue after the delivery of a load: a token that stands for it takes the value, or leaves where it is forbidden. -/
def Queue.deliver (c : CoreId) (issued : Nat) (v : U64) (n : Nat) (u : Queue) : Queue :=
  let mine := fun (k : Token) => k.rank == 3 && k.issued == issued && pusher n == c
  { u with
    toks := (u.toks.filter fun k => !(mine k && forbiddenToken (BitVec.ofNat 32 v.toNat))).map fun k =>
      if mine k then { k with tok := BitVec.ofNat 32 v.toNat } else k }

/-- At an out-port a load delivers into the queues alone, and a token that stands for it takes its value. -/
theorem Tile.deliver_port (hd : 28 ≤ d) : ∃ q, t.deliver c issued d v = t.withQueues q ∧
    ∀ n k, v.toNat / 2 ^ 28 % 16 < 5 → (t.queue n).toks = [k] → k.rank = 3 → k.issued = issued → pusher n = c →
      (Store.get Queue.fresh q n).toks = [{ k with tok := v.truncate 32 }] := by
  refine ⟨t.queues.map fun e => (e.1, Queue.deliver c issued v e.1 e.2), ?_, fun n k hv hk hrank hissued hcore => ?_⟩
  · rw [Tile.deliver]
    exact if_pos hd
  rw [Store.get_map_key (Queue.deliver c issued v) (fun _ => rfl), Queue.deliver]
  have htoks : (Store.get Queue.fresh t.queues n).toks = [k] := hk
  have hallowed : forbiddenToken (BitVec.ofNat 32 v.toNat) = false := by
    simp only [forbiddenToken, bitsAt, BitVec.toNat_ofNat, decide_eq_false_iff_not]
    omega
  have htok : BitVec.ofNat 32 v.toNat = v.truncate 32 := BitVec.eq_of_toNat_eq (by simp)
  rw [htok] at hallowed ⊢
  rw [htoks]
  simp only [List.filter_cons, List.filter_nil, hallowed, Bool.and_false, Bool.not_false, if_true, List.map_cons, List.map_nil]
  rw [if_pos (by simp [hrank, hissued, hcore])]

end

/-- What a load's grant leaves of its tile (R117). -/
theorem Tile.deliver_grant {t u : Tile} {c : CoreId} {issued d : Nat} {v : U64} (h : u = t.deliver c issued d v) :
    u.asks = t.asks ∧ u.scratch = t.scratch ∧ (∀ e, e ≠ c → u.core e = t.core e) ∧
      u.core c = { t.core c with regs := (u.core c).regs } ∧
      (d < 28 → (u.core c).reg d = (if d = 0 then 0 else v) ∧ u.queues = t.queues) ∧
      (∀ n, n ≠ d → (u.core c).reg n = (t.core c).reg n) ∧
      ∀ q k, 28 ≤ d → v.toNat / 2 ^ 28 % 16 < 5 → (t.queue q).toks = [k] → k.rank = 3 → k.issued = issued →
        pusher q = c → (u.queue q).toks = [{ k with tok := v.truncate 32 }] := by
  by_cases hd : d < 28
  · rw [Tile.deliver_register t c issued v hd] at h
    have hcore : u.core c = (t.core c).setReg d v := by rw [h, Tile.core_setCore_same]
    refine ⟨?_, ?_, fun e he => ?_, ?_, fun _ => ⟨?_, ?_⟩, fun n hn => ?_, fun q k hp => absurd hp (by omega)⟩
    · rw [h, Tile.setCore_asks]
    · rw [h, Tile.setCore_scratch]
    · rw [h, Tile.core_setCore_ne _ _ he]
    · rw [hcore, Core.setReg]
      split <;> rfl
    · rw [hcore, Core.reg_setReg_same]
    · rw [h, Tile.setCore_queues]
    · rw [hcore, Core.reg_setReg_ne _ _ hn]
  · obtain ⟨q, hq, htoks⟩ := Tile.deliver_port t (c := c) (issued := issued) v (not_lt.1 hd)
    rw [hq] at h
    subst h
    refine ⟨rfl, rfl, fun e _ => Tile.core_withQueues _ _ _, ?_, fun hlt => absurd hlt hd, fun n _ => ?_, fun n k _ => htoks n k⟩
    · rw [Tile.core_withQueues]
    · rw [Tile.core_withQueues]

/-! The rows of loads and stores (R117). -/

theorem extendLoad_signed (v m : Nat) : extendLoad v (m + 1) true = (BitVec.ofNat (8 * m + 7 + 1) v).signExtend 64 := by
  rw [← ofInt_signed]
  rfl

theorem loadRows {row : (BitVec 5 → BitVec 5 → BitVec 14 → Instr) × Nat × Bool × (Nat → U64)}
    (h : row ∈ ([(.ldsB, 1, true, fun v => (BitVec.ofNat 8 v).signExtend 64), (.ldsBu, 1, false, fun v => BitVec.ofNat 64 v),
      (.ldsH, 2, true, fun v => (BitVec.ofNat 16 v).signExtend 64), (.ldsHu, 2, false, fun v => BitVec.ofNat 64 v),
      (.ldsW, 4, true, fun v => (BitVec.ofNat 32 v).signExtend 64), (.ldsWu, 4, false, fun v => BitVec.ofNat 64 v),
      (.ldsD, 8, false, fun v => BitVec.ofNat 64 v)] :
      List ((BitVec 5 → BitVec 5 → BitVec 14 → Instr) × Nat × Bool × (Nat → U64)))) :
    (∀ d a i s, exec (row.1 d a i) s = s.loadScratch d a i row.2.1 row.2.2.1) ∧
      ∀ v, extendLoad v row.2.1 row.2.2.1 = row.2.2.2 v := by
  simp only [List.mem_cons, List.not_mem_nil, or_false] at h
  obtain rfl | rfl | rfl | rfl | rfl | rfl | rfl := h
  · exact ⟨fun _ _ _ _ => rfl, fun v => extendLoad_signed v 0⟩
  · exact ⟨fun _ _ _ _ => rfl, fun _ => rfl⟩
  · exact ⟨fun _ _ _ _ => rfl, fun v => extendLoad_signed v 1⟩
  · exact ⟨fun _ _ _ _ => rfl, fun _ => rfl⟩
  · exact ⟨fun _ _ _ _ => rfl, fun v => extendLoad_signed v 3⟩
  · exact ⟨fun _ _ _ _ => rfl, fun _ => rfl⟩
  · exact ⟨fun _ _ _ _ => rfl, fun _ => rfl⟩

theorem storeRows {row : (BitVec 5 → BitVec 5 → BitVec 14 → Instr) × Nat}
    (h : row ∈ ([(.stsB, 1), (.stsH, 2), (.stsW, 4), (.stsD, 8)] :
      List ((BitVec 5 → BitVec 5 → BitVec 14 → Instr) × Nat))) :
    ∀ d a i s, exec (row.1 d a i) s = s.storeScratch d a i row.2 := by
  simp only [List.mem_cons, List.not_mem_nil, or_false] at h
  obtain rfl | rfl | rfl | rfl := h <;> exact fun _ _ _ _ => rfl

section
variable {s s' : State} {d a : BitVec 5} {i : BitVec 14} {x : U64} {ea : Int} {n : Nat} {sgn : Bool}

theorem State.loadScratch_misaligned (h : s.take (uses1 d a) = .ok s' [x]) (hea : ea = x.toNat + i.toInt) (hmis : ea % n ≠ 0) :
    s.loadScratch d a i n sgn = s.fault 0x0E (BitVec.ofInt 64 ea) := by
  subst hea
  rw [State.loadScratch, State.withRegs_ok (show s.take [(a.toNat, false), (d.toNat, true)] = _ from h)]
  exact (if_pos hmis).trans (congrArg (s.fault 0x0E) (ofNat_wrapTo _))

theorem State.loadScratch_aligned (h : s.take (uses1 d a) = .ok s' [x]) (hea : ea = x.toNat + i.toInt) (hal : ea % n = 0) :
    s.loadScratch d a i n sgn =
      let s1 := s'.askScalar ea (.load ea.toNat n sgn d.toNat)
      .next ((if isPort d.toNat ∨ inRange (ea / 64) = false then s1.putReg d.toNat 0 4 else s1).issue (s.me.pc + 4) (s.now + 1)
        (s.scratchPend (regRes d.toNat))) := by
  subst hea
  rw [State.loadScratch, State.withRegs_ok (show s.take [(a.toNat, false), (d.toNat, true)] = _ from h)]
  exact if_neg (not_not.2 hal)

theorem State.storeScratch_misaligned {v : U64} (h : s.take [(a.toNat, false), (d.toNat, false)] = .ok s' [x, v])
    (hea : ea = x.toNat + i.toInt) (hmis : ea % n ≠ 0) : s.storeScratch d a i n = s.fault 0x0E (BitVec.ofInt 64 ea) := by
  subst hea
  rw [State.storeScratch, State.withRegs_ok h]
  exact (if_pos hmis).trans (congrArg (s.fault 0x0E) (ofNat_wrapTo _))

theorem State.storeScratch_aligned {v : U64} (h : s.take [(a.toNat, false), (d.toNat, false)] = .ok s' [x, v])
    (hea : ea = x.toNat + i.toInt) (hal : ea % n = 0) : s.storeScratch d a i n =
      .next ((s'.askScalar ea (.put [(ea.toNat, leBytes n v.toNat)])).issue (s.me.pc + 4) (s.now + 1) (s.scratchPend [])) := by
  subst hea
  rw [State.storeScratch, State.withRegs_ok h]
  exact if_neg (not_not.2 hal)

end

/-- Settles O7: a load asks at issue, and delivers at its grant. -/
theorem scratchLoads : Obligations.ScratchLoads := by
  intro row hrow
  obtain ⟨hexec, hvalue⟩ := loadRows hrow
  refine ⟨fun s s' d a i x ea h hea => ?_, fun t u now datum x ea d c v hserved hact hrank hal hr hu hv => ?_⟩
  · rw [hexec]
    refine ⟨fun hal hr => ⟨_, State.loadScratch_aligned h hea hal, ?_⟩, fun hal hr => ⟨_, State.loadScratch_aligned h hea hal, ?_⟩,
      State.loadScratch_misaligned h hea⟩
    · by_cases hd : 28 ≤ d.toNat
      · rw [if_pos (.inl (decide_eq_true hd))]
        obtain ⟨hleaves, hlanded, -, honly⟩ := State.putReg_issue h (d := d.toNat) (by simp [uses1]) ea (.load ea.toNat row.2.1 row.2.2.1 d.toNat)
          0 (regRes d.toNat)
        exact ⟨hleaves, honly hd, fun _ => hlanded, fun hlt => absurd hlt (by omega)⟩
      · rw [if_neg (by simp [isPort, hd, hr.inRange])]
        obtain ⟨hleaves, hqueues, honly⟩ := State.leaves_issue h ea (.load ea.toNat row.2.1 row.2.2.1 d.toNat) (regRes d.toNat)
        exact ⟨hleaves, honly, fun hp => absurd hp hd, fun _ => hqueues⟩
    · rw [if_pos (.inr (by simpa [reached_iff_inRange] using hr))]
      obtain ⟨⟨hissued, -, hlatched, hsame⟩, hlanded, honly, -⟩ := State.putReg_issue h (d := d.toNat) (by simp [uses1]) ea
        (.load ea.toNat row.2.1 row.2.2.1 d.toNat) 0 (regRes d.toNat)
      exact ⟨hissued, hlanded, hlatched, hsame, honly⟩
  · have hgrant : u = { t with asks := [], served := [] }.deliver c x.since d v := by
      have hread : ({ t with asks := [], served := [] } : Tile).readAt ea row.2.1 = Memory.num t.scratch ea row.2.1 := if_pos hr.inRange
      rw [hu, hserved.arbitrate, Tile.serveAsk, hact]
      dsimp only
      rw [hread, hvalue, hrank, askCore_rankScalar, hv]
      rfl
    obtain ⟨hasks, hscratch, hothers, hcore, hreg, hregs, htoks⟩ := Tile.deliver_grant hgrant
    exact ⟨hasks, hscratch, fun e he => (hothers e he).trans (by cases e <;> rfl), hcore.trans (by cases c <;> rfl), hreg,
      fun n hn => (hregs n hn).trans (by cases c <;> rfl), htoks⟩

/-- Settles O8: a store asks at issue, and its bytes stand from its grant on. -/
theorem scratchStores : Obligations.ScratchStores := by
  intro row hrow
  have hexec := storeRows hrow
  refine ⟨fun s s' d a i x v ea h hea => ?_, fun t u now ea datum x c bs hserved hact hrank hlen hal hr hu => ?_⟩
  · rw [hexec]
    obtain ⟨hleaves, hqueues, honly⟩ := State.leaves_issue h ea (.put [(ea.toNat, leBytes row.2 v.toNat)]) []
    exact ⟨fun hal => ⟨_, State.storeScratch_aligned h hea hal, hleaves, hqueues, honly⟩, State.storeScratch_misaligned h hea⟩
  · have hgrant : u = { t with asks := [], served := [] }.writeAt ea bs := by
      rw [hu, hserved.arbitrate, Tile.serveAsk, hact]
      rfl
    have hscratch : u.scratch = Memory.setBytes t.scratch ea bs := by
      rw [hgrant, Tile.writeAt_scratch _ _ hr]
    have hwork := (Tile.writeAt_change { t with asks := [], served := [] } ea bs).sameWork
    rw [← hgrant] at hwork
    refine ⟨?_, ⟨?_, fun b hb => ?_⟩, hwork.queues, fun e => (hwork.core e).trans (by cases e <;> rfl)⟩
    · rw [hgrant, Tile.writeAt_change]
      rfl
    · rw [hscratch, Memory.bytes_setBytes]
    · rw [hscratch, Memory.byte_setBytes_outside _ _ _ _ hb]

end Sys2Proof.Machine

/-!
Groups: GBAR and the release of its generations (O19).
-/

namespace Sys2Proof.Machine

open Host (Outcome)

/-! Partitions and their groups. -/

/-- The first entry that a test picks out of a table after a put, where it picks the put one and no entry of another key. -/
theorem Store.find?_put {α : Type} {m : Store α} {k : Nat} {v : α} {f : Nat × α → Bool} (hv : f (k, v) = true)
    (honly : ∀ e ∈ m, f e = true → e.1 = k) : (Store.put m k v).find? f = some (k, v) := by
  have hplace : ∀ l : Store α, (∀ e ∈ l, f e = false) → (Store.place l k v).find? f = some (k, v) := by
    intro l hl
    induction l with
    | nil => simp [Store.place, hv]
    | cons e l ih =>
      rw [List.forall_mem_cons] at hl
      rw [Store.place]
      split
      · simp [hv]
      · simp [hl.1, ih hl.2]
  have herase : ∀ l : Store α, (∀ e ∈ l, f e = true → e.1 = k) → ∀ e ∈ Store.erase l k, f e = false := by
    intro l hl
    induction l with
    | nil => simp [Store.erase]
    | cons e l ih =>
      rw [List.forall_mem_cons] at hl
      rw [Store.erase]
      split
      · exact ih hl.2
      · next hne =>
        rw [List.forall_mem_cons]
        exact ⟨by_contra fun he => hne (hl.1 (by simpa using he)), ih hl.2⟩
  exact hplace _ (herase m honly)

/-- The package with a partition replaced. -/
def State.withPart (s : State) (p : Nat) (pt : Part) : State := { s with parts := Store.put s.parts p pt }

theorem InPart.partOf_put {s t : State} {g p : Nat} {pt pt' : Part} (h : InPart s g p pt) (htiles : pt'.tiles = pt.tiles)
    (hparts : t.parts = Store.put s.parts p pt') : t.partOf g = some (p, pt') := by
  obtain ⟨hfind, honly⟩ := h
  have hin : pt'.tiles.contains g = true := by
    rw [State.partOf] at hfind
    rw [htiles]
    exact List.find?_some (p := fun e : Nat × Part => e.2.tiles.contains g) hfind
  rw [State.partOf, hparts]
  exact Store.find?_put hin honly

theorem InPart.group {s : State} {g p k : Nat} {pt : Part} (h : InPart s g p pt) : s.group g k = Store.find pt.groups k := by
  rw [State.group, h.1]

/-- A partition with a group replaced. -/
def Part.withGroup (pt : Part) (k : Nat) (gr : Group) : Part := { pt with groups := Store.put pt.groups k gr }

theorem InPart.group_mapMe {s : State} {g p : Nat} {pt : Part} (h : InPart s g p pt) (k : Nat) (gr : Group) (f : Core → Core) :
    ((s.withPart p (pt.withGroup k gr)).mapMe f).group g k = some gr := by
  rw [State.group, h.partOf_put (pt' := pt.withGroup k gr) rfl rfl]
  exact Store.find_put_same _ _ _

theorem InPart.setGroup {s : State} {g p k : Nat} {pt : Part} (h : InPart s g p pt) (gr : Group) :
    s.setGroup g k (some gr) = s.withPart p (pt.withGroup k gr) := by
  rw [State.setGroup, h.1]
  rfl

theorem InPart.isMember {s : State} {g p k : Nat} {pt : Part} {gr : Group} (h : InPart s g p pt)
    (hgr : Store.find pt.groups k = some gr) (hmem : (s.tile g).task.uid ∈ gr.members) : s.isMember g k = true := by
  rw [State.isMember, h.group, hgr]
  simpa using hmem

/-! Arrivals in a group (R220). -/

/-- A group in which an arrival stands. -/
def Group.arrive (gr : Group) (a : Nat × Nat) : Group :=
  if gr.arrived.contains a then gr else { gr with arrived := gr.arrived ++ [a] }

theorem Group.arrive_eq (gr : Group) (a : Nat × Nat) : gr.arrive a = { gr with arrived := (gr.arrive a).arrived } := by
  unfold Group.arrive
  split <;> rfl

theorem Group.mem_arrive {gr : Group} {a b : Nat × Nat} : b ∈ (gr.arrive a).arrived ↔ b ∈ gr.arrived ∨ b = a := by
  unfold Group.arrive
  split
  · next h =>
    have ha : a ∈ gr.arrived := by simpa using h
    exact ⟨.inl, fun hb => hb.elim id fun he => he ▸ ha⟩
  · simp

theorem Group.settleOne_eq (gr : Group) (now : Nat) : gr.settleOne now = { gr with release := (gr.settleOne now).release } := by
  unfold Group.settleOne
  split <;> rfl

theorem Group.settle_eq (gr : Group) (now : Nat) : gr.settle now = { gr with release := (gr.settle now).release } := by
  rw [Group.settle, Group.settleOne_eq (gr.settleOne now), Group.settleOne_eq gr]

theorem Group.full_iff {gr : Group} {gen : Nat} :
    gr.full gen = true ↔ ∀ u ∈ gr.members, Store.get 0 gr.base u < gen → (u, gen) ∈ gr.arrived := by
  simp only [Group.full, List.all_eq_true, Bool.or_eq_true, decide_eq_true_eq, List.contains_iff_mem]
  exact forall₂_congr fun u _ => by rw [← not_lt, imp_iff_not_or]

theorem Group.settleOne_full {gr : Group} (h : gr.full (gr.done + gr.release.length + 1) = true) (now : Nat) :
    gr.settleOne now = { gr with release := gr.release ++ [now + 96] } := if_pos h

theorem Group.settleOne_open {gr : Group} (h : gr.full (gr.done + gr.release.length + 1) = false) (now : Nat) :
    gr.settleOne now = gr := if_neg (by simp [h])

theorem Group.settle_open {gr : Group} (h : gr.full (gr.done + gr.release.length + 1) = false) (now : Nat) : gr.settle now = gr := by
  rw [Group.settle, Group.settleOne_open h, Group.settleOne_open h]

theorem Group.settle_full {gr : Group} (h : gr.full (gr.done + 1) = true) (hrelease : gr.release = []) (now : Nat) :
    (gr.settle now).release.head? = some (now + 96) := by
  have hfull : gr.full (gr.done + gr.release.length + 1) = true := by simpa [hrelease] using h
  rw [Group.settle, Group.settleOne_full hfull, hrelease, Group.settleOne]
  split <;> rfl

/-! GBAR (R220). -/

section
variable {s : State} {k : BitVec 4} {gr : Group}

theorem exec_gbar (hgroup : s.group s.cur.tile k.toNat = some gr) (hmember : s.isMember s.cur.tile k.toNat = true)
    (habort : s.delivers = false) : exec (.gbar k) s =
      let gen := s.nextGeneration s.cur k.toNat gr
      if gen ≤ gr.done then .next (s.mapMe fun m => m.passGbar k.toNat (s.now + 1) (s.now + 1))
      else if s.myTile.accessesDone s.cur.core s.now = false then s.wait .fence
      else (s.setGroup s.cur.tile k.toNat (some ((gr.arrive (s.myTile.task.uid, gen)).settle s.now))).wait
        (.gbar k.toNat gen) := by
  change execGbar k s = _
  rw [execGbar]
  dsimp only
  rw [if_neg (by simp [hmember]), if_neg (by simp [habort]), hgroup]
  rfl

/-- A member's core that goes on past GBAR. -/
theorem State.passes_gbar (s : State) (k : Nat) :
    let t := s.mapMe fun m => m.passGbar k (s.now + 1) (s.now + 1)
    Issued s t (s.me.pc + 4) (s.now + 1) 1 [] ∧ Store.get 0 t.me.gbars k = Store.get 0 s.me.gbars k + 1 ∧
      t.me.regs = s.me.regs ∧ SameBytes s t := by
  intro t
  have hme : t.me = s.me.passGbar k (s.now + 1) (s.now + 1) := State.me_mapMe s _
  refine ⟨⟨by rw [hme]; rfl, by rw [hme]; rfl, by rw [hme]; rfl, none, by rw [hme]; rfl⟩, ?_, by rw [hme]; rfl,
    State.sameBytes_mapMe s _⟩
  rw [hme]
  exact Store.get_put_same _ _ _ _

end

/-! The release of a generation (R220). -/

/-- The cores of a tile that wait in GBAR for a completed generation go on. -/
def Tile.released (t : Tile) (gr : Group) (k now : Nat) : Tile :=
  { t with l := t.l.released gr k now, x := t.x.released gr k now, s := t.s.released gr k now }

/-- The hub's release reaches a tile. -/
def State.releaseTile (gr : Group) (k : Nat) (s : State) (g : Nat) : State :=
  let t := s.tile g
  if gr.members.contains t.task.uid && !t.task.abortMark then s.setTile g (t.released gr k s.now) else s

theorem Tile.core_released (t : Tile) (gr : Group) (k now : Nat) (c : CoreId) :
    (t.released gr k now).core c = (t.core c).released gr k now := by cases c <;> rfl

section
variable {gr : Group} {k g h : Nat} {s : State}

theorem State.tile_releaseTile_ne (hg : h ≠ g) : (s.releaseTile gr k g).tile h = s.tile h := by
  unfold State.releaseTile
  dsimp only
  split
  · exact State.tile_setTile_ne s _ hg
  · rfl

theorem State.tile_releaseTile (hmem : (s.tile g).task.uid ∈ gr.members) (hmark : (s.tile g).task.abortMark = false) :
    (s.releaseTile gr k g).tile g = (s.tile g).released gr k s.now := by
  rw [State.releaseTile, if_pos (by simp [hmem, hmark]), State.tile_setTile_same]

theorem State.parts_foldl_releaseTile (gs : List Nat) : ∀ s : State, (gs.foldl (State.releaseTile gr k) s).parts = s.parts := by
  induction gs with
  | nil => exact fun s => rfl
  | cons g gs ih =>
    refine fun s => (ih _).trans ?_
    unfold State.releaseTile
    dsimp only
    split <;> rfl

theorem State.sameBytes_releaseTile {r : State} (hs : SameBytes r s) : SameBytes r (s.releaseTile gr k g) := by
  unfold State.releaseTile
  dsimp only
  split
  · refine ⟨hs.1, hs.2.1, fun h a => ?_⟩
    rw [← hs.2.2 h a, State.tile_setTile]
    split
    · next hg => rw [hg]; rfl
    · rfl
  · exact hs

theorem State.sameBytes_foldl_releaseTile {r : State} (gs : List Nat) :
    ∀ s : State, SameBytes r s → SameBytes r (gs.foldl (State.releaseTile gr k) s) := by
  induction gs with
  | nil => exact fun s hs => hs
  | cons g gs ih => exact fun s hs => ih _ (State.sameBytes_releaseTile hs)

theorem State.tile_foldl_releaseTile_ne {gs : List Nat} (hg : g ∉ gs) :
    ∀ s : State, (gs.foldl (State.releaseTile gr k) s).tile g = s.tile g := by
  induction gs with
  | nil => exact fun s => rfl
  | cons h gs ih =>
    rw [List.mem_cons, not_or] at hg
    exact fun s => (ih hg.2 _).trans (State.tile_releaseTile_ne hg.1)

/-- The release reaches each of some tiles once. -/
theorem State.tile_foldl_releaseTile {gs : List Nat} (hnodup : gs.Nodup) (hg : g ∈ gs) :
    ∀ s : State, (s.tile g).task.uid ∈ gr.members → (s.tile g).task.abortMark = false →
      ∃ now, (gs.foldl (State.releaseTile gr k) s).tile g = (s.tile g).released gr k now := by
  induction gs with
  | nil => cases hg
  | cons h gs ih =>
    rw [List.nodup_cons] at hnodup
    intro s hmem hmark
    by_cases heq : g = h
    · subst heq
      exact ⟨s.now, (State.tile_foldl_releaseTile_ne hnodup.1 _).trans (State.tile_releaseTile hmem hmark)⟩
    · have hsame : (s.releaseTile gr k h).tile g = s.tile g := State.tile_releaseTile_ne heq
      obtain ⟨now, hnow⟩ := ih hnodup.2 ((List.mem_cons.1 hg).resolve_left heq) (s.releaseTile gr k h) (hsame ▸ hmem) (hsame ▸ hmark)
      exact ⟨now, hnow.trans (by rw [hsame])⟩

end

/-- A group whose releases due are completed. -/
def Group.complete (gr : Group) (now : Nat) : Group :=
  let n := (gr.release.filter fun r => decide (r ≤ now)).length
  { gr with done := gr.done + n, release := gr.release.drop n, arrived := gr.arrived.filter fun a => decide (gr.done + n < a.2) }

theorem exec_groupBarrierRelease {s : State} {p k : Nat} {pt : Part} {gr : Group} (hp : Store.find s.parts p = some pt)
    (hgr : Store.find pt.groups k = some gr) : exec (.groupBarrierRelease p k) s =
      .next (pt.tiles.foldl (State.releaseTile (gr.complete s.now) k)
        (s.withPart p (pt.withGroup k ((gr.complete s.now).settle s.now)))) := by
  change execGroupBarrierRelease p k s = _
  rw [execGroupBarrierRelease, hp]
  dsimp only
  rw [hgr]
  rfl

theorem Core.released_due {c : Core} {gr : Group} {k gen now : Nat} (h : c.run = .waiting (.gbar k gen)) (hdone : gen ≤ gr.done) :
    c.released gr k now = c.passGbar k now now := by
  rw [Core.released, h]
  exact if_pos ⟨rfl, hdone⟩

theorem Core.released_early {c : Core} {gr : Group} {k gen now : Nat} (h : c.run = .waiting (.gbar k gen)) (hdone : gr.done < gen) :
    c.released gr k now = c := by
  rw [Core.released, h]
  exact if_neg fun hle => absurd hle.2 (by omega)

/-- Settles O19: GBAR's arrival, and the release of a generation. -/
theorem groupBarrier : Obligations.GroupBarrier := by
  refine ⟨fun s k p pt gr hin hgr hmem habort => ?_, fun s k hno => if_pos hno, fun s p k pt gr hp hgr hnodup => ?_⟩
  · have hexec := exec_gbar (hin.group.trans hgr) (hin.isMember hgr hmem) habort
    refine ⟨fun hdone => ⟨_, hexec.trans (if_pos hdone), State.passes_gbar s k.toNat⟩,
      fun hlate hacc => hexec.trans ((if_neg (by omega)).trans (if_pos hacc)), fun gen hgen hlate hacc => ?_⟩
    subst hgen
    rw [hexec, if_neg (by omega), if_neg (by simp [hacc]), hin.setGroup]
    generalize s.nextGeneration s.cur k.toNat gr = gen at hlate ⊢
    set arrived := gr.arrive (s.myTile.task.uid, gen) with harrived
    have hbase : arrived = { gr with arrived := arrived.arrived } := Group.arrive_eq gr _
    have hsettled : arrived.settle s.now = { arrived with release := (arrived.settle s.now).release } := Group.settle_eq _ _
    refine ⟨_, arrived.settle s.now, rfl, ?_, State.sameBytes_mapMe (s.withPart p _) _, ?_, ?_, ?_, ?_, ?_, ?_⟩
    · rw [State.me_mapMe]
      rfl
    · exact hin.group_mapMe _ _ _
    · rw [hsettled, hbase]
    · rw [hsettled, hbase]
    · rw [hsettled]
      exact Group.mem_arrive.2 (.inr rfl)
    · intro hnext hrelease hothers
      refine Group.settle_full (Group.full_iff.2 fun u hu hlt => ?_) (by rw [hbase, hrelease]) _
      rw [hbase] at hu hlt ⊢
      rw [← hnext] at hlt ⊢
      refine Group.mem_arrive.2 ?_
      by_cases hme : u = s.myTile.task.uid
      · exact .inr (by rw [hme])
      · exact .inl (hothers u hu hme hlt)
    · intro u hu hme hlt hnot hrelease
      have hopen : arrived.full (arrived.done + arrived.release.length + 1) = false := by
        rw [Bool.eq_false_iff]
        intro hfull
        rw [hbase, hrelease] at hfull
        have := Group.full_iff.1 hfull u hu hlt
        obtain hin | heq := Group.mem_arrive.1 this
        · exact hnot hin
        · exact hme (congrArg Prod.fst heq)
      rw [Group.settle_open hopen, hbase, hrelease]
  · have hsettled := Group.settle_eq (gr.complete s.now) s.now
    refine ⟨_, pt.withGroup k ((gr.complete s.now).settle s.now), (gr.complete s.now).settle s.now,
      exec_groupBarrierRelease hp hgr, ?_, Store.find_put_same _ _ _, ?_,
      State.sameBytes_foldl_releaseTile _ _ ⟨fun _ => rfl, fun _ => rfl, fun _ _ => rfl⟩, ?_, fun g c gen hg hmem hmark hrun => ?_⟩
    · rw [State.parts_foldl_releaseTile]
      exact Store.find_put_same _ _ _
    · rw [hsettled]
      rfl
    · rw [hsettled]
      rfl
    · obtain ⟨now, hnow⟩ := State.tile_foldl_releaseTile (gr := gr.complete s.now) (k := k) hnodup hg
        (s.withPart p (pt.withGroup k ((gr.complete s.now).settle s.now))) hmem hmark
      have hdone : ((gr.complete s.now).settle s.now).done = (gr.complete s.now).done := by rw [hsettled]
      have hcore : (s.core ⟨g, c⟩).released (gr.complete s.now) k now =
          (((s.withPart p (pt.withGroup k ((gr.complete s.now).settle s.now))).tile g).core c).released
            (gr.complete s.now) k now := rfl
      rw [hdone, State.core, hnow, Tile.core_released, ← hcore]
      exact ⟨fun hdue => by rw [Core.released_due hrun hdue]; exact ⟨rfl, rfl⟩, fun hearly => Core.released_early hrun hearly⟩

end Sys2Proof.Machine

/-!
Device registers, and the context commands of the hub (O50).
-/

namespace Sys2Proof

/-- What a list of numbered values holds at a number, where entries of value zero are left out. -/
theorem Store.get_numbered {n : Nat} (f : Nat → BitVec n) (k : Nat) : ∀ l : List Nat,
    Store.get 0 ((l.map fun j => (j, f j)).filter fun e => e.2 != 0) k = if k ∈ l then f k else 0 := by
  intro l
  induction l with
  | nil => rfl
  | cons j l ih =>
    rw [List.map_cons, List.filter_cons]
    by_cases hj : j = k
    · subst hj
      rw [if_pos List.mem_cons_self]
      by_cases hf : f j = 0
      · rw [if_neg (by simp [hf]), ih, hf, ite_self]
      · rw [if_pos (by simpa using hf), Store.get, if_pos rfl]
    · have hmem : k ∈ j :: l ↔ k ∈ l := by simp [Ne.symm hj]
      rw [if_congr hmem rfl rfl, ← ih]
      split
      · rw [Store.get, if_neg hj]
      · rfl

end Sys2Proof

namespace Sys2Proof.Machine

open Host (Outcome)

/-! Device registers and the hub's commands (R351, R352). -/

theorem State.devGet_devSet_same (s : State) (off : Nat) (v : U64) : (s.devSet off v).devGet off = v :=
  Store.get_set_same _ _ _ _

theorem State.devGet_devSet_ne (s : State) {off off' : Nat} (v : U64) (h : off' ≠ off) :
    (s.devSet off v).devGet off' = s.devGet off' := by
  rw [State.devGet, State.devSet, Store.set]
  split
  · exact Store.get_erase_ne _ _ h
  · exact Store.get_put_ne _ _ _ h

theorem State.devSets_eq (s : State) (off off' : Nat) (v v' : U64) (busy : Option Nat) :
    { (s.devSet off v).devSet off' v' with hubBusy := busy } =
      { s with dev := ((s.devSet off v).devSet off' v').dev, hubBusy := busy } := rfl

/-- A command begun differs from the state that it begins in by the device registers and the status alone. -/
theorem State.hubBegin_eq (s : State) (v : U64) (status : Nat) : ∃ d, s.hubBegin v status = { s with dev := d, hubBusy := some status } ∧
    Store.get (devReset 0x1000) d 0x1000 = BitVec.ofNat 64 (bitsAt v.toNat 35 29 * 2 ^ 35 + bitsAt v.toNat 0 10) ∧
    Store.get (devReset 0x1010) d 0x1010 = 0 ∧
    ∀ off, off ≠ 0x1000 → off ≠ 0x1010 → Store.get (devReset off) d off = s.devGet off := by
  refine ⟨_, State.devSets_eq s _ _ _ _ _, ?_, State.devGet_devSet_same _ _ _, fun off h h' => ?_⟩
  · exact (State.devGet_devSet_ne _ _ (by decide)).trans (State.devGet_devSet_same _ _ _)
  · exact (State.devGet_devSet_ne _ _ h').trans (State.devGet_devSet_ne _ _ h)

theorem State.hubBegin_hubbed (s : State) (v : U64) (status : Nat) : Hubbed (s.hubBegin v status) v status := by
  obtain ⟨d, heq, hcmd, hres, -⟩ := s.hubBegin_eq v status
  rw [heq]
  refine ⟨fun j hj => ?_, hres, rfl⟩
  have hget : State.devGet { s with dev := d, hubBusy := some status } 0x1000 =
      BitVec.ofNat 64 (bitsAt v.toNat 35 29 * 2 ^ 35 + bitsAt v.toNat 0 10) := hcmd
  have hlow : bitsAt v.toNat 0 10 < 2 ^ 35 := (Nat.mod_lt _ (by norm_num)).trans (by norm_num)
  rw [hget, BitVec.getLsbD_ofNat, Nat.mul_comm, Nat.testBit_two_pow_mul_add _ hlow, BitVec.getLsbD, bitsAt, bitsAt]
  split
  · next h35 =>
    rw [Nat.testBit_mod_two_pow]
    by_cases h10 : j < 10 <;> simp [hj, h10, h35, not_le.2, not_lt.1]
  · next h35 =>
    rw [Nat.testBit_mod_two_pow, Nat.testBit_div_two_pow, Nat.sub_add_cancel (not_lt.1 h35)]
    simp [hj, h35, show j - 35 < 29 by omega]

section
variable {s : State} {v : U64} {op : Nat}

theorem State.hubRun_busy (h : s.hubFree = false) (run : State → Nat × State) : s.hubRun op v run = .next s :=
  if_pos (.inl h)

theorem HubTakes.hubRun (h : HubTakes s op v) (run : State → Nat × State) :
    s.hubRun op v run = .next ((run s).2.hubBegin v (run s).1) := by
  obtain ⟨hfree, hop, hres⟩ := h
  rw [State.hubRun, if_neg (by simp [hfree, hop, hres])]

end

section
variable (s : State) (v : U64) (st : Nat)

theorem State.hbm_hubBegin : (s.hubBegin v st).hbm = s.hbm := by
  obtain ⟨d, heq, -⟩ := s.hubBegin_eq v st
  rw [heq]

theorem State.hbm_setCtx_hubBegin (x : Nat) (c : Ctx) : ((s.setCtx x c).hubBegin v st).hbm = s.hbm :=
  (s.setCtx x c).hbm_hubBegin v st

theorem State.host_hubBegin : (s.hubBegin v st).host = s.host := by
  obtain ⟨d, heq, -⟩ := s.hubBegin_eq v st
  rw [heq]

theorem State.tile_hubBegin (g : Nat) : (s.hubBegin v st).tile g = s.tile g := by
  obtain ⟨d, heq, -⟩ := s.hubBegin_eq v st
  rw [heq]
  rfl

theorem State.ctxs_hubBegin : (s.hubBegin v st).ctxs = s.ctxs := by
  obtain ⟨d, heq, -⟩ := s.hubBegin_eq v st
  rw [heq]

theorem State.parts_hubBegin : (s.hubBegin v st).parts = s.parts := by
  obtain ⟨d, heq, -⟩ := s.hubBegin_eq v st
  rw [heq]

theorem State.ctx_hubBegin (x : Nat) : (s.hubBegin v st).ctx x = s.ctx x :=
  congrArg (Store.find · x) (s.ctxs_hubBegin v st)

theorem State.devGet_hubBegin {off : Nat} (h : off ≠ 0x1000) (h' : off ≠ 0x1010) :
    (s.hubBegin v st).devGet off = s.devGet off := by
  obtain ⟨d, heq, -, -, hother⟩ := s.hubBegin_eq v st
  rw [heq]
  exact hother off h h'

theorem State.sameBytes_hubBegin {r : State} (h : SameBytes r s) : SameBytes r (s.hubBegin v st) := by
  refine ⟨fun a => ?_, fun a => ?_, fun g a => ?_⟩
  · rw [s.hbm_hubBegin v st, h.1]
  · rw [s.host_hubBegin v st, h.2.1]
  · rw [s.tile_hubBegin v st, h.2.2]

end

/-! The context commands (R333). -/

theorem ctxRecOf_reset : (ctxRecOf ctxResetRecord).closure = 65536 ∧ (ctxRecOf ctxResetRecord).qlog = 4 ∧
    (ctxRecOf ctxResetRecord).mig = 4096 ∧ (ctxRecOf ctxResetRecord).age = 64 ∧ (ctxRecOf ctxResetRecord).nframes = 0 ∧
    (ctxRecOf ctxResetRecord).quantum = 0 ∧ (ctxRecOf ctxResetRecord).vw = [] := by
  decide +kernel

theorem ctxResetRecord_eq :
    ctxResetRecord = 65536 * 2 ^ 1888 + 4 * 2 ^ 1832 + 4096 * 2 ^ 1816 + 64 * 2 ^ 1792 := by
  rw [ctxResetRecord]

theorem State.bytes_writePhys (s : State) (a n v : Nat) : Memory.bytes (s.writePhys a (leBytes n v)).hbm a n = leBytes n v := by
  have hbytes := Memory.bytes_setBytes s.hbm a (leBytes n v)
  rwa [leBytes_length] at hbytes

theorem State.byte_writePhys_outside (s : State) {a b : Nat} (n v : Nat) (h : b < a ∨ a + n ≤ b) :
    Memory.byte (s.writePhys a (leBytes n v)).hbm b = Memory.byte s.hbm b :=
  Memory.byte_setBytes_outside _ _ _ _ (by rwa [leBytes_length])

section
variable {s : State} {v : U64}

theorem exec_createContext {a : Nat} (h : HubTakes s 1 v) (hnew : s.ctx (hubCtx v) = none) (ha : a = (s.devGet 0x1008).toNat)
    (hal : a % 256 = 0) (hok : physOk a 256 = true) : exec (.createContext v) s =
      .next (State.hubBegin ((s.writePhys a (leBytes 256 ctxResetRecord)).setCtx (hubCtx v)
        (newCtx a (ctxRecOf ctxResetRecord) ((s.writePhys a (leBytes 256 ctxResetRecord)).readTable 0))) v 0) := by
  subst ha
  change execCreateContext v s = _
  rw [execCreateContext, h.hubRun]
  dsimp only
  rw [hnew, if_neg (by simp), if_neg (by simp [hal, hok])]

theorem exec_updateContext {c : Ctx} {bs : List Byte} (h : HubTakes s 2 v) (hc : s.ctx (hubCtx v) = some c)
    (hbs : s.readPhys c.recAddr 256 = some bs) : exec (.updateContext v) s =
      if ctxRecBad (leNat bs) then .next (s.hubBegin v 2)
      else .next ((s.setCtx (hubCtx v) { c with cfg := ctxRecOf (leNat bs), pages :=
        if (ctxRecOf (leNat bs)).tbase = c.cfg.tbase then c.pages else s.readTable (ctxRecOf (leNat bs)).tbase }).hubBegin v 0) := by
  change execUpdateContext v s = _
  rw [execUpdateContext, h.hubRun]
  dsimp only
  rw [hc]
  dsimp only
  rw [hbs]
  dsimp only
  split <;> rfl

theorem exec_destroyContext {c : Ctx} (h : HubTakes s 3 v) (hc : s.ctx (hubCtx v) = some c) :
    exec (.destroyContext v) s = .next ((s.destroyCtx (hubCtx v)).hubBegin v 0) := by
  change execDestroyContext v s = _
  rw [execDestroyContext, h.hubRun]
  rw [hc, if_neg (by simp)]

theorem State.ctx_destroyCtx (s : State) (x : Nat) : (s.destroyCtx x).ctx x = none := Store.find_erase_same _ _

theorem hubcmd_busy (h : s.hubFree = false) : ∀ i ∈ [Instr.createContext v, .updateContext v, .destroyContext v,
    .definePartition v, .grant v, .revoke v, .partitionReset v, .saveTile v, .savePartition v, .hubcmd v],
    exec i s = .next s := by
  have hrun : ∀ op run, s.hubRun op v run = .next s := fun op run => State.hubRun_busy h run
  have hcmd : execHubcmd v s = .next s := by
    rw [execHubcmd, if_neg (by simp [h])]
  intro i hi
  simp only [List.mem_cons, List.not_mem_nil, or_false] at hi
  obtain rfl | rfl | rfl | rfl | rfl | rfl | rfl | rfl | rfl | rfl := hi
  · change execCreateContext v s = _
    rw [execCreateContext, hrun]
  · change execUpdateContext v s = _
    rw [execUpdateContext, hrun]
  · change execDestroyContext v s = _
    rw [execDestroyContext, hrun]
  · change execDefinePartition v s = _
    rw [execDefinePartition, hrun]
  · change execGrant v s = _
    rw [execGrant, hrun]
  · change execRevoke v s = _
    rw [execRevoke, hrun]
  · change execPartitionReset v s = _
    rw [execPartitionReset, hrun]
  · change execSaveTile v s = _
    rw [execSaveTile, hrun]
  · change execSavePartition v s = _
    rw [execSavePartition, hrun]
  · exact hcmd

theorem exec_hubcmd_bad (hfree : s.hubFree = true) (hbad : hubOp v = 0 ∨ 9 < hubOp v ∨ hubReserved v = true) :
    exec (.hubcmd v) s = .next (s.hubBegin v 1) := by
  change execHubcmd v s = _
  rw [execHubcmd, if_pos ⟨hfree, hbad⟩]

theorem exec_hubCommandDone {st : Nat} (h : s.hubBusy = some st) : exec .hubCommandDone s =
    .next ({ s.devSet 0x1010 (BitVec.ofNat 64 (2 ^ 63 + st)) with hubBusy := none }.emit (.msix 2)) := by
  change execHubCommandDone s = _
  rw [execHubCommandDone, h]

end

/-- Settles O50: the context commands of HUBCMD. -/
theorem contextCommands : Obligations.ContextCommands := by
  refine ⟨fun s v h => hubcmd_busy h, fun s v hfree hbad => ⟨_, exec_hubcmd_bad hfree hbad, State.hubBegin_hubbed s v 1,
      s.sameBytes_hubBegin v 1 (.refl s), s.ctxs_hubBegin v 1, s.parts_hubBegin v 1⟩, fun s v a h hnew ha hal hok => ?_,
    fun s v c bs h hc hbs => ?_, fun s v c h hc => ⟨_, exec_destroyContext h hc, State.hubBegin_hubbed _ v 0, ?_⟩, fun s st hbusy => ?_⟩
  · obtain ⟨hclosure, hqlog, hmig, hage, hnframes, hquantum, hvw⟩ := ctxRecOf_reset
    refine ⟨_, newCtx a (ctxRecOf ctxResetRecord) ((s.writePhys a (leBytes 256 ctxResetRecord)).readTable 0),
      exec_createContext h hnew ha hal hok, State.hubBegin_hubbed _ v 0, ?_, rfl, hclosure, hqlog, hmig,
      hage, hnframes, hquantum, hvw, rfl, rfl, rfl, ?_, fun b hb => ?_⟩
    · rw [State.ctx_hubBegin, State.ctx_setCtx_same]
    · rw [← ctxResetRecord_eq]
      exact (congrArg (Memory.bytes · a 256) (State.hbm_setCtx_hubBegin _ v 0 _ _)).trans
        (s.bytes_writePhys a 256 ctxResetRecord)
    · exact (congrArg (Memory.byte · b) (State.hbm_setCtx_hubBegin _ v 0 _ _)).trans
        (s.byte_writePhys_outside 256 ctxResetRecord hb)
  · rw [exec_updateContext h hc hbs]
    cases hbad : ctxRecBad (leNat bs) with
    | true =>
      exact ⟨_, c, if_pos rfl, (s.ctx_hubBegin v 2 _).trans hc, s.sameBytes_hubBegin v 2 (.refl s), rfl, rfl,
        fun _ => ⟨State.hubBegin_hubbed s v 2, rfl⟩, fun hb => absurd hb (by simp)⟩
    | false =>
      exact ⟨_, _, if_neg (by simp), (State.ctx_hubBegin _ v 0 _).trans (State.ctx_setCtx_same _ _ _),
        State.sameBytes_hubBegin _ v 0 (.setCtx s _ _), rfl, rfl,
        fun hb => absurd hb (by simp), fun _ => ⟨State.hubBegin_hubbed _ v 0, rfl⟩⟩
  · rw [State.ctx_hubBegin, State.ctx_destroyCtx]
  · exact ⟨_, exec_hubCommandDone hbusy, State.devGet_devSet_same s 0x1010 (BitVec.ofNat 64 (2 ^ 63 + st)), rfl, rfl,
      ⟨fun _ => rfl, fun _ => rfl, fun _ _ => rfl⟩⟩

end Sys2Proof.Machine

/-!
The partition commands of the hub (O51).
-/

namespace Sys2Proof.Machine

open Host (Outcome)

/-! The partition commands (R332, R336, R352). -/

section
variable {s : State} {v : U64}

/-- A command that leaves the package with one partition replaced. -/
theorem hubbed_withPart (s : State) (v : U64) (p : Nat) (pt : Part) (st : Nat) :
    Hubbed ((s.withPart p pt).hubBegin v st) v st ∧ Store.find ((s.withPart p pt).hubBegin v st).parts p = some pt ∧
      SameBytes s ((s.withPart p pt).hubBegin v st) := by
  refine ⟨State.hubBegin_hubbed _ v st, ?_, State.sameBytes_hubBegin _ v st ⟨fun _ => rfl, fun _ => rfl, fun _ _ => rfl⟩⟩
  rw [State.parts_hubBegin]
  exact Store.find_put_same _ _ _

theorem mem_imageTiles {img g : Nat} : g ∈ imageTiles img ↔ g < 640 ∧ img / 2 ^ g % 2 = 1 := by
  simp [imageTiles, bit, bitsAt]

theorem get_imageWeights {img n : Nat} (hn : n < 16) :
    Store.get 0 (imageWeights img) n = BitVec.ofNat 32 (img / 2 ^ (1024 + 32 * n)) := by
  rw [imageWeights, Store.get_numbered (fun n => BitVec.ofNat 32 (bitsAt img (1024 + 32 * n) 32)), if_pos (by simpa using hn)]
  apply BitVec.eq_of_toNat_eq
  simp only [BitVec.toNat_ofNat, bitsAt, Nat.mod_mod]

theorem newPart_tiles (tiles : List Nat) (datum : Bool) (enw : Store U32) : (newPart tiles datum enw).tiles = tiles := rfl

theorem newPart_enw (tiles : List Nat) (datum : Bool) (enw : Store U32) : (newPart tiles datum enw).enw = enw := rfl

theorem exec_definePartition {bs : List Byte} (h : HubTakes s 4 v) (hok : physOk (s.devGet 0x1008).toNat 256 = true)
    (hbs : s.readPhys (s.devGet 0x1008).toNat 256 = some bs) (hnew : Store.find s.parts (hubPart v) = none)
    (hfree : ∀ e ∈ s.parts, ∀ g ∈ e.2.tiles, leNat bs / 2 ^ g % 2 = 0) : exec (.definePartition v) s =
      .next ((s.withPart (hubPart v) (newPart (imageTiles (leNat bs)) (hubDatum v) (imageWeights (leNat bs)))).hubBegin v 0) := by
  have hdisjoint : s.parts.any (fun e => e.1 != hubPart v && e.2.tiles.any (imageTiles (leNat bs)).contains) = false := by
    refine List.any_eq_false.2 fun e he => ?_
    have hnone : e.2.tiles.any (imageTiles (leNat bs)).contains = false := by
      refine List.any_eq_false.2 fun g hg => ?_
      simp [mem_imageTiles, hfree e he g hg]
    simp [hnone]
  change execDefinePartition v s = _
  rw [execDefinePartition, h.hubRun]
  dsimp only
  rw [if_pos hok, hbs]
  dsimp only
  rw [hnew, if_neg (by simp), if_neg (by simp), hdisjoint, if_neg (by simp)]
  rfl

section
variable {pt : Part} {c : Ctx} (hp : Store.find s.parts (hubPart v) = some pt) (hc : s.ctx (hubCtx v) = some c)
include hp hc

theorem exec_grant (h : HubTakes s 5 v) : exec (.grant v) s =
    if pt.datum = true ∧ pt.grants.any (· != hubCtx v) = true then .next (s.hubBegin v 2)
    else .next ((s.withPart (hubPart v) { pt with grants := addNew (hubCtx v) pt.grants }).hubBegin v 0) := by
  change execGrant v s = _
  rw [execGrant, h.hubRun]
  rw [hp, hc]
  dsimp only
  split <;> rfl

theorem exec_revoke (h : HubTakes s 6 v) : exec (.revoke v) s =
    .next ((s.withPart (hubPart v) { pt with grants := pt.grants.erase (hubCtx v) }).hubBegin v 0) := by
  change execRevoke v s = _
  rw [execRevoke, h.hubRun]
  rw [hp, hc]
  rfl

end

theorem mem_addNew {n x : Nat} {l : List Nat} : x ∈ addNew n l ↔ x ∈ l ∨ x = n := by
  unfold addNew
  split
  · next h =>
    have hn : n ∈ l := by simpa using h
    exact ⟨.inl, fun hx => hx.elim id fun he => he ▸ hn⟩
  · simp

/-! A reset (R332). -/

theorem State.parts_appendMonument (s : State) (kind fields : Nat) : (s.appendMonument kind fields).parts = s.parts := by
  unfold State.appendMonument
  split <;> rfl

theorem State.dev_appendMonument (s : State) (kind fields : Nat) : (s.appendMonument kind fields).dev = s.dev := by
  unfold State.appendMonument
  split <;> rfl

theorem State.mapSpare_keeps (s : State) (g : Nat) : (s.mapSpare g).parts = s.parts ∧ (s.mapSpare g).dev = s.dev := by
  unfold State.mapSpare
  split
  · split
    · exact ⟨rfl, rfl⟩
    · exact ⟨State.parts_appendMonument _ _ _, State.dev_appendMonument _ _ _⟩
  · exact ⟨rfl, rfl⟩

theorem State.foldl_mapSpare_keeps (gs : List Nat) : ∀ s : State,
    (gs.foldl State.mapSpare s).parts = s.parts ∧ (gs.foldl State.mapSpare s).dev = s.dev := by
  induction gs with
  | nil => exact fun s => ⟨rfl, rfl⟩
  | cons g gs ih =>
    exact fun s => ⟨(ih _).1.trans (s.mapSpare_keeps g).1, (ih _).2.trans (s.mapSpare_keeps g).2⟩

/-- A partition with its groups, origins, weights and round gone. -/
def Part.cleared (pt : Part) : Part := { newPart pt.tiles pt.datum [] with grants := pt.grants }

/-- A package whose partition `p` has lost its tasks, its records and its cards (R332). -/
def State.resetWork (s : State) (p : Nat) : State :=
  let tiles := s.partTiles p
  let held := (tiles.map (fun g => (s.tile g).chunk)).flatten
  let s := tiles.foldl (fun s g => s.setTile g { s.tile g with chunk := [] }) s
  let s := (tiles.filter (fun g => (s.tile g).task.live)).foldl (fun s g => s.endTask g 2 0x13) s
  let s := ((s.savedWhere (fun v => tiles.contains v.home)).foldl (fun s u => s.dropSaved u 2 0x13) s).recordEnds
  ((s.openCards.filter (fun e => e.2.partition == p)).map (fun e => e.1)).foldl (fun s n => s.resetCard n held) s

/-- A package with partition `p` cleared, its aborts gone and the notice queue empty. -/
def State.clearPart (s : State) (p : Nat) : State :=
  ((State.devSet { s with
    parts := s.parts.map (fun (e : Nat × Part) => if e.1 = p then (e.1, e.2.cleared) else e)
    aborts := s.aborts.filter (fun a => a.2.1 != p) } 0x2010 0).devSet 0x2018 0).devSet 0x2020 0

theorem State.resetPart_eq (s : State) (p : Nat) :
    s.resetPart p = (s.partTiles p).foldl State.mapSpare ((s.resetWork p).clearPart p) := rfl

theorem State.parts_clearPart (s : State) (p : Nat) :
    (s.clearPart p).parts = s.parts.map (fun (e : Nat × Part) => if e.1 = p then (e.1, e.2.cleared) else e) := rfl

theorem State.parts_resetPart (s : State) (p : Nat) : (s.resetPart p).parts =
    (s.resetWork p).parts.map (fun (e : Nat × Part) => if e.1 = p then (e.1, e.2.cleared) else e) := by
  rw [State.resetPart_eq, (State.foldl_mapSpare_keeps _ _).1, State.parts_clearPart]

theorem State.devGet_resetPart (s : State) (p off : Nat) :
    (s.resetPart p).devGet off = ((s.resetWork p).clearPart p).devGet off := by
  rw [State.resetPart_eq, State.devGet, (State.foldl_mapSpare_keeps _ _).2, State.devGet]

theorem exec_partitionReset {pt : Part} (h : HubTakes s 7 v) (hp : Store.find s.parts (hubPart v) = some pt) :
    exec (.partitionReset v) s = .next ((s.resetPart (hubPart v)).hubBegin v 0) := by
  change execPartitionReset v s = _
  rw [execPartitionReset, h.hubRun]
  rw [hp, if_neg (by simp)]

/-! Saves at system software's request (R336). -/

/-- A tile of partition `p` sent STOP at system software's request. -/
def State.saveOne (p : Nat) (s : State) (g : Nat) : State :=
  if (s.tile g).stoppable then
    match Store.find s.parts p with
    | some pt => State.sendStop { s with parts := Store.put s.parts p { pt with wanted := addNew g pt.wanted } } g
    | none => s
  else s

/-- A tile that a STOP has been sent to. -/
def Tile.stopped (t : Tile) : Tile := { t with stop := some none, l := { t.l with stopIn := true } }

section
variable {p g h : Nat}

theorem State.find_saveOne (hp : ∃ pt, Store.find s.parts p = some pt) : ∃ pt, Store.find (s.saveOne p g).parts p = some pt := by
  obtain ⟨pt, hpt⟩ := hp
  unfold State.saveOne
  split
  · rw [hpt]
    exact ⟨_, Store.find_put_same _ _ _⟩
  · exact ⟨pt, hpt⟩

theorem State.tile_saveOne_ne (hg : h ≠ g) : (s.saveOne p g).tile h = s.tile h := by
  unfold State.saveOne
  split
  · split
    · exact State.tile_setTile_ne _ _ hg
    · rfl
  · rfl

theorem State.tile_saveOne (hp : ∃ pt, Store.find s.parts p = some pt) (hstop : (s.tile g).stoppable = true) :
    (s.saveOne p g).tile g = (s.tile g).stopped := by
  obtain ⟨pt, hpt⟩ := hp
  rw [State.saveOne, if_pos hstop, hpt]
  exact State.tile_setTile_same _ _ _

theorem State.saveOne_of_not (hstop : (s.tile g).stoppable = false) : s.saveOne p g = s := if_neg (by simp [hstop])

theorem State.sameBytes_saveOne {r : State} (hs : SameBytes r s) : SameBytes r (s.saveOne p g) := by
  unfold State.saveOne
  split
  · split
    · refine ⟨hs.1, hs.2.1, fun h a => ?_⟩
      rw [← hs.2.2 h a, State.sendStop, State.tile_setTile]
      split
      · next hg => rw [hg]; rfl
      · rfl
    · exact hs
  · exact hs

theorem Tile.stoppable_stopped (t : Tile) : t.stopped.stoppable = false := by simp [Tile.stoppable, Tile.stopped]

theorem State.sameBytes_foldl_saveOne {r : State} (gs : List Nat) :
    ∀ s : State, SameBytes r s → SameBytes r (gs.foldl (State.saveOne p) s) := by
  induction gs with
  | nil => exact fun s hs => hs
  | cons g gs ih => exact fun s hs => ih _ (State.sameBytes_saveOne hs)

/-- A tile that takes no STOP is left alone. -/
theorem State.tile_foldl_saveOne_of_not (gs : List Nat) : ∀ s : State, (s.tile g).stoppable = false →
    (gs.foldl (State.saveOne p) s).tile g = s.tile g := by
  induction gs with
  | nil => exact fun s _ => rfl
  | cons h gs ih =>
    intro s hstop
    have hsame : (s.saveOne p h).tile g = s.tile g := by
      by_cases hg : g = h
      · rw [State.saveOne_of_not (hg ▸ hstop)]
      · exact State.tile_saveOne_ne hg
    rw [List.foldl_cons, ih _ (hsame ▸ hstop), hsame]

theorem State.tile_foldl_saveOne {gs : List Nat} (hg : g ∈ gs) : ∀ s : State, (∃ pt, Store.find s.parts p = some pt) →
    (s.tile g).stoppable = true → (gs.foldl (State.saveOne p) s).tile g = (s.tile g).stopped := by
  induction gs with
  | nil => cases hg
  | cons h gs ih =>
    intro s hp hstop
    by_cases heq : g = h
    · subst heq
      have hsame := State.tile_saveOne hp hstop
      rw [List.foldl_cons, State.tile_foldl_saveOne_of_not gs _ (hsame ▸ Tile.stoppable_stopped _), hsame]
    · have hsame : (s.saveOne p h).tile g = s.tile g := State.tile_saveOne_ne heq
      rw [List.foldl_cons, ih ((List.mem_cons.1 hg).resolve_left heq) _ (State.find_saveOne hp) (hsame ▸ hstop), hsame]

end

theorem exec_saveTile {p : Nat} {pt : Part} (h : HubTakes s 8 v) (hp : s.partOf (hubTile v) = some (p, pt))
    (hidle : pt.datum = true → s.holdsCard p = false) :
    exec (.saveTile v) s = .next (([hubTile v].foldl (State.saveOne p) s).hubBegin v 0) := by
  change execSaveTile v s = _
  rw [execSaveTile, h.hubRun]
  rw [hp]
  dsimp only
  rw [if_neg (by simpa using hidle)]
  rfl

theorem exec_savePartition {pt : Part} (h : HubTakes s 9 v) (hp : Store.find s.parts (hubPart v) = some pt)
    (hidle : pt.datum = true → s.holdsCard (hubPart v) = false) :
    exec (.savePartition v) s = .next ((pt.tiles.foldl (State.saveOne (hubPart v)) s).hubBegin v 0) := by
  change execSavePartition v s = _
  rw [execSavePartition, h.hubRun]
  rw [hp]
  dsimp only
  rw [if_neg (by simpa using hidle)]
  rfl

end

/-- Settles O51: the partition commands of HUBCMD. -/
theorem partitionCommands : Obligations.PartitionCommands := by
  refine ⟨fun s v bs p h hp hok hbs hnew hfree => ?_, fun s v pt c p x hp hpv hc hx => ?_, fun s v pt h hp => ?_,
    fun s v p pt h hpart hp hidle hstop => ?_, fun s v pt h hp hidle => ?_⟩
  · subst hp
    obtain ⟨hhub, hfind, hsame⟩ := hubbed_withPart s v (hubPart v)
      (newPart (imageTiles (leNat bs)) (hubDatum v) (imageWeights (leNat bs))) 0
    refine ⟨_, _, exec_definePartition h hok hbs hnew hfree, hhub, hfind, rfl, rfl, rfl, rfl, hsame, fun g => ?_, fun n hn => ?_⟩
    · rw [newPart_tiles]
      exact mem_imageTiles
    · rw [newPart_enw]
      exact get_imageWeights hn
  · subst hpv hx
    refine ⟨fun h hown => ?_, fun h hdatum hother => ?_, fun h hnodup => ?_⟩
    · obtain ⟨hhub, hfind, hsame⟩ := hubbed_withPart s v (hubPart v) { pt with grants := addNew (hubCtx v) pt.grants } 0
      have hgo : ¬ (pt.datum = true ∧ pt.grants.any (· != hubCtx v) = true) := by
        rintro ⟨hdatum, hany⟩
        obtain ⟨y, hy, hne⟩ := List.any_eq_true.1 hany
        exact bne_iff_ne.1 hne (hown hdatum y hy)
      exact ⟨_, _, (exec_grant hp hc h).trans (if_neg hgo), hhub, hfind, mem_addNew.2 (.inr rfl), fun y hy => mem_addNew.2 (.inl hy),
        rfl, hsame⟩
    · obtain ⟨y, hy, hne⟩ := hother
      have hany : pt.grants.any (· != hubCtx v) = true := List.any_eq_true.2 ⟨y, hy, bne_iff_ne.2 hne⟩
      exact ⟨_, (exec_grant hp hc h).trans (if_pos ⟨hdatum, hany⟩), State.hubBegin_hubbed s v 2, s.parts_hubBegin v 2⟩
    · obtain ⟨hhub, hfind, hsame⟩ := hubbed_withPart s v (hubPart v) { pt with grants := pt.grants.erase (hubCtx v) } 0
      exact ⟨_, _, exec_revoke hp hc h, hhub, hfind, hnodup.not_mem_erase, rfl, hsame⟩
  · refine ⟨_, exec_partitionReset h hp, State.hubBegin_hubbed _ v 0, ?_, ?_, fun e he hpart => ?_⟩
    · rw [State.devGet_hubBegin _ v 0 (by decide) (by decide), State.devGet_resetPart, State.clearPart,
        State.devGet_devSet_ne _ _ (by decide), State.devGet_devSet_ne _ _ (by decide), State.devGet_devSet_same]
    · rw [State.devGet_hubBegin _ v 0 (by decide) (by decide), State.devGet_resetPart, State.clearPart,
        State.devGet_devSet_ne _ _ (by decide), State.devGet_devSet_same]
    · rw [State.parts_hubBegin, State.parts_resetPart] at he
      obtain ⟨e', -, rfl⟩ := List.mem_map.1 he
      have hkey : e'.1 = hubPart v := by
        by_contra hne
        rw [if_neg hne] at hpart
        exact hne hpart
      rw [if_pos hkey]
      exact ⟨rfl, rfl, rfl, rfl, rfl, rfl⟩
  · have htile := State.tile_foldl_saveOne (List.mem_singleton.2 rfl) s ⟨pt, hp⟩ hstop
    refine ⟨_, exec_saveTile h hpart hidle, State.hubBegin_hubbed _ v 0, ?_, ?_, ?_,
      State.sameBytes_hubBegin _ v 0 (State.sameBytes_foldl_saveOne _ _ (.refl s))⟩
    all_goals rw [State.tile_hubBegin, htile]; rfl
  · refine ⟨_, exec_savePartition h hp hidle, State.hubBegin_hubbed _ v 0,
      State.sameBytes_hubBegin _ v 0 (State.sameBytes_foldl_saveOne _ _ (.refl s)), fun g hg hstop => ?_⟩
    rw [State.tile_hubBegin, State.tile_foldl_saveOne hg s ⟨pt, hp⟩ hstop]
    exact ⟨rfl, rfl⟩

end Sys2Proof.Machine

/-!
Elements written to registers and lines.
-/

namespace Sys2Proof.Machine

/-! Elements written to registers and lines (R37, R65, R125). -/

theorem typeBits_cases (t : Nat) : typeBits t = 32 ∨ typeBits t = 16 ∨ typeBits t = 8 ∨ typeBits t = 4 := by
  unfold typeBits
  split <;> simp

theorem typeBits_le (t : Nat) : typeBits t ≤ 32 := by
  have := typeBits_cases t
  omega

theorem typeBits_pos (t : Nat) : 0 < typeBits t := by
  have := typeBits_cases t
  omega

/-- Lanes of a vector register written one after another. -/
theorem XRes.get_putLanes (f : Nat → U32) (wr : Nat → Bool) (n : Nat) : ∀ (js : List Nat) (v : Store U32) (i : Nat),
    Store.get 0 (js.foldl (fun v j => if wr j then Store.set 0 v (64 * n + j) (f j) else v) v) i =
      if ∃ j ∈ js, wr j = true ∧ i = 64 * n + j then f (i - 64 * n) else Store.get 0 v i := by
  intro js
  induction js with
  | nil => simp
  | cons k js ih =>
    intro v i
    rw [List.foldl_cons, ih]
    by_cases hlater : ∃ j ∈ js, wr j = true ∧ i = 64 * n + j
    · obtain ⟨j, hj, hw⟩ := hlater
      rw [if_pos ⟨j, hj, hw⟩, if_pos ⟨j, List.mem_cons_of_mem _ hj, hw⟩]
    · rw [if_neg hlater]
      by_cases hk : wr k = true ∧ i = 64 * n + k
      · rw [if_pos hk.1, if_pos ⟨k, List.mem_cons_self, hk⟩, hk.2, Store.get_set_same, Nat.add_sub_cancel_left]
      · have hnone : ¬ ∃ j ∈ k :: js, wr j = true ∧ i = 64 * n + j := by
          rintro ⟨j, hj, hw⟩
          obtain rfl | hj := List.mem_cons.1 hj
          · exact hk hw
          · exact hlater ⟨j, hj, hw⟩
        rw [if_neg hnone]
        split
        · next hw => exact Store.get_set_ne _ _ _ fun he => hk ⟨hw, he⟩
        · rfl

theorem Tile.lane_putElems (t : Tile) (ty n m j : Nat) (new : List Nat) (wr : List Bool) (hj : j < 64) :
    (t.putElems ty (.vreg n) new wr).xr.lane m j =
      if m = n ∧ wr.getD j false = true then new.getD j 0 % 2 ^ typeBits ty else t.xr.lane m j := by
  have hget := XRes.get_putLanes (fun j => BitVec.ofNat 32 (new.getD j 0 % 2 ^ typeBits ty)) (fun j => wr.getD j false) n
    (List.range 64) t.xr.v (64 * m + j)
  have hiff : (∃ k ∈ List.range 64, wr.getD k false = true ∧ 64 * m + j = 64 * n + k) ↔ m = n ∧ wr.getD j false = true := by
    constructor
    · rintro ⟨k, hk, hw, he⟩
      rw [List.mem_range] at hk
      obtain ⟨rfl, rfl⟩ : m = n ∧ j = k := by omega
      exact ⟨rfl, hw⟩
    · rintro ⟨rfl, hw⟩
      exact ⟨j, List.mem_range.2 hj, hw, rfl⟩
  have hlow : ∀ x, (BitVec.ofNat 32 (x % 2 ^ typeBits ty)).toNat = x % 2 ^ typeBits ty := fun x => by
    rw [BitVec.toNat_ofNat]
    exact Nat.mod_eq_of_lt ((Nat.mod_lt _ (Nat.two_pow_pos _)).trans_le (Nat.pow_le_pow_right (by omega) (typeBits_le ty)))
  rw [XRes.lane]
  refine (congrArg BitVec.toNat hget).trans ?_
  rw [if_congr hiff rfl rfl]
  split
  · next h => rw [hlow, h.1, Nat.add_sub_cancel_left]
  · rfl

/-- A number whose bits below `n` are given one by one. -/
def bitSum (f : Nat → Nat) (n : Nat) : Nat := (List.range n).foldl (fun v j => v + f j * 2 ^ j) 0

theorem bitSum_succ (f : Nat → Nat) (n : Nat) : bitSum f (n + 1) = bitSum f n + f n * 2 ^ n := by
  rw [bitSum, List.range_succ, List.foldl_append]
  rfl

section
variable {f : Nat → Nat} (hf : ∀ j, f j < 2)
include hf

theorem bitSum_lt (n : Nat) : bitSum f n < 2 ^ n := by
  induction n with
  | zero => exact Nat.one_pos
  | succ n ih =>
    have := hf n
    rw [bitSum_succ, Nat.pow_succ]
    nlinarith

theorem bit_bitSum {n j : Nat} (hj : j < n) : bit (bitSum f n) j = f j := by
  induction n with
  | zero => omega
  | succ n ih =>
    rw [bit, bitsAt, bitSum_succ, Nat.pow_one]
    obtain hlt | rfl := Nat.lt_succ_iff_lt_or_eq.1 hj
    · have hsplit : f n * 2 ^ n = f n * 2 ^ (n - j - 1) * 2 * 2 ^ j := by
        rw [Nat.mul_assoc, ← Nat.pow_succ', Nat.mul_assoc, ← Nat.pow_add]
        congr 2
        omega
      rw [hsplit, Nat.add_mul_div_right _ _ (Nat.two_pow_pos j), Nat.add_mul_mod_self_right]
      have := ih hlt
      rwa [bit, bitsAt, Nat.pow_one] at this
    · rw [Nat.add_mul_div_right _ _ (Nat.two_pow_pos j), Nat.div_eq_of_lt (bitSum_lt hf j), Nat.zero_add,
        Nat.mod_eq_of_lt (hf j)]

end

theorem Tile.mask_putElems (t : Tile) (ty n : Nat) (new : List Nat) (wr : List Bool) (hn : 0 < n) :
    (t.putElems ty (.mask n) new wr).xr.mask n = bitSum (fun j => if wr.getD j false then new.getD j 0 % 2 else 0) 64 := by
  have hadd : (fun (v j : Nat) => if wr.getD j false then v + new.getD j 0 % 2 * 2 ^ j else v) =
      fun v j => v + (if wr.getD j false then new.getD j 0 % 2 else 0) * 2 ^ j := by
    funext v j
    split <;> simp
  have hlt := bitSum_lt (f := fun j => if wr.getD j false then new.getD j 0 % 2 else 0) (fun j => by split <;> omega) 64
  rw [XRes.mask, if_neg (by omega)]
  refine (congrArg BitVec.toNat (Store.get_set_same _ _ _ _)).trans ?_
  rw [BitVec.toNat_ofNat, hadd]
  exact Nat.mod_eq_of_lt hlt

theorem Tile.mask_putElems_ne (t : Tile) (ty : Nat) {n m : Nat} (new : List Nat) (wr : List Bool) (h : m ≠ n) :
    (t.putElems ty (.mask n) new wr).xr.mask m = t.xr.mask m := by
  rw [XRes.mask, XRes.mask]
  split
  · rfl
  · exact congrArg BitVec.toNat (Store.get_set_ne _ _ _ h)

theorem getD_map_range (f : Nat → Nat) {n j : Nat} (h : j < n) : ((List.range n).map f).getD j 0 = f j := by
  rw [List.getD_eq_getElem _ _ (by simpa using h), List.getElem_map, List.getElem_range]

theorem getD_replicate {n j : Nat} (v : Nat) (h : j < n) : (List.replicate n v).getD j 0 = v := by
  rw [List.getD_eq_getElem _ _ (by simpa using h), List.getElem_replicate]

/-! Elements in lines (R37, R65). -/

theorem pow_bytes (n : Nat) : 256 ^ n = 2 ^ (8 * n) := (Nat.pow_mul 2 8 n).symm

theorem pow_line : 256 ^ 64 = 2 ^ 512 := (pow_bytes 64).trans (congrArg (2 ^ ·) (by norm_num : 8 * 64 = 512))

theorem leNat_append (xs ys : List Byte) : leNat (xs ++ ys) = leNat xs + 256 ^ xs.length * leNat ys := by
  induction xs with
  | nil => simp [leNat]
  | cons x xs ih =>
    rw [List.cons_append, leNat, leNat, ih, List.length_cons, Nat.pow_succ]
    ring

theorem bitsAt_add_high {a b n lo w : Nat} (h : lo + w ≤ n) : bitsAt (a + 2 ^ n * b) lo w = bitsAt a lo w := by
  have hsplit : 2 ^ n * b = 2 ^ w * (2 ^ (n - lo - w) * b) * 2 ^ lo := by
    rw [show n = w + (n - lo - w) + lo by omega, Nat.pow_add, Nat.pow_add, show w + (n - lo - w) + lo - lo - w = n - lo - w by omega]
    ring
  rw [bitsAt, bitsAt, hsplit, Nat.add_mul_div_right _ _ (Nat.two_pow_pos lo), Nat.add_mul_mod_self_left]

theorem bitsAt_add_low {a b n lo w : Nat} (ha : a < 2 ^ n) (h : n ≤ lo) : bitsAt (a + 2 ^ n * b) lo w = bitsAt b (lo - n) w := by
  have hlo : 2 ^ lo = 2 ^ n * 2 ^ (lo - n) := by rw [← Nat.pow_add]; congr 1; omega
  rw [bitsAt, bitsAt, hlo, ← Nat.div_div_eq_div_mul, Nat.add_mul_div_left _ _ (Nat.two_pow_pos n), Nat.div_eq_of_lt ha,
    Nat.zero_add]

/-- A field of consecutive lines that lies in one of them. -/
theorem bitsAt_flatten {w off : Nat} (hoff : off + w ≤ 512) : ∀ (ls : List (List Byte)) (k : Nat), (∀ l ∈ ls, l.length = 64) →
    bitsAt (leNat ls.flatten) (512 * k + off) w = bitsAt (leNat (ls.getD k [])) off w := by
  intro ls
  induction ls with
  | nil =>
    intro k _
    simp [leNat, bitsAt]
  | cons l ls ih =>
    intro k hlen
    rw [List.forall_mem_cons] at hlen
    have hl : 256 ^ l.length = 2 ^ 512 := by rw [hlen.1, pow_line]
    rw [List.flatten_cons, leNat_append, hl]
    cases k with
    | zero =>
      rw [Nat.mul_zero, Nat.zero_add, bitsAt_add_high hoff]
      rfl
    | succ k =>
      rw [bitsAt_add_low (hl ▸ leNat_lt l) (by omega), show 512 * (k + 1) + off - 512 = 512 * k + off by omega, ih k hlen.2]
      rfl

/-- An element lies in one line. -/
theorem typeBits_fits (ty e : Nat) : e * typeBits ty % 512 + typeBits ty ≤ 512 := by
  obtain h | h | h | h := typeBits_cases ty <;> rw [h] <;> omega

theorem VJob.getD_elems {j : VJob} {op ty n e L : Nat} {ls : List Int}
    (hreads : j.reads.find? (fun r => r.1 == op) = some (op, ls)) (he : e < n) (hk : e * typeBits ty / 512 < ls.length)
    (hgot : j.got.find? (fun g => g.1 == op && g.2.1 == e * typeBits ty / 512) = some (op, e * typeBits ty / 512, L))
    (hL : L < 2 ^ 512) : (j.elems op ty n).getD e 0 = L / 2 ^ (e * typeBits ty % 512) % 2 ^ typeBits ty := by
  rw [VJob.elems, hreads, lineElems]
  rw [getD_map_range _ he]
  have hsplit : e * typeBits ty = 512 * (e * typeBits ty / 512) + e * typeBits ty % 512 := (Nat.div_add_mod _ _).symm
  have hlen : ∀ l ∈ (List.range ls.length).map (fun k => leBytes 64 ((j.got.find? (fun g => g.1 == op && g.2.1 == k)).elim 0
      (fun g => g.2.2))), l.length = 64 := by
    intro l hl
    obtain ⟨k, -, rfl⟩ := List.mem_map.1 hl
    exact leBytes_length _ _
  refine (congrArg (bitsAt _ · (typeBits ty)) hsplit).trans ((bitsAt_flatten (typeBits_fits ty e) _ _ hlen).trans ?_)
  have hline : ((List.range ls.length).map fun k => leBytes 64 ((j.got.find? (fun g => g.1 == op && g.2.1 == k)).elim 0
      (fun g => g.2.2))).getD (e * typeBits ty / 512) [] = leBytes 64 L := by
    rw [List.getD_eq_getElem _ _ (by simpa using hk), List.getElem_map, List.getElem_range, hgot]
    rfl
  rw [hline, leNat_leBytes, pow_line, Nat.mod_eq_of_lt hL]

/-- Fields of a number written one after another, each its own. -/
theorem bitsAt_putFields {w : Nat} (f : Nat → Nat) (wr : Nat → Bool) (n : Nat) : ∀ (js : List Nat) (v : Nat),
    bitsAt (js.foldl (fun v j => if wr j then withField v (j * w) w (f j) else v) v) (n * w) w =
      if n ∈ js ∧ wr n = true then f n % 2 ^ w else bitsAt v (n * w) w := by
  intro js
  induction js with
  | nil => simp
  | cons k js ih =>
    intro v
    rw [List.foldl_cons, ih]
    by_cases hlater : n ∈ js ∧ wr n = true
    · rw [if_pos hlater, if_pos ⟨List.mem_cons_of_mem _ hlater.1, hlater.2⟩]
    · rw [if_neg hlater]
      by_cases hk : n = k
      · subst hk
        split
        · next hw => rw [if_pos ⟨List.mem_cons_self, hw⟩, bitsAt_withField_same]
        · next hw => rw [if_neg fun h => hw h.2]
      · have hiff : (n ∈ k :: js ∧ wr n = true) ↔ (n ∈ js ∧ wr n = true) := by simp [hk]
        rw [if_congr hiff rfl rfl, if_neg hlater]
        split
        · refine bitsAt_withField_disjoint ?_
          obtain hlt | hgt := Nat.lt_or_gt_of_ne hk
          · exact .inr (by calc n * w + w = (n + 1) * w := by ring
              _ ≤ k * w := Nat.mul_le_mul_right w hlt)
          · exact .inl (by calc k * w + w = (k + 1) * w := by ring
              _ ≤ n * w := Nat.mul_le_mul_right w hgt)
        · rfl

theorem bitsAt_patchLine {ty n : Nat} (old : List Byte) (first : Nat) (new : List Nat) (wr : List Bool)
    (hn : n < min 64 (512 / typeBits ty)) :
    bitsAt (leNat (patchLine ty old first new wr)) (n * typeBits ty) (typeBits ty) =
      if wr.getD (first + n) false then new.getD (first + n) 0 % 2 ^ typeBits ty
      else bitsAt (leNat old) (n * typeBits ty) (typeBits ty) := by
  have hfit : n * typeBits ty + typeBits ty ≤ 512 := by
    obtain h | h | h | h := typeBits_cases ty <;> rw [h] at hn ⊢ <;> omega
  have hput := bitsAt_putFields (w := typeBits ty) (fun j => new.getD (first + j) 0) (fun j => wr.getD (first + j) false) n
    (List.range (min 64 (512 / typeBits ty))) (leNat old)
  rw [patchLine, leNat_leBytes, pow_line]
  have hmod : ∀ v, bitsAt (v % 2 ^ 512) (n * typeBits ty) (typeBits ty) = bitsAt v (n * typeBits ty) (typeBits ty) := fun v => by
    conv_rhs => rw [← Nat.mod_add_div v (2 ^ 512)]
    rw [bitsAt_add_high hfit]
  rw [hmod]
  refine hput.trans ?_
  simp only [List.mem_range, hn, true_and]

end Sys2Proof.Machine

/-!
Rounding of representable values (O47).
-/

namespace Sys2Proof.Machine

/-! Rounding a value that a type holds (R59, R76). -/

theorem onGrid_exact (neg : Bool) (m : Nat) (e : Int) (rnd : Nat) (sr : U32) : onGrid neg m e false e rnd sr = (m, m, false) := by
  simp [onGrid]

/-- The widths of a floating-point type: its element, exponent and fraction, its largest code, and whether it has infinities. -/
structure FloatFormat (t tb we wf mc : Nat) (inf : Bool) : Prop where
  typeBits : Machine.typeBits t = tb
  expBits : Machine.expBits t = we
  fracBits : Machine.fracBits t = wf
  maxCode : Machine.maxCode t = mc
  hasInf : Machine.hasInf t = inf

/-- The floating-point types (R58). -/
theorem floatFormats {t : Nat} (ht : t ≤ 5) : FloatFormat t 32 8 23 0x7F7FFFFF true ∨ FloatFormat t 16 8 7 0x7F7F true ∨
    FloatFormat t 16 5 10 0x7BFF true ∨ (FloatFormat t 8 4 3 0x7E false ∧ slotType t = 3) ∨ FloatFormat t 8 5 2 0x7B true ∨
    FloatFormat t 4 2 1 7 false := by
  interval_cases t
  · exact .inl ⟨rfl, rfl, rfl, rfl, rfl⟩
  · exact .inr (.inl ⟨rfl, rfl, rfl, rfl, rfl⟩)
  · exact .inr (.inr (.inl ⟨rfl, rfl, rfl, rfl, rfl⟩))
  · exact .inr (.inr (.inr (.inl ⟨⟨rfl, rfl, rfl, rfl, rfl⟩, rfl⟩)))
  · exact .inr (.inr (.inr (.inr (.inl ⟨rfl, rfl, rfl, rfl, rfl⟩))))
  · exact .inr (.inr (.inr (.inr (.inr ⟨rfl, rfl, rfl, rfl, rfl⟩))))

theorem typeInt_float {t : Nat} (ht : t ≤ 5) : typeInt t = false := by
  interval_cases t <;> rfl

/-- The code of a floating-point element, its sign aside, from its exponent and its fraction. -/
theorem float_code {t bits : Nat} (ht : t ≤ 5) (hbits : bits < 2 ^ typeBits t) :
    withSign t (decide (bit bits (expBits t + fracBits t) = 1))
      (bitsAt bits (fracBits t) (expBits t) * 2 ^ fracBits t + bitsAt bits 0 (fracBits t)) = bits := by
  rw [withSign]
  obtain h | h | h | ⟨h, -⟩ | h | h := floatFormats ht <;>
    simp only [h.typeBits, h.expBits, h.fracBits, bit, bitsAt, decide_eq_true_eq] at hbits ⊢ <;> split <;> omega

/-- The largest finite value has the largest code that is no infinity and no NaN (R58). -/
theorem float_code_le {t bits : Nat} (ht : t ≤ 5) (hfin : ∃ n m e, decodeFloat t bits = .fin n m e false) :
    bitsAt bits (fracBits t) (expBits t) * 2 ^ fracBits t + bitsAt bits 0 (fracBits t) ≤ maxCode t := by
  obtain ⟨n, m, e, hfin⟩ := hfin
  have hinf : ¬ (hasInf t = true ∧ bitsAt bits (fracBits t) (expBits t) = 2 ^ expBits t - 1) := by
    intro h
    rw [decodeFloat] at hfin
    split at hfin
    · cases hfin
    · split at hfin <;> cases hfin
  have hnan : ¬ (slotType t = 3 ∧ bitsAt bits 0 7 = 0x7F) := by
    intro h
    rw [decodeFloat] at hfin
    rw [if_pos h] at hfin
    cases hfin
  obtain h | h | h | ⟨h, h3⟩ | h | h := floatFormats ht
  case inr.inr.inr.inl =>
    simp only [h3, h.expBits, h.fracBits, h.maxCode, bitsAt, true_and] at hnan ⊢
    omega
  all_goals
    simp only [h.expBits, h.fracBits, h.maxCode, h.hasInf, bitsAt, true_and] at hinf ⊢
    omega

/-- A value of a type is rounded on the grid that it stands on. -/
theorem roundTo_exact {t m : Nat} {e : Int} (neg : Bool) (rnd : Nat) (sat : Bool) (sr : U32) (hint : typeInt t = false) (hm : m ≠ 0)
    (hex : max ((Nat.log2 m : Int) + e) (1 - (biasOf t : Int)) = e + fracBits t)
    (hmax : (e + fracBits t - (1 - (biasOf t : Int))).toNat * 2 ^ fracBits t + m ≤ maxCode t) :
    roundTo (.fin neg m e false) t rnd sat sr =
      (withSign t neg ((e + fracBits t - (1 - (biasOf t : Int))).toNat * 2 ^ fracBits t + m), 0) := by
  rw [roundTo]
  dsimp only
  rw [if_neg (by simp [hm]), if_neg (by simp [hint]), hex, Int.add_sub_cancel, onGrid_exact]
  exact if_neg (not_lt.2 hmax)

theorem roundTo_decodeFloat {t bits : Nat} (rm : Nat) (sat : Bool) (sr : U32) (ht : t ≤ 5) (hbits : bits < 2 ^ typeBits t)
    (hfin : ∃ n m e, decodeFloat t bits = .fin n m e false) : roundTo (decodeFloat t bits) t rm sat sr = (bits, 0) := by
  have hcode := float_code ht hbits
  have hmax := float_code_le ht hfin
  obtain ⟨n, m, e, hfin⟩ := hfin
  have hint := typeInt_float ht
  have hF : bitsAt bits 0 (fracBits t) < 2 ^ fracBits t := Nat.mod_lt _ (Nat.two_pow_pos _)
  rw [hfin]
  rw [decodeFloat] at hfin
  generalize bitsAt bits (fracBits t) (expBits t) = E at hcode hmax hfin
  generalize bitsAt bits 0 (fracBits t) = F at hcode hmax hfin hF
  split at hfin
  · cases hfin
  split at hfin
  · split at hfin <;> cases hfin
  split at hfin
  · next hE =>
    obtain ⟨rfl, rfl, rfl, -⟩ := FVal.fin.inj hfin
    subst hE
    rw [Nat.zero_mul, Nat.zero_add] at hcode hmax
    by_cases hz : F = 0
    · subst hz
      rw [roundTo]
      simp [hint, hcode]
    · have hlog : Nat.log2 F < fracBits t := (Nat.log2_lt hz).2 hF
      rw [roundTo_exact _ rm sat sr hint hz (by omega) (by simpa using hmax)]
      simpa using hcode
  · next hE =>
    obtain ⟨rfl, rfl, rfl, -⟩ := FVal.fin.inj hfin
    have hm : 2 ^ fracBits t + F ≠ 0 := by have := Nat.two_pow_pos (fracBits t); omega
    have hlog : Nat.log2 (2 ^ fracBits t + F) = fracBits t := by
      refine (Nat.log2_eq_iff hm).2 ⟨Nat.le_add_right _ _, ?_⟩
      rw [Nat.pow_succ]
      omega
    have hexp : ((E : Int) - biasOf t - fracBits t + fracBits t - (1 - (biasOf t : Int))).toNat = E - 1 := by omega
    have hsum : (E - 1) * 2 ^ fracBits t + (2 ^ fracBits t + F) = E * 2 ^ fracBits t + F := by
      obtain ⟨k, rfl⟩ := Nat.exists_eq_add_of_le (Nat.one_le_iff_ne_zero.2 hE)
      rw [Nat.add_sub_cancel_left]
      ring
    rw [roundTo_exact _ rm sat sr hint hm (by rw [hlog]; omega) (by rwa [hexp, hsum]), hexp, hsum, hcode]

theorem decodeInt_range {t : Nat} (ht : 9 ≤ t ∧ t ≤ 13) (bits : Nat) : intMin t ≤ decodeInt t bits ∧ decodeInt t bits ≤ intMax t := by
  obtain ⟨hlo, hhi⟩ := ht
  interval_cases t <;> simp [intMin, intMax, decodeInt, typeSigned, typeBits, signed] <;> omega

theorem roundTo_decodeInt {t bits : Nat} (rm : Nat) (sat : Bool) (sr : U32) (ht : 9 ≤ t ∧ t ≤ 13) (hbits : bits < 2 ^ typeBits t) :
    roundTo (.ofInt (decodeInt t bits)) t rm sat sr = (bits, 0) := by
  have hint : typeInt t = true := decide_eq_true ht
  have hcode := intBits_decodeInt (t := t) hbits
  have hrange := decodeInt_range ht bits
  rw [FVal.ofInt, roundTo]
  dsimp only
  generalize decodeInt t bits = i at hcode hrange
  have hback : (if decide (i < 0) = true then -(i.natAbs : Int) else (i.natAbs : Int)) = i := by
    split
    · next h =>
      have h : i < 0 := by simpa using h
      omega
    · next h =>
      have h : ¬ i < 0 := by simpa using h
      omega
  by_cases hz : i.natAbs = 0
  · obtain rfl : i = 0 := Int.natAbs_eq_zero.1 hz
    rw [if_pos (by simp)]
    rw [← hcode, hint]
    simp [intBits, wrapTo]
  · rw [if_neg (by simpa using hz), if_pos hint, onGrid_exact]
    dsimp only
    rw [hback, if_neg (by omega), hcode]
    rfl

/-- Settles O47: elements written and read, and the rounding of representable values. -/
theorem elementsAndRounding : Obligations.ElementsAndRounding := by
  refine ⟨fun t ty n j new wr hj => ⟨?_, fun m hm => ?_⟩, fun t ty n j new wr hj hn => ⟨?_, fun m => t.mask_putElems_ne ty new wr⟩,
    fun t lits ty n j hj => ⟨getD_map_range _ hj, getD_replicate _ hj⟩, fun j op ty n e k L ls hreads he hk hlen hgot hL => ?_,
    fun t u j k l n m els wr w p hplan hwrite hl hn hm hu => ?_, fun t bits rm sat sr ht hbits _ hfin =>
      roundTo_decodeFloat rm sat sr ht hbits hfin, fun t bits rm sat sr hlo hhi hbits _ =>
      roundTo_decodeInt rm sat sr ⟨hlo, hhi⟩ hbits, fun t sat sr ht => ⟨rfl, by interval_cases t <;> rfl⟩⟩
  · rw [Tile.lane_putElems t ty n n j new wr hj]
    simp only [true_and]
  · rw [Tile.lane_putElems t ty n m j new wr hj, if_neg fun h => hm h.1]
  · rw [t.mask_putElems ty n new wr hn]
    exact bit_bitSum (fun j => by split <;> omega) hj
  · subst hk
    exact VJob.getD_elems hreads he hlen hgot hL
  · have hline : j.writes.getD k (-1) = l := by rw [List.getD_eq_getElem?_getD, hwrite]; rfl
    have hin : inRange (l : Int) = true := decide_eq_true ⟨Int.natCast_nonneg l, by exact_mod_cast hl⟩
    have hjob : u = t.setLine l (patchLine p.ud.ty (t.line l) (k * min 64 (512 / typeBits p.ud.ty)) els wr) := by
      rw [hu, Tile.jobLine, hline]
      split
      · next w' heq =>
        rw [heq] at hplan
        cases hplan
      · rw [hplan]
    have hread : u.line l = patchLine p.ud.ty (t.line l) (k * min 64 (512 / typeBits p.ud.ty)) els wr := by
      have hbytes := Memory.bytes_setBytes t.scratch (l * 64) (patchLine p.ud.ty (t.line l) (k * min 64 (512 / typeBits p.ud.ty)) els wr)
      rw [patchLine, leBytes_length] at hbytes
      rw [hjob, Tile.setLine, if_pos hin, Tile.line, if_pos hin]
      exact hbytes
    have hfield := bitsAt_patchLine (t.line l) (k * min 64 (512 / typeBits p.ud.ty)) els wr hn
    rw [hm, hread]
    exact hfield

end Sys2Proof.Machine

/-!
The lane-wise vector words (R129 to R134, R139, R143, R147, R149 to R151).
-/

namespace Sys2Proof.Machine

/-- VLQDEC of a lane, its codeword's row and scale written out (R151). -/
theorem lqLane_eq (x : XRes) (tab : Nat) (i : VIn) (j : Nat) :
    lqLane x tab i j = roundTo (lq8Weight (i.a.getD (j / 8) 0) (x.bookRow tab (i.a.getD (j / 8) 0 / 256 % 256))
      (i.b.getD (j / 32) 0) (j % 8)) 1 0 false 0 := by
  rw [lqLane, Nat.div_div_eq_div_mul]
  rfl

/-- VCVT's control field with its bits written out (R147). -/
theorem planVcvt_eq (w : VWord) : planVcvt w =
    { convPlan (decide (typeOf w ≤ 13) && typeOf w != 6 && typeOf w != 7 && typeOf w != 8 && w.h.rnd != 7 && w.h.x3 == 0)
        (.wr (typeOf w)) (.rd (w.b.toNat % 16)) .ctl (some false)
        (fun i => i.lanes true fun j l => convertElem (w.b.toNat % 16) (typeOf w) (i.a.getD j 0) i.rm i.sat l) with
      ctlOk := fun p => decide (p / 16 % 2 ^ 14 = 0) && p % 16 != 6 && p % 16 != 7 && p % 16 != 8 && p % 16 != 15
      raises := !(typeInt (w.b.toNat % 16) && typeInt (typeOf w)) } := by
  have hlow : ∀ p, bitsAt p 0 4 = p % 16 := fun p => by simp [bitsAt]
  simp only [planVcvt, cvtSource, hlow]
  rfl

end Sys2Proof.Machine

namespace Sys2Proof

open Sys2Proof.Machine

/-- Settles O43: each word means what its plan says (`vectorMeans_of_plan`); VCVT's control field and VLQDEC's codeword are
written out (`planVcvt_eq`, `lqLane_eq`). -/
theorem vectorLanes : Obligations.VectorLanes := by
  unfold Obligations.VectorLanes
  refine ⟨?rounds, ?picks, ?integral, ?scale, ?spectral, ?convert, ?quantise, ?expand, ?decode⟩
  case rounds =>
    simp only [List.forall_mem_cons]
    refine ⟨?_, ?_, ?_, ?_, ?_, ?_, ?_, ?_, ?_, ?_, ?_, ?_, List.forall_mem_nil _⟩
    all_goals exact vectorMeans_of_plan fun _ _ => ⟨true, rfl⟩
  case picks =>
    simp only [List.forall_mem_cons]
    refine ⟨?min, ?max, ?abs, ?neg, ?exp, ?mant, ?cls, List.forall_mem_nil _⟩
    case abs | neg | cls => exact vectorMeans_of_plan fun _ _ => ⟨false, rfl⟩
    all_goals exact vectorMeans_of_plan fun _ _ => ⟨true, rfl⟩
  case spectral =>
    simp only [List.forall_mem_cons]
    refine ⟨?_, ?_, List.forall_mem_nil _⟩
    all_goals exact vectorMeans_of_plan fun _ _ => ⟨true, rfl⟩
  case convert => exact vectorMeans_of_plan fun _ w => ⟨_, congrArg (fun p => some (w, p)) (planVcvt_eq w)⟩
  case decode =>
    refine vectorMeans_of_plan fun s w => ⟨true, ?_⟩
    simp only [vectorPlan, planVlqdec, lqLane_eq]
    rfl
  all_goals exact vectorMeans_of_plan fun _ _ => ⟨true, rfl⟩

end Sys2Proof

/-!
What the words that move between lines and registers share: their fields, their issue, and the requests they leave (R33, R91, R95,
R127).
-/

namespace Sys2Proof.Machine

open Host (Outcome)

/-! The fields of a legal word (R33, R144, R158). -/

/-- The fields of a legal word are those that its uses parse, and its control immediate is legal. -/
theorem checkFields_ok {lost : Opnd → Bool} {ctlOk : Nat → Bool} {lits : Nat} {ud ua ub : Use} {w : VWord} {f : Fields}
    (h : checkFields lost ctlOk lits ud ua ub w = .ok f) :
    ud.parse 0 lits w.d.toNat = some f.d ∧ ua.parse 1 lits w.a.toNat = some f.a ∧ ub.parse 2 lits w.b.toNat = some f.b ∧
      ∀ p, f.b = .imm p → ctlOk p = true := by
  unfold checkFields at h
  split at h
  · cases h
  next d hd =>
  split at h
  · cases h
  next a ha =>
  split at h
  · cases h
  split at h
  · cases h
  next b hb =>
  cases b with
  | imm p =>
    dsimp only at h
    split at h
    · cases h
    next hlegal =>
    cases h
    simp only [Bool.or_eq_true, Bool.not_eq_eq_eq_not, Bool.not_true, not_or, Bool.not_eq_false] at hlegal
    exact ⟨hd, ha, hb, fun q hq => Opnd.imm.inj hq ▸ hlegal.2⟩
  | _ =>
    dsimp only at h
    split at h
    · cases h
    cases h
    exact ⟨hd, ha, hb, fun _ hq => nomatch hq⟩

theorem parseOpnd_vreg {lits f n : Nat} (h : parseOpnd lits f = some (.vreg n)) : n = bitsAt f 0 9 := by
  unfold parseOpnd at h
  repeat' split at h
  all_goals simp_all

theorem parseOpnd_imm {lits f n : Nat} (h : parseOpnd lits f = some (.imm n)) : n = bitsAt f 0 18 := by
  unfold parseOpnd at h
  repeat' split at h
  all_goals simp_all

/-- A control field is an immediate. -/
theorem Use.parse_ctl {pos lits n : Nat} {o : Opnd} (h : Use.ctl.parse pos lits n = some o) : o = .imm (bitsAt n 0 18) := by
  obtain ⟨hparse, hkind⟩ := Option.filter_eq_some_iff.1 h
  cases o with
  | imm p => rw [parseOpnd_imm hparse]
  | _ => cases hkind

/-- A destination or source that must be a vector register is one. -/
theorem Use.parse_regWr {t pos lits n : Nat} {o : Opnd} (h : (Use.regWr t).parse pos lits n = some o) :
    o = .vreg (bitsAt n 0 9) := by
  obtain ⟨hparse, hkind⟩ := Option.filter_eq_some_iff.1 h
  cases o with
  | vreg p => rw [parseOpnd_vreg hparse]
  | _ => cases hkind

/-! The issue of a ready word. -/

section
variable {s : State} {i : Instr} {w : VWord} {p : VPlan} {f : Fields}

theorem VectorReady.longWord_eq (h : VectorReady s w p f) (go : Fields → Outcome State Fault Refusal) :
    s.longWord i w p go = go f := by
  obtain ⟨hok, hcore, hdue, hfields, -⟩ := h
  have hlegal : ¬ (p.ok5 = false ∨ s.unstamped w.h.stamp = true ∨ s.cur.core ≠ .X) := by simp [hok, hdue.stamped, hcore]
  rw [State.longWord, if_neg hlegal, hfields]
  exact hdue.atStamp_eq _

/-- No resource that the word names is on its way. -/
theorem VectorReady.no_pending (h : VectorReady s w p f) (rs : List Res) : rs.any (s.me.pending s.now) = false := by
  obtain ⟨-, -, -, -, hres, -⟩ := h
  exact List.any_eq_false.2 fun r _ => ne_true_of_eq_false (hres r)

theorem VectorReady.no_lines (h : VectorReady s w p f) (rd wr : List Int) : s.myTile.linesPending s.now rd wr = false := by
  obtain ⟨-, -, -, -, -, hlines⟩ := h
  exact hlines rd wr

end

/-- The core goes on after a long word. -/
def Core.goOn (k : Core) (npc : U64) (next : Nat) (q : Pend) : Core :=
  { k with pc := npc, run := .running, held := none, nextAt := next, pend := k.pend ++ [q] }

/-- A word of the X-core issues in its tile. -/
theorem State.issue_x {s : State} (hcore : s.cur.core = .X) (u : Tile) (npc : U64) (next : Nat) (q : Pend) :
    (s.setMyTile u).issue npc next q = s.setMyTile { u with x := u.x.goOn npc next q } := by
  rw [State.issue, State.mapMe_eq, State.setMyTile_setMyTile, State.myTile_setMyTile, State.me_setMyTile, State.setMyTile_cur,
    hcore]
  rfl

theorem State.mapMe_x {s : State} (hcore : s.cur.core = .X) (u : Tile) (g : Core → Core) :
    (s.setMyTile u).mapMe g = s.setMyTile { u with x := g u.x } := by
  rw [State.mapMe_eq, State.setMyTile_setMyTile, State.myTile_setMyTile, State.me_setMyTile, State.setMyTile_cur, hcore]
  rfl

theorem State.me_x {s : State} (hcore : s.cur.core = .X) (u : Tile) : (s.setMyTile u).me = u.x := by
  rw [State.me_setMyTile, hcore]
  rfl

theorem State.me_eq_x {s : State} (hcore : s.cur.core = .X) : s.me = s.myTile.x := by
  rw [State.me_eq, hcore]
  rfl

/-- A word that changed no more of its core than registers issues. -/
theorem State.issued_x {s : State} (hcore : s.cur.core = .X) {u : Tile} (hx : u.x = { s.me with regs := u.x.regs }) (npc : U64)
    (q : Pend) : LongIssued s (s.setMyTile { u with x := u.x.goOn npc (s.now + 1) q }) npc q ∧
      OnlyFlow s (s.setMyTile { u with x := u.x.goOn npc (s.now + 1) q }) ∧
      ∀ n, (s.setMyTile { u with x := u.x.goOn npc (s.now + 1) q }).me.reg n = u.x.reg n := by
  unfold LongIssued OnlyFlow
  rw [State.me_x hcore]
  refine ⟨⟨rfl, rfl, rfl, ?_⟩, ?_, fun _ => rfl⟩
  · rw [hx]; rfl
  · rw [hx]; rfl

theorem Core.setReg_eq (k : Core) (n : Nat) (v : U64) : k.setReg n v = { k with regs := (k.setReg n v).regs } := by
  unfold Core.setReg
  split <;> rfl

@[simp] theorem XRes.post_v (x : XRes) (o : Opnd) (n : Nat) : (x.post o n).v = x.v := by rw [XRes.post_eq]
@[simp] theorem XRes.post_m (x : XRes) (o : Opnd) (n : Nat) : (x.post o n).m = x.m := by rw [XRes.post_eq]
@[simp] theorem XRes.post_lfsr (x : XRes) (o : Opnd) (n : Nat) : (x.post o n).lfsr = x.lfsr := by rw [XRes.post_eq]
@[simp] theorem XRes.post_c (x : XRes) (o : Opnd) (n : Nat) : (x.post o n).c = x.c := by rw [XRes.post_eq]
@[simp] theorem XRes.post_cb (x : XRes) (o : Opnd) (n : Nat) : (x.post o n).cb = x.cb := by rw [XRes.post_eq]

@[simp] theorem Tile.touchLines_scratch (t : Tile) (now rank : Nat) (ls : List Int) :
    (t.touchLines now rank ls).scratch = t.scratch := by
  rw [touchLines_eq]

@[simp] theorem Tile.touchLines_x (t : Tile) (now rank : Nat) (ls : List Int) : (t.touchLines now rank ls).x = t.x := by
  rw [touchLines_eq]

theorem OnlyVector.sameBytes {s t : State} (h : OnlyVector s t) : SameBytes s t := by
  obtain ⟨hstate, htile, -⟩ := h
  rw [hstate]
  exact State.sameBytes_setMyTile (by rw [htile])

/-! The out-of-range latch and the requests of a word. -/

theorem Tile.VectorChange.withJobs {t u : Tile} (h : t.VectorChange u) (asks : List Ask) (vjobs : List VJob) :
    t.VectorChange { u with asks := asks, vjobs := vjobs } :=
  show _ = t.withVector _ from congrArg (fun v : Tile => { v with asks := asks, vjobs := vjobs }) h

theorem Tile.VectorChange.withRegs {t u : Tile} (h : t.VectorChange u) (vs : Store U32) (ws : Store U64) :
    t.VectorChange { u with xr := { u.xr with v := vs, w := ws } } :=
  show _ = t.withVector _ from congrArg (fun v : Tile => { v with xr := { v.xr with v := vs, w := ws } }) h

theorem Tile.VectorChange.refl (t : Tile) : t.VectorChange t := rfl

theorem Tile.VectorChange.startJob {t u : Tile} (h : t.VectorChange u) (now slack lat : Nat) (i : Instr) (v : VIn)
    (reads : List (Nat × List Int)) (writes : List Int) (pc : U64) (out : Option (Nat × List Nat × List Bool))
    (walks : List (Nat × U64 × U64)) : t.VectorChange (u.startJob now slack lat i v reads writes pc out walks) :=
  (h.trans (u.touchLines_change now rankVector ((reads.map fun r => r.2).flatten ++ writes))).withJobs _ _

@[simp] theorem Tile.startJob_xr (t : Tile) (now slack lat : Nat) (i : Instr) (v : VIn)
    (reads : List (Nat × List Int)) (writes : List Int) (pc : U64) (out : Option (Nat × List Nat × List Bool))
    (walks : List (Nat × U64 × U64)) : (t.startJob now slack lat i v reads writes pc out walks).xr = t.xr :=
  t.touchLines_xr now rankVector ((reads.map fun r => r.2).flatten ++ writes)

/-- A word that leaves requests has moved the walk of its operand. -/
theorem Tile.startJob_posted (t : Tile) (now slack lat : Nat) (i : Instr) (v : VIn) (reads : List (Nat × List Int))
    (writes : List Int) (pc : U64) (walks : List (Nat × U64 × U64)) (o : Opnd) (n : Nat) :
    t.VectorChange { t.startJob now slack lat i v reads writes pc none walks with xr := t.xr.post o n } := by
  rw [XRes.post_eq]
  exact t.startJob_change ..

/-- The requests that a word leaves: its tile `v` has those that the word has left in `u`, which had those of `s`. -/
theorem jobLeft_startJob {s : State} {u v : Tile} {slack lat : Nat} {i : Instr} {inp : VIn} {reads : List (Nat × List Int)}
    {writes : List Int} {pc : U64} {out : Option (Nat × List Nat × List Bool)} {walks : List (Nat × U64 × U64)}
    (hasks : v.asks = (u.startJob s.now slack lat i inp reads writes pc out walks).asks)
    (hvjobs : v.vjobs = (u.startJob s.now slack lat i inp reads writes pc out walks).vjobs)
    (hold : u.asks = s.myTile.asks) (hjobs : u.vjobs = s.myTile.vjobs)
    (hv : v.xr.v = s.myTile.xr.v) (hm : v.xr.m = s.myTile.xr.m) (hl : v.xr.lfsr = s.myTile.xr.lfsr) :
    JobLeft s (s.setMyTile v) i inp reads writes := by
  obtain ⟨asks, hadded, hsince, hlines⟩ := (u.touchLines s.now rankVector ((reads.map fun r => r.2).flatten ++ writes)).ask_asks
    s.now rankVector slack (lineAsks reads writes) pc
  rw [Tile.touchLines_asks, hold] at hadded
  unfold JobLeft
  rw [State.myTile_setMyTile]
  exact ⟨⟨_, hvjobs.trans (congrArg (· ++ _) ((u.touchLines_vjobs _ _ _).trans hjobs)), rfl, rfl, rfl, rfl, rfl, rfl, rfl⟩,
    ⟨asks, hasks.trans hadded, hsince, hlines⟩, hv, hm, hl⟩

/-- From `t` to `u` nothing differs but the out-of-range latch. -/
def Tile.LatchChange (t u : Tile) : Prop := u = { t with oorFlag := u.oorFlag, oorAddr := u.oorAddr, oorWhen := u.oorWhen }

theorem Tile.LatchChange.trans {t u v : Tile} (h : t.LatchChange u) (h' : u.LatchChange v) : t.LatchChange v :=
  Eq.trans h' (congrArg (fun r : Tile => { r with oorFlag := v.oorFlag, oorAddr := v.oorAddr, oorWhen := v.oorWhen }) h)

theorem Tile.LatchChange.foldl {α : Type} {g : Tile → α → Tile} (hg : ∀ (t : Tile) x, t.LatchChange (g t x)) (xs : List α) (t : Tile) :
    t.LatchChange (xs.foldl g t) := by
  induction xs generalizing t with
  | nil => exact rfl
  | cons x xs ih => exact (hg t x).trans (ih (g t x))

theorem Tile.touchAt_latchChange (t : Tile) (now rank : Nat) (ea : Int) : t.LatchChange (t.touchAt now rank ea) := by
  unfold Tile.touchAt Tile.latch
  repeat' split
  all_goals rfl

theorem Tile.touchLanes_latchChange (t : Tile) (now : Nat) (act : List Bool) (ea : Nat → Int) :
    t.LatchChange (t.touchLanes now act ea) := by
  refine LatchChange.foldl (fun u j => ?_) _ t
  split
  · exact u.touchAt_latchChange now rankVector (ea j)
  · exact rfl

section
variable {t u : Tile} (h : t.LatchChange u)
include h

theorem Tile.LatchChange.vectorChange : t.VectorChange u := by
  rw [h]
  rfl

theorem Tile.LatchChange.asks : u.asks = t.asks := by rw [h]

theorem Tile.LatchChange.vjobs : u.vjobs = t.vjobs := by rw [h]

theorem Tile.LatchChange.xr : u.xr = t.xr := by rw [h]

end

/-! The lines that a word of one strided operand reaches. -/

theorem noLine_reads_iff (op : Nat) (ls : List Int) : (linesIn ls).isEmpty = true ↔ NoLine [(op, ls)] [] := by
  have h := linesIn_isEmpty_iff [(op, ls)] []
  simpa using h

end Sys2Proof.Machine

/-!
VTOS from issue (R145, R160).
-/

namespace Sys2Proof.Machine

open Host (Outcome)

/-! VTOS (R160). -/

/-- VTOS's head and its control field, written out (R145, R160). -/
theorem planVtos_eq (w : VWord) : planVtos w =
    { movePlan w moveType .no (.rd (typeOf w)) .ctl (fun i => allLanes i [] 0) with
      ok5 := moveType (typeOf w) && w.h.rnd == 0 && w.h.sat == 0 && w.h.x3 == 0 && w.h.mask == 0 && w.h.nowb == 0 &&
        w.h.capEn == 0
      ctlOk := fun p => decide (p / 2 ^ 11 % 2 ^ 7 = 0) && decide (1 ≤ p % 32 ∧ p % 32 ≤ 27) } := by
  have hlow : ∀ p, bitsAt p 0 5 = p % 32 := fun p => by simp [bitsAt]
  simp only [planVtos, bareHead, Bool.and_assoc, hlow, bitsAt]

/-- The register that VTOS writes. -/
def vtosDest (w : VWord) : Nat := bitsAt w.b.toNat 0 5

theorem vtosDest_eq (w : VWord) : vtosDest w = w.b.toNat % 32 := by simp [vtosDest, bitsAt]

/-- VTOS's value, written out (R160). -/
theorem vtosValue_eq (w : VWord) (els : List Nat) : vtosValue w els =
    if typeInt (typeOf w) && typeSigned (typeOf w) then
      BitVec.ofInt 64 (decodeInt (typeOf w) (els.getD (w.b.toNat / 32 % 64) 0))
    else BitVec.ofNat 64 (els.getD (w.b.toNat / 32 % 64) 0) := by
  simp only [vtosValue, Bool.and_eq_true]
  rfl

section
variable {s : State} {w : VWord} {f : Fields}

/-- The register of a legal VTOS is none of s0 and the ports. -/
theorem VectorReady.vtosDest_pos (h : VectorReady s w (planVtos w) f) : vtosDest w ≠ 0 := by
  obtain ⟨-, -, -, hfields, -⟩ := h
  obtain ⟨-, -, hb, hctl⟩ := checkFields_ok hfields
  have hlegal := hctl _ (Use.parse_ctl hb)
  rw [planVtos_eq] at hlegal
  simp only [Bool.and_eq_true, decide_eq_true_eq, bitsAt, Nat.pow_zero, Nat.div_one] at hlegal
  rw [vtosDest_eq]
  omega

/-- The lines that VTOS reads. -/
def State.vtosLines (s : State) (w : VWord) (f : Fields) : List Int := s.myTile.xr.opndLines f.a (typeLines (typeOf w))

/-- VTOS in flight. -/
def State.vtosPend (s : State) (w : VWord) (f : Fields) : Pend :=
  { res := [Res.s (vtosDest w)] ++ readerRes f none, due := s.now + (if (s.vtosLines w f).isEmpty then 4 else 8), flags := 0,
    cap := none, ew := (3, 1), asks := some (s.now, 8) }

/-- The tile of a VTOS that reaches no line. -/
def State.vtosTile (s : State) (w : VWord) (f : Fields) : Tile :=
  { s.myTile.touchLines s.now rankVector (s.vtosLines w f) with
    x := (s.myTile.touchLines s.now rankVector (s.vtosLines w f)).x.setReg (vtosDest w)
      (vtosValue w (s.myTile.elems w.h.lits (typeOf w) f.a))
    xr := s.myTile.xr.post f.a (typeLines (typeOf w)) }

/-- VTOS computes with the elements of its operand. -/
def State.vtosIn (s : State) (w : VWord) (f : Fields) : VIn :=
  ⟨[], s.myTile.elems w.h.lits (typeOf w) f.a, [], [], 0, 0, false, []⟩

/-- The tile of a VTOS that reaches a line. -/
def State.vtosJob (s : State) (w : VWord) (f : Fields) : Tile :=
  { s.myTile.startJob s.now lineSlack 8 (.vtos w) (s.vtosIn w f) [(1, s.vtosLines w f)] [] s.me.pc none
      (s.myTile.xr.walksTo (s.myTile.xr.post f.a (typeLines (typeOf w)))) with
    xr := s.myTile.xr.post f.a (typeLines (typeOf w)) }

theorem VectorReady.vtos_noLine (h : VectorReady s w (planVtos w) f) (hlines : NoLine [(1, s.vtosLines w f)] []) :
    exec (.vtos w) s = .next (s.setMyTile { s.vtosTile w f with
      x := (s.vtosTile w f).x.goOn (s.afterLong w.h) (s.now + 1) (s.vtosPend w f) }) := by
  obtain ⟨-, hcore, -⟩ := id h
  change execVtos w s = _
  rw [execVtos, h.longWord_eq]
  refine (if_neg ?ready).trans ((if_pos ((noLine_reads_iff 1 (s.vtosLines w f)).2 hlines)).trans (congrArg Outcome.next ?_))
  case ready => rw [h.no_pending, h.no_lines]; exact Bool.false_ne_true
  rw [State.mapMe_x hcore, State.issue_x hcore]
  rfl

theorem VectorReady.vtos_lines (h : VectorReady s w (planVtos w) f) (hlines : ¬ NoLine [(1, s.vtosLines w f)] []) :
    exec (.vtos w) s =
      .next ((s.setMyTile (s.vtosJob w f)).issue (s.afterLong w.h) (s.now + 1) (s.vtosPend w f)) := by
  change execVtos w s = _
  rw [execVtos, h.longWord_eq]
  refine (if_neg ?ready).trans (if_neg fun hempty => hlines ((noLine_reads_iff 1 (s.vtosLines w f)).1 hempty))
  case ready => rw [h.no_pending, h.no_lines]; exact Bool.false_ne_true

theorem State.vtosLines_isEmpty : (s.vtosLines w f).isEmpty = !strided f.a :=
  s.myTile.xr.opndLines_isEmpty f.a (.rd (typeOf w))

theorem State.vtosPend_due : (s.vtosPend w f).due = s.now + (if strided f.a then 8 else 4) := by
  rw [vtosPend, vtosLines_isEmpty]
  cases strided f.a <;> rfl

theorem State.vtosJob_change : s.myTile.VectorChange (s.vtosJob w f) := s.myTile.startJob_posted ..

theorem State.vtosJob_left : JobLeft s (s.setMyTile (s.vtosJob w f)) (.vtos w) (s.vtosIn w f) [(1, s.vtosLines w f)] [] := by
  exact jobLeft_startJob (v := s.vtosJob w f) rfl rfl rfl rfl (XRes.post_v ..) (XRes.post_m ..) (XRes.post_lfsr ..)

/-- A ready VTOS goes on: its register has its value at once where it reaches no line, and else its requests stand. -/
theorem VectorReady.vtos_runs (h : VectorReady s w (planVtos w) f) :
    ∃ t q, exec (.vtos w) s = .next t ∧ LongIssued s t (s.afterLong w.h) q ∧
      q.due = s.now + (if strided f.a then 8 else 4) ∧ (∀ n, n ≠ vtosDest w → t.me.reg n = s.me.reg n) ∧
      OnlyFlow s t ∧ t = s.setMyTile t.myTile ∧ t.myTile.xr.v = s.myTile.xr.v ∧ t.myTile.xr.m = s.myTile.xr.m ∧
      SameBytes s t ∧
      (NoLine [(1, s.vtosLines w f)] [] →
        t.me.reg (vtosDest w) = vtosValue w (s.myTile.elems w.h.lits (typeOf w) f.a) ∧
        t.myTile.asks = s.myTile.asks ∧ t.myTile.vjobs = s.myTile.vjobs) ∧
      (¬ NoLine [(1, s.vtosLines w f)] [] → t.me.regs = s.me.regs ∧
        JobLeft s t (.vtos w) (s.vtosIn w f) [(1, s.vtosLines w f)] []) := by
  obtain ⟨-, hcore, -⟩ := id h
  by_cases hlines : NoLine [(1, s.vtosLines w f)] []
  case pos =>
    have hx : (s.vtosTile w f).x =
        s.me.setReg (vtosDest w) (vtosValue w (s.myTile.elems w.h.lits (typeOf w) f.a)) := by
      rw [State.vtosTile, State.me_eq_x hcore, Tile.touchLines_x]
    obtain ⟨hissued, hflow, hregs⟩ := State.issued_x hcore (u := s.vtosTile w f) (by rw [hx]; exact Core.setReg_eq ..)
      (s.afterLong w.h) (s.vtosPend w f)
    refine ⟨_, s.vtosPend w f, h.vtos_noLine hlines, hissued, State.vtosPend_due, fun n hn => ?others, hflow, ?tile, ?v, ?m,
      State.sameBytes_setMyTile (Tile.touchLines_scratch ..), fun _ => ⟨?value, ?asks, ?jobs⟩, absurd hlines⟩
    case others => rw [hregs, hx, Core.reg_setReg_ne _ _ hn]
    case value => rw [hregs, hx, Core.reg_setReg_same, if_neg h.vtosDest_pos]
    all_goals rw [State.myTile_setMyTile]
    case v => exact XRes.post_v ..
    case m => exact XRes.post_m ..
    case asks => exact Tile.touchLines_asks ..
    case jobs => exact Tile.touchLines_vjobs ..
  case neg =>
    obtain ⟨t, ht, hissued, honly, hxr, hasks, hjobs⟩ := State.issue_vector hcore (State.vtosJob_change (w := w) (f := f))
      (s.afterLong w.h) (s.vtosPend w f)
    have hleft := (State.vtosJob_left (s := s) (w := w) (f := f)).congr (u := t) ?_ ?_ ?_
    obtain ⟨hstate, htile, hflow, hregs, -⟩ := id honly
    obtain ⟨-, -, hv, hm, -⟩ := id hleft
    refine ⟨t, s.vtosPend w f, (h.vtos_lines hlines).trans (congrArg _ ht), hissued, State.vtosPend_due,
      fun n _ => by rw [Core.reg, Core.reg, hregs], hflow, hstate, hv, hm, honly.sameBytes, fun hnone => absurd hnone hlines,
      fun _ => ⟨hregs, hleft⟩⟩
    all_goals rw [State.myTile_setMyTile]; assumption

end

end Sys2Proof.Machine

/-!
The end of VTOS, and VGATH and VSCAT from issue (R158 to R160).
-/

namespace Sys2Proof.Machine

open Host (Outcome)

/-! The end of VTOS (R160). -/

theorem Tile.jobDone_vtos {t : Tile} {now : Nat} {j : VJob} {w : VWord} (h : j.word = .vtos w) :
    (t.jobDone now j).x = t.x.setReg (vtosDest w) (vtosValue w (j.elems 1 (typeOf w) 64)) := by
  rw [Tile.jobDone, h]
  rfl

/-! VGATH and VSCAT from issue (R158, R159). -/

section
variable (s : State) (w : VWord) (f : Fields)

/-- The bytes of an element. -/
def laneBytes : Nat := typeBits (typeOf w) / 8

/-- The address of lane `j`. -/
def State.laneAddr (j : Nat) : Nat :=
  (s.me.fieldValue f.a).toNat + laneBytes w * (s.myTile.elems w.h.lits 13 f.b).getD j 0

/-- The active lanes. -/
def State.activeLanes : List Bool := lanesOf (s.myTile.xr.mask w.h.mask.toNat)

/-- The lines of the active lanes' addresses, each once. -/
def State.laneLines : List Int :=
  (((List.range 64).filter fun j => (s.activeLanes w).getD j false).map fun j => ((s.laneAddr w f j / 64 : Nat) : Int)).eraseDups

/-- What VGATH and VSCAT compute with. -/
def State.laneIn (old : List Nat) : VIn :=
  ⟨s.activeLanes w, [], s.myTile.elems w.h.lits 13 f.b, old, s.me.fieldValue f.a, 0, false, []⟩

/-- The old elements of D. -/
def State.laneOld : List Nat := if w.h.nowb = 1 then [] else s.myTile.elems [] (typeOf w) f.d

end

section
variable {s : State} {w : VWord} {p : VPlan} {f : Fields}

theorem VectorReady.gatherWord_misaligned (h : VectorReady s w p f) (store : Bool)
    (go : VIn → (Nat → Int) → List Int → Outcome State Fault Refusal)
    (hbase : (s.me.fieldValue f.a).toNat % laneBytes w ≠ 0) :
    s.gatherWord w f store go = s.fault 0x0E (s.me.fieldValue f.a) := by
  refine (if_neg ?_).trans (if_pos hbase)
  rw [h.no_pending]
  exact Bool.false_ne_true

theorem VectorReady.gatherWord_aligned (h : VectorReady s w p f) (store : Bool)
    (go : VIn → (Nat → Int) → List Int → Outcome State Fault Refusal)
    (hbase : (s.me.fieldValue f.a).toNat % laneBytes w = 0) :
    s.gatherWord w f store go = go (s.laneIn w f (s.laneOld w f)) (fun j => (s.laneAddr w f j : Int)) (s.laneLines w f) := by
  refine (if_neg ?first).trans ((if_neg (not_not.2 hbase)).trans ((if_neg ?srcs).trans rfl))
  case first => rw [h.no_pending]; exact Bool.false_ne_true
  case srcs => rw [h.no_pending]; cases store <;> simp [h.no_lines]

end

theorem lanesOf_getD_map (m : Nat) : ((List.range 64).map fun j => (lanesOf m).getD j false) = lanesOf m :=
  List.ext_getElem (by simp [lanesOf]) fun j hj hj' => by
    rw [List.getElem_map, List.getElem_range, List.getD_eq_getElem]

/-! VGATH. -/

section
variable (s : State) (w : VWord) (f : Fields)

/-- VGATH in flight. -/
def State.gatherPend : Pend :=
  { res := (if w.h.nowb = 1 then [] else f.d.writes) ++ (if w.h.capEn = 1 then [Res.byp w.h.capN.toNat] else []),
    due := s.now + s.gatherTime, flags := 0, cap := none, ew := (4, 1), asks := some (s.now, 9) }

/-- The tile of a VGATH with its addresses out of range latched. -/
def State.laneTile : Tile := s.myTile.touchLanes s.now (s.activeLanes w) fun j => (s.laneAddr w f j : Int)

/-- What a VGATH delivers that reaches no line. -/
def State.gatherNone : VOut := gatherOut w (s.laneIn w f (s.laneOld w f)) (s.laneLines w f) fun _ => 0

/-- The tile of a VGATH that reaches a line. -/
def State.gatherJob : Tile :=
  (s.laneTile w f).startJob s.now 111 9 (.vgath w) (s.laneIn w f (s.laneOld w f)) [(1, s.laneLines w f)] [] s.me.pc

/-- The tile of a VSCAT. -/
def State.scatterJob : Tile :=
  (s.laneTile w f).startJob s.now 111 0 (.vscat w) (s.laneIn w f (s.laneOld w f)) [] (s.laneLines w f) s.me.pc
    (some (s.now + s.gatherTime, [], []))

/-- VSCAT in flight. -/
def State.scatterPend : Pend :=
  { res := [], due := s.now + s.gatherTime, flags := 0, cap := none, ew := (4, 1), asks := some (s.now, 9) }

end

section
variable {s : State} {w : VWord} {f : Fields}

theorem VectorReady.vgath_misaligned (h : VectorReady s w (planVgath w) f)
    (hbase : (s.me.fieldValue f.a).toNat % laneBytes w ≠ 0) : exec (.vgath w) s = s.fault 0x0E (s.me.fieldValue f.a) := by
  change execVgath w s = _
  rw [execVgath, h.longWord_eq]
  exact h.gatherWord_misaligned _ _ hbase

theorem VectorReady.vgath_noLine (h : VectorReady s w (planVgath w) f)
    (hbase : (s.me.fieldValue f.a).toNat % laneBytes w = 0) (hlines : NoLine [(1, s.laneLines w f)] []) :
    exec (.vgath w) s = .next ((s.setMyTile ((s.laneTile w f).putGather w (s.gatherNone w f))).issue (s.afterLong w.h)
      (s.now + 1) ((s.gatherPend w f).result 0 (gatherCap w (s.laneIn w f (s.laneOld w f)) (s.gatherNone w f)))) := by
  change execVgath w s = _
  rw [execVgath, h.longWord_eq]
  exact (h.gatherWord_aligned _ _ hbase).trans (if_pos ((noLine_reads_iff 1 (s.laneLines w f)).2 hlines))

theorem VectorReady.vgath_lines (h : VectorReady s w (planVgath w) f)
    (hbase : (s.me.fieldValue f.a).toNat % laneBytes w = 0) (hlines : ¬ NoLine [(1, s.laneLines w f)] []) :
    exec (.vgath w) s = .next ((s.setMyTile (s.gatherJob w f)).issue (s.afterLong w.h) (s.now + 1) (s.gatherPend w f)) := by
  change execVgath w s = _
  rw [execVgath, h.longWord_eq]
  exact (h.gatherWord_aligned _ _ hbase).trans
    (if_neg fun hempty => hlines ((noLine_reads_iff 1 (s.laneLines w f)).1 hempty))

theorem VectorReady.vscat_misaligned (h : VectorReady s w (planVscat w) f)
    (hbase : (s.me.fieldValue f.a).toNat % laneBytes w ≠ 0) : exec (.vscat w) s = s.fault 0x0E (s.me.fieldValue f.a) := by
  change execVscat w s = _
  rw [execVscat, h.longWord_eq]
  exact h.gatherWord_misaligned _ _ hbase

theorem VectorReady.vscat_aligned (h : VectorReady s w (planVscat w) f)
    (hbase : (s.me.fieldValue f.a).toNat % laneBytes w = 0) :
    exec (.vscat w) s =
      .next ((s.setMyTile (s.scatterJob w f)).issue (s.afterLong w.h) (s.now + 1) s.scatterPend) := by
  change execVscat w s = _
  rw [execVscat, h.longWord_eq]
  exact h.gatherWord_aligned _ _ hbase

theorem State.laneTile_change : s.myTile.LatchChange (s.laneTile w f) := s.myTile.touchLanes_latchChange _ _ _

theorem State.gatherJob_xr : (s.gatherJob w f).xr = s.myTile.xr := (Tile.startJob_xr ..).trans State.laneTile_change.xr

theorem State.gatherJob_left :
    JobLeft s (s.setMyTile (s.gatherJob w f)) (.vgath w) (s.laneIn w f (s.laneOld w f)) [(1, s.laneLines w f)] [] :=
  have hchange := s.laneTile_change (w := w) (f := f)
  jobLeft_startJob (v := s.gatherJob w f) rfl rfl hchange.asks hchange.vjobs (congrArg XRes.v gatherJob_xr)
    (congrArg XRes.m gatherJob_xr) (congrArg XRes.lfsr gatherJob_xr)

theorem State.scatterJob_xr : (s.scatterJob w f).xr = s.myTile.xr := (Tile.startJob_xr ..).trans State.laneTile_change.xr

theorem State.scatterJob_left :
    JobLeft s (s.setMyTile (s.scatterJob w f)) (.vscat w) (s.laneIn w f (s.laneOld w f)) [] (s.laneLines w f) :=
  have hchange := s.laneTile_change (w := w) (f := f)
  jobLeft_startJob (v := s.scatterJob w f) rfl rfl hchange.asks hchange.vjobs (congrArg XRes.v scatterJob_xr)
    (congrArg XRes.m scatterJob_xr) (congrArg XRes.lfsr scatterJob_xr)

end

end Sys2Proof.Machine

/-!
VGATH: what it delivers, captures and leaves (R93, R145, R158, R159).
-/

namespace Sys2Proof.Machine

open Host (Outcome)

/-! What a VGATH delivers (R158). -/

theorem captured_congr {nowb nowb' : Bool} {o : VOut} {new d : List Nat} {act : Nat → Bool} (hnowb : nowb = nowb')
    (hwr : ∀ j, o.wr.getD j false = act j) (hnew : ∀ j, j < 64 → act j = true → o.new.getD j 0 = new.getD j 0) :
    captured nowb o d = (List.range 64).map fun j =>
      BitVec.ofNat 32 (if act j then new.getD j 0 else if nowb' then 0 else d.getD j 0) := by
  subst hnowb
  refine List.map_congr_left fun j hj => ?_
  rw [hwr]
  cases hact : act j with
  | false => rfl
  | true => rw [if_pos rfl, if_pos rfl, hnew j (List.mem_range.1 hj) hact]

theorem Tile.putElems_vreg_congr {t u : Tile} {ty n : Nat} {new new' : List Nat} {wr wr' : List Bool} (hv : u.xr.v = t.xr.v)
    (hwr : ∀ j, wr.getD j false = wr'.getD j false)
    (hnew : ∀ j, j < 64 → wr'.getD j false = true → new.getD j 0 = new'.getD j 0) :
    (u.putElems ty (.vreg n) new wr).xr.v = (t.putElems ty (.vreg n) new' wr').xr.v := by
  rw [Tile.putElems, Tile.putElems, hv]
  dsimp only
  refine List.foldl_ext _ _ _ fun v j hj => ?_
  rw [hwr]
  split
  next hact => rw [hnew j (List.mem_range.1 hj) hact]
  next => rfl

theorem Tile.putGather_eq (t : Tile) (w : VWord) (o : VOut) :
    t.putGather w o = { t with xr := { t.xr with v := (t.putGather w o).xr.v } } := by
  unfold Tile.putGather
  split <;> rfl

/-- What a VGATH delivers, its lanes' fields written out. -/
theorem gatherOut_new (s : State) (w : VWord) (f : Fields) (ls : List Int) (line : Nat → Nat) :
    (gatherOut w (s.laneIn w f (s.laneOld w f)) ls line).new = (List.range 64).map fun n =>
      if (s.activeLanes w).getD n false then
        line (ls.idxOf ((s.laneAddr w f n / 64 : Nat) : Int)) / 2 ^ (8 * (s.laneAddr w f n % 64)) % 2 ^ (8 * laneBytes w)
      else (s.laneOld w f).getD n 0 := rfl

section
variable {s : State} {w : VWord} {f : Fields}

theorem State.gatherNone_new {j : Nat} (hj : j < 64) (hact : (s.activeLanes w).getD j false = true) :
    (s.gatherNone w f).new.getD j 0 = (List.replicate 64 0).getD j 0 := by
  rw [State.gatherNone, gatherOut_new, getD_map_range _ hj, if_pos hact, Nat.zero_div, Nat.zero_mod, getD_replicate _ hj]

/-- The capture of a VGATH that delivers `new`. -/
def State.gatherCapOf (s : State) (w : VWord) (f : Fields) (new : List Nat) : Option (Nat × List U32) :=
  if w.h.capEn = 1 then some (w.h.capN.toNat, (List.range 64).map fun j =>
    BitVec.ofNat 32 (if (s.activeLanes w).getD j false then new.getD j 0 else
      if w.h.nowb = 1 then 0 else (s.laneOld w f).getD j 0)) else none

theorem State.gatherCap_eq {o : VOut} {new : List Nat} (hwr : o.wr = s.activeLanes w)
    (hnew : ∀ j, j < 64 → (s.activeLanes w).getD j false = true → o.new.getD j 0 = new.getD j 0) :
    gatherCap w (s.laneIn w f (s.laneOld w f)) o = s.gatherCapOf w f new := by
  have hcap := captured_congr (o := o) (nowb := decide (w.h.nowb = 1)) (d := s.laneOld w f) rfl (fun j => by rw [hwr]) hnew
  simp only [decide_eq_true_eq] at hcap
  rw [gatherCap, State.gatherCapOf, ← hcap]
  rfl

/-- A capture comes with the words that write a latch only. -/
theorem State.gatherPend_cap (new : List Nat) :
    ((s.gatherPend w f).result 0 (s.gatherCapOf w f new)).cap = s.gatherCapOf w f new := by
  by_cases hcap : w.h.capEn = 1
  · simp [Pend.result, State.gatherPend, hcap, Res.isLatch]
  · simp only [Pend.result, State.gatherCapOf, if_neg hcap, ite_self]

theorem VectorReady.dest_vreg (h : VectorReady s w (planVgath w) f) : f.d = .vreg (bitsAt w.d.toNat 0 9) := by
  obtain ⟨-, -, -, hfields, -⟩ := h
  exact Use.parse_regWr (checkFields_ok hfields).1

theorem Tile.putGather_v (h : VectorReady s w (planVgath w) f) {t u : Tile} (hv : u.xr.v = t.xr.v) {o : VOut} {new : List Nat}
    (hwr : o.wr = s.activeLanes w)
    (hnew : ∀ j, j < 64 → (s.activeLanes w).getD j false = true → o.new.getD j 0 = new.getD j 0) :
    (u.putGather w o).xr.v = if w.h.nowb = 1 then t.xr.v else
      (t.putElems (typeOf w) f.d new ((List.range 64).map fun j => (s.activeLanes w).getD j false)).xr.v := by
  unfold Tile.putGather
  split
  · exact hv
  · rw [h.dest_vreg, hwr, State.activeLanes, lanesOf_getD_map]
    exact Tile.putElems_vreg_congr hv (fun _ => rfl) hnew

/-- A ready VGATH goes on: its lanes have zeros at once where it reaches no line, and else its requests stand. -/
theorem VectorReady.vgath_runs (h : VectorReady s w (planVgath w) f)
    (hbase : (s.me.fieldValue f.a).toNat % laneBytes w = 0) :
    ∃ t q, exec (.vgath w) s = .next t ∧ LongIssued s t (s.afterLong w.h) q ∧ q.due = s.now + s.gatherTime ∧
      OnlyVector s t ∧ t.myTile.xr.m = s.myTile.xr.m ∧ t.myTile.xr.w = s.myTile.xr.w ∧
      (NoLine [(1, s.laneLines w f)] [] → q.cap = s.gatherCapOf w f (List.replicate 64 0) ∧
        t.myTile.asks = s.myTile.asks ∧ t.myTile.vjobs = s.myTile.vjobs ∧
        t.myTile.xr.v = if w.h.nowb = 1 then s.myTile.xr.v else
          (s.myTile.putElems (typeOf w) f.d (List.replicate 64 0)
            ((List.range 64).map fun j => (s.activeLanes w).getD j false)).xr.v) ∧
      (¬ NoLine [(1, s.laneLines w f)] [] →
        JobLeft s t (.vgath w) (s.laneIn w f (s.laneOld w f)) [(1, s.laneLines w f)] []) := by
  obtain ⟨-, hcore, -⟩ := id h
  have hlane := s.laneTile_change (w := w) (f := f)
  by_cases hlines : NoLine [(1, s.laneLines w f)] []
  case pos =>
    have hnew : ∀ j, j < 64 → (s.activeLanes w).getD j false = true →
        (s.gatherNone w f).new.getD j 0 = (List.replicate 64 0).getD j 0 := fun _ => State.gatherNone_new
    have hput := Tile.putGather_eq (s.laneTile w f) w (s.gatherNone w f)
    have hchange : s.myTile.VectorChange ((s.laneTile w f).putGather w (s.gatherNone w f)) := by
      rw [hput]
      exact hlane.vectorChange.withRegs _ (s.laneTile w f).xr.w
    obtain ⟨t, ht, hissued, honly, hxr, hasks, hjobs⟩ := State.issue_vector hcore hchange (s.afterLong w.h)
      ((s.gatherPend w f).result 0 (s.gatherCapOf w f (List.replicate 64 0)))
    have hexec := h.vgath_noLine hbase hlines
    rw [State.gatherCap_eq rfl hnew, ht] at hexec
    refine ⟨t, _, hexec, hissued, rfl, honly, ?m, ?w, fun _ => ⟨State.gatherPend_cap _, ?asks, ?jobs, ?v⟩, absurd hlines⟩
    case m => rw [hxr, hput, hlane.xr]
    case w => rw [hxr, hput, hlane.xr]
    case asks => rw [hasks, hput, hlane.asks]
    case jobs => rw [hjobs, hput, hlane.vjobs]
    case v => rw [hxr]; exact Tile.putGather_v h (congrArg XRes.v hlane.xr) rfl hnew
  case neg =>
    obtain ⟨t, ht, hissued, honly, hxr, hasks, hjobs⟩ := State.issue_vector (u := s.gatherJob w f) hcore
      (hlane.vectorChange.startJob ..) (s.afterLong w.h) (s.gatherPend w f)
    have hsame : t.myTile.xr = s.myTile.xr := hxr.trans State.gatherJob_xr
    exact ⟨t, _, (h.vgath_lines hbase hlines).trans (congrArg _ ht), hissued, rfl, honly, congrArg XRes.m hsame,
      congrArg XRes.w hsame, fun hnone => absurd hnone hlines,
      fun _ => State.gatherJob_left.congr (by rwa [State.myTile_setMyTile]) (by rwa [State.myTile_setMyTile])
        (by rwa [State.myTile_setMyTile])⟩

/-- A VGATH whose lines are read has its result. -/
theorem VectorReady.vgath_done (h : VectorReady s w (planVgath w) f) {b : Tile} {now : Nat} {j : VJob} {new : List Nat}
    (hword : j.word = .vgath w) (hvin : j.vin = s.laneIn w f (s.laneOld w f)) (hreads : j.reads = [(1, s.laneLines w f)])
    (hnew : new = (List.range 64).map fun n =>
      if (s.activeLanes w).getD n false then
        j.line ((s.laneLines w f).idxOf ((s.laneAddr w f n / 64 : Nat) : Int)) / 2 ^ (8 * (s.laneAddr w f n % 64)) %
          2 ^ (8 * laneBytes w)
      else (s.laneOld w f).getD n 0) :
    (b.jobDone now j).xr.v = (if w.h.nowb = 1 then b.xr.v else
      (b.putElems (typeOf w) f.d new ((List.range 64).map fun j => (s.activeLanes w).getD j false)).xr.v) ∧
    (b.jobDone now j).x.pend =
      b.x.pend.map fun q => if q.askedAt j.issued then q.result 0 (s.gatherCapOf w f new) else q := by
  have hlines : j.lines = s.laneLines w f := by rw [VJob.lines, hreads]; rfl
  have hout : (gatherOut w j.vin j.lines j.line).new = new := by rw [hvin, hlines, gatherOut_new, hnew]
  have hwr : (gatherOut w j.vin j.lines j.line).wr = s.activeLanes w := by rw [hvin]; rfl
  have hsame : ∀ n, n < 64 → (s.activeLanes w).getD n false = true →
      (gatherOut w j.vin j.lines j.line).new.getD n 0 = new.getD n 0 := fun _ _ _ => by rw [hout]
  have hx : (b.putGather w (gatherOut w j.vin j.lines j.line)).x = b.x := by rw [Tile.putGather_eq]
  rw [← State.gatherCap_eq hwr hsame, ← Tile.putGather_v h rfl hwr hsame, Tile.jobDone, hword, ← hvin]
  refine ⟨rfl, ?_⟩
  change List.map _ (b.putGather w (gatherOut w j.vin j.lines j.line)).x.pend = _
  rw [hx]

end

end Sys2Proof.Machine

/-!
VSCAT: the lines that it writes (R158, R159).
-/

namespace Sys2Proof

/-! Elements of one width written one after another. -/

/-- The elements `d` of the lanes `ls`, of `z` bytes each, written in order at their addresses. -/
def Memory.scatter (m : Memory) (z : Nat) (e d : Nat → Nat) (ls : List Nat) : Memory :=
  ls.foldl (fun m n => Memory.setBytes m (e n) (leBytes z (d n))) m

theorem Memory.byte_scatter_outside {z a : Nat} {e d : Nat → Nat} {ls : List Nat}
    (h : ∀ n ∈ ls, a < e n ∨ e n + z ≤ a) (m : Memory) : Memory.byte (Memory.scatter m z e d ls) a = m.byte a := by
  induction ls generalizing m with
  | nil => rfl
  | cons n ls ih =>
    obtain ⟨hn, hrest⟩ := List.forall_mem_cons.1 h
    exact (ih hrest _).trans (Memory.byte_setBytes_outside _ _ _ _ (by rwa [leBytes_length]))

theorem Memory.num_scatter_outside {z a : Nat} {e d : Nat → Nat} {ls : List Nat}
    (h : ∀ n ∈ ls, a + z ≤ e n ∨ e n + z ≤ a) (m : Memory) : Memory.num (Memory.scatter m z e d ls) a z = Memory.num m a z := by
  refine congrArg leNat (List.ext_getElem (by simp) fun i hi _ => ?_)
  rw [Memory.length_bytes] at hi
  rw [Memory.getElem_bytes, Memory.getElem_bytes, Memory.byte_scatter_outside fun n hn => ?_]
  have := h n hn
  omega

theorem Memory.num_setBytes_mod (m : Memory) (a n v : Nat) :
    Memory.num (Memory.setBytes m a (leBytes n v)) a n = v % 2 ^ (8 * n) := by
  have hbytes := Memory.bytes_setBytes m a (leBytes n v)
  rw [leBytes_length] at hbytes
  rw [Memory.num, hbytes, leNat_leBytes, ← Machine.pow_bytes]

/-- Two addresses of elements are the same or the elements do not meet. -/
theorem aligned_apart {z a b : Nat} (ha : z ∣ a) (hb : z ∣ b) (h : a ≠ b) : b + z ≤ a ∨ a + z ≤ b := by
  obtain ⟨i, rfl⟩ := ha
  obtain ⟨j, rfl⟩ := hb
  have hij : i ≠ j := fun hij => h (hij ▸ rfl)
  rcases Nat.lt_or_gt_of_ne hij with hlt | hlt
  · exact .inr (Nat.mul_succ z i ▸ Nat.mul_le_mul_left z hlt)
  · exact .inl (Nat.mul_succ z j ▸ Nat.mul_le_mul_left z hlt)

/-- Of the elements at one address the last one stands. -/
theorem Memory.num_scatter_last {z n : Nat} {e d : Nat → Nat} {ls : List Nat} (hsorted : ls.Pairwise (· < ·))
    (halign : ∀ i ∈ ls, z ∣ e i) (hn : n ∈ ls) (hlast : ∀ i ∈ ls, n < i → e i ≠ e n) (m : Memory) :
    Memory.num (Memory.scatter m z e d ls) (e n) z = d n % 2 ^ (8 * z) := by
  induction ls generalizing m with
  | nil => cases hn
  | cons i ls ih =>
    obtain ⟨hi, hrest⟩ := List.pairwise_cons.1 hsorted
    obtain ⟨hai, har⟩ := List.forall_mem_cons.1 halign
    rcases List.mem_cons.1 hn with rfl | hmem
    · refine (Memory.num_scatter_outside (ls := ls) (fun k hk => ?_) _).trans (Memory.num_setBytes_mod _ _ _ _)
      exact aligned_apart (har k hk) hai (hlast k (List.mem_cons_of_mem _ hk) (hi k hk))
    · exact ih hrest har hmem (fun k hk => hlast k (List.mem_cons_of_mem _ hk)) _

/-! Words put into a store. -/

theorem get_putWords (m : Store U32) (k : Nat) {ws : List Nat} {i : Nat} (h : i < ws.length) :
    Store.get 0 (Machine.putWords m k ws) (k + i) = BitVec.ofNat 32 (ws.getD i 0) := by
  unfold Machine.putWords
  generalize ws.length = n at h
  induction n with
  | zero => cases h
  | succ n ih =>
    rw [List.range_succ, List.foldl_append, List.foldl_cons, List.foldl_nil]
    by_cases hi : i = n
    · rw [hi, Store.get_set_same]
    · rw [Store.get_set_ne _ _ _ (by omega), ih (by omega)]

end Sys2Proof

namespace Sys2Proof.Machine

open Host (Outcome)

/-! The lines of a VSCAT (R158, R159). -/

theorem Tile.scratch_foldl_writeAt {z : Nat} {e d : Nat → Nat} {ls : List Nat}
    (h : ∀ n ∈ ls, Reached (e n)) (t : Tile) :
    (ls.foldl (fun t n => t.writeAt (e n) (leBytes z (d n))) t).scratch = Memory.scatter t.scratch z e d ls := by
  induction ls generalizing t with
  | nil => rfl
  | cons n ls ih =>
    obtain ⟨hn, hrest⟩ := List.forall_mem_cons.1 h
    rw [List.foldl_cons, ih hrest, Tile.writeAt_scratch _ _ hn]
    rfl

/-- The lanes whose elements lie in a line. -/
def State.lanesAt (s : State) (w : VWord) (f : Fields) (l : Nat) : List Nat :=
  (List.range 64).filter fun j => (s.activeLanes w).getD j false && ((s.laneAddr w f j : Int) / 64 == (l : Int))

theorem State.mem_lanesAt {s : State} {w : VWord} {f : Fields} {l n : Nat} :
    n ∈ s.lanesAt w f l ↔ n < 64 ∧ (s.activeLanes w).getD n false = true ∧ s.laneAddr w f n / 64 = l := by
  rw [State.lanesAt, List.mem_filter, List.mem_range, Bool.and_eq_true, beq_iff_eq]
  norm_cast

section
variable {s : State} {w : VWord} {f : Fields}

theorem State.scratch_jobLine {b : Tile} {j : VJob} {k l : Nat} (els : List Nat) (wr : List Bool) (hword : j.word = .vscat w)
    (hvin : j.vin = s.laneIn w f (s.laneOld w f)) (hline : j.writes[k]? = some (l : Int)) (hl : l ≤ 5114) :
    (b.jobLine j k els wr).scratch =
      Memory.scatter b.scratch (laneBytes w) (s.laneAddr w f) (fun n => (s.laneOld w f).getD n 0) (s.lanesAt w f l) := by
  have hget : j.writes.getD k (-1) = l := by rw [List.getD_eq_getElem?_getD, hline, Option.getD_some]
  have hfold : b.jobLine j k els wr = (s.lanesAt w f l).foldl
      (fun t n => t.writeAt (s.laneAddr w f n) (leBytes (laneBytes w) ((s.laneOld w f).getD n 0))) b := by
    rw [Tile.jobLine, hword, hvin, hget]
    rfl
  rw [hfold]
  refine Tile.scratch_foldl_writeAt (fun n hn => ?_) b
  obtain ⟨-, -, hat⟩ := State.mem_lanesAt.1 hn
  exact ⟨Int.natCast_nonneg _, by omega⟩

theorem State.laneAddr_aligned (hbase : (s.me.fieldValue f.a).toNat % laneBytes w = 0) (j : Nat) :
    laneBytes w ∣ s.laneAddr w f j :=
  Nat.dvd_add (Nat.dvd_of_mod_eq_zero hbase) (Nat.dvd_mul_right ..)

/-- A line of a VSCAT has the last active lane's element at each address, and is unchanged beside them. -/
theorem State.vscat_line (hbase : (s.me.fieldValue f.a).toNat % laneBytes w = 0) {b : Tile} {j : VJob} {k l : Nat}
    (els : List Nat) (wr : List Bool) (hword : j.word = .vscat w) (hvin : j.vin = s.laneIn w f (s.laneOld w f))
    (hline : j.writes[k]? = some (l : Int)) (hl : l ≤ 5114) :
    (∀ n, n < 64 → (s.activeLanes w).getD n false = true → s.laneAddr w f n / 64 = l →
      (∀ m, n < m → m < 64 → (s.activeLanes w).getD m false = true → s.laneAddr w f m ≠ s.laneAddr w f n) →
      Memory.num (b.jobLine j k els wr).scratch (s.laneAddr w f n) (laneBytes w) =
        (s.laneOld w f).getD n 0 % 2 ^ (8 * laneBytes w)) ∧
    ∀ a, (∀ n, n < 64 → (s.activeLanes w).getD n false = true → s.laneAddr w f n / 64 = l →
      a < s.laneAddr w f n ∨ s.laneAddr w f n + laneBytes w ≤ a) →
      Memory.byte (b.jobLine j k els wr).scratch a = Memory.byte b.scratch a := by
  rw [State.scratch_jobLine els wr hword hvin hline hl]
  constructor
  · intro n hn hact hat hlast
    refine Memory.num_scatter_last (List.pairwise_lt_range.filter _) (fun i _ => State.laneAddr_aligned hbase i)
      (State.mem_lanesAt.2 ⟨hn, hact, hat⟩) (fun i hi hlt => ?_) _
    obtain ⟨hbound, hactive, -⟩ := State.mem_lanesAt.1 hi
    exact hlast i hlt hbound hactive
  · intro a hout
    refine Memory.byte_scatter_outside (fun n hn => ?_) _
    obtain ⟨hbound, hactive, hat⟩ := State.mem_lanesAt.1 hn
    exact hout n hbound hactive hat

/-- A ready VSCAT goes on, with its requests left. -/
theorem VectorReady.vscat_runs (h : VectorReady s w (planVscat w) f)
    (hbase : (s.me.fieldValue f.a).toNat % laneBytes w = 0) :
    ∃ t q, exec (.vscat w) s = .next t ∧ LongIssued s t (s.afterLong w.h) q ∧ q.due = s.now + s.gatherTime ∧
      OnlyVector s t ∧ JobLeft s t (.vscat w) (s.laneIn w f (s.laneOld w f)) [] (s.laneLines w f) := by
  obtain ⟨-, hcore, -⟩ := id h
  obtain ⟨t, ht, hissued, honly, hxr, hasks, hjobs⟩ := State.issue_vector (u := s.scatterJob w f) hcore
    ((s.laneTile_change (w := w) (f := f)).vectorChange.startJob ..) (s.afterLong w.h) s.scatterPend
  exact ⟨t, _, (h.vscat_aligned hbase).trans (congrArg _ ht), hissued, rfl, honly,
    State.scatterJob_left.congr (by rwa [State.myTile_setMyTile]) (by rwa [State.myTile_setMyTile])
      (by rwa [State.myTile_setMyTile])⟩

/-- VSCAT writes no destination, so that it has D's elements (R145). -/
theorem VectorReady.laneOld_vscat (h : VectorReady s w (planVscat w) f) :
    s.laneOld w f = s.myTile.elems [] (typeOf w) f.d := by
  obtain ⟨hok, -⟩ := h
  have hnowb : w.h.nowb = 0 := by simp only [planVscat, Bool.and_eq_true, beq_iff_eq] at hok; exact hok.1.2
  rw [State.laneOld, hnowb, if_neg (by decide)]

end

end Sys2Proof.Machine

/-!
CBLD (R161, R162), and the words that move between lines and registers together.
-/

namespace Sys2Proof.Machine

open Host (Outcome)

/-! CBLD (R161, R162). -/

section
variable {s : State} {i : Instr} {w : VWord} {f : Fields} {dst rdr : Res} {put : XRes → List Nat → XRes}

/-- The lines that CBLD reads. -/
def State.imageLines (s : State) (f : Fields) : List Int := s.myTile.xr.opndLines f.a 16

/-- CBLD computes with no operand. -/
def imageIn : VIn := ⟨[], [], [], [], 0, 0, false, []⟩

/-- CBLD in flight. -/
def State.imagePend (s : State) (dst : Res) : Pend :=
  { res := [dst], due := s.now + 48, flags := 0, cap := none, ew := (4, 1), asks := some (s.now, 48) }

/-- The tile of a CBLD that reaches no line. -/
def State.imageTile (s : State) (f : Fields) (put : XRes → List Nat → XRes) : Tile :=
  { s.myTile.touchLines s.now rankVector (s.imageLines f) with xr := put (s.myTile.xr.post f.a 16) (List.replicate 256 0) }

/-- The tile of a CBLD that reaches a line. -/
def State.imageJob (s : State) (i : Instr) (f : Fields) : Tile :=
  { s.myTile.startJob s.now 47 48 i imageIn [(1, s.imageLines f)] [] s.me.pc none
      (s.myTile.xr.walksTo (s.myTile.xr.post f.a 16)) with
    xr := s.myTile.xr.post f.a 16 }

theorem VectorReady.image_ready (h : VectorReady s w (planCbld w) f) :
    ¬ (false = true ∨ ([dst, rdr].any (s.me.pending s.now) || s.myTile.linesPending s.now (s.imageLines f) []) = true) := by
  rw [h.no_pending, h.no_lines]
  simp

theorem VectorReady.image_noLine (h : VectorReady s w (planCbld w) f) (hlines : NoLine [(1, s.imageLines f)] []) :
    s.loadImage i w dst rdr false put =
      .next ((s.setMyTile (s.imageTile f put)).issue (s.afterLong w.h) (s.now + 1) (s.imagePend dst)) := by
  rw [State.loadImage, h.longWord_eq]
  exact (if_neg h.image_ready).trans (if_pos ((noLine_reads_iff 1 (s.imageLines f)).2 hlines))

theorem VectorReady.image_lines (h : VectorReady s w (planCbld w) f) (hlines : ¬ NoLine [(1, s.imageLines f)] []) :
    s.loadImage i w dst rdr false put =
      .next ((s.setMyTile (s.imageJob i f)).issue (s.afterLong w.h) (s.now + 1) (s.imagePend dst)) := by
  rw [State.loadImage, h.longWord_eq]
  exact (if_neg h.image_ready).trans (if_neg fun hempty => hlines ((noLine_reads_iff 1 (s.imageLines f)).1 hempty))

theorem State.imageJob_left : JobLeft s (s.setMyTile (s.imageJob i f)) i imageIn [(1, s.imageLines f)] [] :=
  jobLeft_startJob (v := s.imageJob i f) rfl rfl rfl rfl (XRes.post_v ..) (XRes.post_m ..) (XRes.post_lfsr ..)

/-- A ready CBLD goes on: it loads zeros at once where it reaches no line, and else its requests stand. -/
theorem VectorReady.image_runs (h : VectorReady s w (planCbld w) f) (hput : ∀ x ws, (put x ws).v = x.v)
    (hexec : exec i s = s.loadImage i w dst rdr false put) :
    ∃ t q, exec i s = .next t ∧ LongIssued s t (s.afterLong w.h) q ∧ q.due = s.now + 48 ∧
      t.myTile.xr.v = s.myTile.xr.v ∧ t.me.regs = s.me.regs ∧ OnlyFlow s t ∧ SameBytes s t ∧
      (NoLine [(1, s.imageLines f)] [] → t.myTile.xr = put (s.myTile.xr.post f.a 16) (List.replicate 256 0) ∧
        t.myTile.asks = s.myTile.asks) ∧
      (¬ NoLine [(1, s.imageLines f)] [] → t.myTile.xr.c = s.myTile.xr.c ∧ t.myTile.xr.cb = s.myTile.xr.cb ∧
        JobLeft s t i imageIn [(1, s.imageLines f)] []) := by
  obtain ⟨-, hcore, -⟩ := id h
  by_cases hlines : NoLine [(1, s.imageLines f)] []
  case pos =>
    have hx : (s.imageTile f put).x = s.me := by rw [State.imageTile, State.me_eq_x hcore, Tile.touchLines_x]
    obtain ⟨hissued, hflow, -⟩ := State.issued_x hcore (u := s.imageTile f put) (by rw [hx]) (s.afterLong w.h)
      (s.imagePend dst)
    refine ⟨_, s.imagePend dst, hexec.trans ((h.image_noLine hlines).trans (congrArg _ (State.issue_x hcore ..))), hissued, rfl,
      ?v, ?regs, hflow, State.sameBytes_setMyTile (Tile.touchLines_scratch ..), fun _ => ⟨?xr, ?asks⟩, absurd hlines⟩
    case v => rw [State.myTile_setMyTile]; exact (hput _ _).trans (XRes.post_v ..)
    case regs => rw [State.me_x hcore]; exact (congrArg Core.regs hx : (s.imageTile f put).x.regs = s.me.regs)
    case xr => rw [State.myTile_setMyTile]; rfl
    case asks => rw [State.myTile_setMyTile]; exact Tile.touchLines_asks ..
  case neg =>
    obtain ⟨t, ht, hissued, honly, hxr, hasks, hjobs⟩ := State.issue_vector (u := s.imageJob i f) hcore
      (s.myTile.startJob_posted ..) (s.afterLong w.h) (s.imagePend dst)
    obtain ⟨-, -, hflow, hregs, hc, hcb, -⟩ := id honly
    have hleft : JobLeft s t i imageIn [(1, s.imageLines f)] [] := State.imageJob_left.congr
      (by rwa [State.myTile_setMyTile]) (by rwa [State.myTile_setMyTile]) (by rwa [State.myTile_setMyTile])
    obtain ⟨-, -, hv, -⟩ := id hleft
    exact ⟨t, _, hexec.trans ((h.image_lines hlines).trans (congrArg _ ht)), hissued, rfl, hv, hregs, hflow, honly.sameBytes,
      fun hnone => absurd hnone hlines, fun _ => ⟨hc, hcb, hleft⟩⟩

end

/-- VSCAT's head, written out (R145, R158). -/
theorem planVscat_eq (w : VWord) : planVscat w =
    { movePlan w (fun t => moveType t && t != 5) (.regRd (typeOf w)) .base .idx (fun i => allLanes i [] 0) with
      ok5 := moveType (typeOf w) && typeOf w != 5 && w.h.rnd == 0 && w.h.sat == 0 && w.h.x3 == 0 && w.h.nowb == 0 &&
        w.h.capEn == 0 } := by
  simp only [planVscat, movePlan, bareHead, Bool.and_assoc]

theorem VJob.length_elems (j : VJob) (op ty n : Nat) : (j.elems op ty n).length = n := by
  simp [VJob.elems, lineElems]

theorem XRes.get_loadConsts (x : XRes) {ws : List Nat} {k : Nat} (h : k < ws.length) :
    Store.get 0 (x.loadConsts ws).c k = BitVec.ofNat 32 (ws.getD k 0) := by
  have hget := get_putWords x.c 0 h
  rwa [Nat.zero_add] at hget

theorem XRes.get_loadBook (n : Nat) (x : XRes) {ws : List Nat} {k : Nat} (h : k < ws.length) :
    Store.get 0 (x.loadBook n ws).cb (256 * n + k) = BitVec.ofNat 32 (ws.getD k 0) :=
  get_putWords x.cb (256 * n) h

theorem Tile.jobDone_cbldConst {t : Tile} {now : Nat} {j : VJob} {w : VWord} (h : j.word = .cbldConst w) :
    (t.jobDone now j).xr = t.xr.loadConsts (j.elems 1 13 256) := by
  rw [Tile.jobDone, h]
  rfl

theorem Tile.jobDone_cbldCodebook {t : Tile} {now : Nat} {j : VJob} {w : VWord} (h : j.word = .cbldCodebook w) :
    (t.jobDone now j).xr = t.xr.loadBook (w.h.x3.toNat - 1) (j.elems 1 13 256) := by
  rw [Tile.jobDone, h]
  rfl

theorem exec_cbldConst {s : State} {w : VWord} (h : s.myTile.mopen = []) :
    exec (.cbldConst w) s = s.loadImage (.cbldConst w) w .consts .readConsts false XRes.loadConsts := by
  change execCbldConst w s = _
  rw [execCbldConst, Tile.constsOpen, h]
  rfl

theorem exec_cbldCodebook {s : State} {w : VWord} (h : s.myTile.mopen = []) :
    exec (.cbldCodebook w) s = s.loadImage (.cbldCodebook w) w (.book (w.h.x3.toNat - 1)) (.readBook (w.h.x3.toNat - 1)) false
      (XRes.loadBook (w.h.x3.toNat - 1)) := by
  change execCbldCodebook w s = _
  rw [execCbldCodebook, Tile.bookOpen, h]
  rfl

/-- What CBLD loads, from issue or from the lines it read: `get` reads back what `put` loads. -/
theorem cbld_row {mk : VWord → Instr} {get : VWord → XRes → Nat → U32} {w : VWord} {dst rdr : Res}
    {put : XRes → List Nat → XRes} (hput : ∀ x ws, (put x ws).v = x.v)
    (hget : ∀ x ws k, k < ws.length → get w (put x ws) k = BitVec.ofNat 32 (ws.getD k 0))
    (hexec : ∀ s : State, s.myTile.mopen = [] → exec (mk w) s = s.loadImage (mk w) w dst rdr false put)
    (hdone : ∀ (t : Tile) now j, j.word = mk w → (t.jobDone now j).xr = put t.xr (j.elems 1 13 256)) (s : State) (f : Fields) :
    (VectorReady s w (planCbld w) f → s.myTile.mopen = [] →
      ∃ t q, exec (mk w) s = .next t ∧ LongIssued s t (s.afterLong w.h) q ∧ q.due = s.now + 48 ∧
        t.myTile.xr.v = s.myTile.xr.v ∧ t.me.regs = s.me.regs ∧ OnlyFlow s t ∧ SameBytes s t ∧
        (NoLine [(1, s.imageLines f)] [] → (∀ k, k < 256 → get w t.myTile.xr k = 0) ∧ t.myTile.asks = s.myTile.asks) ∧
        (¬ NoLine [(1, s.imageLines f)] [] → t.myTile.xr.c = s.myTile.xr.c ∧ t.myTile.xr.cb = s.myTile.xr.cb ∧
          JobLeft s t (mk w) imageIn [(1, s.imageLines f)] [])) ∧
    ∀ (t : Tile) (now k : Nat) (j : VJob), j.word = mk w → k < 256 →
      get w (t.jobDone now j).xr k = BitVec.ofNat 32 ((j.elems 1 13 256).getD k 0) := by
  constructor
  · intro hready hopen
    obtain ⟨t, q, ht, hissued, hdue, hv, hregs, hflow, hbytes, hnone, hlines⟩ := hready.image_runs hput (hexec s hopen)
    refine ⟨t, q, ht, hissued, hdue, hv, hregs, hflow, hbytes, fun h => ?_, hlines⟩
    obtain ⟨hxr, hasks⟩ := hnone h
    refine ⟨fun k hk => ?_, hasks⟩
    rw [hxr, hget _ _ _ (by rwa [List.length_replicate]), getD_replicate _ hk]
    rfl
  · intro t now k j hword hk
    rw [hdone t now j hword, hget _ _ _ (by rwa [VJob.length_elems])]

end Sys2Proof.Machine

namespace Sys2Proof

open Sys2Proof.Machine

/-- Settles O46: VTOS, VGATH, VSCAT and CBLD from issue (`vtos_runs`, `vgath_runs`, `vscat_runs`, `cbld_row`) to the last grant
(`jobDone_vtos`, `vgath_done`, `vscat_line`). -/
theorem vectorTransfers : Obligations.VectorTransfers := by
  unfold Obligations.VectorTransfers
  refine ⟨?vtos, ?vgath, ?vscat, ?cbld⟩
  case vtos =>
    rintro s w p f al value hp rfl
    rw [← planVtos_eq] at hp
    subst hp
    simp only [← vtosDest_eq, ← vtosValue_eq]
    refine ⟨?issue, fun t now j hword hdest => ?done⟩
    case issue =>
      rintro hready rfl
      exact hready.vtos_runs
    case done =>
      rw [Tile.jobDone_vtos hword]
      exact ⟨(Core.reg_setReg_same _ _ _).trans (if_neg hdest), fun n hn => Core.reg_setReg_ne _ _ hn⟩
  case vgath =>
    rintro s w p f z u e act ls old cap rfl rfl rfl rfl rfl rfl rfl rfl hready
    refine ⟨fun hbase => ?_, fun hbase => hready.vgath_misaligned hbase⟩
    obtain ⟨t, q, ht, hissued, hdue, honly, hm, hw, hnone, hlines⟩ := VectorReady.vgath_runs hready hbase
    exact ⟨t, q, s.laneIn w f (s.laneOld w f), ht, hissued, hdue, honly.sameBytes, honly, hm, hw, rfl, hnone, fun hsome =>
      ⟨hlines hsome, fun b now j new hword hvin hreads hnew => hready.vgath_done hword hvin hreads hnew⟩⟩
  case vscat =>
    rintro s w p f z u e act ls old rfl rfl rfl rfl rfl hold hp hready
    rw [← planVscat_eq] at hp
    subst hp
    obtain rfl : old = s.laneOld w f := hold.trans hready.laneOld_vscat.symm
    refine ⟨fun hbase => ?_, fun hbase => hready.vscat_misaligned hbase⟩
    obtain ⟨t, q, ht, hissued, hdue, honly, hleft⟩ := VectorReady.vscat_runs hready hbase
    refine ⟨t, q, s.laneIn w f (s.laneOld w f), ht, hissued, hdue, honly.sameBytes, honly, rfl, hleft,
      fun b j k l els wr hword hvin hwrites hline hl => ?_⟩
    exact State.vscat_line hbase els wr hword hvin (hwrites ▸ hline) hl
  case cbld =>
    simp only [List.forall_mem_cons]
    refine ⟨?const, ?book, List.forall_mem_nil _⟩
    case const =>
      rintro s w p f ls rfl
      obtain ⟨hruns, hdone⟩ := cbld_row (mk := .cbldConst) (get := fun _ x k => Store.get 0 x.c k) (put := XRes.loadConsts)
        (fun _ _ => rfl) (fun x ws k => x.get_loadConsts) (fun _ => exec_cbldConst) (fun _ _ _ => Tile.jobDone_cbldConst) s f
      exact ⟨fun hready hopen hls => hls ▸ hruns hready hopen, hdone⟩
    case book =>
      rintro s w p f ls rfl
      obtain ⟨hruns, hdone⟩ := cbld_row (mk := .cbldCodebook) (w := w)
        (get := fun w x k => Store.get 0 x.cb (256 * (w.h.x3.toNat - 1) + k))
        (put := XRes.loadBook (w.h.x3.toNat - 1)) (fun _ _ => rfl) (fun x ws k => x.get_loadBook _)
        (fun _ => exec_cbldCodebook) (fun _ _ _ => Tile.jobDone_cbldCodebook) s f
      exact ⟨fun hready hopen hls => hls ▸ hruns hready hopen, hdone⟩

end Sys2Proof

/-!
What accumulators and rings hold once a matrix word has issued (R166, R167, R177, R179, R244, R263).
-/

namespace Sys2Proof

/-- What stands in a store of numbered values, the default left out. -/
theorem Store.get_filter_map {α : Type} [DecidableEq α] (d : α) (f : Nat → α) (b k : Nat) (ls : List Nat) :
    Store.get d ((ls.map fun i => (b + i, f i)).filter fun e => e.2 != d) (b + k) = if k ∈ ls then f k else d := by
  induction ls with
  | nil => rfl
  | cons i ls ih =>
    by_cases hd : f i = d
    · rw [List.map_cons, List.filter_cons_of_neg (by simp [hd]), ih]
      by_cases hk : k = i
      · simp [hk, hd]
      · simp [hk]
    · rw [List.map_cons, List.filter_cons_of_pos (by simp [hd]), Store.get]
      by_cases hk : i = k
      · simp [hk]
      · simp [hk, Ne.symm hk, ih]

end Sys2Proof

namespace Sys2Proof.Machine

open Host (Outcome)

/-! What accumulators hold (R167, R263). -/

theorem Tile.accElems_setAcc_same (t : Tile) (n : Nat) (v : List Nat) (tag : Nat) {k : Nat} (hk : k < 4096) :
    ((t.setAcc n v tag).accElems n).getD k 0 = v.getD k 0 % 2 ^ 32 := by
  have hsub : (t.setAcc n v tag).acc.filter (fun e => e.1 / 4096 == n) =
      ((List.range 4096).map fun i => (4096 * n + i, BitVec.ofNat 32 (v.getD i 0))).filter fun e => e.2 != 0 := by
    have hlow : (t.acc.filter fun e => decide (e.1 / 4096 < n)).filter (fun e => e.1 / 4096 == n) = [] := by
      rw [List.filter_filter, List.filter_eq_nil_iff]
      intro e _
      simp only [Bool.and_eq_true, beq_iff_eq, decide_eq_true_eq]
      omega
    have hhigh : (t.acc.filter fun e => decide (n < e.1 / 4096)).filter (fun e => e.1 / 4096 == n) = [] := by
      rw [List.filter_filter, List.filter_eq_nil_iff]
      intro e _
      simp only [Bool.and_eq_true, beq_iff_eq, decide_eq_true_eq]
      omega
    rw [Tile.setAcc, List.filter_append, List.filter_append, hlow, hhigh, List.nil_append, List.append_nil,
      List.filter_eq_self]
    intro e he
    obtain ⟨i, hi, rfl⟩ := List.mem_map.1 (List.mem_of_mem_filter he)
    have := List.mem_range.1 hi
    simp only [beq_iff_eq]
    omega
  rw [Tile.accElems, getD_map_range _ hk, hsub, Store.get_filter_map, if_pos (List.mem_range.2 hk), BitVec.toNat_ofNat]

theorem Tile.accElems_setAcc_ne (t : Tile) {n m : Nat} (v : List Nat) (tag : Nat) (h : m ≠ n) :
    (t.setAcc n v tag).accElems m = t.accElems m := by
  have hnew : (((List.range 4096).map fun i => (4096 * n + i, BitVec.ofNat 32 (v.getD i 0))).filter fun e => e.2 != 0).filter
      (fun e => e.1 / 4096 == m) = [] := by
    rw [List.filter_eq_nil_iff]
    intro e he
    obtain ⟨i, hi, rfl⟩ := List.mem_map.1 (List.mem_of_mem_filter he)
    have := List.mem_range.1 hi
    simp only [beq_iff_eq]
    omega
  have hsub : (t.setAcc n v tag).acc.filter (fun e => e.1 / 4096 == m) = t.acc.filter (fun e => e.1 / 4096 == m) := by
    rw [Tile.setAcc, List.filter_append, List.filter_append, hnew, List.append_nil, List.filter_filter, List.filter_filter]
    rcases Nat.lt_or_gt_of_ne h with hlt | hgt
    · have hhigh : t.acc.filter (fun e => e.1 / 4096 == m && decide (n < e.1 / 4096)) = [] := by
        rw [List.filter_eq_nil_iff]
        intro e _
        simp only [Bool.and_eq_true, beq_iff_eq, decide_eq_true_eq]
        omega
      rw [hhigh, List.append_nil]
      refine List.filter_congr fun e _ => ?_
      by_cases he : e.1 / 4096 = m
      · simp [he, hlt]
      · simp [he]
    · have hlow : t.acc.filter (fun e => e.1 / 4096 == m && decide (e.1 / 4096 < n)) = [] := by
        rw [List.filter_eq_nil_iff]
        intro e _
        simp only [Bool.and_eq_true, beq_iff_eq, decide_eq_true_eq]
        omega
      rw [hlow, List.nil_append]
      refine List.filter_congr fun e _ => ?_
      by_cases he : e.1 / 4096 = m
      · simp [he, hgt]
      · simp [he]
  rw [Tile.accElems, hsub]
  rfl

theorem Tile.tagOf_setAcc_same (t : Tile) (n : Nat) (v : List Nat) (tag : Nat) : (t.setAcc n v tag).tagOf n = tag :=
  Store.get_set_same 0 t.accTag n tag

theorem Tile.tagOf_setAcc_ne (t : Tile) {n m : Nat} (v : List Nat) (tag : Nat) (h : m ≠ n) :
    (t.setAcc n v tag).tagOf m = t.tagOf m :=
  Store.get_set_ne 0 t.accTag tag h

theorem Tile.ownerOf_setOwner_same (t : Tile) (n : Nat) (o : Owner) : (t.setOwner n o).ownerOf n = o :=
  Store.get_set_same Owner.nobody t.accOwner n o

theorem Tile.ownerOf_setOwner_ne (t : Tile) {n m : Nat} (o : Owner) (h : m ≠ n) : (t.setOwner n o).ownerOf m = t.ownerOf m :=
  Store.get_set_ne Owner.nobody t.accOwner o h

/-! New contents of accumulators (R167, R179). -/

/-- A step of `putAccs`. -/
def Tile.putAcc (t : Tile) (a : Nat × Option (List Nat × Nat)) : Tile :=
  match a.2 with
  | some v => t.setAcc a.1 v.1 v.2
  | none => t.freeAcc a.1

theorem Tile.putAccs_cons (t : Tile) (a : Nat × Option (List Nat × Nat)) (as : List (Nat × Option (List Nat × Nat))) :
    t.putAccs (a :: as) = (t.putAcc a).putAccs as := rfl

/-- Only the accumulators matter to what their new contents are. -/
theorem Tile.putAccs_with (as : List (Nat × Option (List Nat × Nat))) (t u : Tile) (hacc : u.acc = t.acc)
    (htag : u.accTag = t.accTag) (howner : u.accOwner = t.accOwner) : u.putAccs as =
      { u with acc := (t.putAccs as).acc, accTag := (t.putAccs as).accTag, accOwner := (t.putAccs as).accOwner } := by
  induction as generalizing t u with
  | nil =>
    change u = { u with acc := t.acc, accTag := t.accTag, accOwner := t.accOwner }
    rw [← hacc, ← htag, ← howner]
  | cons a as ih =>
    have hstep : u.putAcc a = { u with
        acc := (t.putAcc a).acc, accTag := (t.putAcc a).accTag, accOwner := (t.putAcc a).accOwner } := by
      obtain ⟨n, v | _⟩ := a
      · simp only [Tile.putAcc, Tile.freeAcc, Tile.setOwner, Tile.setAcc, hacc, htag, howner]
      · simp only [Tile.putAcc, Tile.setAcc, hacc, htag, howner]
    rw [Tile.putAccs_cons, Tile.putAccs_cons, hstep]
    exact ih (t.putAcc a) _ rfl rfl rfl

theorem Tile.putAccs_outside {as : List (Nat × Option (List Nat × Nat))} {n : Nat} (h : n ∉ as.map fun a => a.1) (t : Tile) :
    (t.putAccs as).accElems n = t.accElems n ∧ (t.putAccs as).tagOf n = t.tagOf n ∧
      (t.putAccs as).ownerOf n = t.ownerOf n := by
  induction as generalizing t with
  | nil => exact ⟨rfl, rfl, rfl⟩
  | cons a as ih =>
    rw [List.map_cons, List.mem_cons, not_or] at h
    obtain ⟨hn, hrest⟩ := h
    obtain ⟨hels, htag, howner⟩ := ih hrest (t.putAcc a)
    rw [Tile.putAccs_cons, hels, htag, howner]
    obtain ⟨m, _ | v⟩ := a
    · exact ⟨t.accElems_setAcc_ne [] 0 hn, t.tagOf_setAcc_ne [] 0 hn, (t.setAcc m [] 0).ownerOf_setOwner_ne .nobody hn⟩
    · exact ⟨t.accElems_setAcc_ne _ _ hn, t.tagOf_setAcc_ne _ _ hn, rfl⟩

/-- A word that releases nothing leaves every owner. -/
theorem Tile.ownerOf_putAccs {as : List (Nat × Option (List Nat × Nat))} (h : ∀ a ∈ as, a.2.isSome = true) (t : Tile) :
    (t.putAccs as).accOwner = t.accOwner := by
  induction as generalizing t with
  | nil => rfl
  | cons a as ih =>
    obtain ⟨ha, hrest⟩ := List.forall_mem_cons.1 h
    rw [Tile.putAccs_cons, ih hrest]
    obtain ⟨m, _ | v⟩ := a
    · cases ha
    · rfl

/-- A released accumulator has no owner, no tag and no contents. -/
theorem Tile.putAccs_released {as : List (Nat × Option (List Nat × Nat))} {n : Nat} (h : ∀ a ∈ as, a.2 = none)
    (hn : n ∈ as.map fun a => a.1) (t : Tile) : (t.putAccs as).ownerOf n = .nobody ∧ (t.putAccs as).tagOf n = 0 ∧
      ∀ k, ((t.putAccs as).accElems n).getD k 0 = 0 := by
  induction as generalizing t with
  | nil => cases hn
  | cons a as ih =>
    obtain ⟨ha, hrest⟩ := List.forall_mem_cons.1 h
    by_cases hlater : n ∈ as.map fun a => a.1
    · exact ih hrest hlater _
    · have hhere : n = a.1 := (List.mem_cons.1 hn).resolve_right hlater
      obtain ⟨hels, htag, howner⟩ := Tile.putAccs_outside hlater (t.putAcc a)
      rw [Tile.putAccs_cons, hels, htag, howner]
      obtain ⟨m, v⟩ := a
      cases ha
      subst hhere
      refine ⟨(t.setAcc n [] 0).ownerOf_setOwner_same n .nobody, t.tagOf_setAcc_same n [] 0, fun k => ?_⟩
      by_cases hk : k < 4096
      · exact t.accElems_setAcc_same n [] 0 hk
      · exact List.getD_eq_default _ _ (by simpa [Tile.accElems] using hk)

/-! Slots popped and filled (R166, R177, R244). -/

theorem Tile.ring_setRing_same (t : Tile) (n : Nat) (r : Ring) : (t.setRing n r).ring n = r :=
  Store.get_put_same Ring.unset t.rings n r

theorem Tile.ring_setRing_ne (t : Tile) {n m : Nat} (r : Ring) (h : m ≠ n) : (t.setRing n r).ring m = t.ring m :=
  Store.get_put_ne Ring.unset t.rings r h

/-- A ring whose head slot is popped. -/
def Ring.popped (g : Ring) : Ring := { g.setSlot g.h .reading with h := g.after g.h }

/-- A step of `popHeads`. -/
def Tile.popHead (t : Tile) (r : RingRead) : Tile :=
  if r.pop then t.setRing r.ring (t.ring r.ring).popped else t

theorem Tile.popHeads_cons (t : Tile) (r : RingRead) (rs : List RingRead) :
    t.popHeads (r :: rs) = (t.popHead r).popHeads rs := rfl

/-- Only the rings matter to what pops leave of them. -/
theorem Tile.popHeads_with (rs : List RingRead) (t u : Tile) (h : u.rings = t.rings) :
    u.popHeads rs = { u with rings := (t.popHeads rs).rings } := by
  induction rs generalizing t u with
  | nil =>
    change u = { u with rings := t.rings }
    rw [← h]
  | cons r rs ih =>
    have hstep : u.popHead r = { u with rings := (t.popHead r).rings } := by
      unfold Tile.popHead Tile.setRing Tile.ring
      rw [h]
      split
      · rfl
      · rw [← h]
    rw [Tile.popHeads_cons, Tile.popHeads_cons, hstep]
    exact ih (t.popHead r) _ rfl

theorem Tile.ring_popHeads_outside {rs : List RingRead} {n : Nat} (h : n ∉ rs.map fun r => r.ring) (t : Tile) :
    (t.popHeads rs).ring n = t.ring n := by
  induction rs generalizing t with
  | nil => rfl
  | cons r rs ih =>
    rw [List.map_cons, List.mem_cons, not_or] at h
    obtain ⟨hn, hrest⟩ := h
    rw [Tile.popHeads_cons, ih hrest, Tile.popHead]
    split
    · exact t.ring_setRing_ne _ hn
    · rfl

theorem Tile.ring_popHeads {rs : List RingRead} (h : (rs.map fun r => r.ring).Nodup) {e : RingRead} (he : e ∈ rs) (t : Tile) :
    (t.popHeads rs).ring e.ring = if e.pop then (t.ring e.ring).popped else t.ring e.ring := by
  induction rs generalizing t with
  | nil => cases he
  | cons r rs ih =>
    rw [List.map_cons, List.nodup_cons] at h
    obtain ⟨hr, hrest⟩ := h
    rw [Tile.popHeads_cons]
    rcases List.mem_cons.1 he with rfl | hmem
    · rw [Tile.ring_popHeads_outside hr, Tile.popHead]
      split
      · exact t.ring_setRing_same _ _
      · rfl
    · have hne : e.ring ≠ r.ring := fun heq => hr (heq ▸ List.mem_map_of_mem (f := fun r => r.ring) hmem)
      have hsame : (t.popHead r).ring e.ring = t.ring e.ring := by
        unfold Tile.popHead
        split
        · exact t.ring_setRing_ne _ hne
        · rfl
      rw [ih hrest hmem, hsame]

/-- A ring whose tail slot is being filled. -/
def Ring.filled (g : Ring) : Ring := { g.setSlot g.t .writing with t := g.after g.t }

theorem Tile.fillTail_with (f : Option (Nat × Nat)) (t u : Tile) (h : u.rings = t.rings) :
    u.fillTail f = { u with rings := (t.fillTail f).rings } := by
  cases f with
  | none =>
    change u = { u with rings := t.rings }
    rw [← h]
  | some e =>
    unfold Tile.fillTail Tile.setRing Tile.ring
    rw [h]

theorem Tile.ring_fillTail_same (t : Tile) (r n : Nat) : (t.fillTail (some (r, n))).ring r = (t.ring r).filled :=
  t.ring_setRing_same _ _

theorem Tile.ring_fillTail_ne (t : Tile) {f : Option (Nat × Nat)} {m : Nat} (h : ∀ e, f = some e → m ≠ e.1) :
    (t.fillTail f).ring m = t.ring m := by
  cases f with
  | none => rfl
  | some e => exact t.ring_setRing_ne _ (h e rfl)

end Sys2Proof.Machine

/-!
First use of accumulators that a matrix word may take at once (R168).
-/

namespace Sys2Proof.Machine

open Host (Outcome)

/-! First use of accumulators that are the X-core's own or nobody's (R168). -/

/-- An accumulator is the user's own, or nobody's and without an image. -/
def Tile.Takes (t : Tile) (n : Nat) : Prop :=
  t.ownerOf n = t.user ∨ (t.ownerOf n = .nobody ∧ (t.user, n) ∉ t.task.images)

/-- From `s` to `u` nothing differs but tile `g`. -/
def State.Retiled (s u : State) (g : Nat) : Prop := u = s ∨ ∃ t, u = s.setTile g t

theorem State.Retiled.trans {s u v : State} {g : Nat} (h : s.Retiled u g) (h' : u.Retiled v g) : s.Retiled v g := by
  rcases h' with rfl | ⟨t, rfl⟩
  · exact h
  · rcases h with rfl | ⟨t', rfl⟩
    · exact .inr ⟨t, rfl⟩
    · exact .inr ⟨t, State.setTile_setTile ..⟩

section
variable {s u : State} {g : Nat} (h : s.Retiled u g)
include h

theorem State.Retiled.setTile (t : Tile) : u.setTile g t = s.setTile g t := by
  rcases h with rfl | ⟨t', rfl⟩
  · rfl
  · exact State.setTile_setTile ..

theorem State.Retiled.eq : u = { s with tiles := u.tiles } := by
  rcases h with rfl | ⟨t', rfl⟩ <;> rfl

end

/-- What the first use of accumulators leaves: those are the user's own, and nothing else differs. -/
def State.Owns (s u : State) (g : Nat) (ns : List Nat) : Prop :=
  s.Retiled u g ∧ ∃ o, u.tile g = { s.tile g with accOwner := o } ∧
    ∀ m, Store.get .nobody o m = if m ∈ ns then (s.tile g).user else (s.tile g).ownerOf m

theorem State.beginUse_takes {s : State} {g n : Nat} (hmoves : (s.tile g).accMoves = []) (h : (s.tile g).Takes n) :
    ∃ u, s.beginUse g n = some u ∧ s.Owns u g [n] := by
  by_cases hown : (s.tile g).ownerOf n = (s.tile g).user
  case pos =>
    refine ⟨s, if_pos hown, .inl rfl, (s.tile g).accOwner, rfl, fun m => ?_⟩
    split
    next hm => rw [List.mem_singleton.1 hm]; exact hown
    next => rfl
  case neg =>
    obtain ⟨hnobody, himage⟩ := h.resolve_left hown
    refine ⟨s.setTile g ((s.tile g).setOwner n (s.tile g).user), ?_, .inr ⟨_, rfl⟩,
      ((s.tile g).setOwner n (s.tile g).user).accOwner, State.tile_setTile_same .., fun m => ?_⟩
    · unfold State.beginUse
      dsimp only
      rw [if_neg hown, if_neg (by simp [hmoves]), if_pos hnobody, if_neg (by simpa using himage)]
    · by_cases hm : m = n
      · rw [if_pos (List.mem_singleton.2 hm), hm]
        exact (s.tile g).ownerOf_setOwner_same n _
      · rw [if_neg (by simpa using hm)]
        exact (s.tile g).ownerOf_setOwner_ne _ hm

theorem State.beginUses_takes (ns : List Nat) {s : State} {g : Nat} (hmoves : (s.tile g).accMoves = [])
    (h : ∀ n ∈ ns, (s.tile g).Takes n) : ∃ u, s.beginUses g ns = (u, false) ∧ s.Owns u g ns := by
  induction ns generalizing s with
  | nil => exact ⟨s, rfl, .inl rfl, (s.tile g).accOwner, rfl, fun m => rfl⟩
  | cons n ns ih =>
    obtain ⟨hn, hrest⟩ := List.forall_mem_cons.1 h
    obtain ⟨u, hfirst, hsame, o, htile, ho⟩ := State.beginUse_takes hmoves hn
    have howner : ∀ m, (u.tile g).ownerOf m = if m = n then (s.tile g).user else (s.tile g).ownerOf m := fun m => by
      rw [htile]
      exact (ho m).trans (by simp only [List.mem_singleton])
    have huser : (u.tile g).user = (s.tile g).user := by rw [htile]; rfl
    obtain ⟨v, hall, hsame', o', htile', ho'⟩ := ih (s := u) (by rw [htile]; exact hmoves) fun m hm => by
      by_cases hmn : m = n
      · exact .inl ((howner m).trans ((if_pos hmn).trans huser.symm))
      · rw [Tile.Takes, howner, if_neg hmn, huser, htile]
        exact hrest m hm
    refine ⟨v, ?_, hsame.trans hsame', o', by rw [htile', htile], fun m => ?_⟩
    · rw [State.beginUses, hfirst]
      exact hall
    · rw [ho', howner, huser]
      by_cases hm : m ∈ ns
      · rw [if_pos hm, if_pos (List.mem_cons_of_mem _ hm)]
      · by_cases hmn : m = n
        · rw [if_neg hm, if_pos hmn, if_pos (hmn ▸ List.mem_cons_self)]
        · rw [if_neg hm, if_neg hmn, if_neg (by simp [hm, hmn])]

theorem repeated_nodup {rs : List Nat} (h : rs.Nodup) : repeated rs = none := by
  induction rs with
  | nil => rfl
  | cons r rs ih =>
    obtain ⟨hr, hrest⟩ := List.nodup_cons.1 h
    rw [repeated, ih hrest]
    exact if_neg (by simpa using hr)

end Sys2Proof.Machine

/-!
A ready matrix word waits for nothing and passes its checks (R23, R91, R166, R168, R169, R174, R185).
-/

namespace Sys2Proof.Machine

open Host (Outcome)

/-! The checks of a matrix word that is ready (R23, R91, R166, R168, R169, R174, R185). -/

/-- What the plan wants of a ring's domain does not depend on who owns accumulators. -/
def MPlan.WantsAlike (p : MPlan) : Prop := ∀ (t : Tile) (o : Store Owner), p.want { t with accOwner := o } = p.want t

section
variable {s u : State} {w : MWord} {p : MPlan} {ns : List Nat}

theorem State.Owns.cur (h : s.Owns u s.cur.tile ns) : u.cur = s.cur := by rw [h.1.eq]
theorem State.Owns.now (h : s.Owns u s.cur.tile ns) : u.now = s.now := by rw [h.1.eq]
theorem State.Owns.parts (h : s.Owns u s.cur.tile ns) : u.parts = s.parts := by rw [h.1.eq]

theorem State.Owns.myTile (h : s.Owns u s.cur.tile ns) : ∃ o, u.myTile = { s.myTile with accOwner := o } ∧
    ∀ m, Store.get .nobody o m = if m ∈ ns then s.myTile.user else s.myTile.ownerOf m := by
  obtain ⟨-, o, htile, ho⟩ := id h
  exact ⟨o, by rw [State.myTile, h.cur, htile]; rfl, ho⟩

theorem State.Owns.me (h : s.Owns u s.cur.tile ns) : u.me = s.me := by
  obtain ⟨o, htile, -⟩ := h.myTile
  rw [State.me_eq, htile, h.cur, State.me_eq]
  cases s.cur.core <;> rfl

theorem State.Owns.datumTile (h : s.Owns u s.cur.tile ns) (g : Nat) : u.datumTile g = s.datumTile g := by
  rw [State.datumTile, State.partOf, h.parts]
  rfl

theorem State.Owns.frameOrg (h : s.Owns u s.cur.tile ns) (g : Nat) : u.frameOrg g = s.frameOrg g := by
  rw [State.frameOrg, State.partOf, h.parts]
  rfl

theorem State.Owns.due {stamp : Option (BitVec 30)} (h : s.Owns u s.cur.tile ns) (hdue : Due s stamp) : Due u stamp := by
  obtain ⟨o, htile, -⟩ := h.myTile
  rw [Due, h.cur, h.datumTile, h.frameOrg, h.now, h.me, htile]
  exact hdue

/-- A ready word is ready once its accumulators are its own. -/
theorem State.Owns.ready (h : s.Owns u s.cur.tile ns) (hns : ns = p.accs) (hwant : p.WantsAlike)
    (hready : MatrixReady s w p) : MatrixReady u w p ∧ ∀ n ∈ p.accs, u.myTile.ownerOf n = u.myTile.user := by
  obtain ⟨o, htile, ho⟩ := h.myTile
  have hown : ∀ n ∈ p.accs, u.myTile.ownerOf n = u.myTile.user := fun n hn => by
    rw [htile]
    exact (ho n).trans (if_pos (hns ▸ hn))
  have hgather : matrixIn u p w = matrixIn s p w := by rw [matrixIn, matrixIn, htile, h.me]; rfl
  obtain ⟨hok, hcore, hresv, htC, hinit, hscA, hscB, hdue, hnamed, hsource, hplaces, hport, hpending, hopen, hmoves, harray, hheld,
    howed, -, hrings, hreads, hfill, hrecord, hdoms, htags, haxes, hsrows, hrefuse⟩ := hready
  refine ⟨⟨hok, by rw [h.cur]; exact hcore, hresv, htC, hinit, hscA, hscB, h.due hdue, hnamed, hsource, ?_, hport, ?_, ?_, ?_, ?_,
    ?_, ?_, fun n hn => .inl (hown n hn), hrings, ?_, ?_, ?_, ?_, ?_, ?_, ?_, hgather ▸ hrefuse⟩, hown⟩
  all_goals rw [htile]
  case refine_1 => rw [h.now]; exact hplaces
  case refine_2 =>
    intro c r
    rw [h.now, ← hpending c r]
    cases c <;> rfl
  case refine_3 => exact hopen
  case refine_4 => exact hmoves
  case refine_5 => rw [h.now]; exact harray
  case refine_6 => rw [h.now]; exact hheld
  case refine_7 => rw [h.now]; exact howed
  case refine_8 => exact hreads
  case refine_9 => exact hfill
  case refine_10 => exact hrecord
  case refine_11 => rw [hwant]; exact hdoms
  case refine_12 => exact htags
  case refine_13 => exact haxes
  case refine_14 => exact hsrows

theorem MatrixReady.mfieldsOk (h : MatrixReady s w p) : s.mfieldsOk w = true := by
  obtain ⟨-, -, hresv, htC, hinit, hscA, hscB, hdue, -⟩ := h
  rw [State.mfieldsOk, hresv, bne_iff_ne.2 htC, bne_iff_ne.2 hinit, bne_iff_ne.2 hscA, bne_iff_ne.2 hscB, hdue.stamped]
  rfl

theorem MatrixReady.stampLost (h : MatrixReady s w p) : s.stampLost (mstamp w) = false := by
  obtain ⟨-, -, -, -, -, -, -, hdue, -⟩ := h
  unfold State.stampLost
  rcases hdue with hfree | ⟨st, hst, hheld | ⟨hheld, hclock, hframe⟩⟩
  · rw [hfree, Bool.false_and]
  · simp [hheld]
  · simp [hheld, hst, hclock, hframe]

theorem MatrixReady.isSet (h : MatrixReady s w p) : ∀ r ∈ p.rings, (s.myTile.ring r).isSet = true := by
  obtain ⟨-, -, -, -, -, -, -, -, -, -, -, -, -, -, -, -, -, -, -, -, hreads, hfill, -⟩ := h
  intro r hr
  rcases List.mem_append.1 hr with hread | hfilled
  · obtain ⟨e, he, rfl⟩ := List.mem_map.1 hread
    exact (hreads e he).1.1
  · obtain ⟨e, he, rfl⟩ : ∃ e, p.fill = some e ∧ e.1 = r := by simpa using hfilled
    exact (hfill e he).1.1

theorem MatrixReady.badField (h : MatrixReady s w p) : p.badField s.myTile w.acc.toNat = none := by
  have hset := h.isSet
  obtain ⟨-, -, -, -, -, -, -, -, hnamed, hsource, -, -, -, -, -, -, -, -, -, hrings, -, -, -, -, -, -, hsrows, -⟩ := h
  have hacc : ¬ (p.named = true ∧ 48 ≤ w.acc.toNat) := fun ⟨hn, hle⟩ => absurd (hnamed hn) (Nat.not_lt.2 hle)
  have hsrc : ¬ (p.source.any (fun n => decide (48 ≤ n)) = true) := by
    cases hs : p.source with
    | none => exact Bool.false_ne_true
    | some n => simpa using hsource n hs
  have hfind : p.rings.find? (fun r => !(s.myTile.ring r).isSet && !s.myTile.ringComing r) = none :=
    List.find?_eq_none.2 fun r hr => by simp [hset r hr]
  rw [MPlan.badField, if_neg hacc, if_neg hsrc, repeated_nodup (List.nodup_reverse.2 hrings)]
  dsimp only
  rw [hfind]
  exact List.find?_eq_none.2 fun r hr => by simp [hsrows r hr]

/-- A ready word begins the use of its accumulators and comes to its issue. -/
theorem MatrixReady.matrixWord_eq (h : MatrixReady s w p) (i : Instr) (op : Nat) :
    ∃ u, s.Owns u s.cur.tile p.accs ∧ s.matrixWord i op w p = u.matrixIssue i op w p false := by
  have hfields := h.mfieldsOk
  have hbad := h.badField
  have hlost := h.stampLost
  obtain ⟨hok, hcore, -, -, -, -, -, hdue, -, -, -, hport, -, -, hmoves, -, -, -, howners, -⟩ := h
  obtain ⟨u, huse, howns⟩ := State.beginUses_takes p.accs hmoves howners
  refine ⟨u, howns, ?_⟩
  unfold State.matrixWord
  rw [if_neg (by simp [hfields, hok, hcore]), hbad]
  dsimp only
  rw [if_neg (Nat.not_le.2 hport), if_neg (ne_true_of_eq_false hlost), huse]
  exact (howns.due hdue).atStamp_eq _

theorem MatrixReady.none_held (h : MatrixReady s w p) (ls : List Int) : ls.any (s.myTile.lineHeld s.now) = false := by
  obtain ⟨-, -, -, -, -, -, -, -, -, -, -, -, -, -, -, -, hheld, -⟩ := h
  exact List.any_eq_false.2 fun l _ => ne_true_of_eq_false (hheld l)

theorem MatrixReady.places (h : MatrixReady s w p) (hden : w.den = 1) :
    0 < (s.myTile.queue ((outQueue .X w.dport.toNat).getD 0)).places s.now := by
  obtain ⟨-, -, -, -, -, -, -, -, -, -, hplaces, hport, -⟩ := h
  have hsome : ∃ q, outQueue .X w.dport.toNat = some q := by
    generalize w.dport.toNat = n at hport
    match n, hport with
    | 0, _ => exact ⟨2, rfl⟩
    | 1, _ => exact ⟨3, rfl⟩
    | 2, _ => exact ⟨5, rfl⟩
  obtain ⟨q, hq⟩ := hsome
  rw [hq]
  exact hplaces q hq hden

/-- A ready word whose accumulators are its own waits for nothing. -/
theorem MatrixReady.unready (h : MatrixReady s w p) (hown : ∀ n ∈ p.accs, s.myTile.ownerOf n = s.myTile.user) (rm : Nat) :
    p.unready s w rm false = none := by
  have hplaces := h.places
  have hnone := h.none_held (p.recordLines s.myTile)
  obtain ⟨-, hcore, -, -, -, -, -, -, -, -, -, -, hpending, hopen, hmoves, harray, -, howed, -, -, hreads, hfill, -⟩ := h
  have hme : ∀ rs : List Res, rs.any (s.me.pending s.now) = false := fun rs =>
    List.any_eq_false.2 fun r _ => ne_true_of_eq_false (by rw [State.me_eq]; exact hpending _ r)
  have hwords : p.rings.any (fun n => [s.myTile.l, s.myTile.x, s.myTile.s].any fun k => k.pending s.now (.ring n)) = false :=
    List.any_eq_false.2 fun n _ => by simpa using ⟨hpending .L _, hpending .X _, hpending .S _⟩
  have hfull : p.reads.filter (fun r => s.myTile.slotNow r.ring (s.myTile.ring r.ring).h != .full) = [] :=
    List.filter_eq_nil_iff.2 fun e he => by simp [(hreads e he).2]
  have hempty : p.fill.toList.filter (fun f => s.myTile.slotNow f.1 (s.myTile.ring f.1).t != .empty) = [] :=
    List.filter_eq_nil_iff.2 fun e he => by simp [(hfill e (by simpa using he)).2]
  have hmoving : p.accs.find? (fun n => s.myTile.accMoves.any (fun m => m.acc == n) || s.myTile.ownerOf n != s.myTile.user) =
      none := List.find?_eq_none.2 fun n hn => by simp [hmoves, hown n hn]
  have hforeign : p.accs.find? (fun n => s.myTile.accMoves.any fun m => m.acc == n && m.who != s.myTile.user) = none :=
    List.find?_eq_none.2 fun n _ => by simp [hmoves]
  have hbusy : p.accs.find? (fun n => s.myTile.mopen.any fun m => m.writes.contains n || (p.wr.contains n && m.accs.contains n))
      = none := List.find?_eq_none.2 fun n _ => by simp [hopen]
  unfold MPlan.unready
  dsimp only
  rw [hme, howed, hnone, hwords, hfull, hempty, hbusy, hmoving, hforeign]
  simp only [Bool.or_self, Bool.false_eq_true, if_false, List.map_nil, List.eraseDups_nil, ne_eq, not_true_eq_false, or_self,
    Option.isSome_none, and_false, Nat.not_lt.2 harray]
  rw [if_neg]
  rintro ⟨hden, hlt⟩
  have := hplaces hden
  omega

/-- A ready word passes the checks of its execution. -/
theorem MatrixReady.trouble (h : MatrixReady s w p) : p.trouble s.myTile w (matrixIn s p w) = none := by
  obtain ⟨-, -, -, -, -, -, -, -, -, -, -, -, -, -, -, -, -, -, -, -, hreads, hfill, hrecord, hdoms, htags, haxes, -, hrefuse⟩ := h
  have hdom : p.doms.find? (fun d => s.myTile.ringSpectral (s.myTile.ring d.2) != p.want s.myTile) = none :=
    List.find?_eq_none.2 fun d hd => by simp [hdoms d hd]
  have htag : (if p.tags then p.rd.find? fun n => s.myTile.tagOf n != w.tC.toNat else none) = none := by
    split
    next ht => exact List.find?_eq_none.2 fun n hn => by simp [htags ht n hn]
    next => rfl
  have htagDom : (if p.tags then p.rd.find? fun n => (s.myTile.tagOf n == 1) != (w.tC == 1) else none) = none := by
    have hone : (w.tC.toNat == 1) = (w.tC == 1) := by
      generalize w.tC = c
      revert c
      decide
    split
    next ht => exact List.find?_eq_none.2 fun n hn => by rw [htags ht n hn, hone]; simp
    next => rfl
  have haxis : p.axes.find? (fun a => s.myTile.ringColumns (s.myTile.ring a.2.1) != a.2.2) = none :=
    List.find?_eq_none.2 fun a ha => by simp [haxes a ha]
  have hneed : (p.reads.map (fun r => (r.ring, r.lines)) ++ p.fill.toList).find?
      (fun e => decide ((s.myTile.ring e.1).lps < e.2)) = none := by
    refine List.find?_eq_none.2 fun e he => ?_
    rw [decide_eq_true_eq, Nat.not_lt]
    rcases List.mem_append.1 he with hread | hfilled
    · obtain ⟨r, hr, rfl⟩ := List.mem_map.1 hread
      exact (hreads r hr).1.2
    · exact (hfill e (by simpa using hfilled)).1.2
  unfold MPlan.trouble
  dsimp only
  rw [hrecord, hdom]
  dsimp only
  rw [htagDom]
  dsimp only
  rw [htag]
  dsimp only
  rw [haxis]
  dsimp only
  rw [hneed]
  exact if_neg (ne_true_of_eq_false hrefuse)

/-- A ready word whose accumulators are its own takes effect. -/
theorem MatrixReady.matrixIssue_eq (h : MatrixReady s w p) (hown : ∀ n ∈ p.accs, s.myTile.ownerOf n = s.myTile.user)
    (i : Instr) (op : Nat) : s.matrixIssue i op w p false =
      .next (s.matrixEffect i op w p (s.me.rounding p.rnd) (matrixIn s p w)) := by
  have htrouble : p.trouble s.myTile w (p.gather s.myTile w (s.me.rounding p.rnd)) = none := h.trouble
  unfold State.matrixIssue
  dsimp only
  rw [h.unready hown]
  dsimp only
  rw [h.none_held, if_neg Bool.false_ne_true, htrouble]
  rfl

end

end Sys2Proof.Machine

/-!
The effect of a matrix word in its tile (R166, R167, R177, R180, R181, R244).
-/

namespace Sys2Proof.Machine

open Host (Outcome)

/-! The effect of a matrix word (R166, R167, R177, R180, R181, R244). -/

theorem State.charge_myTile (s : State) (t : Tile) (cls n : Nat) :
    ∃ c, (s.setMyTile t).charge s.cur.tile cls n = s.setMyTile { t with charges := c } := by
  have htile : (s.setMyTile t).tile s.cur.tile = t := State.tile_setTile_same s s.cur.tile t
  unfold State.charge
  split
  · exact ⟨t.charges, rfl⟩
  · dsimp only
    rw [htile]
    split
    · exact ⟨t.charges, rfl⟩
    · exact ⟨_, State.setTile_setTile ..⟩

theorem State.chargeLines_myTile (s : State) (t : Tile) (ls : List Int) :
    ∃ c, (s.setMyTile t).chargeLines s.cur.tile ls = s.setMyTile { t with charges := c } := by
  unfold State.chargeLines
  split
  · exact ⟨t.charges, rfl⟩
  · exact s.charge_myTile t _ _

/-- What a matrix word that delivers `o` leaves of accumulators, rings and open words. -/
def Tile.withMatrix (t : Tile) (p : MPlan) (o : MOut) (m : MOpen) : Tile :=
  { t with
    acc := (t.putAccs o.accs).acc, accTag := (t.putAccs o.accs).accTag, accOwner := (t.putAccs o.accs).accOwner
    mopen := [m], xr := { t.xr with lfsr := o.lfsr }, rings := ((t.popHeads p.reads).fillTail p.fill).rings }

/-- A tile with other out-of-range latch, queues, array and charges, its X-core gone on. -/
structure Tile.Beside (t u : Tile) (k : Core) (free : Nat) : Prop where
  eq : u = { t with
    x := k, oorFlag := u.oorFlag, oorAddr := u.oorAddr, oorWhen := u.oorWhen, queues := u.queues, arrayFree := free
    charges := u.charges }

/-- The open word that a matrix word leaves, before it has its result. -/
def State.matrixOpen (s : State) (i : Instr) (op : Nat) (w : MWord) (p : MPlan) (rm : Nat) (q : MRead) (held : List Int) :
    MOpen :=
  { op := op, w := w, due := s.now + p.lat + s.myTile.transferTime s.now p.accs (s.datumTile s.cur.tile), flags := 0,
    accs := p.accs, writes := p.wr, names := p.rings,
    release := (p.reads.filter (fun r => r.pop)).map (fun r => (r.ring, (s.myTile.ring r.ring).h)),
    fill := (p.fill.map (fun f => (f.1, (s.myTile.ring f.1).t))).toList,
    doneQ := if w.den = 1 then outQueue .X w.dport.toNat else none, ew := p.ew, issued := s.now, word := i, pc := s.me.pc,
    rm := rm, rings := s.myTile.rings, held := held, sa := q.sa, sb := q.sb }

/-- The open word with its result. -/
def State.matrixOut (s : State) (i : Instr) (op : Nat) (w : MWord) (p : MPlan) (rm : Nat) (q : MRead) (o : MOut) : MOpen :=
  { s.matrixOpen i op w p rm q [] with flags := o.flags, slot := s.myTile.slotOut p.fill o.slot, rings := [], held := [] }

/-- A word opens, and has its result where nothing holds its lines. -/
def Tile.openMatrix (t : Tile) (m : MOpen) (o : MOut) (fill : Option (Nat × Nat)) : Tile :=
  if m.held.isEmpty then ({ t with mopen := t.mopen ++ [m] } : Tile).matrixResult m o fill m.due
  else { t with mopen := t.mopen ++ [m] }

/-- The result of the only open word. -/
theorem Tile.openMatrix_eq {t : Tile} {m : MOpen} (o : MOut) (fill : Option (Nat × Nat)) (hopen : t.mopen = [])
    (hheld : m.held = []) : t.openMatrix m o fill =
      { t with
        acc := (t.putAccs o.accs).acc, accTag := (t.putAccs o.accs).accTag, accOwner := (t.putAccs o.accs).accOwner
        mopen := [{ m with flags := o.flags, slot := t.slotOut fill o.slot, rings := [], held := [] }]
        xr := { t.xr with lfsr := o.lfsr } } := by
  have hput := Tile.putAccs_with o.accs t ({ t with mopen := t.mopen ++ [m] } : Tile) rfl rfl rfl
  have hslot : ({ t with mopen := t.mopen ++ [m] } : Tile).slotOut fill o.slot = t.slotOut fill o.slot := by
    cases fill <;> rfl
  rw [Tile.openMatrix, hheld, if_pos List.isEmpty_nil, Tile.matrixResult, hslot, hput]
  dsimp only
  rw [hopen, List.nil_append, List.map_singleton, if_pos rfl]

theorem Tile.afterIssue_eq (t u : Tile) (p : MPlan) (h : u.rings = t.rings) :
    (u.popHeads p.reads).fillTail p.fill = { u with rings := ((t.popHeads p.reads).fillTail p.fill).rings } := by
  rw [Tile.popHeads_with p.reads t u h]
  exact Tile.fillTail_with p.fill (t.popHeads p.reads) _ rfl

section
variable {s : State} {w : MWord} {p : MPlan}

/-- A tile whose word has its result: its slots are popped and filled, its done token's place is reserved, and the array is
taken. -/
def State.matrixTile (s : State) (w : MWord) (p : MPlan) (u : Tile) : Tile :=
  let v := ((u.popHeads p.reads).fillTail p.fill).touchLines s.now rankArray
    (p.srows.map (fun n => s.myTile.rowScaleLine (s.myTile.ring n)))
  { (match if w.den = 1 then outQueue .X w.dport.toNat else none with
    | some d => v.setQueue d { v.queue d with resv := (v.queue d).resv + 1 }
    | none => v) with
    arrayFree := s.now + p.occ }

/-- The word in flight. -/
def State.matrixPend (s : State) (p : MPlan) (rm : Nat) : Pend :=
  { res := (if rm = 5 then [Res.lfsr] else []) ++ (if p.cen then [Res.readConsts] else []) ++
      (p.book.map Res.readBook).toList,
    due := s.now + p.lat + s.myTile.transferTime s.now p.accs (s.datumTile s.cur.tile), flags := 0, cap := none, ew := (9, 0),
    asks := some (s.now, p.lat) }

theorem State.matrixEffect_eq (i : Instr) (op rm : Nat) (q : MRead) : s.matrixEffect i op w p rm q =
    ((s.setMyTile (s.matrixTile w p (s.myTile.openMatrix (s.matrixOpen i op w p rm q
      (if (p.readLines s.myTile).any (s.myTile.lineHeld s.now) then p.readLines s.myTile else [])) (p.run s.myTile q)
        p.fill))).chargeLines s.cur.tile (p.readLines s.myTile)).issue (s.me.pc + 24) (s.now + 1) (s.matrixPend p rm) := rfl

/-- A tile whose word has its result has popped and filled its slots, and differs else in its latch and queues only. -/
theorem State.matrixTile_eq (u : Tile) (h : u.rings = s.myTile.rings) :
    ∃ flag addr whn queues, s.matrixTile w p u = { u with
      rings := ((s.myTile.popHeads p.reads).fillTail p.fill).rings, oorFlag := flag, oorAddr := addr, oorWhen := whn
      queues := queues, arrayFree := s.now + p.occ } := by
  have htouch := Tile.touchLines_eq ((u.popHeads p.reads).fillTail p.fill) s.now rankArray
    (p.srows.map fun n => s.myTile.rowScaleLine (s.myTile.ring n))
  unfold State.matrixTile
  dsimp only
  generalize ((u.popHeads p.reads).fillTail p.fill).touchLines s.now rankArray
    (p.srows.map fun n => s.myTile.rowScaleLine (s.myTile.ring n)) = v at htouch
  rw [Tile.afterIssue_eq s.myTile u p h] at htouch
  rw [htouch]
  cases (if w.den = 1 then outQueue .X w.dport.toNat else none) with
  | none => exact ⟨_, _, _, _, rfl⟩
  | some d => exact ⟨_, _, _, _, rfl⟩

theorem MatrixReady.matrixEffect_eq (h : MatrixReady s w p) (i : Instr) (op rm : Nat) (q : MRead) (o : MOut)
    (ho : o = p.run s.myTile q) :
    ∃ V, s.matrixEffect i op w p rm q = s.setMyTile V ∧
      (s.myTile.withMatrix p o (s.matrixOut i op w p rm q o)).Beside V
        (s.me.goOn (s.me.pc + 24) (s.now + 1) (s.matrixPend p rm)) (s.now + p.occ) := by
  have hheld := h.none_held (p.readLines s.myTile)
  obtain ⟨-, hcore, -, -, -, -, -, -, -, -, -, -, -, hopen, -⟩ := h
  subst ho
  rw [State.matrixEffect_eq, hheld, if_neg Bool.false_ne_true, Tile.openMatrix_eq _ _ hopen rfl]
  obtain ⟨flag, addr, whn, queues, htile⟩ := State.matrixTile_eq (s := s) (w := w) (p := p) { s.myTile with
    acc := (s.myTile.putAccs (p.run s.myTile q).accs).acc, accTag := (s.myTile.putAccs (p.run s.myTile q).accs).accTag
    accOwner := (s.myTile.putAccs (p.run s.myTile q).accs).accOwner
    mopen := [s.matrixOut i op w p rm q (p.run s.myTile q)], xr := { s.myTile.xr with lfsr := (p.run s.myTile q).lfsr } } rfl
  obtain ⟨c, hcharge⟩ := s.chargeLines_myTile (s.matrixTile w p { s.myTile with
    acc := (s.myTile.putAccs (p.run s.myTile q).accs).acc, accTag := (s.myTile.putAccs (p.run s.myTile q).accs).accTag
    accOwner := (s.myTile.putAccs (p.run s.myTile q).accs).accOwner
    mopen := [s.matrixOut i op w p rm q (p.run s.myTile q)], xr := { s.myTile.xr with lfsr := (p.run s.myTile q).lfsr } })
    (p.readLines s.myTile)
  rw [htile] at hcharge
  have hme : s.myTile.x = s.me := (State.me_eq_x hcore).symm
  refine ⟨_, (congrArg (fun u : State => u.issue (s.me.pc + 24) (s.now + 1) (s.matrixPend p rm))
    ((congrArg (fun t => (s.setMyTile t).chargeLines s.cur.tile (p.readLines s.myTile)) htile).trans hcharge)).trans
    (State.issue_x hcore ..), ⟨?_⟩⟩
  rw [← hme]
  rfl

end

end Sys2Proof.Machine

/-!
How a ready matrix word runs (R164 to R181).
-/

namespace Sys2Proof.Machine

open Host (Outcome)

/-! How a matrix word runs (R164 to R181). -/

section
variable {s : State} {w : MWord} {p : MPlan} {i : Instr} {op : Nat} {o : MOut}

/-- What a word computes does not depend on who owns accumulators. -/
def MPlan.RunsAlike (p : MPlan) : Prop := ∀ (t : Tile) (q : MRead) (o : Store Owner), p.run { t with accOwner := o } q = p.run t q

/-- A ready word leaves its tile with its result, its accumulators its own. -/
theorem MatrixReady.exec_eq (h : MatrixReady s w p) (hwant : p.WantsAlike) (hruns : p.RunsAlike)
    (hexec : exec i s = s.matrixWord i op w p) (ho : o = p.run s.myTile (matrixIn s p w)) :
    ∃ own m q V, exec i s = .next (s.setMyTile V) ∧
      (∀ n, Store.get .nobody own n = if n ∈ p.accs then s.myTile.user else s.myTile.ownerOf n) ∧
      (({ s.myTile with accOwner := own } : Tile).withMatrix p o m).Beside V (s.me.goOn (s.me.pc + 24) (s.now + 1) q)
        (s.now + p.occ) ∧
      m.due = s.now + p.lat ∧ m.flags = o.flags ∧ m.held = [] ∧ m.slot = s.myTile.slotOut p.fill o.slot := by
  obtain ⟨u, howns, hword⟩ := h.matrixWord_eq i op
  obtain ⟨hready, hown⟩ := howns.ready rfl hwant h
  obtain ⟨own, htile, hget⟩ := howns.myTile
  have hgather : matrixIn u p w = matrixIn s p w := by rw [matrixIn, matrixIn, htile, howns.me]; rfl
  have hout : o = p.run u.myTile (matrixIn u p w) := by
    rw [ho, hgather, htile]
    exact (hruns s.myTile (matrixIn s p w) own).symm
  obtain ⟨V, heffect, hV⟩ := hready.matrixEffect_eq i op (u.me.rounding p.rnd) (matrixIn u p w) o hout
  obtain ⟨-, -, -, -, -, -, -, -, -, -, -, -, -, -, hmoves, -⟩ := h
  have hset : u.setMyTile V = s.setMyTile V := by
    rw [State.setMyTile, howns.cur]
    exact howns.1.setTile V
  have hissue := hready.matrixIssue_eq hown i op
  rw [heffect, hset] at hissue
  rw [howns.me, howns.now, htile] at hV
  refine ⟨own, _, _, V, hexec.trans (hword.trans hissue), hget, hV, ?due, rfl, rfl, ?slot⟩
  case due =>
    have htime : u.myTile.transferTime u.now p.accs (u.datumTile u.cur.tile) = 0 := by
      rw [htile, Tile.transferTime]
      dsimp only
      rw [hmoves]
      rfl
    change u.now + p.lat + u.myTile.transferTime u.now p.accs (u.datumTile u.cur.tile) = s.now + p.lat
    rw [htime, howns.now, Nat.add_zero]
  case slot =>
    change u.myTile.slotOut p.fill o.slot = s.myTile.slotOut p.fill o.slot
    rw [htile]
    cases p.fill <;> rfl

theorem Tile.ring_afterIssue_read (t : Tile) (hrings : p.rings.Nodup) {e : RingRead} (he : e ∈ p.reads) :
    ((t.popHeads p.reads).fillTail p.fill).ring e.ring = if e.pop then (t.ring e.ring).popped else t.ring e.ring := by
  obtain ⟨hreads, -, hdisjoint⟩ := List.nodup_append.1 hrings
  rw [Tile.ring_fillTail_ne, Tile.ring_popHeads hreads he]
  intro f hf heq
  exact hdisjoint e.ring (List.mem_map_of_mem he) f.1 (by simp [hf]) heq

theorem Tile.ring_afterIssue_fill (t : Tile) (hrings : p.rings.Nodup) {r n : Nat} (hfill : p.fill = some (r, n)) :
    ((t.popHeads p.reads).fillTail p.fill).ring r = (t.ring r).filled := by
  obtain ⟨-, -, hdisjoint⟩ := List.nodup_append.1 hrings
  have hout : r ∉ p.reads.map fun e => e.ring := fun hr => hdisjoint r hr r (by simp [hfill]) rfl
  rw [hfill, Tile.ring_fillTail_same, Tile.ring_popHeads_outside hout]

theorem Tile.Beside.x_eq {t V : Tile} {k : Core} {free : Nat} (h : t.Beside V k free) : V.x = k := by rw [h.eq]

theorem Tile.Beside.scratch_eq {t V : Tile} {m : MOpen} {k : Core} {free : Nat} (h : (t.withMatrix p o m).Beside V k free) :
    V.scratch = t.scratch := by
  rw [h.eq]
  rfl

theorem Tile.Beside.accs {t V : Tile} {m : MOpen} {k : Core} {free : Nat} (h : (t.withMatrix p o m).Beside V k free) (n : Nat) :
    V.accElems n = (t.putAccs o.accs).accElems n ∧ V.tagOf n = (t.putAccs o.accs).tagOf n ∧
      V.ownerOf n = (t.putAccs o.accs).ownerOf n := by
  rw [h.eq]
  exact ⟨rfl, rfl, rfl⟩

/-- A ready matrix word runs with what its plan computes, where it releases nothing. -/
theorem MatrixReady.runs (h : MatrixReady s w p) (hwant : p.WantsAlike) (hruns : p.RunsAlike)
    (hexec : exec i s = s.matrixWord i op w p) (ho : o = p.run s.myTile (matrixIn s p w))
    (hkeeps : ∀ a ∈ o.accs, a.2.isSome = true) : MatrixRuns i s p o := by
  obtain ⟨own, m, q, V, hnext, hown, hbeside, hdue, hflags, hheld, hslot⟩ := h.exec_eq hwant hruns hexec ho
  obtain ⟨-, hcore, -, -, -, -, -, -, -, -, -, -, -, -, -, -, -, -, -, hrings, -⟩ := h
  have hV := hbeside.eq
  have hme : (s.setMyTile V).me = s.me.goOn (s.me.pc + 24) (s.now + 1) q := by rw [State.me_x hcore, hbeside.x_eq]
  have hring : ∀ n, V.ring n =
      (((({ s.myTile with accOwner := own } : Tile).popHeads p.reads).fillTail p.fill)).ring n := fun n => by rw [hV]; rfl
  have hissued : LongIssued s (s.setMyTile V) (s.me.pc + 24) q := by rw [LongIssued, hme]; exact ⟨rfl, rfl, rfl, rfl⟩
  refine ⟨s.setMyTile V, q, m, hnext, hissued, ?mopen, hdue, hflags, ?free, ?lfsr, ?acc, ?others, ?owners, ?popped,
    ?filled, fun hfill => by rw [hslot, hfill]; rfl, hheld, ?scratch, ?regs, ?flow, ?state⟩
  case regs => rw [hme]; rfl
  case flow => rw [OnlyFlow, hme]; rfl
  all_goals rw [State.myTile_setMyTile]
  case mopen => rw [hV]; rfl
  case free => rw [hV]
  case lfsr => rw [hV]; rfl
  case scratch => exact hbeside.scratch_eq
  case acc =>
    intro n v tag hacc
    obtain ⟨hels, htag, -⟩ := hbeside.accs n
    rw [hels, htag, hacc]
    exact ⟨Tile.tagOf_setAcc_same .., fun k hk => Tile.accElems_setAcc_same _ _ _ _ hk⟩
  case others =>
    intro n hn
    obtain ⟨hels, htag, -⟩ := hbeside.accs n
    obtain ⟨hels', htag', -⟩ := Tile.putAccs_outside hn ({ s.myTile with accOwner := own } : Tile)
    exact ⟨hels.trans hels', htag.trans htag'⟩
  case owners =>
    intro n
    obtain ⟨-, -, howner⟩ := hbeside.accs n
    rw [howner, Tile.ownerOf, Tile.ownerOf_putAccs hkeeps]
    exact hown n
  case popped =>
    intro e he
    rw [hring, Tile.ring_afterIssue_read _ hrings he]
    rfl
  case filled =>
    intro r n hfill
    rw [hring, Tile.ring_afterIssue_fill _ hrings hfill, hslot, hfill]
    exact ⟨rfl, rfl⟩

/-- What a word computes says nothing of whether it is ready or of how it runs. -/
theorem MatrixReady.runs_as (h : MatrixReady s w p) {run : Tile → MRead → MOut} {claims : Bool} (hwant : p.WantsAlike)
    (hruns : ∀ (t : Tile) (q : MRead) (own : Store Owner), run { t with accOwner := own } q = run t q)
    (hexec : exec i s = s.matrixWord i op w { p with run := run, claims := claims }) (ho : o = run s.myTile (matrixIn s p w))
    (hkeeps : ∀ a ∈ o.accs, a.2.isSome = true) : MatrixRuns i s p o :=
  MatrixReady.runs (p := { p with run := run, claims := claims }) h hwant hruns hexec ho hkeeps

end

end Sys2Proof.Machine

/-!
The matrix words (R172 to R179).
-/

namespace Sys2Proof.Machine

open Host (Outcome)

/-! The words, each with what it computes written out. -/

/-- What a word delivers that writes its accumulator and raises no flag. -/
theorem accOut_plain (t : Tile) (n tag : Nat) (els : List Nat) :
    accOut t n tag (els.map fun x => (x, 0)) = ⟨[(n, some (els, tag))], [], 0, t.xr.lfsr⟩ := by
  have hflags : orFlags (els.map fun x => (x, 0)) = 0 := by
    rw [orFlags, List.foldl_map]
    exact foldl_eq_self fun _ _ => BitVec.or_zero
  have hels : (els.map fun x => (x, (0 : Flags))).map (fun e => e.1) = els := by
    rw [List.map_map]
    exact List.map_id els
  rw [accOut, hflags, hels]

/-! No product, scaling, sum or store releases an accumulator. -/

/-- A result that releases no accumulator. -/
def MOut.Keeps (o : MOut) : Prop := ∀ a ∈ o.accs, a.2.isSome = true

theorem MOut.keeps_one {n tag : Nat} {els : List Nat} {slot : List (List Byte)} {fl : Flags} {lfsr : List U32} :
    MOut.Keeps ⟨[(n, some (els, tag))], slot, fl, lfsr⟩ := fun a ha => by
  rw [List.mem_singleton.1 ha]
  rfl

theorem accOut_keeps (t : Tile) (n tag : Nat) (r : List (Nat × Flags)) : (accOut t n tag r).Keeps := MOut.keeps_one

theorem rowsOut_keeps (t : Tile) (w : MWord) (q : MRead) (f : Nat → U32 → Nat × Flags) : (rowsOut t w q f).Keeps :=
  MOut.keeps_one

theorem mmaRun_keeps (w : MWord) (t : Tile) (q : MRead) : (mmaRun w t q).Keeps := by
  unfold mmaRun
  split <;> exact accOut_keeps _ _ _ _

theorem maddRun_keeps (w : MWord) (t : Tile) (q : MRead) (y : List Nat) : (maddRun w t q y).Keeps := by
  unfold maddRun
  exact rowsOut_keeps _ _ _ _

theorem mstaRun_keeps (w : MWord) (t : Tile) (q : MRead) : (mstaRun w t q).Keeps := by
  unfold mstaRun
  split <;> exact fun _ ha => absurd ha List.not_mem_nil

theorem elemsOfLines_eq (ls : List Nat) :
    elemsOfLines ls = (List.range 4096).map fun i => lineAt ls (i / 16) / 2 ^ (i % 16 * 32) % 2 ^ 32 := rfl

section
variable {s : State} {w : MWord} {p : MPlan} {i : Instr} {op : Nat} {els : List Nat} {tag : Nat}

/-- A word runs that writes its accumulator and raises no flag. -/
theorem MatrixReady.runs_plain (h : MatrixReady s w p) {run : Tile → MRead → MOut} (hwant : p.WantsAlike)
    (hruns : ∀ (t : Tile) (q : MRead) (own : Store Owner), run { t with accOwner := own } q = run t q)
    (hexec : exec i s = s.matrixWord i op w { p with run := run })
    (ho : run s.myTile (matrixIn s p w) = accOut s.myTile w.acc.toNat tag (els.map fun x => (x, 0))) :
    MatrixRuns i s p ⟨[(w.acc.toNat, some (els, tag))], [], 0, s.myTile.xr.lfsr⟩ := by
  exact h.runs_as hwant hruns hexec (by rw [ho, accOut_plain]) MOut.keeps_one

end

/-- A word that checks tags reads accumulators of its own type. -/
theorem MatrixReady.tagOf_read {s : State} {w : MWord} {p : MPlan} (h : MatrixReady s w p) {n : Nat} (hp : p.tags = true)
    (hn : n ∈ p.rd) : s.myTile.tagOf n = w.tC.toNat := by
  obtain ⟨-, -, -, -, -, -, -, -, -, -, -, -, -, -, -, -, -, -, -, -, -, -, -, -, htags, -⟩ := h
  exact htags hp n hn

/-- Whether a word is ready says nothing of what it computes. -/
theorem MatrixReady.withRun {s : State} {w : MWord} {p : MPlan} (h : MatrixReady s w p) (run : Tile → MRead → MOut) :
    MatrixReady s w { p with run := run } := h

theorem mem_mownAccs {w : MWord} {n : Nat} : n ∈ mownAccs w ↔ n < 48 ∧ bit (mownMask w) n = 1 := by
  rw [mownAccs, List.mem_filter, List.mem_range, beq_iff_eq]

theorem MPlan.mem_accs {p : MPlan} {n : Nat} : n ∈ p.accs ↔ n ∈ p.rd ∨ n ∈ p.wr := by
  rw [MPlan.accs, List.mem_eraseDups, List.mem_append]

theorem not_mem_accs_release {w : MWord} {n : Nat} (h : n ∉ mownAccs w) : n ∉ (planMownRelease w).accs := by
  have hrd : (planMownRelease w).rd = [] := rfl
  have hwr : (planMownRelease w).wr = mownAccs w := rfl
  rw [MPlan.mem_accs, hrd, hwr]
  rintro (hn | hn)
  · cases hn
  · exact h hn

/-- A ready MOWN.release runs: its accumulators are nobody's and empty, and every other is as it was (R179). -/
theorem MatrixReady.release {s : State} {w : MWord} (h : MatrixReady s w (planMownRelease w)) :
    ∃ t, exec (.mownRelease w) s = .next t ∧ t.me.pc = s.me.pc + 24 ∧ t.me.regs = s.me.regs ∧ SameBytes s t ∧
      ∀ n, n < 48 → (bit (mownMask w) n = 1 → t.myTile.ownerOf n = .nobody ∧ t.myTile.tagOf n = 0 ∧
          ∀ k, (t.myTile.accElems n).getD k 0 = 0) ∧
        (bit (mownMask w) n = 0 → t.myTile.ownerOf n = s.myTile.ownerOf n ∧ t.myTile.tagOf n = s.myTile.tagOf n ∧
          t.myTile.accElems n = s.myTile.accElems n) := by
  obtain ⟨own, m, q, V, hnext, hown, hbeside, -⟩ := h.exec_eq (i := .mownRelease w) (op := 14)
    (o := ⟨(mownAccs w).map (·, none), [], 0, s.myTile.xr.lfsr⟩) (fun _ _ => rfl) (fun _ _ _ => rfl) rfl rfl
  obtain ⟨-, hcore, -⟩ := id h
  have hme : (s.setMyTile V).me = s.me.goOn (s.me.pc + 24) (s.now + 1) q := by rw [State.me_x hcore, hbeside.x_eq]
  have hnums : ((mownAccs w).map fun n => (n, (none : Option (List Nat × Nat)))).map (fun a => a.1) = mownAccs w := by
    rw [List.map_map]
    exact List.map_id _
  refine ⟨s.setMyTile V, hnext, by rw [hme]; rfl, by rw [hme]; rfl, State.sameBytes_setMyTile hbeside.scratch_eq, fun n hn => ?_⟩
  obtain ⟨hels, htag, howner⟩ := hbeside.accs n
  rw [State.myTile_setMyTile, hels, htag, howner]
  constructor
  · intro hbit
    have hmem : n ∈ mownAccs w := mem_mownAccs.2 ⟨hn, hbit⟩
    obtain ⟨hfree, hzero, hempty⟩ := Tile.putAccs_released (as := (mownAccs w).map (·, none)) (n := n)
      (fun a ha => by obtain ⟨k, -, rfl⟩ := List.mem_map.1 ha; rfl) (by rwa [hnums]) ({ s.myTile with accOwner := own } : Tile)
    exact ⟨hfree, hzero, hempty⟩
  · intro hbit
    have hout : n ∉ mownAccs w := fun hmem => by
      have := (mem_mownAccs.1 hmem).2
      omega
    obtain ⟨hsame, htag', howner'⟩ := Tile.putAccs_outside (as := (mownAccs w).map (·, none)) (n := n) (by rwa [hnums])
      ({ s.myTile with accOwner := own } : Tile)
    exact ⟨howner'.trans ((hown n).trans (if_neg (not_mem_accs_release hout))), htag', hsame⟩

end Sys2Proof.Machine

namespace Sys2Proof

open Sys2Proof.Machine

/-- Settles O48: each word runs as its plan computes (`MatrixReady.runs`), and what it computes is written out
(`MatrixReady.runs_plain`); MOWN.release frees its accumulators (`MatrixReady.release`). -/
theorem matrixWords : Obligations.MatrixWords := by
  unfold Obligations.MatrixWords
  refine ⟨?mzero, ?mlda, ?mcopy, ?mtrn, ?mspill, ?mfill, ?rows, ?mown⟩
  case mzero =>
    rintro s w p ok rfl rfl h
    refine h.runs_plain (op := 4) (run := fun t _ => accOut t w.acc.toNat w.tC.toNat (List.replicate 4096 (0, 0)))
      (fun _ _ => rfl) (fun _ _ _ => rfl) rfl ?_
    rw [List.map_replicate]
  case mlda =>
    rintro s w p run rfl h
    exact h.runs_plain (op := 5) (run := fun t q => accOut t w.acc.toNat w.tC.toNat ((elemsOfLines q.a).map (·, 0)))
      (fun _ _ => rfl) (fun _ _ _ => rfl) rfl (by rw [elemsOfLines_eq])
  case mcopy =>
    rintro s w p run rfl h
    exact h.runs_plain (op := 7) (run := fun t _ => accOut t w.acc.toNat (t.tagOf (accSOf w))
      ((t.accElems (accSOf w)).map (·, 0))) (fun _ _ => rfl) (fun _ _ _ => rfl) rfl rfl
  case mtrn =>
    rintro s w p run rfl h
    have htag : s.myTile.tagOf (accSOf w) = w.tC.toNat := h.tagOf_read rfl List.mem_cons_self
    exact h.runs_plain (op := 8) (run := fun t _ => accOut t w.acc.toNat (t.tagOf (accSOf w))
      ((transposed (t.accElems (accSOf w))).map (·, 0))) (fun _ _ => rfl) (fun _ _ _ => rfl) rfl (by rw [htag]; rfl)
  case mspill =>
    rintro s w p run rfl h
    exact h.runs_as (op := 12) (run := fun t _ =>
      ⟨[], spillImage (t.accElems w.acc.toNat) (t.tagOf w.acc.toNat), 0, t.xr.lfsr⟩) (fun _ _ => rfl) (fun _ _ _ => rfl) rfl rfl
      (fun _ ha => absurd ha List.not_mem_nil)
  case mfill =>
    rintro s w p run rfl h
    exact h.runs_plain (op := 13) (run := fun t q => accOut t w.acc.toNat (lineAt q.a 256) ((elemsOfLines q.a).map (·, 0)))
      (fun _ _ => rfl) (fun _ _ _ => rfl) rfl (by rw [elemsOfLines_eq])
  case rows =>
    simp only [List.forall_mem_cons]
    refine ⟨?mma, ?mmaq, ?mmal, ?mmas, ?msta, ?mscal, ?madd, ?mred, List.forall_mem_nil _⟩
    all_goals intro s w h
    case mma => exact h.runs (op := 0) (fun _ _ => rfl) (fun _ _ _ => rfl) rfl rfl (mmaRun_keeps _ _ _)
    case mmaq => exact h.runs (op := 1) (fun _ _ => rfl) (fun _ _ _ => rfl) rfl rfl (mmaRun_keeps _ _ _)
    case mmal => exact h.runs (op := 2) (fun _ _ => rfl) (fun _ _ _ => rfl) rfl rfl (accOut_keeps _ _ _ _)
    case mmas => exact h.runs (op := 3) (fun _ _ => rfl) (fun _ _ _ => rfl) rfl rfl (accOut_keeps _ _ _ _)
    case msta => exact h.runs (op := 6) (fun _ _ => rfl) (fun _ _ _ => rfl) rfl rfl (mstaRun_keeps _ _ _)
    case mscal => exact h.runs (op := 9) (fun _ _ => rfl) (fun _ _ _ => rfl) rfl rfl (rowsOut_keeps _ _ _ _)
    case madd => exact h.runs (op := 10) (fun _ _ => rfl) (fun _ _ _ => rfl) rfl rfl (maddRun_keeps _ _ _ _)
    case mred => exact h.runs (op := 11) (fun _ _ => rfl) (fun _ _ _ => rfl) rfl rfl (maddRun_keeps _ _ _ _)
  case mown =>
    rintro s w p mo run rfl h
    refine ⟨?claim, ?release⟩
    case claim =>
      rintro rfl
      exact h.runs_as (op := 14) (run := fun t _ => ⟨[], [], 0, t.xr.lfsr⟩) (claims := true) (fun _ _ => rfl) (fun _ _ _ => rfl) rfl rfl
        (fun _ ha => absurd ha List.not_mem_nil)
    case release =>
      rintro rfl
      exact (h.withRun _).release

end Sys2Proof

/-!
Memories in parts, and numbers written in a row
-/

namespace Sys2Proof

/-! Parts of a memory, as they read. -/

theorem Store.get_filter_key {α : Type} (d : α) (p : Nat → Bool) (m : Store α) (k : Nat) :
    Store.get d (m.filter fun e => p e.1) k = if p k then Store.get d m k else d := by
  induction m with
  | nil => simp [Store.get]
  | cons e m ih =>
    cases hp : p e.1 with
    | true =>
      rw [List.filter_cons_of_pos (p := fun e : Nat × α => p e.1) hp, Store.get, Store.get, ih]
      by_cases hk : e.1 = k
      · simp [hk, hk ▸ hp]
      · simp [hk]
    | false =>
      rw [List.filter_cons_of_neg (p := fun e : Nat × α => p e.1) (ne_true_of_eq_false hp), ih, Store.get]
      by_cases hk : e.1 = k
      · simp [hk ▸ hp]
      · simp [hk]

/-- A memory with other addresses left out reads the same at those kept. -/
theorem Memory.byte_filter (p : Nat → Bool) (m : Memory) (a : Nat) :
    Memory.byte (m.filter fun e => p e.1) a = if p a then m.byte a else 0 :=
  Store.get_filter_key 0 p m a

theorem Memory.byte_part (m : Memory) (a n k : Nat) :
    Memory.byte (Machine.Memory.part m a n) k = if k < n then m.byte (a + k) else 0 := by
  have hshift : ∀ l : Memory, (∀ e ∈ l, a ≤ e.1) →
      Memory.byte (l.map fun e => (e.1 - a, e.2)) k = Memory.byte l (a + k) := by
    intro l hl
    induction l with
    | nil => rfl
    | cons e l ih =>
      obtain ⟨he, hrest⟩ := List.forall_mem_cons.1 hl
      have hkey : (e.1 - a = k) = (e.1 = a + k) := by rw [eq_iff_iff]; omega
      change (if e.1 - a = k then e.2 else Memory.byte (l.map fun e => (e.1 - a, e.2)) k) =
        if e.1 = a + k then e.2 else Memory.byte l (a + k)
      rw [ih hrest]
      simp only [hkey]
  rw [Machine.Memory.part, hshift _ (fun e he => (of_decide_eq_true (List.mem_filter.1 he).2).1),
    Memory.byte_filter (fun x => decide (a ≤ x ∧ x < a + n))]
  have hbound : (decide (a ≤ a + k ∧ a + k < a + n) = true) = (k < n) := by rw [decide_eq_true_eq, eq_iff_iff]; omega
  simp only [hbound]

theorem Memory.num_congr {m m' : Memory} {a b n : Nat} (h : ∀ i, i < n → Memory.byte m (a + i) = Memory.byte m' (b + i)) :
    Memory.num m a n = Memory.num m' b n := by
  refine congrArg leNat (List.ext_getElem (by simp) fun i hi _ => ?_)
  rw [Memory.length_bytes] at hi
  rw [Memory.getElem_bytes, Memory.getElem_bytes, h i hi]

/-! Numbers written one after another. -/

theorem Memory.setBytes_append (m : Memory) (a : Nat) (xs ys : List Byte) :
    Memory.setBytes m a (xs ++ ys) = Memory.setBytes (Memory.setBytes m a xs) (a + xs.length) ys := by
  induction xs generalizing m a with
  | nil => rfl
  | cons x xs ih => rw [List.cons_append, Memory.setBytes, Memory.setBytes, ih, List.length_cons, Nat.add_right_comm, Nat.add_assoc]

theorem length_dwords (ws : List Nat) : (Machine.dwords ws).length = 8 * ws.length := by
  induction ws with
  | nil => rfl
  | cons w ws ih =>
    have hcons : Machine.dwords (w :: ws) = leBytes 8 w ++ Machine.dwords ws := rfl
    rw [hcons, List.length_append, leBytes_length, ih, List.length_cons, Nat.mul_succ, Nat.add_comm]

theorem dwords_append (ws vs : List Nat) : Machine.dwords (ws ++ vs) = Machine.dwords ws ++ Machine.dwords vs := by
  rw [Machine.dwords, List.map_append, List.flatten_append]
  rfl

theorem flatten_map_dwords {α : Type} (f : α → List Nat) (xs : List α) :
    (xs.map fun x => Machine.dwords (f x)).flatten = Machine.dwords (xs.map f).flatten := by
  induction xs with
  | nil => rfl
  | cons x xs ih => rw [List.map_cons, List.flatten_cons, ih, List.map_cons, List.flatten_cons, dwords_append]

theorem Memory.num_dwords (m : Memory) (a : Nat) {ws : List Nat} {k : Nat} (h : k < ws.length) (rest : List Byte) :
    Memory.num (Memory.setBytes m a (Machine.dwords ws ++ rest)) (a + 8 * k) 8 = ws.getD k 0 % 2 ^ 64 := by
  induction ws generalizing m a k with
  | nil => cases h
  | cons w ws ih =>
    have hcons : Machine.dwords (w :: ws) ++ rest = leBytes 8 w ++ (Machine.dwords ws ++ rest) := by
      rw [← List.append_assoc]
      rfl
    rw [hcons, Memory.setBytes_append, leBytes_length]
    cases k with
    | zero =>
      rw [Memory.num_setBytes_outside _ _ (fun i hi => .inl (by omega)), Nat.mul_zero, Nat.add_zero,
        Memory.num_setBytes_mod]
      rfl
    | succ k =>
      have hnext := ih (Memory.setBytes m a (leBytes 8 w)) (a + 8) (Nat.lt_of_succ_lt_succ h)
      rwa [show a + 8 + 8 * k = a + 8 * (k + 1) by omega] at hnext

end Sys2Proof

/-!
Runs of bytes, and what a save writes (R340)
-/

namespace Sys2Proof

/-! Runs of bytes written in order. -/

/-- Runs of bytes written in order, each from its address on. -/
def Memory.writeRuns (m : Memory) (ws : List (Nat × List Byte)) : Memory := ws.foldl (fun m w => Memory.setBytes m w.1 w.2) m

theorem Memory.writeRuns_cons (m : Memory) (w : Nat × List Byte) (ws : List (Nat × List Byte)) :
    Memory.writeRuns m (w :: ws) = Memory.writeRuns (Memory.setBytes m w.1 w.2) ws := rfl

theorem Memory.writeRuns_append (m : Memory) (ws vs : List (Nat × List Byte)) :
    Memory.writeRuns m (ws ++ vs) = Memory.writeRuns (Memory.writeRuns m ws) vs := List.foldl_append

theorem Memory.byte_writeRuns_outside {a : Nat} {ws : List (Nat × List Byte)}
    (h : ∀ w ∈ ws, a < w.1 ∨ w.1 + w.2.length ≤ a) (m : Memory) : Memory.byte (Memory.writeRuns m ws) a = m.byte a := by
  induction ws generalizing m with
  | nil => rfl
  | cons w ws ih =>
    obtain ⟨hw, hrest⟩ := List.forall_mem_cons.1 h
    exact (ih hrest _).trans (Memory.byte_setBytes_outside _ _ _ _ hw)

/-- Runs that begin behind a number leave it. -/
theorem Memory.num_writeRuns_behind {a n : Nat} {ws : List (Nat × List Byte)} (h : ∀ w ∈ ws, a + n ≤ w.1) (m : Memory) :
    Memory.num (Memory.writeRuns m ws) a n = Memory.num m a n :=
  Memory.num_congr fun _ hi => Memory.byte_writeRuns_outside (fun w hw => .inl (by have := h w hw; omega)) m

/-- A run that no other meets stands. -/
theorem Memory.bytes_writeRuns {w : Nat × List Byte} {ws : List (Nat × List Byte)} (hw : w ∈ ws)
    (h : ∀ v ∈ ws, v = w ∨ v.1 + v.2.length ≤ w.1 ∨ w.1 + w.2.length ≤ v.1) (m : Memory) :
    Memory.bytes (Memory.writeRuns m ws) w.1 w.2.length = w.2 := by
  induction ws generalizing m with
  | nil => cases hw
  | cons v ws ih =>
    obtain ⟨hv, hrest⟩ := List.forall_mem_cons.1 h
    rw [Memory.writeRuns_cons]
    by_cases hlater : w ∈ ws
    · exact ih hlater hrest _
    · have hhere : w = v := (List.mem_cons.1 hw).resolve_right hlater
      subst hhere
      refine Eq.trans (List.ext_getElem (by simp) fun i hi _ => ?_) (Memory.bytes_setBytes m w.1 w.2)
      rw [Memory.length_bytes] at hi
      rw [Memory.getElem_bytes, Memory.getElem_bytes]
      refine Memory.byte_writeRuns_outside (fun u hu => ?_) _
      rcases hrest u hu with rfl | hbefore | hbehind
      · exact absurd hu hlater
      · right; omega
      · left; omega

theorem getD_flatten {α : Type} (d : α) {n : Nat} (ls : List (List α)) (hlen : ∀ l ∈ ls, l.length = n) {i r : Nat}
    (hi : i < ls.length) (hr : r < n) : ls.flatten.getD (n * i + r) d = (ls.getD i []).getD r d := by
  induction ls generalizing i with
  | nil => cases hi
  | cons l ls ih =>
    obtain ⟨hl, hrest⟩ := List.forall_mem_cons.1 hlen
    cases i with
    | zero => rw [List.flatten_cons, Nat.mul_zero, Nat.zero_add, List.getD_append _ _ _ _ (by rwa [hl])]; rfl
    | succ i =>
      rw [List.flatten_cons, List.getD_append_right _ _ _ _ (by rw [hl, Nat.mul_succ]; omega), hl,
        show n * (i + 1) + r - n = n * i + r by rw [Nat.mul_succ]; omega, ih hrest (Nat.lt_of_succ_lt_succ hi)]
      rfl

end Sys2Proof

namespace Sys2Proof.Machine

open Host (Outcome)

/-! What a save writes in a task frame (R340). -/

/-- The registers of the cores, in the order of a frame. -/
def Tile.regWords (t : Tile) : List Nat := ([t.l, t.x, t.s].map fun k => (List.range 32).map fun n => (k.reg n).toNat).flatten

/-- The program counters and CSRs of a core, in the order of a frame. -/
def Core.csrWords (k : Core) : List Nat :=
  [k.pc.toNat, k.fflags.toNat, k.frm.toNat, k.priv.toNat, k.tpc.toNat, k.tcause.toNat, k.tval.toNat, k.tstatus.toNat,
    k.codeLo.toNat, k.codeHi.toNat, k.tvec.toNat, 0, 0, 0, 0, 0]

/-- Those of the cores. -/
def Tile.csrWords (t : Tile) : List Nat := ([t.l, t.x, t.s].map Core.csrWords).flatten

/-- The place of a core in a frame. -/
def corePlace : CoreId → Nat
  | .L => 0
  | .X => 1
  | .S => 2

/-- What the first line of a frame holds behind its doublewords. -/
def Tile.frameCodes (t : Tile) (kind : Nat) : List Byte :=
  [BitVec.ofNat 8 kind, BitVec.ofNat 8 (t.l.stateCode + t.x.stateCode * 4 + t.s.stateCode * 16)] ++ leBytes 2 t.l.marks ++
    leBytes 2 t.s.marks ++ leBytes 2 t.task.groupMask.toNat ++ List.replicate 24 0

/-- The first runs of a frame: the task, the registers, the program counters and CSRs; the others begin behind. -/
theorem Tile.frameRuns_eq (t : Tile) (kind : Nat) (fault va : U64) :
    ∃ gbars rest, t.frameRuns kind fault va =
      (0, dwords [t.task.taskId.toNat, t.task.recIndex.toNat, va.toNat, fault.toNat] ++ t.frameCodes kind) :: (1, gbars) ::
        (3, dwords t.regWords) :: (15, dwords t.csrWords) :: rest ∧ ∀ r ∈ rest, 21 ≤ r.1 := by
  have hregs : ([t.l, t.x, t.s].map fun k => dwords ((List.range 32).map fun n => (k.reg n).toNat)).flatten =
      dwords t.regWords := flatten_map_dwords (fun k : Core => (List.range 32).map fun n => (k.reg n).toNat) _
  have hcsrs : ([t.l, t.x, t.s].map fun k => dwords k.csrWords).flatten = dwords t.csrWords :=
    flatten_map_dwords Core.csrWords _
  have hplaces : ((t.frameRuns kind fault va).drop 4).map (fun r => r.1) = [21, 22, 24, 25, 27, 31, 39, 42, 50, 64, 80, 144, 208, 272] :=
    rfl
  refine ⟨(((t.frameRuns kind fault va).drop 1).headD (0, [])).2, (t.frameRuns kind fault va).drop 4, ?_, fun r hr => ?_⟩
  · rw [← hregs, ← hcsrs, Tile.frameCodes]
    simp only [← List.append_assoc]
    rfl
  · have hmem : r.1 ∈ [21, 22, 24, 25, 27, 31, 39, 42, 50, 64, 80, 144, 208, 272] := by
      rw [← hplaces]
      exact List.mem_map_of_mem hr
    revert hmem
    generalize r.1 = n
    intro hmem
    simp only [List.mem_cons, List.not_mem_nil, or_false] at hmem
    omega

end Sys2Proof.Machine

/-!
What a written task frame holds
-/

namespace Sys2Proof.Machine

open Host (Outcome)

theorem frameAddr_eq (c : Ctx) (f line : Nat) : frameAddr c f line = frameAddr c f 0 + 64 * line := by
  simp only [frameAddr, Nat.mul_zero, Nat.add_zero]

/-- What a save writes of a task: the runs of its frame. -/
def Tile.placedRuns (t : Tile) (c : Ctx) (f kind : Nat) (fault va : U64) : List (Nat × List Byte) :=
  (t.frameRuns kind fault va).map fun r => (frameAddr c f r.1, r.2)

/-- What a save writes of a task: its kept lines. -/
def Tile.placedLines (t : Tile) (c : Ctx) (f : Nat) : List (Nat × List Byte) :=
  t.keptLines.map fun l => (frameAddr c f (1808 + l), t.line (l : Nat))

theorem State.hbm_foldl_writePhys {α : Type} (a : α → Nat) (b : α → List Byte) (xs : List α) (s : State) :
    (xs.foldl (fun s x => s.writePhys (a x) (b x)) s).hbm = Memory.writeRuns s.hbm (xs.map fun x => (a x, b x)) := by
  rw [Memory.writeRuns, List.foldl_map]
  exact (List.foldl_hom State.hbm fun _ _ => rfl).symm

theorem State.hbm_writeFrame (s : State) (c : Ctx) (f : Nat) (t : Tile) (kind : Nat) (fault : U64) :
    ∃ va, (s.writeFrame c f t kind fault).hbm =
      Memory.writeRuns (Memory.writeRuns s.hbm (t.placedRuns c f kind fault va)) (t.placedLines c f) := by
  refine ⟨((s.card t.task.card).bind (fun d => d.va)).getD (Config.freeValue s.fresh), ?_⟩
  unfold State.writeFrame
  dsimp only
  rw [State.hbm_foldl_writePhys, State.hbm_foldl_writePhys]
  rfl

/-- Kept lines lie behind the rest of a frame. -/
theorem Tile.placedLines_behind {t : Tile} {c : Ctx} {f : Nat} :
    ∀ w ∈ t.placedLines c f, frameAddr c f 0 + 64 * 1808 ≤ w.1 := by
  intro w hw
  obtain ⟨l, -, rfl⟩ := List.mem_map.1 hw
  dsimp only
  rw [frameAddr_eq c f (1808 + l)]
  omega

theorem Tile.length_line (t : Tile) (l : Int) : (t.line l).length = 64 := by
  unfold Tile.line
  split
  · exact Memory.length_bytes ..
  · exact List.length_replicate

section
variable {s : State} {c : Ctx} {f kind : Nat} {t : Tile} {fault : U64}

/-- A frame holds a task's kept lines. -/
theorem State.frame_line {l : Nat} (hl : l < 5115) (hkept : t.task.keepsLine l = true) :
    Memory.bytes (s.writeFrame c f t kind fault).hbm (frameAddr c f (1808 + l)) 64 = t.line (l : Nat) := by
  obtain ⟨va, hbm⟩ := s.hbm_writeFrame c f t kind fault
  have hmem : (frameAddr c f (1808 + l), t.line (l : Nat)) ∈ t.placedLines c f :=
    List.mem_map_of_mem (f := fun l => (frameAddr c f (1808 + l), t.line (l : Nat)))
      (List.mem_filter.2 ⟨List.mem_range.2 hl, hkept⟩)
  have hread := Memory.bytes_writeRuns hmem (fun v hv => ?_) (Memory.writeRuns s.hbm (t.placedRuns c f kind fault va))
  · rw [hbm]
    rwa [t.length_line] at hread
  · obtain ⟨k, -, rfl⟩ := List.mem_map.1 hv
    dsimp only
    rw [t.length_line, t.length_line, frameAddr_eq c f (1808 + k), frameAddr_eq c f (1808 + l)]
    by_cases hk : k = l
    · exact .inl (by rw [hk])
    · right; omega

/-- A doubleword of a run of a frame stands, where all that is written later lies behind. -/
theorem Memory.num_frameRun {m : Memory} {pre rest : List (Nat × List Byte)} {line k : Nat} {ws : List Nat} {bs tail : List Byte}
    (hbs : bs = dwords ws ++ tail) (hk : k < ws.length) (hrest : ∀ r ∈ rest, 64 * line + 8 * k + 8 ≤ 64 * r.1) :
    Memory.num (Memory.writeRuns m ((pre ++ (line, bs) :: rest).map fun r => (frameAddr c f r.1, r.2)))
      (frameAddr c f line + 8 * k) 8 = ws.getD k 0 % 2 ^ 64 := by
  rw [hbs, List.map_append, List.map_cons, Memory.writeRuns_append, Memory.writeRuns_cons, Memory.num_writeRuns_behind]
  · exact Memory.num_dwords _ _ hk tail
  · intro w hw
    obtain ⟨r, hr, rfl⟩ := List.mem_map.1 hw
    dsimp only
    rw [frameAddr_eq c f line, frameAddr_eq c f r.1]
    have := hrest r hr
    omega

theorem State.num_writeFrame {a n : Nat} (ha : a + n ≤ frameAddr c f 0 + 64 * 1808) :
    ∃ va, Memory.num (s.writeFrame c f t kind fault).hbm a n =
      Memory.num (Memory.writeRuns s.hbm (t.placedRuns c f kind fault va)) a n := by
  obtain ⟨va, hbm⟩ := s.hbm_writeFrame c f t kind fault
  refine ⟨va, ?_⟩
  rw [hbm, Memory.num_writeRuns_behind]
  intro w hw
  exact Nat.le_trans ha (Tile.placedLines_behind w hw)

/-- A frame holds a task's record index. -/
theorem State.frame_recIndex :
    Memory.num (s.writeFrame c f t kind fault).hbm (frameAddr c f 0 + 8) 8 = t.task.recIndex.toNat := by
  obtain ⟨va, hnum⟩ := State.num_writeFrame (s := s) (c := c) (f := f) (kind := kind) (t := t) (fault := fault)
    (a := frameAddr c f 0 + 8) (n := 8) (by omega)
  obtain ⟨gbars, rest, hruns, hrest⟩ := t.frameRuns_eq kind fault va
  rw [hnum, Tile.placedRuns, hruns]
  refine (Memory.num_frameRun (pre := []) (line := 0) (k := 1) (tail := t.frameCodes kind) rfl (by simp) fun r hr => ?_).trans
    (Nat.mod_eq_of_lt t.task.recIndex.isLt)
  simp only [List.mem_cons] at hr
  rcases hr with rfl | rfl | rfl | hr
  · simp
  · simp
  · simp
  · have := hrest r hr
    omega

theorem Tile.getD_regWords (core : CoreId) {r : Nat} (hr : r < 32) :
    t.regWords.getD (32 * corePlace core + r) 0 = ((t.core core).reg r).toNat := by
  have hlen : ∀ l ∈ [t.l, t.x, t.s].map fun k => (List.range 32).map fun n => (k.reg n).toNat, l.length = 32 := by
    intro l hl
    obtain ⟨k, -, rfl⟩ := List.mem_map.1 hl
    simp
  have hplace : corePlace core < 3 := by cases core <;> decide
  rw [Tile.regWords, getD_flatten 0 _ hlen (by simpa using hplace) hr]
  have hcore : ([t.l, t.x, t.s].map fun k => (List.range 32).map fun n => (k.reg n).toNat).getD (corePlace core) [] =
      (List.range 32).map fun n => ((t.core core).reg n).toNat := by cases core <;> rfl
  rw [hcore, getD_map_range _ hr]

theorem Tile.length_regWords : t.regWords.length = 96 := by simp [Tile.regWords]

theorem Tile.getD_csrWords (core : CoreId) : t.csrWords.getD (16 * corePlace core) 0 = (t.core core).pc.toNat := by
  cases core <;> rfl

theorem Tile.length_csrWords : t.csrWords.length = 48 := rfl

/-- A frame holds a task's registers. -/
theorem State.frame_reg (core : CoreId) {r : Nat} (hr : r < 32) :
    Memory.num (s.writeFrame c f t kind fault).hbm (frameAddr c f (3 + 4 * corePlace core) + 8 * r) 8 =
      ((t.core core).reg r).toNat := by
  have hplace : corePlace core < 3 := by cases core <;> decide
  have haddr : frameAddr c f (3 + 4 * corePlace core) + 8 * r = frameAddr c f 3 + 8 * (32 * corePlace core + r) := by
    rw [frameAddr_eq c f (3 + 4 * corePlace core), frameAddr_eq c f 3]
    omega
  obtain ⟨va, hnum⟩ := State.num_writeFrame (s := s) (c := c) (f := f) (kind := kind) (t := t) (fault := fault)
    (a := frameAddr c f 3 + 8 * (32 * corePlace core + r)) (n := 8) (by rw [frameAddr_eq c f 3]; omega)
  obtain ⟨gbars, rest, hruns, hrest⟩ := t.frameRuns_eq kind fault va
  rw [haddr, hnum, Tile.placedRuns, hruns]
  refine (Memory.num_frameRun (pre := [_, _]) (line := 3) (k := 32 * corePlace core + r) (ws := t.regWords) (tail := [])
    (rest := (15, dwords t.csrWords) :: rest) (List.append_nil _).symm (by rw [t.length_regWords]; omega) fun w hw => ?_).trans ?_
  · rcases List.mem_cons.1 hw with rfl | hw
    · dsimp only; omega
    · have := hrest w hw
      omega
  · rw [t.getD_regWords core hr]
    exact Nat.mod_eq_of_lt ((t.core core).reg r).isLt

/-- A frame holds a task's program counters. -/
theorem State.frame_pc (core : CoreId) :
    Memory.num (s.writeFrame c f t kind fault).hbm (frameAddr c f (15 + 2 * corePlace core)) 8 = (t.core core).pc.toNat := by
  have hplace : corePlace core < 3 := by cases core <;> decide
  have haddr : frameAddr c f (15 + 2 * corePlace core) = frameAddr c f 15 + 8 * (16 * corePlace core) := by
    rw [frameAddr_eq c f (15 + 2 * corePlace core), frameAddr_eq c f 15]
    omega
  obtain ⟨va, hnum⟩ := State.num_writeFrame (s := s) (c := c) (f := f) (kind := kind) (t := t) (fault := fault)
    (a := frameAddr c f 15 + 8 * (16 * corePlace core)) (n := 8) (by rw [frameAddr_eq c f 15]; omega)
  obtain ⟨gbars, rest, hruns, hrest⟩ := t.frameRuns_eq kind fault va
  rw [haddr, hnum, Tile.placedRuns, hruns]
  refine (Memory.num_frameRun (pre := [_, _, _]) (line := 15) (k := 16 * corePlace core) (ws := t.csrWords) (tail := [])
    (rest := rest) (List.append_nil _).symm (by rw [t.length_csrWords]; omega) fun w hw => ?_).trans ?_
  · have := hrest w hw
    omega
  · rw [t.getD_csrWords core]
    exact Nat.mod_eq_of_lt (t.core core).pc.isLt

end

end Sys2Proof.Machine

/-!
A save runs
-/

namespace Sys2Proof.Machine

open Host (Outcome)

theorem State.hbm_returnChunk (s : State) (g : Nat) : (s.returnChunk g).hbm = s.hbm := by
  have hstep : ∀ (u : State) (e : Nat × Nat), (match u.card e.2 with
      | some c => u.setCard e.2 { c with returned := insertRecord e.1 c.returned }
      | none => u).hbm = u.hbm := by
    intro u e
    cases u.card e.2 <;> rfl
  have hfold : ∀ (es : List (Nat × Nat)) (u : State), (es.foldl (fun u e => match u.card e.2 with
      | some c => u.setCard e.2 { c with returned := insertRecord e.1 c.returned }
      | none => u) u).hbm = u.hbm := by
    intro es
    induction es with
    | nil => intro u; rfl
    | cons e es ih => intro u; rw [List.foldl_cons, ih, hstep]
  exact hfold _ s

/-- A state about to write the frame of the task of a tile. -/
def State.toSave (s : State) (g f : Nat) (c : Ctx) : State :=
  ((s.charge g 15 (s.tile g).frameCount).storeEntry g).setCtx (s.tile g).task.ctx
    { c with frames := if c.frames.contains f then c.frames else f :: c.frames }

theorem State.save_runs {s : State} {g f : Nat} {park : Option U64} {c : Ctx} (hstop : (s.tile g).stop = some park)
    (hctx : s.ctx (s.tile g).task.ctx = some c) (hmay : (s.tile g).mayBeSaved = true)
    (hframe : (s.tile g).task.frame = some f) :
    ∃ (t : State) (v : Saved), exec (.taskSave g) s = .next t ∧ (t.tile g).task.live = false ∧ (t.tile g).x.run = .idle ∧
      Store.find t.saved (s.tile g).task.uid = some v ∧ v.frame = f ∧ v.kind = (if park.isSome then 1 else 0) ∧
      v.tile.l = (s.tile g).l.parked ∧ v.tile.x = (s.tile g).x.parked ∧ v.tile.s = (s.tile g).s.parked ∧
      v.tile.xr.v = (s.tile g).xr.v ∧ v.dealt = none ∧
      (park.isSome = true → ∃ kind fault, t.hbm = ((s.toSave g f c).writeFrame c f (s.tile g) kind fault).hbm) := by
  change ∃ t v, execTaskSave g s = .next t ∧ _
  unfold execTaskSave
  dsimp only
  rw [hstop, hctx]
  dsimp only
  rw [hmay, hframe]
  dsimp only [Option.orElse]
  refine ⟨_, _, rfl, ?_, ?_, Store.find_put_same .., rfl, rfl, rfl, rfl, rfl, rfl, rfl, fun hpark => ⟨if park.isSome then 1 else 0, park.getD 0, ?_⟩⟩
  · rw [State.tile_setTile_same]; rfl
  · rw [State.tile_setTile_same]; rfl
  · refine (State.hbm_returnChunk _ g).trans (congrArg State.hbm ?_)
    rw [hpark]
    exact if_pos rfl

end Sys2Proof.Machine

/-!
Discarded tasks, and what a resumption adds to a tile
-/

namespace Sys2Proof.Machine

open Host (Outcome)

/-! What is left of a saved task that ends. -/

/-- From `s` to `t` every tile that held a task holds one, and no saved task `k` has come. -/
structure State.LeavesTasks (k : Nat) (s t : State) : Prop where
  live : ∀ g, (t.tile g).task.live = (s.tile g).task.live
  gone : Store.find s.saved k = none → Store.find t.saved k = none

theorem State.LeavesTasks.trans {k : Nat} {s t u : State} (h : State.LeavesTasks k s t) (h' : State.LeavesTasks k t u) :
    State.LeavesTasks k s u :=
  ⟨fun g => (h'.live g).trans (h.live g), h'.gone ∘ h.gone⟩

theorem State.LeavesTasks.of_same {k : Nat} {s t : State} (htiles : t.tiles = s.tiles) (hsaved : t.saved = s.saved) :
    State.LeavesTasks k s t :=
  ⟨fun g => by rw [State.tile, htiles]; rfl, fun h => by rw [hsaved, h]⟩

theorem State.LeavesTasks.refl (k : Nat) (s : State) : State.LeavesTasks k s s := .of_same rfl rfl

theorem State.LeavesTasks.foldl {α : Type} {k : Nat} {f : State → α → State} (h : ∀ s a, State.LeavesTasks k s (f s a))
    (as : List α) (s : State) : State.LeavesTasks k s (as.foldl f s) := by
  induction as generalizing s with
  | nil => exact .refl k s
  | cons a as ih => exact (h s a).trans (ih _)

theorem State.leavesTasks_mapTiles {k : Nat} {s : State} (f : Tile → Tile) (hidle : f Tile.idle = Tile.idle)
    (hlive : ∀ t : Tile, (f t).task.live = t.task.live) :
    State.LeavesTasks k s { s with tiles := s.tiles.map fun e => (e.1, f e.2) } := by
  refine ⟨fun g => ?_, id⟩
  exact (congrArg (fun t : Tile => t.task.live) (Store.get_map f hidle s.tiles g)).trans (hlive _)

theorem State.leavesTasks_mapSaved {k : Nat} {s : State} (f : Saved → Saved) :
    State.LeavesTasks k s { s with saved := s.saved.map fun e => (e.1, f e.2) } := by
  refine ⟨fun g => rfl, fun h => ?_⟩
  exact (Store.find_map f s.saved k).trans (congrArg (Option.map f) h)

theorem State.leavesTasks_settlePage (k : Nat) (s : State) (x p : Nat) (datum : Bool) :
    State.LeavesTasks k s (s.settlePage x p datum) := by
  have hpage : ∀ w, State.LeavesTasks k s (s.setPage x p w) := by
    intro w
    unfold State.setPage
    split
    · exact .of_same rfl rfl
    · exact .refl k s
  unfold State.settlePage
  split
  · exact .refl k s
  · dsimp only
    split
    · exact (hpage _).trans (.of_same rfl rfl)
    · exact hpage _

theorem State.leavesTasks_settleGroup (k : Nat) (s : State) (x grp : Nat) (datum : Bool) :
    State.LeavesTasks k s (s.settleGroup x grp datum) := by
  unfold State.settleGroup
  split
  · exact .refl k s
  · next c _ =>
    have hpages : State.LeavesTasks k s ((c.groupPages grp).foldl (fun s p =>
        if bit (Store.get 0 c.pages p).toNat 13 = 1 ∧ hasShadow (Store.get 0 c.pages p).toNat (c.twin grp) = false then
          s.settlePage x p datum else s) s) := by
      refine .foldl (fun s p => ?_) _ s
      split
      · exact State.leavesTasks_settlePage k s x p datum
      · exact .refl k s
    dsimp only
    split
    · exact hpages
    · exact hpages.trans (.of_same rfl rfl)

theorem State.leavesTasks_flip (k : Nat) (s : State) (x grp : Nat) (publish datum : Bool) (stamp : Nat) :
    State.LeavesTasks k s (s.flip x grp publish datum stamp) := by
  have hsettle := State.leavesTasks_settleGroup k s x grp datum
  unfold State.flip
  dsimp only
  split
  · exact hsettle
  · refine hsettle.trans (.trans (t := { s.settleGroup x grp datum with
      tiles := (s.settleGroup x grp datum).tiles.map fun e => (e.1, e.2.forgetTwin x grp) })
      (State.leavesTasks_mapTiles (fun t => t.forgetTwin x grp) (Tile.forgetTwin_idle x grp) fun t => ?_) ?_)
    · unfold Tile.forgetTwin
      split <;> rfl
    · exact (State.leavesTasks_mapSaved fun v => { v with tile := v.tile.forgetTwin x grp }).trans (.of_same rfl rfl)

theorem State.leavesTasks_freeFrame (k : Nat) (s : State) (x : Nat) (f : Option Nat) :
    State.LeavesTasks k s (s.freeFrame x f) := by
  unfold State.freeFrame
  split
  · exact .of_same rfl rfl
  · exact .refl k s

theorem State.leavesTasks_leaveAll (k : Nat) (s : State) (g uid : Nat) : State.LeavesTasks k s (s.leaveAll g uid) := by
  unfold State.leaveAll
  split
  · exact .refl k s
  · exact .of_same rfl rfl

/-- A saved task that is discarded is gone, and no tile has got or lost a task. -/
theorem State.discardSaved_gone (s : State) (k : Nat) (at_ : Option Nat) :
    Store.find (s.discardSaved k at_).saved k = none ∧ ∀ g, ((s.discardSaved k at_).tile g).task.live = (s.tile g).task.live := by
  cases hfound : Store.find s.saved k with
  | none =>
    have hsame : s.discardSaved k at_ = s := by rw [State.discardSaved, hfound]
    rw [hsame]
    exact ⟨hfound, fun _ => rfl⟩
  | some v =>
    have hflips := State.LeavesTasks.foldl (k := k)
      (fun s grp => State.leavesTasks_flip k s v.tile.task.ctx grp false false s.now) v.tile.task.twins
      { s with saved := s.saved.erase k }
    have hfree := (hflips.trans (State.leavesTasks_freeFrame k _ v.tile.task.ctx (some v.frame))).trans
      (State.leavesTasks_leaveAll k _ v.home k)
    have hdrop := hfree.trans (State.leavesTasks_mapTiles (fun t => t.dropOwners (Owner.isOf k)) rfl fun _ => rfl)
    simp only [State.discardSaved, hfound, State.dropSaved]
    exact ⟨hdrop.gone (Store.find_erase_same ..), hdrop.live⟩

/-! What resumption adds to a restored tile. -/

/-- From `t` to `u` a resumed tile's entry has been loaded and charged, and its frame may have gone back. -/
def Tile.Resettled (t u : Tile) : Prop :=
  u = { t with
    energy := u.energy, oorAddr := u.oorAddr, oorFlag := u.oorFlag, oorWhen := u.oorWhen, charges := u.charges
    task := { t.task with frame := u.task.frame, resumed := u.task.resumed } }

theorem Tile.Resettled.trans {t u v : Tile} (h : t.Resettled u) (h' : u.Resettled v) : t.Resettled v := by
  unfold Tile.Resettled at *
  rw [h', h]

/-- From `s` to `t` the tile `g` has been settled as a resumption ends; the saved tasks stand. -/
structure State.Resettles (g : Nat) (s t : State) : Prop where
  tile : (s.tile g).Resettled (t.tile g)
  saved : t.saved = s.saved

theorem State.Resettles.trans {g : Nat} {s t u : State} (h : State.Resettles g s t) (h' : State.Resettles g t u) :
    State.Resettles g s u := ⟨h.tile.trans h'.tile, h'.saved.trans h.saved⟩

theorem State.Resettles.refl (g : Nat) (s : State) : State.Resettles g s s := ⟨rfl, rfl⟩

theorem State.resettles_setTile {s : State} {g : Nat} {u : Tile} (h : (s.tile g).Resettled u) :
    State.Resettles g s (s.setTile g u) := ⟨(s.tile_setTile_same g u).symm ▸ h, rfl⟩

theorem State.resettles_loadEntry (s : State) (g x : Nat) : State.Resettles g s (s.loadEntry g x) := by
  unfold State.loadEntry
  split
  · exact .refl g s
  · exact State.resettles_setTile rfl

theorem State.resettles_charge (s : State) (g cls n : Nat) : State.Resettles g s (s.charge g cls n) := by
  unfold State.charge
  split
  · exact .refl g s
  · dsimp only
    split
    · exact .refl g s
    · exact State.resettles_setTile rfl

theorem State.resettles_returnFrame (s : State) (g : Nat) : State.Resettles g s (s.returnFrame g) := by
  unfold State.returnFrame
  dsimp only
  split
  · have hfree : (s.freeFrame (s.tile g).task.ctx (s.tile g).task.frame).tiles = s.tiles ∧
        (s.freeFrame (s.tile g).task.ctx (s.tile g).task.frame).saved = s.saved := by
      unfold State.freeFrame
      split
      · exact ⟨rfl, rfl⟩
      · exact ⟨rfl, rfl⟩
    obtain ⟨htiles, hsaved⟩ := hfree
    refine ⟨?_, hsaved⟩
    rw [State.tile_setTile_same]
    rfl
  · exact .refl g s

end Sys2Proof.Machine

/-!
What a resumption reads
-/

namespace Sys2Proof.Machine

open Host (Outcome)

/-! What a resumption reads from a frame (R343). -/

/-- The head of a frame that has been read gives the numbers that memory holds there. -/
theorem Memory.num_frameHead (h : Memory) (base : Nat) {a n : Nat} (hn : a + n ≤ 3264) :
    Memory.num ((Memory.part h base (2 ^ 21)).filter fun e => decide (e.1 < 3264)) a n = Memory.num h (base + a) n := by
  refine Memory.num_congr fun i hi => ?_
  rw [Memory.byte_filter (fun k => decide (k < 3264)), if_pos (decide_eq_true (by omega)), Memory.byte_part,
    if_pos (by omega), Nat.add_assoc]

theorem get_listed (n : Nat) (f : Nat → Nat) {k : Nat} (hk : k < n) : Store.get 0 (listed n f) k = BitVec.ofNat 64 (f k) := by
  have hget := Store.get_filter_map (0 : U64) (fun i => BitVec.ofNat 64 (f i)) 0 k (List.range n)
  rw [if_pos (List.mem_range.2 hk), Nat.zero_add] at hget
  rw [listed, ← hget]
  simp only [Nat.zero_add]

theorem Core.reg_fromFrame (k : Core) (m : Memory) (i : Nat) {r : Nat} (hpos : 0 < r) (hr : r < 32) :
    (k.fromFrame m i).reg r = BitVec.ofNat 64 (Memory.num m (192 + 256 * i + 8 * r) 8) := by
  have hregs : (k.fromFrame m i).regs = (listed 32 fun n => Memory.num m (192 + 256 * i + 8 * n) 8).erase 0 := by
    unfold Core.fromFrame
    dsimp only
  rw [Core.reg, if_neg hpos.ne', hregs, Store.get_erase_ne 0 _ hpos.ne', get_listed 32 _ hr]

theorem Core.reg_resumed (k : Core) (first : Nat) (empty : Bool) (r : Nat) : (k.resumed first empty).reg r = k.reg r := rfl

/-- A core that a frame gives as running or waiting runs when it is resumed, and one that it gives as idle is idle. -/
theorem Core.run_resumed_fromFrame (k : Core) (m : Memory) (i first : Nat) (empty : Bool) :
    (bitsAt (Memory.num m 33 1) (2 * i) 2 ∈ [1, 2] → ((k.fromFrame m i).resumed first empty).run = .running) ∧
    (bitsAt (Memory.num m 33 1) (2 * i) 2 = 0 → ((k.fromFrame m i).resumed first empty).run = .idle) := by
  have hrun : (k.fromFrame m i).run.kept = keptOf (bitsAt (Memory.num m 33 1) (2 * i) 2) := rfl
  constructor
  · intro h
    simp only [List.mem_cons, List.not_mem_nil, or_false] at h
    rcases h with h | h
    · simp only [Core.resumed, hrun, h]; rfl
    · simp only [Core.resumed, hrun, h]; rfl
  · intro h
    simp only [Core.resumed, hrun, h]
    rfl

theorem Tile.byte_fromFrame (t : Tile) (h : Memory) (base a : Nat) (ha : a < 327360) :
    (t.fromFrame (Memory.part h base (2 ^ 21))).task.keepsLine (a / 64) = true →
    Memory.byte (t.fromFrame (Memory.part h base (2 ^ 21))).scratch a = Memory.byte h (base + 115712 + a) := by
  intro hkept
  refine (Memory.byte_filter (fun n => (t.fromFrame (Memory.part h base (2 ^ 21))).task.keepsLine (n / 64)) _ a).trans ?_
  rw [if_pos hkept, Memory.byte_part, if_pos ha, Memory.byte_part, if_pos (by omega), Nat.add_assoc]

/-! The tile of a task that resumes. -/

theorem Tile.Resettled.core {t u : Tile} (h : t.Resettled u) (c : CoreId) : u.core c = t.core c := by
  rw [h]
  cases c <;> rfl

theorem Tile.restored_core (t : Tile) (v : Saved) (ws : Store (BitVec 128)) (now first : Nat) (c : CoreId) :
    ∃ empty, (t.restored v ws now first).core c = (v.tile.core c).resumed first empty := by
  cases c
  · exact ⟨_, rfl⟩
  · exact ⟨_, rfl⟩
  · exact ⟨_, rfl⟩

/-- The state in which a saved task has left the saved ones and its tile is `u`. -/
def State.unsave (s : State) (g k : Nat) (u : Tile) : State := { s.tick with saved := s.saved.erase k }.setTile g u

/-- The end of a resumption: the context's entry loaded, the restore charged, the frame returned. -/
def State.resettle (s : State) (g x n : Nat) : State := ((s.loadEntry g x).charge g 15 n).returnFrame g

theorem State.resettles_resettle (s : State) (g x n : Nat) : State.Resettles g s (s.resettle g x n) :=
  ((s.resettles_loadEntry g x).trans (State.resettles_charge _ g 15 n)).trans (State.resettles_returnFrame _ g)

/-- The clock in which a saved task resumes (R343). -/
def State.resumeAt (s : State) (v : Saved) : Nat :=
  s.now + 1 + (if v.pool.isSome then Config.freeLatency s.fresh % 21600 else Config.freeLatency s.fresh)

theorem State.resumeAt_le {s : State} {v : Saved} (hpool : v.pool.isSome = true) : s.resumeAt v ≤ s.now + 21600 := by
  have := Nat.mod_lt (Config.freeLatency s.fresh) (show 0 < 21600 by decide)
  rw [State.resumeAt, if_pos hpool]
  omega

section
variable {s : State} {g k : Nat} {v : Saved} {c : Ctx} {card : Card}

/-- A dealt saved task resumes on its tile, unless its frame is poisoned. -/
theorem State.resumption_runs (hfound : Store.find s.saved k = some v) (hdealt : v.dealt = some g)
    (hidle : (s.tile g).task.live = false) (hserve : (s.tile g).inService = true) (hctx : s.ctx v.tile.task.ctx = some c)
    (hcard : s.card v.tile.task.card = some card) (haway : s.accsElsewhere g k = [])
    (hsound : v.pool = none → s.framePoisoned (frameAddr c v.frame 0) v.tile.task = false) :
    ∃ t, exec (.taskResumption g k) s = .next t ∧ Store.find t.saved k = none ∧
      ((s.tile g).restored (s.savedAs c v) (c.windowsOf card) s.now (s.resumeAt v)).Resettled (t.tile g) := by
  have hpoison : ¬ (v.pool.isNone = true ∧ s.framePoisoned (frameAddr c v.frame 0) v.tile.task = true) := by
    rintro ⟨hpool, hbad⟩
    rw [hsound (Option.isNone_iff_eq_none.1 hpool)] at hbad
    cases hbad
  have hgo : ¬ (v.dealt ≠ some g ∨ (s.tile g).task.live = true ∨ (s.tile g).inService = false) := by
    simp [hdealt, hidle, hserve]
  have hrun : exec (.taskResumption g k) s = .next
      ((s.unsave g k ((s.tile g).restored (s.savedAs c v) (c.windowsOf card) s.now (s.resumeAt v))).resettle g
        (s.savedAs c v).tile.task.ctx (s.savedAs c v).tile.frameCount) := by
    change execTaskResumption g k s = _
    unfold execTaskResumption
    rw [hfound]
    dsimp only
    rw [if_neg hgo, hctx, hcard]
    dsimp only
    rw [if_neg (not_not_intro haway), if_neg hpoison]
    rfl
  have hsettle := State.resettles_resettle (s.unsave g k ((s.tile g).restored (s.savedAs c v) (c.windowsOf card) s.now
    (s.resumeAt v))) g (s.savedAs c v).tile.task.ctx (s.savedAs c v).tile.frameCount
  refine ⟨_, hrun, ?_, ?_⟩
  · rw [hsettle.saved]
    exact Store.find_erase_same ..
  · have htile := hsettle.tile
    rwa [State.unsave, State.tile_setTile_same] at htile

/-- A dealt saved task whose frame is poisoned is discarded. -/
theorem State.resumption_poisoned (hfound : Store.find s.saved k = some v) (hdealt : v.dealt = some g)
    (hidle : (s.tile g).task.live = false) (hserve : (s.tile g).inService = true) (hctx : s.ctx v.tile.task.ctx = some c)
    (hcard : s.card v.tile.task.card = some card) (haway : s.accsElsewhere g k = []) (hpool : v.pool = none)
    (hbad : s.framePoisoned (frameAddr c v.frame 0) v.tile.task = true) :
    ∃ t, exec (.taskResumption g k) s = .next t ∧ Store.find t.saved k = none ∧ (t.tile g).task.live = false := by
  have hgo : ¬ (v.dealt ≠ some g ∨ (s.tile g).task.live = true ∨ (s.tile g).inService = false) := by
    simp [hdealt, hidle, hserve]
  have hrun : exec (.taskResumption g k) s = .next (s.discardSaved k none) := by
    change execTaskResumption g k s = _
    unfold execTaskResumption
    rw [hfound]
    dsimp only
    rw [if_neg hgo, hctx, hcard]
    dsimp only
    rw [if_neg (not_not_intro haway), if_pos ⟨Option.isNone_iff_eq_none.2 hpool, hbad⟩]
  obtain ⟨hgone, hlive⟩ := s.discardSaved_gone k none
  exact ⟨_, hrun, hgone, (hlive g).trans hidle⟩

end

end Sys2Proof.Machine

/-!
Save and resumption
-/

namespace Sys2Proof.Machine

open Host (Outcome)

/-- A tile as its frame, from `base` on, gives it. -/
def Tile.reread (t : Tile) (h : Memory) (base : Nat) : Tile := t.fromFrame (Memory.part h base (2 ^ 21))

/-- The head of a frame. -/
def frameHead (h : Memory) (base : Nat) : Memory := (Memory.part h base (2 ^ 21)).filter fun e => decide (e.1 < 3264)

theorem Tile.reread_core (t : Tile) (h : Memory) (base : Nat) (c : CoreId) :
    (t.reread h base).core c = (t.core c).fromFrame (frameHead h base) (corePlace c) := by
  cases c <;> rfl

theorem Core.pc_fromFrame (k : Core) (m : Memory) (i : Nat) :
    (k.fromFrame m i).pc = BitVec.ofNat 64 (Memory.num m (960 + 128 * i + 8 * 0) 8) := rfl

theorem Tile.recIndex_reread (t : Tile) (h : Memory) (base : Nat) :
    (t.reread h base).task.recIndex = BitVec.ofNat 64 (Memory.num h (base + 8) 8) := by
  have hread : (t.reread h base).task.recIndex = BitVec.ofNat 64 (Memory.num (frameHead h base) 8 8) := rfl
  rw [hread, frameHead, Memory.num_frameHead _ _ (by decide)]

/-- What a resumption from a frame gives a core (R340, R343). -/
theorem Tile.restored_reread_core {t u : Tile} {v : Saved} {h : Memory} {base : Nat} {ws : Store (BitVec 128)}
    {now first : Nat} (hset : (t.restored { v with tile := v.tile.reread h base } ws now first).Resettled u) (c : CoreId) :
    (∀ r, 0 < r → r < 32 → (u.core c).reg r = BitVec.ofNat 64 (Memory.num h (base + (192 + 256 * corePlace c + 8 * r)) 8)) ∧
    (u.core c).pc = BitVec.ofNat 64 (Memory.num h (base + (960 + 128 * corePlace c)) 8) ∧
    (Memory.num h (base + 33) 1 / 2 ^ (2 * corePlace c) % 4 ∈ [1, 2] → (u.core c).run = .running) ∧
    (Memory.num h (base + 33) 1 / 2 ^ (2 * corePlace c) % 4 = 0 → (u.core c).run = .idle) := by
  obtain ⟨empty, hcore⟩ := t.restored_core { v with tile := v.tile.reread h base } ws now first c
  have hu : u.core c = ((v.tile.core c).fromFrame (frameHead h base) (corePlace c)).resumed first empty := by
    rw [hset.core, hcore, Tile.reread_core]
  have hplace : corePlace c < 3 := by cases c <;> decide
  have hcode : Memory.num (frameHead h base) 33 1 = Memory.num h (base + 33) 1 := Memory.num_frameHead _ _ (by decide)
  obtain ⟨hgo, hidle⟩ := Core.run_resumed_fromFrame (v.tile.core c) (frameHead h base) (corePlace c) first empty
  rw [hcode] at hgo hidle
  rw [hu]
  refine ⟨fun r hpos hr => ?_, ?_, hgo, hidle⟩
  · rw [Core.reg_resumed, Core.reg_fromFrame _ _ _ hpos hr, frameHead, Memory.num_frameHead _ _ (by omega)]
  · refine (Core.pc_fromFrame (v.tile.core c) ..).trans ?_
    rw [frameHead, Memory.num_frameHead _ _ (by omega)]
    rfl

theorem Tile.restored_task {t o u : Tile} {v : Saved} {ws : Store (BitVec 128)} {now first : Nat}
    (hset : (t.restored { v with tile := o } ws now first).Resettled u) :
    u.task.recIndex = o.task.recIndex ∧ u.task.live = o.task.live ∧ u.scratch = o.scratch ∧
      ∀ l, u.task.keepsLine l = o.task.keepsLine l := by
  rw [hset]
  exact ⟨rfl, rfl, rfl, fun _ => rfl⟩

theorem Tile.live_reread (t : Tile) (h : Memory) (base : Nat) : (t.reread h base).task.live = t.task.live := by
  unfold Tile.reread Tile.fromFrame
  dsimp only

/-- Where the cores of a task stand in a frame: registers, program counters and state codes (R340). -/
theorem coresOfFrame_places :
    ∀ e ∈ ([(CoreId.L, 3, 15, 0), (.X, 7, 17, 2), (.S, 11, 19, 4)] : List (CoreId × Nat × Nat × Nat)),
      e.2.1 = 3 + 4 * corePlace e.1 ∧ e.2.2.1 = 15 + 2 * corePlace e.1 ∧ e.2.2.2 = 2 * corePlace e.1 := by decide

/-- A parked task's frame holds what R340 puts there. -/
theorem State.frame_holds (s : State) (c : Ctx) (f kind : Nat) (t : Tile) (fault : U64) :
    let h := (s.writeFrame c f t kind fault).hbm
    Memory.num h (frameAddr c f 0 + 8) 8 = t.task.recIndex.toNat ∧
    (∀ e ∈ ([(CoreId.L, 3, 15), (.X, 7, 17), (.S, 11, 19)] : List (CoreId × Nat × Nat)),
      (∀ r, r < 32 → Memory.num h (frameAddr c f e.2.1 + 8 * r) 8 = ((t.core e.1).reg r).toNat) ∧
      Memory.num h (frameAddr c f e.2.2) 8 = (t.core e.1).pc.toNat) ∧
    ∀ l, l < 5115 → t.task.keepsLine l = true → Memory.bytes h (frameAddr c f (1808 + l)) 64 = t.line (l : Nat) := by
  refine ⟨State.frame_recIndex, fun e he => ?_, fun l hl hkept => State.frame_line hl hkept⟩
  simp only [List.mem_cons, List.not_mem_nil, or_false] at he
  rcases he with rfl | rfl | rfl
  · exact ⟨fun r hr => State.frame_reg .L hr, State.frame_pc .L⟩
  · exact ⟨fun r hr => State.frame_reg .X hr, State.frame_pc .X⟩
  · exact ⟨fun r hr => State.frame_reg .S hr, State.frame_pc .S⟩

theorem Core.run_resumed {k : Core} (h : k.run.kept = .running ∨ k.run.kept = .waiting) (first : Nat) (empty : Bool) :
    (k.resumed first empty).run = .running := by
  rcases h with h | h
  · simp only [Core.resumed, h]
  · simp only [Core.resumed, h]

/-- Settles O38. -/
theorem saveAndResume : Obligations.SaveAndResume := by
  unfold Obligations.SaveAndResume
  refine ⟨fun s g f park c hstop hctx hmay hframe => ?_,
    fun s g k v c card hfound hdealt hidle hserve hctx hcard haway hlive => ⟨fun hpool => ?_, fun hpool hsound => ?_,
      fun hpool hbad => ?_⟩⟩
  · obtain ⟨t, v, hrun, hgone, hxidle, hsaved, hvframe, hkind, hl, hx, hs, hv, hdealt, hhbm⟩ :=
      State.save_runs hstop hctx hmay hframe
    refine ⟨t, v, hrun, hgone, hxidle, hsaved, hvframe, hkind, by rw [hx]; rfl, by rw [hx]; rfl, by rw [hl]; rfl,
      by rw [hs]; rfl, hv, hdealt, fun hpark => ?_⟩
    obtain ⟨kind, fault, hbytes⟩ := hhbm hpark
    rw [hbytes]
    exact (s.toSave g f c).frame_holds c f kind (s.tile g) fault
  · obtain ⟨t, hrun, hgone, hset⟩ := State.resumption_runs hfound hdealt hidle hserve hctx hcard haway
      fun hnone => by rw [hnone] at hpool; cases hpool
    rw [State.savedAs, if_pos hpool] at hset
    refine ⟨t, hrun, hgone, ?_⟩
    rw [hset]
    exact ⟨hlive, rfl, rfl, rfl, rfl, rfl, rfl, rfl, rfl, fun h => Core.run_resumed h _ _, State.resumeAt_le hpool⟩
  · obtain ⟨t, hrun, hgone, hset⟩ := State.resumption_runs hfound hdealt hidle hserve hctx hcard haway fun _ => hsound
    rw [State.savedAs, if_neg (by rw [hpool]; exact Bool.false_ne_true)] at hset
    have hread : ({ v with tile := v.tile.fromFrame (Memory.part s.hbm (frameAddr c v.frame 0) (2 ^ 21)) } : Saved) =
        { v with tile := v.tile.reread s.hbm (frameAddr c v.frame 0) } := rfl
    rw [hread] at hset
    obtain ⟨hrec, hlives, hscratch, hkeeps⟩ := Tile.restored_task hset
    refine ⟨t, hrun, hgone, hlives.trans ((Tile.live_reread ..).trans hlive), hrec.trans (Tile.recIndex_reread ..), fun e he => ?_, fun a ha hkept => ?_⟩
    · obtain ⟨hregs, hcsrs, hbits⟩ := coresOfFrame_places e he
      obtain ⟨hreg, hpc, hruns, hidles⟩ := Tile.restored_reread_core hset e.1
      rw [hregs, hcsrs, hbits]
      refine ⟨fun r hpos hr => (hreg r hpos hr).trans ?_, hpc.trans ?_, hruns, hidles⟩
      · rw [frameAddr_eq c v.frame (3 + _)]
        exact congrArg (fun a => BitVec.ofNat 64 (Memory.num s.hbm a 8)) (by omega)
      · rw [frameAddr_eq c v.frame (15 + _)]
        exact congrArg (fun a => BitVec.ofNat 64 (Memory.num s.hbm a 8)) (by omega)
    · rw [hscratch]
      rw [hkeeps] at hkept
      refine (v.tile.byte_fromFrame s.hbm (frameAddr c v.frame 0) a ha hkept).trans ?_
      rw [frameAddr_eq c v.frame 1808]
  · exact State.resumption_poisoned hfound hdealt hidle hserve hctx hcard haway hpool hbad

end Sys2Proof.Machine

/-!
Replies to peers and from them (R353 to R356)
-/

namespace Sys2Proof.Machine

open Host (Outcome)

/-! Replies to peers (R353, R354). -/

theorem State.emitFlits_single (s : State) (port hdr : Nat) {payload : List Byte} (h : payload.length ≤ 120) :
    s.emitFlits port hdr payload = s.emit (.peer port (BitVec.ofNat 64 hdr) (payload ++ List.replicate (120 - payload.length) 0)) := by
  have hone : max 1 ((payload.length + 119) / 120) = 1 := by omega
  unfold State.emitFlits
  rw [hone]
  have hpart : (payload.drop (120 * 0)).take 120 = payload := List.take_of_length_le h
  dsimp only
  rw [List.range_one, List.foldl_cons, List.foldl_nil]
  rw [hpart, Nat.sub_self, Nat.zero_mul, Nat.add_zero]

/-- The header of a reply: class 1 and its kind, the peer's number, its tag, and no flit to follow. -/
theorem State.reply_single (s : State) (port src tag : Nat) {kind : Nat} (hkind : kind < 16) {payload : List Byte}
    (h : payload.length ≤ 120) :
    ∃ hdr : U64, s.reply port src tag kind payload = s.emit (.peer port hdr (payload ++ List.replicate (120 - payload.length) 0)) ∧
      hdr.toNat / 2 ^ 58 = 16 + kind ∧ hdr.toNat / 2 ^ 50 % 2 ^ 8 = src % 2 ^ 8 ∧ hdr.toNat / 2 ^ 30 % 2 ^ 12 = tag % 2 ^ 12 ∧
      hdr.toNat / 2 ^ 24 % 2 ^ 6 = 0 := by
  refine ⟨_, State.emitFlits_single s port _ h, ?_⟩
  rw [BitVec.toNat_ofNat]
  omega

/-! Lines of messages. -/

theorem messageLines_single {bs : List Byte} (h : bs.length = 64) : messageLines bs = [(0, bs)] := by
  have hpart : (bs.drop (64 * 0)).take 64 = bs := List.take_of_length_le (Nat.le_of_eq h)
  rw [messageLines, h, List.range_one, List.map_singleton, hpart]

theorem messageLines_cons {bs : List Byte} (h : bs ≠ []) : ∃ b rest, messageLines bs = (0, b) :: rest := by
  have hpos := List.length_pos_iff.2 h
  obtain ⟨n, hn⟩ : ∃ n, (bs.length + 63) / 64 = n + 1 := ⟨(bs.length + 63) / 64 - 1, by omega⟩
  exact ⟨bs.take 64, _, by rw [messageLines, hn, List.range_succ_eq_map]; rfl⟩

/-! What a counted request leaves. -/

theorem State.countFrom_links (s : State) (die x ia : Nat) (nc : Bool) :
    (s.countFrom die x ia nc).tiles = s.tiles ∧ (s.countFrom die x ia nc).host = s.host ∧
      (s.countFrom die x ia nc).hostAcks = s.hostAcks ∧ (s.countFrom die x ia nc).out = s.out ∧
      (s.countFrom die x ia nc).dev = s.dev := by
  unfold State.countFrom
  dsimp only
  repeat' split
  all_goals exact ⟨rfl, rfl, rfl, rfl, rfl⟩

section
variable {s : State} {by_ : HostWriter} {port src a x ia pa : Nat} {bs : List Byte}

theorem State.inboundLines_write (hwin : s.inbound src a true = some (x, ia)) (hregion : regionOf ia = 0)
    (hbits : bitsAt ia 40 8 = 0) (hreach : (s.countFrom (portDie port) x ia false).reach x [] ia = .hbm pa) :
    s.inboundLines by_ port src a true [(0, bs)] = ((s.countFrom (portDie port) x ia false).writePhys pa bs, [], true) := by
  have hat : s.inboundAt by_ port x ia bs.length (some bs) =
      some ((s.countFrom (portDie port) x ia false).writePhys pa bs, []) := by
    unfold State.inboundAt
    rw [hregion]
    dsimp only
    rw [if_neg (not_not_intro hbits), hreach]
    rfl
  simp only [State.inboundLines, Nat.add_zero, hwin, if_pos, hat, List.append_nil]

theorem State.inboundLines_read (hwin : s.inbound src a false = some (x, ia)) (hregion : regionOf ia = 0)
    (hbits : bitsAt ia 40 8 = 0) (hreach : (s.countFrom (portDie port) x ia false).reach x [] ia = .hbm pa) {zs : List Byte}
    (hread : (s.countFrom (portDie port) x ia false).readPhys pa zs.length = some bs) :
    s.inboundLines by_ port src a false [(0, zs)] = (s.countFrom (portDie port) x ia false, bs, true) := by
  have hat : s.inboundAt by_ port x ia zs.length none = some (s.countFrom (portDie port) x ia false, bs) := by
    unfold State.inboundAt
    rw [hregion]
    dsimp only
    rw [if_neg (not_not_intro hbits), hreach]
    dsimp only
    rw [hread]
    rfl
  simp only [State.inboundLines, Nat.add_zero, hwin, hat, List.append_nil, Bool.false_eq_true, if_false]

theorem State.inboundLines_refused {wr : Bool} (hwin : s.inbound src a wr = none) (ls : List (Nat × List Byte)) (b : List Byte) :
    s.inboundLines by_ port src a wr ((0, b) :: ls) = (s, [], false) := by
  simp only [State.inboundLines, Nat.add_zero, hwin]

end

theorem State.length_readPhys {s : State} {pa n : Nat} {bs : List Byte} (h : s.readPhys pa n = some bs) : bs.length = n := by
  unfold State.readPhys at h
  split at h
  · cases h
  · cases h
    exact Memory.length_bytes ..

theorem peerWrite_answers {s : State} {port src tag a x ia pa : Nat} {bs : List Byte} (hlen : bs.length = 64)
    (hwin : s.inbound src a true = some (x, ia)) (hup : port ∉ s.downPorts) (hnew : .peer port src tag ∉ s.hostAcks)
    (hregion : regionOf ia = 0) (hbits : bitsAt ia 40 8 = 0)
    (hreach : (s.countFrom (portDie port) x ia false).reach x [] ia = .hbm pa) :
    exec (.peerWrite port src tag a bs) s =
      .next (((s.countFrom (portDie port) x ia false).writePhys pa bs).reply port src tag 0 []) := by
  obtain ⟨-, -, hcounted, -, -⟩ := s.countFrom_links (portDie port) x ia false
  have hacks : ((s.countFrom (portDie port) x ia false).writePhys pa bs).hostAcks = s.hostAcks := hcounted
  have hacked : ¬ ((s.countFrom (portDie port) x ia false).writePhys pa bs).hostAcks.contains (.peer port src tag) = true := by
    rw [hacks, List.contains_iff_mem]
    exact hnew
  change execPeerWrite port src tag a bs s = _
  unfold execPeerWrite
  rw [if_neg (by rwa [List.contains_iff_mem]), messageLines_single hlen]
  dsimp only
  rw [State.inboundLines_write hwin hregion hbits hreach]
  exact (if_pos rfl).trans (congrArg Outcome.next (if_neg hacked))

theorem peerRead_answers {s : State} {port src tag a x ia pa : Nat} {bs : List Byte}
    (hwin : s.inbound src a false = some (x, ia)) (hup : port ∉ s.downPorts)
    (hregion : regionOf ia = 0) (hbits : bitsAt ia 40 8 = 0)
    (hreach : (s.countFrom (portDie port) x ia false).reach x [] ia = .hbm pa)
    (hread : (s.countFrom (portDie port) x ia false).readPhys pa 64 = some bs) :
    exec (.peerRead port src tag a 64) s = .next ((s.countFrom (portDie port) x ia false).reply port src tag 1 bs) := by
  have hzeros : (List.replicate 64 (0 : Byte)).length = 64 := List.length_replicate
  change execPeerRead port src tag a 64 s = _
  unfold execPeerRead
  rw [if_neg (by rwa [List.contains_iff_mem]), messageLines_single hzeros]
  dsimp only
  rw [State.inboundLines_read hwin hregion hbits hreach (by rwa [hzeros])]
  exact congrArg Outcome.next (if_pos rfl)

theorem peerWrite_refused {s : State} {port src tag a : Nat} {bs : List Byte} (hsome : bs ≠ []) (hup : port ∉ s.downPorts)
    (hnew : .peer port src tag ∉ s.hostAcks) (hwin : s.inbound src a true = none) :
    exec (.peerWrite port src tag a bs) s = .next (s.reply port src tag 2 []) := by
  obtain ⟨b, rest, hlines⟩ := messageLines_cons hsome
  have hacks : s.hostAcks.map (fun h => if h = .peer port src tag then .hub else h) = s.hostAcks := by
    refine (List.map_congr_left fun h hmem => if_neg ?_).trans (List.map_id' _)
    rintro rfl
    exact hnew hmem
  change execPeerWrite port src tag a bs s = _
  unfold execPeerWrite
  rw [if_neg (by rwa [List.contains_iff_mem]), hlines]
  dsimp only
  rw [State.inboundLines_refused hwin]
  dsimp only
  rw [hacks]
  exact if_neg Bool.false_ne_true

theorem peerRead_refused {s : State} {port src tag a n : Nat} (hsome : 0 < n) (hup : port ∉ s.downPorts)
    (hwin : s.inbound src a false = none) :
    exec (.peerRead port src tag a n) s = .next (s.reply port src tag 2 []) := by
  obtain ⟨b, rest, hlines⟩ := messageLines_cons (bs := List.replicate n 0) (by simp [hsome.ne'])
  change execPeerRead port src tag a n s = _
  unfold execPeerRead
  rw [if_neg (by rwa [List.contains_iff_mem]), hlines]
  dsimp only
  rw [State.inboundLines_refused hwin]
  exact congrArg Outcome.next (if_neg Bool.false_ne_true)

/-! Replies from peers (R355, R356). -/

theorem State.core_setCore_same (s : State) (w : Who) (k : Core) : (s.setCore w k).core w = k := by
  rw [State.core, State.setCore, State.tile_setTile_same, Tile.core_setCore_same]

theorem SameBytes.setTile {s t : State} {g : Nat} {u : Tile} (h : SameBytes s t) (hu : u.scratch = (t.tile g).scratch) :
    SameBytes s (t.setTile g u) := by
  obtain ⟨hhbm, hhost, hscratch⟩ := h
  refine ⟨hhbm, hhost, fun k a => ?_⟩
  rw [State.tile_setTile]
  split
  · next hk => rw [hu, ← hk, hscratch]
  · exact hscratch k a

theorem SameBytes.setCore {s t : State} (h : SameBytes s t) (w : Who) (k : Core) : SameBytes s (t.setCore w k) := by
  refine h.setTile ?_
  cases w.core <;> rfl

theorem State.Charged.sameBytes {s t : State} (h : s.Charged t) : SameBytes s t :=
  ⟨fun _ => by rw [h.hbm], fun _ => by rw [h.host], fun g _ => by rw [h.scratch g]⟩

theorem State.peers_charge (s : State) (g cls n : Nat) : (s.charge g cls n).peers = s.peers := by
  unfold State.charge
  dsimp only
  repeat' split
  all_goals rfl

theorem State.replyWord_answers {s : State} {r : PeerReq} {gl : Glob} (hglob : (s.core ⟨r.tile, r.core⟩).glob = some gl)
    (kind : Nat) (bs : List Byte) :
    (s.replyWord r kind bs).peers = s.peers ∧ SameBytes s (s.replyWord r kind bs) ∧
      ((s.replyWord r kind bs).core ⟨r.tile, r.core⟩).glob = some { gl with
        reply := if kind = 2 then .fault 0x06 else .done (BitVec.ofNat 64 (leNat (bs.take 8))) } := by
  have heq : s.replyWord r kind bs = (if kind = 2 then s else s.charge r.tile 13 1).setCore ⟨r.tile, r.core⟩
      { s.core ⟨r.tile, r.core⟩ with glob := some { gl with
        reply := if kind = 2 then .fault 0x06 else .done (BitVec.ofNat 64 (leNat (bs.take 8))) } } := by
    unfold State.replyWord
    dsimp only
    rw [hglob]
  have hcharge : (if kind = 2 then s else s.charge r.tile 13 1).peers = s.peers ∧
      SameBytes s (if kind = 2 then s else s.charge r.tile 13 1) := by
    split
    · exact ⟨rfl, .refl s⟩
    · exact ⟨s.peers_charge .., (s.charged_charge ..).sameBytes⟩
  obtain ⟨hpeers, hsame⟩ := hcharge
  rw [heq, State.core_setCore_same]
  exact ⟨hpeers, hsame.setCore .., rfl⟩

theorem peerReply_word {s : State} {r : PeerReq} {gl : Glob} (hpeers : s.peers = [r]) (hfifo : r.fifo = none)
    (hglob : (s.core ⟨r.tile, r.core⟩).glob = some gl) (hgood : s.datumTile r.tile = false ∨ r.replays < 2) (kind : Nat)
    (bs : List Byte) :
    ∃ t, exec (.peerReply r.port r.tag kind bs) s = .next t ∧ t.peers = [] ∧ SameBytes s t ∧
      (t.core ⟨r.tile, r.core⟩).glob = some { gl with
        reply := if kind = 2 then .fault 0x06 else .done (BitVec.ofNat 64 (leNat (bs.take 8))) } := by
  have hkept : ¬ (s.datumTile r.tile = true ∧ 2 ≤ r.replays) := by
    rintro ⟨hdatum, htwice⟩
    rcases hgood with hfree | honce
    · rw [hdatum] at hfree; cases hfree
    · omega
  have hfind : s.peers.find? (fun q => q.port == r.port && q.tag == r.tag) = some r := by
    rw [hpeers]
    simp
  have herase : s.peers.erase r = [] := by rw [hpeers, List.erase_cons_head]
  have hrun : exec (.peerReply r.port r.tag kind bs) s = .next (({ s with peers := [] } : State).replyWord r kind bs) := by
    change execPeerReply r.port r.tag kind bs s = _
    unfold execPeerReply
    rw [hfind]
    dsimp only
    rw [if_neg hkept, hfifo, herase]
  obtain ⟨hnone, hsame, hreply⟩ := State.replyWord_answers (s := { s with peers := [] }) (r := r) (gl := gl) hglob kind bs
  exact ⟨_, hrun, hnone, hsame, hreply⟩

theorem peerReply_twiceReplayed {s : State} {r : PeerReq} (hpeers : s.peers = [r]) (hdatum : s.datumTile r.tile = true)
    (htwice : 2 ≤ r.replays) (kind : Nat) (bs : List Byte) : exec (.peerReply r.port r.tag kind bs) s = .next s := by
  have hfind : s.peers.find? (fun q => q.port == r.port && q.tag == r.tag) = some r := by
    rw [hpeers]
    simp
  change execPeerReply r.port r.tag kind bs s = _
  unfold execPeerReply
  rw [hfind]
  exact if_pos ⟨hdatum, htwice⟩

/-! Counts. -/

theorem State.get_countUp (s : State) (k : Nat) :
    Store.get 0 (s.countUp k).counts k = min (Store.get 0 s.counts k + 1) (2 ^ 64 - 1) := Store.get_set_same ..

theorem controlFlit_counts (s : State) (port : Nat) (hdr : U64) :
    ∃ t, exec (.controlFlit port hdr) s = .next t ∧ SameBytes s t ∧
      (hdr.toNat / 2 ^ 62 = 3 → Store.get 0 t.counts port = min (Store.get 0 s.counts port + 1) (2 ^ 64 - 1)) ∧
      (hdr.toNat / 2 ^ 62 ≠ 3 → t = s) := by
  have hclass : bitsAt hdr.toNat 62 2 = hdr.toNat / 2 ^ 62 := by
    have := hdr.isLt
    unfold bitsAt
    omega
  change ∃ t, execControlFlit port hdr s = .next t ∧ _
  unfold execControlFlit
  rw [hclass]
  by_cases h : hdr.toNat / 2 ^ 62 = 3
  · rw [if_pos h]
    exact ⟨_, rfl, .refl s, fun _ => s.get_countUp port, fun hne => absurd h hne⟩
  · rw [if_neg h]
    exact ⟨_, rfl, .refl s, fun heq => absurd heq h, fun _ => rfl⟩

end Sys2Proof.Machine

/-!
Frames that arrive (R358 to R360)
-/

namespace Sys2Proof.Machine

open Host (Outcome)

/-! Frames that arrive (R358 to R360). -/

theorem State.devCount_get (s : State) (off : Nat) :
    ((s.devCount off 64).devGet off).toNat = min ((s.devGet off).toNat + 1) (2 ^ 64 - 1) := by
  rw [State.devCount, State.devGet_devSet_same, BitVec.toNat_ofNat]
  exact Nat.mod_eq_of_lt (by omega)

theorem State.devGet_devCount_ne (s : State) {off off' : Nat} (h : off' ≠ off) : (s.devCount off 64).devGet off' = s.devGet off' :=
  s.devGet_devSet_ne _ h

/-- The state in which a frame of flow `f` has been counted. -/
def State.countFlow (s : State) (f : Nat) : State := { s with flowSeq := Store.put s.flowSeq f (Store.get 0 s.flowSeq f + 1) }

section
variable {s : State} {port : Nat} {bs : List Byte}

theorem portOpen (hport : port < 2) (hup : 128 + port ∉ s.downPorts) :
    ¬ (2 ≤ port ∨ s.downPorts.contains (128 + port) = true) := by
  rw [List.contains_iff_mem]
  rintro (h | h)
  · omega
  · exact hup h

theorem frameReceive_damaged {ok : Bool} (hport : port < 2) (hup : 128 + port ∉ s.downPorts)
    (hbad : ok = false ∨ bs.length < 60 ∨ 9216 < bs.length) :
    exec (.frameReceive port ok bs) s = .next (s.devCount (0x6000000 + 0x100 * port + (if ok then 8 else 0)) 64) := by
  change execFrameReceive port ok bs s = _
  unfold execFrameReceive
  dsimp only
  rw [if_neg (portOpen hport hup)]
  cases ok with
  | false => rfl
  | true =>
    have hlen : bs.length < 60 ∨ 9216 < bs.length := hbad.resolve_left Bool.true_eq_false.mp
    exact (if_neg Bool.true_eq_false.mp).trans (if_pos hlen)

/-- A frame that no flow takes goes to the host (R359). -/
theorem frameReceive_toHost (hport : port < 2) (hup : 128 + port ∉ s.downPorts) (hlong : 60 ≤ bs.length)
    (hshort : bs.length ≤ 9216) (htype : frameType bs ≠ 0x8808) (hflow : s.flowOf port bs = none) :
    exec (.frameReceive port true bs) s = .next (((s.devCount (0x6000000 + 0x100 * port + 24) 64).tick.toHost port
      (bitsAt (Config.freeValue s.fresh).toNat 0 10) (Config.freeValue (s.fresh + 1)).toNat bs).tick) := by
  change execFrameReceive port true bs s = _
  unfold execFrameReceive
  dsimp only
  refine (if_neg (portOpen hport hup)).trans ((if_neg Bool.true_eq_false.mp).trans ((if_neg (by omega)).trans
    ((if_neg htype).trans ?_)))
  rw [hflow]
  rfl

/-- The ring that a flow's entry, or its tile's arming, binds the flow to. -/
def Tile.boundTo (t : Tile) (e f : Nat) : Option Nat :=
  if bit e 123 = 1 then some (bitsAt e 120 3) else (t.armed.find? fun b => b.1 == f).map fun b => b.2

/-- The slot that a frame may claim of a tile's ring. To see that this is `State.claimable` the kernel must not evaluate the
ring, which would count through the product in `State.flowEntry`: so the definition is built on the same match and on
`State.boundRing`, and the two unfold together. -/
def Tile.slotToClaim (t : Tile) (now : Nat) (ring : Option Nat) : Option (Nat × Nat) :=
  have _ := @State.boundRing
  State.translate.match_1 (fun _ => Option (Nat × Nat)) ring (fun _ => none) fun n =>
    have r := t.ring n
    if t.task.live && r.isSet && decide (2 ≤ r.lps) && t.tailEmpty n && decide (0 < (t.queue 5).places now) then some (n, r.t)
    else none

theorem State.boundRing_eq (s : State) (f : Nat) :
    s.boundRing f = (s.tile (bitsAt (s.flowEntry f) 110 10)).boundTo (s.flowEntry f) f := rfl

theorem State.claimable_eq (s : State) (f : Nat) :
    s.claimable f = (s.tile (bitsAt (s.flowEntry f) 110 10)).slotToClaim s.now (s.boundRing f) := rfl

theorem State.flowEntry_congr {s t : State} (hdev : t.dev = s.dev) (f : Nat) : t.flowEntry f = s.flowEntry f := by
  rw [State.flowEntry, State.flowEntry, State.devGet, State.devGet, hdev]
  rfl

theorem State.claimable_congr {s t : State} (htiles : t.tiles = s.tiles) (hdev : t.dev = s.dev) (hnow : t.now = s.now) (f : Nat) :
    t.claimable f = s.claimable f := by
  have htile : ∀ g, t.tile g = s.tile g := fun g => by rw [State.tile, htiles]; rfl
  rw [State.claimable_eq, State.claimable_eq, State.boundRing_eq, State.boundRing_eq, State.flowEntry_congr hdev, htile, hnow]

/-- A frame whose flow is bound to a ring with an empty tail slot claims it. -/
theorem frameReceive_claims {f n slot : Nat} (hport : port < 2) (hup : 128 + port ∉ s.downPorts) (hlong : 60 ≤ bs.length)
    (hshort : bs.length ≤ 9216) (htype : frameType bs ≠ 0x8808) (hflow : s.flowOf port bs = some f)
    (hring : bit (s.flowEntry f) 124 = 0) (hclaim : s.claimable f = some (n, slot)) :
    exec (.frameReceive port true bs) s =
      .next ((s.countFlow f).claim (bitsAt (s.flowEntry f) 110 10) n slot f (Store.get 0 s.flowSeq f) port bs) := by
  have hcounted := (State.claimable_congr (s := s) (t := { s with flowSeq := Store.put s.flowSeq f (Store.get 0 s.flowSeq f + 1) })
    rfl rfl rfl f).trans hclaim
  change execFrameReceive port true bs s = _
  unfold execFrameReceive
  dsimp only
  refine (if_neg (portOpen hport hup)).trans ((if_neg Bool.true_eq_false.mp).trans ((if_neg (by omega)).trans
    ((if_neg htype).trans ?_)))
  rw [hflow]
  dsimp only
  rw [if_neg (by rw [hring]; decide), hcounted]
  rfl

/-- A frame that the host receive ring has room for. -/
theorem State.toHost_room (flow seq : Nat)
    (hroom : ((s.devGet 0x3110).toNat + 2 ^ 64 - (s.devGet 0x3108).toNat) % 2 ^ 64 < 1024) :
    let t := s.toHost port flow seq bs
    t.tiles = s.tiles ∧ t.hbm = s.hbm ∧ t.devGet 0x3110 = s.devGet 0x3110 + 1 ∧ t.devGet 0x3118 = s.devGet 0x3118 ∧
      Memory.bytes t.host (((s.devGet 0x3100).toNat + (s.devGet 0x3110).toNat % 1024 * 10240) % 2 ^ 48 + 64) bs.length = bs := by
  intro t
  have ht : t = ((s.writeReach .hub (.host (hostEntry (s.devGet 0x3100).toNat (s.devGet 0x3110).toNat))
      (leBytes 64 (trailer s.tai s.now seq bs.length flow port 0) ++ bs)).devSet 0x3110
      (BitVec.ofNat 64 ((s.devGet 0x3110).toNat + 1))) := if_pos hroom
  clear_value t
  subst ht
  refine ⟨rfl, rfl, ?_, State.devGet_devSet_ne _ _ (by decide), ?_⟩
  · rw [State.devGet_devSet_same, BitVec.ofNat_add, BitVec.ofNat_toNat, BitVec.setWidth_eq]
    rfl
  · have hhost : ∀ (u : State) (a : Nat) (cs : List Byte) (v : U64),
        ((u.writeReach .hub (.host a) cs).devSet 0x3110 v).host = Memory.setBytes u.host a cs := fun _ _ _ _ => rfl
    rw [hhost, hostEntry]
    rw [Memory.setBytes_append, leBytes_length]
    exact Memory.bytes_setBytes ..

theorem State.toHost_full (flow seq : Nat)
    (hfull : 1024 ≤ ((s.devGet 0x3110).toNat + 2 ^ 64 - (s.devGet 0x3108).toNat) % 2 ^ 64) :
    s.toHost port flow seq bs = s.devCount 0x3118 64 := if_neg (by omega)

end

/-! A claim. -/

theorem State.tile_charge_same (s : State) (g cls n : Nat) :
    ∃ c, (s.charge g cls n).tile g = { s.tile g with charges := c } := by
  unfold State.charge
  dsimp only
  split
  · exact ⟨_, rfl⟩
  · split
    · exact ⟨_, rfl⟩
    · exact ⟨_, State.tile_setTile_same ..⟩

theorem State.charge_keeps (s : State) (g cls n : Nat) :
    (s.charge g cls n).hbm = s.hbm ∧ (s.charge g cls n).host = s.host ∧ (s.charge g cls n).flowSeq = s.flowSeq := by
  unfold State.charge
  dsimp only
  repeat' split
  all_goals exact ⟨rfl, rfl, rfl⟩

theorem Tile.mem_ask (t : Tile) (now rank within : Nat) {ls : List (Int × BankAct)} {l : Int × BankAct} (hl : l ∈ ls)
    (hrange : inRange l.1 = true) :
    ∃ x ∈ (t.ask now rank within ls).asks, x.since = now ∧ x.rank = rank ∧ x.line = l.1.toNat ∧ x.act = l.2 := by
  obtain ⟨k, hk, hget⟩ := List.getElem_of_mem (List.mem_filter (p := fun l : Int × BankAct => inRange l.1).2 ⟨hl, hrange⟩)
  refine ⟨_, List.mem_append_right _ (List.mem_mapIdx.2 ⟨k, hk, rfl⟩), rfl, rfl, ?_, ?_⟩
  · dsimp only; rw [hget]
  · dsimp only; rw [hget]

/-- The requests of a claimed slot: the lines of the frame that it has room for, and the trailer (R360). -/
def claimParts (first room tr : Nat) (bs : List Byte) : List (Nat × List Byte) :=
  (messageLines (bs.take room)).map (fun e => (first + e.1, e.2)) ++ [(first + room, leBytes 64 tr)]

/-- A byte of a frame stands in the part of its line. -/
theorem mem_claimParts {first room tr o : Nat} {bs : List Byte} {v : Byte} (hv : bs[o]? = some v) (ho : o < room) :
    ∃ part, (first + 64 * (o / 64), part) ∈ claimParts first room tr bs ∧ part[o % 64]? = some v := by
  obtain ⟨hlt, -⟩ := List.getElem?_eq_some_iff.1 hv
  refine ⟨((bs.take room).drop (64 * (o / 64))).take 64, List.mem_append_left _ ?_, ?_⟩
  · refine List.mem_map.2 ⟨(64 * (o / 64), ((bs.take room).drop (64 * (o / 64))).take 64), ?_, rfl⟩
    exact List.mem_map.2 ⟨o / 64, List.mem_range.2 (by rw [List.length_take]; omega), rfl⟩
  · rw [List.getElem?_take_of_lt (Nat.mod_lt _ (by decide)), List.getElem?_drop, Nat.div_add_mod,
      List.getElem?_take_of_lt ho, hv]

/-- The tile of a claimed slot. -/
def Tile.claimed (t : Tile) (now n slot fill : Nat) (parts : List (Nat × List Byte)) : Tile :=
  let u := t.ask now rankRemote 1079 (parts.map fun e => (((e.1 / 64 : Nat) : Int), .put [e]))
  ({ u with claims := u.claims ++ [(n, slot, fill)] }.setRing n
    { (t.ring n).setSlot slot .writing with t := (t.ring n).after slot }).setQueue 5
      { t.queue 5 with resv := (t.queue 5).resv + 1 }

theorem State.claim_eq (s : State) (g n slot flow seq port : Nat) (bs : List Byte) :
    ∃ k tr, s.claim g n slot flow seq port bs = ((s.setTile g ((s.tile g).claimed s.now n slot
      (s.now + 1080 + (if s.datumTile g then 0 else Config.freeLatency s.fresh))
      (claimParts ((((s.tile g).ring n).base + slot * ((s.tile g).ring n).lps) * 64) ((((s.tile g).ring n).lps - 1) * 64) tr
        bs))).charge g 13 k).tick := ⟨_, _, rfl⟩

section
variable {t : Tile} {now n slot fill : Nat} {parts : List (Nat × List Byte)}

theorem Tile.claimed_keeps : (t.claimed now n slot fill parts).scratch = t.scratch ∧
    (t.claimed now n slot fill parts).claims = t.claims ++ [(n, slot, fill)] ∧
    (t.claimed now n slot fill parts).asks =
      (t.ask now rankRemote 1079 (parts.map fun e => (((e.1 / 64 : Nat) : Int), .put [e]))).asks := ⟨rfl, rfl, rfl⟩

theorem Tile.ring_claimed : (t.claimed now n slot fill parts).ring n =
    { (t.ring n).setSlot slot .writing with t := (t.ring n).after slot } := Store.get_put_same ..

theorem Tile.queue_claimed : (t.claimed now n slot fill parts).queue 5 =
    { t.queue 5 with resv := (t.queue 5).resv + 1 } := Tile.queue_setQueue_same ..

end

theorem Ring.slot_setSlot_same (r : Ring) (i : Nat) (v : Slot) : (r.setSlot i v).slot i = v := Store.get_set_same ..

/-- A byte of a frame goes to the bank of its line (R360). -/
theorem Tile.claimed_asks {t : Tile} {now n slot fill base lps tr o : Nat} {bs : List Byte} {v : Byte}
    (hfit : base + (slot + 1) * lps ≤ 5115) (hv : bs[o]? = some v) (ho : o < (lps - 1) * 64) :
    ∃ x ∈ (t.claimed now n slot fill (claimParts ((base + slot * lps) * 64) ((lps - 1) * 64) tr bs)).asks,
      x.rank = rankRemote ∧ x.since = now ∧ x.line = base + slot * lps + o / 64 ∧
      ∃ lo part, x.act = .put [(lo, part)] ∧ lo = 64 * x.line ∧ part[o % 64]? = some v := by
  obtain ⟨part, hmem, hpart⟩ := mem_claimParts (first := (base + slot * lps) * 64) (tr := tr) hv ho
  have hline : ((base + slot * lps) * 64 + 64 * (o / 64)) / 64 = base + slot * lps + o / 64 := by omega
  have hin : base + slot * lps + o / 64 < 5115 := by
    rw [Nat.succ_mul] at hfit
    omega
  obtain ⟨x, hx, hsince, hrank, hxline, hact⟩ := t.mem_ask now rankRemote 1079
    (List.mem_map_of_mem (f := fun e : Nat × List Byte => (((e.1 / 64 : Nat) : Int), BankAct.put [e])) hmem)
    (by rw [hline]; simp only [inRange, decide_eq_true_eq]; omega)
  have hat : x.line = base + slot * lps + o / 64 := by
    rw [hxline, hline]
    exact Int.toNat_natCast _
  exact ⟨x, hx, hrank, hsince, hat, _, part, hact, by rw [hat]; omega, hpart⟩

end Sys2Proof.Machine

/-!
Links and ports
-/

namespace Sys2Proof.Machine

open Host (Outcome)

/-- What a claim leaves at its tile, and beside it. -/
theorem State.claim_leaves (s : State) (g n slot flow seq port : Nat) (bs : List Byte) :
    let t := s.claim g n slot flow seq port bs
    ((t.tile g).ring n).slot slot = .writing ∧ ((t.tile g).ring n).t = (slot + 1) % ((s.tile g).ring n).nslots ∧
      ((t.tile g).queue 5).resv = ((s.tile g).queue 5).resv + 1 ∧ t.hbm = s.hbm ∧ t.host = s.host ∧
      (t.tile g).scratch = (s.tile g).scratch ∧ t.flowSeq = s.flowSeq ∧
      (∀ o v, ((s.tile g).ring n).base + (slot + 1) * ((s.tile g).ring n).lps ≤ 5115 → bs[o]? = some v →
        o < (((s.tile g).ring n).lps - 1) * 64 → ∃ x ∈ (t.tile g).asks, x.rank = rankRemote ∧ x.since = s.now ∧
          x.line = ((s.tile g).ring n).base + slot * ((s.tile g).ring n).lps + o / 64 ∧
          ∃ lo part, x.act = .put [(lo, part)] ∧ lo = 64 * x.line ∧ part[o % 64]? = some v) ∧
      ∃ c, (t.tile g).claims = (s.tile g).claims ++ [(n, slot, c)] ∧ s.now + 1080 ≤ c ∧
        (s.datumTile g = true → c = s.now + 1080) := by
  intro t
  obtain ⟨k, tr, ht⟩ := s.claim_eq g n slot flow seq port bs
  replace ht : t = _ := ht
  clear_value t
  generalize hfill : s.now + 1080 + (if s.datumTile g then 0 else Config.freeLatency s.fresh) = fill at ht
  generalize hparts : claimParts ((((s.tile g).ring n).base + slot * ((s.tile g).ring n).lps) * 64)
    ((((s.tile g).ring n).lps - 1) * 64) tr bs = parts at ht
  obtain ⟨charges, hcharge⟩ := State.tile_charge_same (s.setTile g ((s.tile g).claimed s.now n slot fill parts)) g 13 k
  obtain ⟨hhbm, hhost, hseq⟩ := State.charge_keeps (s.setTile g ((s.tile g).claimed s.now n slot fill parts)) g 13 k
  have htile : t.tile g = { (s.tile g).claimed s.now n slot fill parts with charges := charges } := by
    rw [ht]
    exact hcharge.trans (by rw [State.tile_setTile_same])
  have hring : (t.tile g).ring n = { ((s.tile g).ring n).setSlot slot .writing with t := ((s.tile g).ring n).after slot } := by
    rw [htile]
    exact Tile.ring_claimed
  have hqueue : (t.tile g).queue 5 = { (s.tile g).queue 5 with resv := ((s.tile g).queue 5).resv + 1 } := by
    rw [htile]
    exact Tile.queue_claimed
  refine ⟨?_, ?_, ?_, ?_, ?_, ?_, ?_, fun o v hfit hv ho => ?_, fill, ?_, ?_, ?_⟩
  · rw [hring]
    exact Ring.slot_setSlot_same ((s.tile g).ring n) slot .writing
  · rw [hring]
    rfl
  · rw [hqueue]
  · rw [ht]
    exact hhbm
  · rw [ht]
    exact hhost
  · rw [htile]
    rfl
  · rw [ht]
    exact hseq
  · rw [htile, ← hparts]
    exact Tile.claimed_asks (n := n) (fill := fill) (tr := tr) hfit hv ho
  · rw [htile]
    rfl
  · omega
  · intro hdatum
    rw [if_pos hdatum] at hfill
    omega

/-! Slots that fill, and frames that leave. -/

/-- The tile whose only claim has filled. -/
def Tile.slotFilled (t : Tile) (n slot now : Nat) : Tile :=
  ({ t with claims := [] }.setRing n ((t.ring n).setSlot slot .full)).pushDone (some 5)
    (BitVec.ofNat 32 (n * 2 ^ 25 + slot * 2 ^ 19 + ((t.ring n).base + slot * (t.ring n).lps))) now 2

theorem Tile.slotFilled_leaves (t : Tile) (n slot now : Nat) (hempty : (t.queue 5).toks = []) :
    (((t.slotFilled n slot now).ring n).slot slot = .full ∧ (t.slotFilled n slot now).claims = []) ∧
      ((t.slotFilled n slot now).queue 5).resv = (t.queue 5).resv - 1 ∧ (t.slotFilled n slot now).scratch = t.scratch ∧
      ((t.slotFilled n slot now).queue 5).head =
        BitVec.ofNat 32 (n * 2 ^ 25 + slot * 2 ^ 19 + ((t.ring n).base + slot * (t.ring n).lps)) := by
  have hring : (t.slotFilled n slot now).ring n = (t.ring n).setSlot slot .full := Store.get_put_same ..
  have hqueue : (t.slotFilled n slot now).queue 5 = ({ t.queue 5 with resv := (t.queue 5).resv - 1 } : Queue).push
      (BitVec.ofNat 32 (n * 2 ^ 25 + slot * 2 ^ 19 + ((t.ring n).base + slot * (t.ring n).lps))) now 2 0 :=
    Tile.queue_setQueue_same ..
  refine ⟨⟨?_, rfl⟩, ?_, rfl, ?_⟩
  · rw [hring]
    exact Ring.slot_setSlot_same ..
  · rw [hqueue]
    rfl
  · rw [hqueue, Queue.push, hempty]
    rfl

theorem ingestSlotFill_runs {s : State} {g n slot d : Nat} (hslot : slot < 64) (hclaims : (s.tile g).claims = [(n, slot, d)])
    (hdue : d ≤ s.now) (hwritten : (s.tile g).slotWritten n slot = true) :
    exec (.ingestSlotFill g (64 * n + slot)) s = .next (s.setTile g ((s.tile g).slotFilled n slot s.now)) := by
  have hring : (64 * n + slot) / 64 = n := by omega
  have hplace : (64 * n + slot) % 64 = slot := by omega
  change execIngestSlotFill g (64 * n + slot) s = _
  unfold execIngestSlotFill
  dsimp only
  rw [hclaims, hring, hplace, List.find?_cons_of_pos (by simp [hdue, hwritten])]
  dsimp only
  rw [List.erase_cons_head]
  rfl

theorem State.takeHostFrames_empty {s : State} (h : s.htxHead = (s.devGet 0x3208).toNat) : s.takeHostFrames = s := by
  have hnone : s.takeHostFrame = s := if_pos h
  exact foldl_eq_self fun _ _ => hnone

theorem State.sentCommand_keeps (s : State) (x : TxFrame) (last : Nat) :
    (s.sentCommand x last).out = s.out ∧ (s.sentCommand x last).txq = s.txq ∧ (s.sentCommand x last).txFree = s.txFree ∧
      (s.sentCommand x last).htxHead = s.htxHead ∧ (s.sentCommand x last).dev = s.dev := by
  unfold State.sentCommand
  repeat' split
  all_goals exact ⟨rfl, rfl, rfl, rfl, rfl⟩

/-- The state in which the first pending send `x` of a port has left. -/
def State.sendOff (s : State) (port : Nat) (x : TxFrame) (rest : List TxFrame) : State :=
  State.emit { s with
    txq := Store.put s.txq port rest
    txFree := Store.put s.txFree port (s.now + sendTime x.bytes.length) } (.frame port x.bytes)

theorem frameTransmit_sends {s : State} {port : Nat} {x : TxFrame} {rest : List TxFrame}
    (hq : Store.get [] s.txq port = x :: rest) (hlaunch : x.launch ≤ s.tai) (hfree : Store.get 0 s.txFree port ≤ s.now)
    (hup : 128 + port ∉ s.downPorts) (htx : s.htxHead = (s.devGet 0x3208).toNat) :
    ∃ t, exec (.frameTransmit port) s = .next t ∧ t.out = s.out ++ [.frame port x.bytes] ∧
      Store.get [] t.txq port = rest ∧ Store.get 0 t.txFree port = s.now + sendTime x.bytes.length := by
  have hgo : ¬ (s.tai < x.launch ∨ s.now < Store.get 0 s.txFree port ∨ s.downPorts.contains (128 + port) = true) := by
    rw [List.contains_iff_mem]
    rintro (h | h | h)
    · omega
    · omega
    · exact hup h
  generalize hu : s.sendOff port x rest = u
  obtain ⟨hout, htxq, htxFree, hhead, hdev⟩ := u.sentCommand_keeps x (s.now + sendTime x.bytes.length)
  have hrun : exec (.frameTransmit port) s = .next (u.sentCommand x (s.now + sendTime x.bytes.length)) := by
    have hnone : (u.sentCommand x (s.now + sendTime x.bytes.length)).htxHead =
        ((u.sentCommand x (s.now + sendTime x.bytes.length)).devGet 0x3208).toNat := by
      rw [hhead, State.devGet, hdev, ← hu]
      exact htx
    change execFrameTransmit port s = _
    unfold execFrameTransmit
    rw [hq]
    dsimp only
    rw [if_neg hgo]
    subst hu
    exact congrArg Outcome.next (State.takeHostFrames_empty hnone)
  refine ⟨_, hrun, ?_, ?_, ?_⟩
  · rw [hout, ← hu]
    rfl
  · rw [htxq, ← hu]
    exact Store.get_put_same ..
  · rw [htxFree, ← hu]
    exact Store.get_put_same ..

theorem State.devGet_tick (s : State) (off : Nat) : s.tick.devGet off = s.devGet off := rfl

/-- A frame that no flow takes stands in the host receive ring, or is counted where that is full. -/
theorem frameReceive_hostRing {s : State} {port : Nat} {bs : List Byte} (hport : port < 2) (hup : 128 + port ∉ s.downPorts)
    (hlong : 60 ≤ bs.length) (hshort : bs.length ≤ 9216) (htype : frameType bs ≠ 0x8808) (hflow : s.flowOf port bs = none) :
    ∃ t, exec (.frameReceive port true bs) s = .next t ∧ t.tiles = s.tiles ∧ t.hbm = s.hbm ∧
      (((s.devGet 0x3110).toNat + 2 ^ 64 - (s.devGet 0x3108).toNat) % 2 ^ 64 < 1024 →
        t.devGet 0x3110 = s.devGet 0x3110 + 1 ∧ t.devGet 0x3118 = s.devGet 0x3118 ∧ Memory.bytes t.host
          (((s.devGet 0x3100).toNat + (s.devGet 0x3110).toNat % 1024 * 10240) % 2 ^ 48 + 64) bs.length = bs) ∧
      (1024 ≤ ((s.devGet 0x3110).toNat + 2 ^ 64 - (s.devGet 0x3108).toNat) % 2 ^ 64 →
        (t.devGet 0x3118).toNat = min ((s.devGet 0x3118).toNat + 1) (2 ^ 64 - 1) ∧ t.host = s.host) := by
  have hrun := frameReceive_toHost hport hup hlong hshort htype hflow
  have hsame : (s.devCount (0x6000000 + 0x100 * port + 24) 64).tick.tiles = s.tiles ∧
      (s.devCount (0x6000000 + 0x100 * port + 24) 64).tick.hbm = s.hbm ∧
      (s.devCount (0x6000000 + 0x100 * port + 24) 64).tick.host = s.host := ⟨rfl, rfl, rfl⟩
  have hreg : ∀ off, off < 0x6000000 →
      (s.devCount (0x6000000 + 0x100 * port + 24) 64).tick.devGet off = s.devGet off :=
    fun off hoff => s.devGet_devCount_ne (by omega)
  generalize (s.devCount (0x6000000 + 0x100 * port + 24) 64).tick = u at hrun hsame hreg
  obtain ⟨htiles, hhbm, hhost⟩ := hsame
  rw [← hreg 0x3110 (by decide), ← hreg 0x3108 (by decide), ← hreg 0x3100 (by decide), ← hreg 0x3118 (by decide), ← htiles,
    ← hhbm, ← hhost]
  refine ⟨_, hrun, ?_⟩
  rw [State.tick_tiles, State.tick_hbm, State.tick_host, State.devGet_tick, State.devGet_tick]
  by_cases hroom : ((u.devGet 0x3110).toNat + 2 ^ 64 - (u.devGet 0x3108).toNat) % 2 ^ 64 < 1024
  · obtain ⟨htiles, hhbm, htail, hdrops, hbytes⟩ := State.toHost_room (port := port) (bs := bs)
      (bitsAt (Config.freeValue s.fresh).toNat 0 10) (Config.freeValue (s.fresh + 1)).toNat hroom
    exact ⟨htiles, hhbm, fun _ => ⟨htail, hdrops, hbytes⟩, fun hfull => absurd hroom (Nat.not_lt.2 hfull)⟩
  · rw [State.toHost_full _ _ (Nat.not_lt.1 hroom)]
    exact ⟨rfl, rfl, fun h => absurd h hroom, fun _ => ⟨u.devCount_get _, rfl⟩⟩

/-- Settles O54. -/
theorem linksAndPorts : Obligations.LinksAndPorts := by
  unfold Obligations.LinksAndPorts
  refine ⟨?_, ?_, ?_, ?_, fun s port tag => ⟨_, rfl, rfl⟩, controlFlit_counts, ?_, ?_, ?_, ?_, ?_⟩
  · intro s port src tag a x ia bs hlen hwin hup hnew hregion hbits pa hreach
    obtain ⟨htiles, hhost, -, hout, -⟩ := s.countFrom_links (portDie port) x ia false
    obtain ⟨hdr, hreply, hclass, hsrc, htag, hlast⟩ :=
      State.reply_single ((s.countFrom (portDie port) x ia false).writePhys pa bs) port src tag (kind := 0) (by decide)
        (payload := []) (by decide)
    refine ⟨_, hdr, (peerWrite_answers hlen hwin hup hnew hregion hbits hreach).trans (congrArg Outcome.next hreply), ?_,
      hhost, htiles, hclass, hsrc, htag, hlast, ?_⟩
    · rw [← hlen]
      exact Memory.bytes_setBytes ..
    · exact congrArg (· ++ _) hout
  · intro s port src tag a x ia hwin hup hregion hbits pa bs hreach hread
    obtain ⟨htiles, hhost, -, hout, -⟩ := s.countFrom_links (portDie port) x ia false
    have hlen : bs.length = 64 := State.length_readPhys hread
    obtain ⟨hdr, hreply, hclass, hsrc, htag, -⟩ := State.reply_single (s.countFrom (portDie port) x ia false) port src tag
      (kind := 1) (by decide) (payload := bs) (by omega)
    refine ⟨_, hdr, (peerRead_answers hwin hup hregion hbits hreach hread).trans (congrArg Outcome.next hreply), hclass, hsrc,
      htag, ?_, htiles⟩
    rw [hlen]
    exact congrArg (· ++ _) hout
  · intro s port src tag a n bs hsome hn hup hnew hwin i hi
    obtain ⟨hdr, hreply, hclass, -, htag, -⟩ := s.reply_single port src tag (kind := 2) (by decide) (payload := [])
      (by decide)
    simp only [List.mem_cons, List.not_mem_nil, or_false] at hi
    rcases hi with rfl | rfl
    · exact ⟨_, hdr, (peerWrite_refused hsome hup hnew (hwin true)).trans (congrArg Outcome.next hreply), hclass, htag, rfl⟩
    · exact ⟨_, hdr, (peerRead_refused hn hup (hwin false)).trans (congrArg Outcome.next hreply), hclass, htag, rfl⟩
  · rintro s port tag g c r gl bs hpeers rfl rfl rfl rfl hfifo hglob
    refine ⟨fun hgood => ⟨fun kind hkind => ?_, ?_⟩, fun hdatum htwice kind => peerReply_twiceReplayed hpeers hdatum htwice kind bs⟩
    · obtain ⟨t, hrun, hnone, hsame, hreply⟩ := peerReply_word hpeers hfifo hglob hgood kind bs
      rw [if_neg (by omega)] at hreply
      exact ⟨t, hrun, hnone, hsame, hreply⟩
    · obtain ⟨t, hrun, hnone, -, hreply⟩ := peerReply_word hpeers hfifo hglob hgood 2 bs
      exact ⟨t, hrun, hnone, hreply⟩
  · intro s port ok bs hport hup hbad
    refine ⟨_, frameReceive_damaged hport hup hbad, .refl s, rfl, ?_⟩
    rintro off rfl
    exact s.devCount_get _
  · rintro s port bs k hport hup hlong hshort htype hflow rfl
    exact frameReceive_hostRing hport hup hlong hshort htype hflow
  · intro s port f g n slot bs hport hup hlong hshort htype hflow hring hg hclaim
    obtain ⟨hslot, ht, hresv, hhbm, hhost, hscratch, hseq, hasks, hclaims⟩ :=
      (s.countFlow f).claim_leaves g n slot f (Store.get 0 s.flowSeq f) port bs
    rw [hg]  at *
    exact ⟨_, frameReceive_claims hport hup hlong hshort htype hflow hring hclaim, hslot, ht, hresv, hhbm, hhost, hscratch,
      (congrArg (Store.get 0 · f) hseq).trans (Store.get_put_same ..), hasks, hclaims⟩
  · intro s g n slot d hslot hclaims hdue hwritten hempty hresv
    obtain ⟨⟨hfull, hnone⟩, hless, hscratch, hhead⟩ := (s.tile g).slotFilled_leaves n slot s.now hempty
    refine ⟨_, ingestSlotFill_runs hslot hclaims hdue hwritten, ?_, ?_, ?_, (SameBytes.refl s).setTile hscratch, ?_⟩
    all_goals rw [State.tile_setTile_same]
    · exact hfull
    · exact hnone
    · exact hless
    · exact hhead
  · intro s port x rest hq hlaunch hfree hup htx
    exact frameTransmit_sends hq hlaunch hfree hup htx

end Sys2Proof.Machine

/-!
Background work and uncorrectable errors (R375 to R379)
-/

namespace Sys2Proof

/-! Fields of numbers in memory. -/

theorem Memory.bytes_add (m : Memory) (a x y : Nat) :
    Memory.bytes m a (x + y) = Memory.bytes m a x ++ Memory.bytes m (a + x) y := by
  refine List.ext_getElem (by simp) fun i hi _ => ?_
  rw [Memory.length_bytes] at hi
  rw [Memory.getElem_bytes, List.getElem_append]
  split
  · rw [Memory.getElem_bytes]
  · next h =>
    rw [Memory.length_bytes, Nat.not_lt] at h
    rw [Memory.getElem_bytes, Memory.length_bytes, Nat.add_assoc, Nat.add_sub_of_le h]

/-- A number within a larger one. -/
theorem Memory.num_field (m : Memory) (a : Nat) {o n N : Nat} (h : o + n ≤ N) :
    Memory.num m (a + o) n = Memory.num m a N / 256 ^ o % 256 ^ n := by
  obtain ⟨r, rfl⟩ := Nat.exists_eq_add_of_le h
  have hlow : leNat (Memory.bytes m a o) < 256 ^ o := by simpa using leNat_lt (Memory.bytes m a o)
  have hmid : leNat (Memory.bytes m (a + o) n) < 256 ^ n := by simpa using leNat_lt (Memory.bytes m (a + o) n)
  rw [Memory.num, Memory.num, Nat.add_assoc o n r, Memory.bytes_add, Memory.bytes_add, Machine.leNat_append, Machine.leNat_append,
    Memory.length_bytes, Memory.length_bytes, Nat.add_mul_div_left _ _ (Nat.pow_pos (by decide)), Nat.div_eq_of_lt hlow,
    Nat.zero_add, Nat.add_mul_mod_self_left, Nat.mod_eq_of_lt hmid]

/-- A field of a number that stands first in a run of bytes. -/
theorem Memory.num_headField {m : Memory} {a N v o n : Nat} {rest : List Byte}
    (hrun : Memory.bytes m a (leBytes N v ++ rest).length = leBytes N v ++ rest) (h : o + n ≤ N) :
    Memory.num m (a + o) n = v % 256 ^ N / 256 ^ o % 256 ^ n := by
  have hN : Memory.num m a N = v % 256 ^ N := by
    have htake := congrArg (List.take N) hrun
    rw [List.length_append, leBytes_length, Memory.bytes_add,
      List.take_append_of_le_length (Memory.length_bytes ..).ge,
      List.take_append_of_le_length (leBytes_length ..).ge, List.take_of_length_le (Memory.length_bytes ..).le,
      List.take_of_length_le (leBytes_length ..).le] at htake
    rw [Memory.num, htake, leNat_leBytes]
  rw [Memory.num_field m a h, hN]

end Sys2Proof

namespace Sys2Proof.Machine

open Host (Outcome)

/-! Background work (R375, R376). -/

theorem State.countUp_keeps (s : State) (k : Nat) : SameBytes s (s.countUp k) ∧ (s.countUp k).tiles = s.tiles ∧
    (s.countUp k).out = s.out ∧ (s.countUp k).monument = s.monument ∧ (s.countUp k).poison = s.poison :=
  ⟨.refl s, rfl, rfl, rfl, rfl⟩

theorem State.get_countUp_ne (s : State) {k j : Nat} (h : j ≠ k) : Store.get 0 (s.countUp k).counts j = Store.get 0 s.counts j :=
  Store.get_set_ne _ _ _ h

theorem recalibration_leaves (s : State) (n : Nat) :
    ∃ t, exec (.recalibration n) s = .next t ∧ SameBytes s t ∧ t.tiles = s.tiles ∧ t.counts = s.counts ∧
      (∃ v, Store.find t.calib n = some v) ∧ ∀ m, m ≠ n → Store.find t.calib m = Store.find s.calib m :=
  ⟨_, rfl, .refl s, rfl, rfl, ⟨_, Store.find_put_same ..⟩, fun _ hm => Store.find_put_ne _ _ hm⟩

/-- The counts of a scrubbed stack (R376, R377). -/
theorem patrolScrub_stack (s : State) (n : Nat) (fixed pass : Bool) :
    ∃ t, exec (.patrolScrub (.stack n fixed pass)) s = .next t ∧ SameBytes s t ∧ t.tiles = s.tiles ∧
      Store.get 0 t.counts (stackKey n 0) =
        (if fixed then min (Store.get 0 s.counts (stackKey n 0) + 1) (2 ^ 64 - 1) else Store.get 0 s.counts (stackKey n 0)) ∧
      Store.get 0 t.counts (stackKey n 3) =
        (if pass then min (Store.get 0 s.counts (stackKey n 3) + 1) (2 ^ 64 - 1) else Store.get 0 s.counts (stackKey n 3)) := by
  have hne : stackKey n 0 ≠ stackKey n 3 := by unfold stackKey; omega
  cases fixed with
  | false =>
    cases pass with
    | false => exact ⟨s, rfl, .refl s, rfl, (if_neg Bool.false_ne_true).symm, (if_neg Bool.false_ne_true).symm⟩
    | true =>
      exact ⟨s.countUp (stackKey n 3), rfl, .refl s, rfl, (s.get_countUp_ne hne).trans (if_neg Bool.false_ne_true).symm,
        (s.get_countUp _).trans (if_pos rfl).symm⟩
  | true =>
    cases pass with
    | false =>
      exact ⟨s.countUp (stackKey n 0), rfl, .refl s, rfl, (s.get_countUp _).trans (if_pos rfl).symm,
        (s.get_countUp_ne hne.symm).trans (if_neg Bool.false_ne_true).symm⟩
    | true =>
      refine ⟨(s.countUp (stackKey n 0)).countUp (stackKey n 3), rfl, .refl s, rfl, ?_, ?_⟩
      · rw [State.get_countUp_ne _ hne, State.get_countUp, if_pos rfl]
      · rw [State.get_countUp, State.get_countUp_ne _ hne.symm, if_pos rfl]

/-! Uncorrectable errors (R378, R379). -/

theorem State.tiles_appendMonument (s : State) (kind fields : Nat) : (s.appendMonument kind fields).tiles = s.tiles := by
  unfold State.appendMonument
  split <;> rfl

theorem State.out_appendMonument (s : State) (kind fields : Nat) : (s.appendMonument kind fields).out = s.out := by
  unfold State.appendMonument
  split <;> rfl

theorem State.host_appendMonument (s : State) (kind fields : Nat) : (s.appendMonument kind fields).host = s.host := by
  unfold State.appendMonument
  split <;> rfl

/-- An entry is shorter than a sector: no poison goes. -/
theorem State.poison_appendMonument (s : State) (kind fields : Nat) : (s.appendMonument kind fields).poison = s.poison := by
  unfold State.appendMonument
  split
  · rfl
  · refine List.filter_eq_self.2 fun p _ => ?_
    rw [leBytes_length, Bool.not_eq_true', decide_eq_false_iff_not]
    omega

theorem State.retireFrame_keeps (s : State) (stack frame : Nat) : (s.retireFrame stack frame).tiles = s.tiles ∧
    (s.retireFrame stack frame).out = s.out ∧ (s.retireFrame stack frame).poison = s.poison := by
  unfold State.retireFrame
  split
  · exact ⟨rfl, rfl, rfl⟩
  · have hbad : ∀ (u : State), u.tiles = s.tiles → u.out = s.out → u.poison = s.poison →
        (u.appendMonument 3 (frame % 2 ^ 15 * 2 ^ 80 + stack % 16 * 2 ^ 76)).tiles = s.tiles ∧
        (u.appendMonument 3 (frame % 2 ^ 15 * 2 ^ 80 + stack % 16 * 2 ^ 76)).out = s.out ∧
        (u.appendMonument 3 (frame % 2 ^ 15 * 2 ^ 80 + stack % 16 * 2 ^ 76)).poison = s.poison := by
      intro u htiles hout hpoison
      rw [u.tiles_appendMonument, u.out_appendMonument, u.poison_appendMonument]
      exact ⟨htiles, hout, hpoison⟩
    dsimp only
    split
    · exact hbad s rfl rfl rfl
    · exact hbad _ rfl rfl rfl

theorem mem_addNew_self (n : Nat) (l : List Nat) : n ∈ addNew n l := by
  exact mem_addNew.2 (.inr rfl)

theorem State.poisoned_of_mem {s : State} {sector : Nat} (h : sector ∈ s.poison) : s.poisoned (32 * sector) 1 = true :=
  List.any_eq_true.2 ⟨sector, h, decide_eq_true (by omega)⟩

theorem State.msix_mem_emit (s : State) : .msix 3 ∈ (s.emit (.msix 3)).out := List.mem_append_right _ (List.mem_singleton_self _)

theorem hbmScrub_poisons (s : State) (sector : Nat) :
    ∃ t, exec (.uncorrectableError (.hbmScrub sector)) s = .next t ∧ .msix 3 ∈ t.out ∧ t.poisoned (32 * sector) 1 = true ∧
      t.tiles = s.tiles := by
  generalize hu : ({ (s.emit (.msix 3)).countUp (stackKey (sector * 32 / 2 ^ 36) 1) with
    poison := addNew sector s.poison } : State) = u
  obtain ⟨htiles, hout, hpoison⟩ := u.retireFrame_keeps (sector * 32 / 2 ^ 36) (sector * 32 % 2 ^ 36 / 2 ^ 21)
  refine ⟨u.retireFrame (sector * 32 / 2 ^ 36) (sector * 32 % 2 ^ 36 / 2 ^ 21), ?_, ?_, ?_, ?_⟩
  · rw [← hu]
    rfl
  · rw [hout, ← hu]
    exact s.msix_mem_emit
  · refine State.poisoned_of_mem ?_
    rw [hpoison, ← hu]
    exact mem_addNew_self ..
  · rw [htiles, ← hu]
    rfl

theorem hbmWord_faults {s : State} {g : Nat} {c : CoreId} {gl : Glob} (hglob : (s.core ⟨g, c⟩).glob = some gl)
    (stack frame : Nat) :
    ∃ t, exec (.uncorrectableError (.hbmWord g c stack frame)) s = .next t ∧
      (t.core ⟨g, c⟩).glob = some { gl with reply := .fault 0x14, write := none } ∧ .msix 3 ∈ t.out := by
  generalize hu : ((s.emit (.msix 3)).countUp (stackKey stack 1)).retireFrame stack frame = u
  obtain ⟨htiles, hout, -⟩ := ((s.emit (.msix 3)).countUp (stackKey stack 1)).retireFrame_keeps stack frame
  rw [hu] at htiles hout
  have hsame : u.core ⟨g, c⟩ = s.core ⟨g, c⟩ := by
    rw [State.core, State.tile, htiles]
    rfl
  have hrun : exec (.uncorrectableError (.hbmWord g c stack frame)) s =
      .next (u.setCore ⟨g, c⟩ { u.core ⟨g, c⟩ with glob := some { gl with reply := .fault 0x14, write := none } }) := by
    change execUncorrectableError (.hbmWord g c stack frame) s = _
    unfold execUncorrectableError
    dsimp only
    rw [hu, hsame, hglob]
  refine ⟨_, hrun, ?_, ?_⟩
  · rw [State.core_setCore_same]
  · rw [State.setCore_out, hout]
    exact s.msix_mem_emit

/-! Entries of the monument record (R381). -/

theorem State.tai_lt (s : State) : s.tai < 2 ^ 64 := by
  unfold State.tai taiOf wrapTo
  omega

theorem State.monument_append {s : State} (h : s.monument.length < 4096) (kind fields : Nat) :
    s.appendMonument kind fields = { s with
      monument := s.monument ++ [BitVec.ofNat 128 (kind * 2 ^ 120 + fields + s.tai)]
      flashing := s.flashing ++ [s.now + 135000000] } := if_pos h

/-- What an entry says: its kind, and its tile. -/
theorem State.tileEntry_says (s : State) {kind g spare : Nat} (hkind : kind < 256) (hg : g < 640) (hspare : spare < 32) :
    (BitVec.ofNat 128 (kind * 2 ^ 120 + tileEntry g spare + s.tai)).toNat / 2 ^ 120 = kind ∧
      (BitVec.ofNat 128 (kind * 2 ^ 120 + tileEntry g spare + s.tai)).toNat / 2 ^ 95 % 2 ^ 10 = g := by
  have htai := s.tai_lt
  have hdie : g / 160 < 4 := by omega
  rw [BitVec.toNat_ofNat, tileEntry, dieOf, Nat.mod_eq_of_lt (by omega)]
  constructor <;> omega

/-- The state in which the task of tile `g` has been discarded and the accumulators of others have gone (R379). -/
def State.cleared (s : State) (g : Nat) (bad : List Nat) : State :=
  let s := if (s.tile g).task.live then s.endTask g 3 0x14 else s
  ((s.tile g).accOwner.map (fun e => e.1)).foldl (fun s n => s.rescue g bad n) s

/-- The state in which the records that tile `g` has not started have gone back. -/
def State.unchunked (s : State) (g : Nat) : State :=
  if s.datumTile g then s.setTile g { s.tile g with chunk := [] } else s.returnChunk g

/-- The state in which tile `g` has left service. -/
def State.takeOut (s : State) (g : Nat) : State :=
  let away := fun (v : Saved) => if v.dealt = some g then { v with dealt := none } else v
  let s := { s with saved := s.saved.map (fun (e : Nat × Saved) => (e.1, away e.2)),
                    parts := s.parts.map (fun (e : Nat × Part) => (e.1, { e.2 with wanted := e.2.wanted.erase g })) }
  { s.setTile g { s.tile g with inService := false } with broken := s.broken ++ [g] }

theorem State.machineCheck_eq (s : State) (g : Nat) (bad : List Nat) :
    s.machineCheck g bad = (((s.cleared g bad).unchunked g).takeOut g).appendMonument 2 (tileEntry g 0) := rfl

theorem State.cleared_bare {s : State} {g : Nat} (hlive : (s.tile g).task.live = false)
    (howner : (s.tile g).accOwner = []) : s.cleared g [] = s := by
  have hnoTask : (if (s.tile g).task.live then s.endTask g 3 0x14 else s) = s :=
    if_neg (by rw [hlive]; exact Bool.false_ne_true)
  rw [State.cleared, hnoTask, howner]
  rfl

theorem State.unchunked_bare {s : State} {g : Nat} (hchunk : (s.tile g).chunk = []) :
    s.unchunked g = s.setTile g { s.tile g with chunk := [] } := by
  unfold State.unchunked
  split
  · rfl
  · exact State.returnChunk_nil hchunk

/-- A machine check of a tile that holds nothing. -/
theorem machineCheck_idle {s : State} {g : Nat} (hg : g < 640) (hlive : (s.tile g).task.live = false)
    (howner : (s.tile g).accOwner = []) (hchunk : (s.tile g).chunk = []) (hroom : s.monument.length < 4096) :
    ∃ t, exec (.uncorrectableError (.tileSram g [])) s = .next t ∧ (t.tile g).inService = false ∧ .msix 3 ∈ t.out ∧
      SameBytes s t ∧ t.broken = s.broken ++ [g] ∧
      ∃ e, t.monument = s.monument ++ [e] ∧ e.toNat / 2 ^ 120 = 2 ∧ e.toNat / 2 ^ 95 % 2 ^ 10 = g := by
  generalize hu : (s.emit (.msix 3)).countUp (dieKey (dieOf g) 2) = u
  have htile : u.tile g = s.tile g := by rw [← hu]; rfl
  rw [← htile] at hlive howner hchunk
  have hrun : exec (.uncorrectableError (.tileSram g [])) s =
      .next (((u.setTile g { u.tile g with chunk := [] }).takeOut g).appendMonument 2 (tileEntry g 0)) := by
    rw [← State.unchunked_bare hchunk]
    refine Eq.trans ?_ (congrArg (fun w : State => Outcome.next (((w.unchunked g).takeOut g).appendMonument 2 (tileEntry g 0)))
      (State.cleared_bare hlive howner))
    rw [← State.machineCheck_eq, ← hu]
    rfl
  generalize hw : u.setTile g { u.tile g with chunk := [] } = w at hrun
  have hlen : (w.takeOut g).monument = s.monument := by rw [← hw, ← hu]; rfl
  have hsame : SameBytes s w := by
    rw [← hw]
    exact SameBytes.setTile (by rw [← hu]; exact .refl s) rfl
  rw [State.monument_append (by rwa [hlen])] at hrun
  obtain ⟨hkind, htileNo⟩ := (w.takeOut g).tileEntry_says (kind := 2) (spare := 0) (by decide) hg (by decide)
  refine ⟨_, hrun, ?_, ?_, hsame.setTile rfl, ?_, _, congrArg (· ++ _) hlen, hkind, htileNo⟩
  · exact congrArg (fun t : Tile => t.inService) (State.tile_setTile_same ..)
  · rw [← hw, ← hu]
    exact s.msix_mem_emit
  · rw [← hw, ← hu]
    rfl

end Sys2Proof.Machine

/-!
Telemetry and throttles (R383 to R386)
-/

namespace Sys2Proof.Machine

open Host (Outcome)

/-! Telemetry (R386). -/

theorem State.foldl_writePhys_keeps {α : Type} (a : α → Nat) (b : α → List Byte) (xs : List α) (s : State)
    (hpoison : s.poison = []) :
    (xs.foldl (fun s x => s.writePhys (a x) (b x)) s).poison = [] ∧
      (xs.foldl (fun s x => s.writePhys (a x) (b x)) s).host = s.host ∧
      (xs.foldl (fun s x => s.writePhys (a x) (b x)) s).tiles = s.tiles := by
  induction xs generalizing s with
  | nil => exact ⟨hpoison, rfl, rfl⟩
  | cons x xs ih => exact ih (s.writePhys (a x) (b x)) (by rw [State.writePhys, hpoison]; rfl)

theorem State.hbm_writePhys (s : State) (a : Nat) (bs : List Byte) : (s.writePhys a bs).hbm = Memory.setBytes s.hbm a bs := rfl

/-- The lines of the telemetry block. -/
def State.telemetryBlock (s : State) (seq : Nat) : List Byte :=
  leBytes 64 (s.telemetryPackage seq) ++ (((List.range 4).map fun d => s.telemetryDie d).map (leBytes 64)).flatten

/-- The block, then the counts of the stacks. -/
def State.telemetryRuns (s : State) (seq : Nat) : List (Nat × List Byte) :=
  (serviceFrame 0 + 0x11000, s.telemetryBlock seq) ::
    (List.range 16).map fun n => (serviceFrame n + 0x1000, leBytes 32 (s.stackCounts n))

theorem State.length_telemetryBlock (s : State) (seq : Nat) : (s.telemetryBlock seq).length = 320 := by
  simp only [State.telemetryBlock, List.length_append, leBytes_length, List.range_succ, List.range_zero, List.nil_append,
    List.map_append, List.map_cons, List.map_nil, List.flatten_append, List.flatten_cons, List.flatten_nil, List.length_nil]

theorem State.telemetry_hbm (s : State) (seq : Nat) :
    Memory.writeRuns s.hbm (s.telemetryRuns seq) = ((List.range 16).foldl
      (fun (a : State) n => a.writePhys (serviceFrame n + 0x1000) (leBytes 32 (s.stackCounts n)))
      (s.writePhys (serviceFrame 0 + 0x11000) (s.telemetryBlock seq))).hbm := by
  rw [State.hbm_foldl_writePhys (fun n => serviceFrame n + 0x1000) (fun n => leBytes 32 (s.stackCounts n)),
    State.telemetryRuns, Memory.writeRuns_cons, State.hbm_writePhys]

/-- No run of telemetry meets another. -/
theorem State.telemetryRuns_apart (s : State) (seq : Nat) : ∀ w ∈ s.telemetryRuns seq, ∀ v ∈ s.telemetryRuns seq,
    v = w ∨ v.1 + v.2.length ≤ w.1 ∨ w.1 + w.2.length ≤ v.1 := by
  have hblock := s.length_telemetryBlock seq
  intro w hw v hv
  rcases List.mem_cons.1 hw with rfl | hw
  · rcases List.mem_cons.1 hv with rfl | hv
    · exact .inl rfl
    · obtain ⟨n, -, rfl⟩ := List.mem_map.1 hv
      dsimp only
      rw [hblock, leBytes_length, serviceFrame, serviceFrame]
      omega
  · obtain ⟨n, -, rfl⟩ := List.mem_map.1 hw
    rcases List.mem_cons.1 hv with rfl | hv
    · dsimp only
      rw [hblock, leBytes_length, serviceFrame, serviceFrame]
      omega
    · obtain ⟨m, -, rfl⟩ := List.mem_map.1 hv
      dsimp only
      rw [leBytes_length, leBytes_length, serviceFrame, serviceFrame]
      by_cases h : m = n
      · exact .inl (by rw [h])
      · omega

/-- A field of line 0 of the telemetry block as it stands. -/
theorem State.telemetry_field (s : State) (seq : Nat) {o n : Nat} (h : o + n ≤ 64) :
    Memory.num (Memory.writeRuns s.hbm (s.telemetryRuns seq)) (serviceFrame 0 + 0x11000 + o) n =
      s.telemetryPackage seq % 256 ^ 64 / 256 ^ o % 256 ^ n := by
  have hmem : (serviceFrame 0 + 0x11000, s.telemetryBlock seq) ∈ s.telemetryRuns seq := List.mem_cons_self
  exact Memory.num_headField (Memory.bytes_writeRuns hmem (s.telemetryRuns_apart seq _ hmem) s.hbm) h

/-- A count of a stack as it stands. -/
theorem State.telemetry_stack (s : State) (seq : Nat) {n k : Nat} (hn : n < 16) (hk : k < 4) :
    Memory.num (Memory.writeRuns s.hbm (s.telemetryRuns seq)) (serviceFrame n + 0x1000 + 8 * k) 8 =
      s.errCount (stackKey n k) 64 := by
  have hmem : (serviceFrame n + 0x1000, leBytes 32 (s.stackCounts n)) ∈ s.telemetryRuns seq :=
    List.mem_cons_of_mem _ (List.mem_map_of_mem (f := fun n => (serviceFrame n + 0x1000, leBytes 32 (s.stackCounts n)))
      (List.mem_range.2 hn))
  have hrun := Memory.bytes_writeRuns hmem (s.telemetryRuns_apart seq _ hmem) s.hbm
  have hbound : ∀ j, s.errCount (stackKey n j) 64 < 2 ^ 64 := by
    intro j
    unfold State.errCount
    omega
  have hfield := Memory.num_headField (o := 8 * k) (n := 8) (rest := []) (by rwa [List.append_nil]) (by omega)
  rw [hfield, State.stackCounts]
  have h0 := hbound 0
  have h1 := hbound 1
  have h2 := hbound 2
  have h3 := hbound 3
  have hcases : k = 0 ∨ k = 1 ∨ k = 2 ∨ k = 3 := by omega
  rcases hcases with rfl | rfl | rfl | rfl
  all_goals omega

theorem telemetryWrite_odd {s : State} (hodd : (s.telSeq + 1) % 2 ^ 64 % 2 = 1) :
    exec .telemetryWrite s = .next { s.writePhys (serviceFrame 0 + 0x11000) (leBytes 8 ((s.telSeq + 1) % 2 ^ 64)) with
      telSeq := (s.telSeq + 1) % 2 ^ 64 } := if_pos hodd

theorem telemetryWrite_even {s : State} (heven : ¬ (s.telSeq + 1) % 2 ^ 64 % 2 = 1) :
    exec .telemetryWrite s = .next { (List.range 16).foldl
      (fun (a : State) n => a.writePhys (serviceFrame n + 0x1000) (leBytes 32 (s.stackCounts n)))
      (s.writePhys (serviceFrame 0 + 0x11000) (s.telemetryBlock ((s.telSeq + 1) % 2 ^ 64))) with
      telSeq := (s.telSeq + 1) % 2 ^ 64, fresh := s.fresh + 10 } := if_neg heven

theorem State.telemetryPackage_fields (s : State) {seq : Nat} (hseq : seq < 2 ^ 64) :
    s.telemetryPackage seq % 256 ^ 64 / 256 ^ 0 % 256 ^ 8 = seq ∧ s.telemetryPackage seq % 256 ^ 64 / 256 ^ 8 % 256 ^ 8 = s.tai ∧
      (s.plim ≤ 3600 → s.telemetryPackage seq % 256 ^ 64 / 256 ^ 16 % 256 ^ 4 = s.plim) := by
  have htai := s.tai_lt
  unfold State.telemetryPackage
  generalize Config.sensor s.fresh % 2 ^ 32 = a
  generalize s.reservedWatts % 2 ^ 32 = b
  generalize Config.sensor (s.fresh + 1) % 2 ^ 32 = c
  refine ⟨by omega, by omega, fun hplim => by omega⟩

/-- What a telemetry write leaves (R386). -/
theorem telemetryWrite_leaves {s : State} (hpoison : s.poison = []) :
    ∃ t, exec .telemetryWrite s = .next t ∧ t.telSeq = (s.telSeq + 1) % 2 ^ 64 ∧
      Memory.num t.hbm (serviceFrame 0 + 0x11000) 8 = t.telSeq ∧ t.host = s.host ∧ t.tiles = s.tiles ∧ t.poison = [] ∧
      (t.telSeq % 2 = 1 → ∀ a, (a < serviceFrame 0 + 0x11000 ∨ serviceFrame 0 + 0x11008 ≤ a) →
        Memory.byte t.hbm a = Memory.byte s.hbm a) ∧
      (t.telSeq % 2 = 0 → Memory.num t.hbm (serviceFrame 0 + 0x11008) 8 = s.tai ∧
        (s.plim ≤ 3600 → Memory.num t.hbm (serviceFrame 0 + 0x11010) 4 = s.plim) ∧
        (∀ n k, n < 16 → k < 4 → Memory.num t.hbm (serviceFrame n + 0x1000 + 8 * k) 8 =
          min (Store.get 0 s.counts (stackKey n k)) (2 ^ 64 - 1))) := by
  have hseq : (s.telSeq + 1) % 2 ^ 64 < 2 ^ 64 := Nat.mod_lt _ (by decide)
  by_cases hodd : (s.telSeq + 1) % 2 ^ 64 % 2 = 1
  · refine ⟨_, telemetryWrite_odd hodd, rfl, ?_, rfl, rfl, ?_, fun _ a ha => ?_, fun heven => ?_⟩
    · dsimp only
      rw [State.hbm_writePhys]
      exact Memory.num_setBytes s.hbm (serviceFrame 0 + 0x11000) (n := 8) hseq
    · exact (congrArg (List.filter _) hpoison)
    · dsimp only
      rw [State.hbm_writePhys]
      refine Memory.byte_setBytes_outside _ _ _ _ ?_
      rw [leBytes_length]
      exact ha
    · exact absurd (heven.symm.trans hodd) Nat.zero_ne_one
  · have hrun := telemetryWrite_even hodd
    have hhbm := s.telemetry_hbm ((s.telSeq + 1) % 2 ^ 64)
    have hkeeps := State.foldl_writePhys_keeps (fun n => serviceFrame n + 0x1000)
      (fun n => leBytes 32 (s.stackCounts n)) (List.range 16)
      (s.writePhys (serviceFrame 0 + 0x11000) (s.telemetryBlock ((s.telSeq + 1) % 2 ^ 64)))
      (congrArg (List.filter _) hpoison)
    obtain ⟨hfirst, hclock, hlimit⟩ := s.telemetryPackage_fields hseq
    generalize (List.range 16).foldl (fun (a : State) n => a.writePhys (serviceFrame n + 0x1000) (leBytes 32 (s.stackCounts n)))
      (s.writePhys (serviceFrame 0 + 0x11000) (s.telemetryBlock ((s.telSeq + 1) % 2 ^ 64))) = w at hrun hhbm hkeeps
    obtain ⟨hnone, hhost, htiles⟩ := hkeeps
    refine ⟨_, hrun, rfl, ?_, hhost, htiles, hnone, fun h => absurd h hodd, fun _ => ⟨?_, fun hplim => ?_,
      fun n k hn hk => ?_⟩⟩
    all_goals
      dsimp only
      rw [← hhbm]
    · exact (s.telemetry_field _ (o := 0) (n := 8) (by decide)).trans hfirst
    · exact (s.telemetry_field _ (o := 8) (n := 8) (by decide)).trans hclock
    · exact (s.telemetry_field _ (o := 16) (n := 4) (by decide)).trans (hlimit hplim)
    · exact s.telemetry_stack _ hn hk

/-! The apportioner (R383 to R385). -/

theorem throttleLevel_le (st d : Nat) (share : Option (Nat × Nat)) : throttleLevel st d share ≤ 12 := by
  unfold throttleLevel
  cases hfound : (List.range 13).find? (fun q => levelHolds st d q share) with
  | none => exact Nat.le_refl 12
  | some q => exact Nat.le_of_lt_succ (List.mem_range.1 (List.mem_of_find?_eq_some hfound))

/-- A tile's throttle set, and its throttled period counted. -/
def State.throttle (s : State) (level : Nat → Nat) (g : Nat) : State :=
  let a := s.setTile g { s.tile g with throttle := level g }
  if level g = 0 then a else a.countUp (dieKey (dieOf g) 3)

/-- Some tiles throttled: no byte differs, and no other tile's throttle. -/
theorem State.foldl_throttle {level : Nat → Nat} (hlevel : ∀ g, level g ≤ 12) {r : State} (gs : List Nat) (s : State)
    (hs : SameBytes r s) (hlow : ∀ g, (s.tile g).throttle ≤ 12) :
    SameBytes r (gs.foldl (fun s g => s.throttle level g) s) ∧ (gs.foldl (fun s g => s.throttle level g) s).plim = s.plim ∧
      (∀ g, ((gs.foldl (fun s g => s.throttle level g) s).tile g).throttle ≤ 12) ∧
      ∀ g, g ∉ gs → ((gs.foldl (fun s g => s.throttle level g) s).tile g).throttle = (s.tile g).throttle := by
  induction gs generalizing s with
  | nil => exact ⟨hs, rfl, hlow, fun _ _ => rfl⟩
  | cons h gs ih =>
    have htile : ∀ g, (s.throttle level h).tile g = (s.setTile h { s.tile h with throttle := level h }).tile g := by
      intro g
      unfold State.throttle
      dsimp only
      split <;> rfl
    have hplim : (s.throttle level h).plim = s.plim := by
      unfold State.throttle
      dsimp only
      split <;> rfl
    have hbytes : SameBytes r (s.throttle level h) := by
      have hset : SameBytes r (s.setTile h { s.tile h with throttle := level h }) := hs.setTile rfl
      unfold State.throttle
      dsimp only
      split
      · exact hset
      · exact hset
    obtain ⟨hsame, hplims, hlows, hothers⟩ := ih (s.throttle level h) hbytes fun g => by
      rw [htile, State.tile_setTile]
      split
      · exact hlevel h
      · exact hlow g
    refine ⟨hsame, hplims.trans hplim, hlows, fun g hg => ?_⟩
    obtain ⟨hne, hrest⟩ := not_or.1 (List.mem_cons.not.1 hg)
    rw [List.foldl_cons, hothers g hrest, htile, State.tile_setTile, if_neg hne]

end Sys2Proof.Machine

/-!
The apportioner's period and the record in flash (R382, R383)
-/

namespace Sys2Proof

/-- A number among numbers written in a row. -/
theorem Memory.num_row (w : Nat) (m : Memory) (a : Nat) {vs : List Nat} {k : Nat} (h : k < vs.length) :
    Memory.num (Memory.setBytes m a (vs.map (leBytes w)).flatten) (a + w * k) w = vs.getD k 0 % 2 ^ (8 * w) := by
  induction vs generalizing m a k with
  | nil => cases h
  | cons v vs ih =>
    rw [List.map_cons, List.flatten_cons, Memory.setBytes_append, leBytes_length]
    cases k with
    | zero =>
      rw [Memory.num_setBytes_outside _ _ (fun i hi => .inl (by omega)), Nat.mul_zero, Nat.add_zero, Memory.num_setBytes_mod]
      rfl
    | succ k =>
      have hnext := ih (Memory.setBytes m a (leBytes w v)) (a + w) (Nat.lt_of_succ_lt_succ h)
      rwa [show a + w + w * k = a + w * (k + 1) by rw [Nat.mul_succ]; omega] at hnext

end Sys2Proof

namespace Sys2Proof.Machine

open Host (Outcome)

/-! A period of the apportioner. -/

/-- The throttle levels of a period (R385). -/
def State.levels (s : State) (g : Nat) : Nat :=
  throttleLevel (Config.staticPower g) (Config.demandPower (s.fresh + g))
    (fillLevel (s.freeTiles.foldl (fun l g => insertNat (Config.demandPower (s.fresh + g)) l) []) (1000 * s.plim - s.reserved))

/-- No tile throttled. -/
def State.calmed (s : State) : State :=
  { s with tiles := s.tiles.map (fun (e : Nat × Tile) => (e.1, { e.2 with throttle := 0 })) }

theorem State.tile_calmed (s : State) (g : Nat) : s.calmed.tile g = { s.tile g with throttle := 0 } :=
  Store.get_map (d := Tile.idle) (fun t : Tile => { t with throttle := 0 }) rfl s.tiles g

theorem State.beginPeriod_bare {s : State} (h : s.ctxs = []) :
    s.beginPeriod = { ({ s with plim := s.readPlim } : State).freeTiles.foldl
      (fun u g => u.throttle ({ s with plim := s.readPlim } : State).levels g) ({ s with plim := s.readPlim } : State).calmed with
      fresh := s.fresh + 644, guardband := bringUpBands (s.fresh + 640) } := by
  have hnone : State.acceptDatum { s with plim := s.readPlim } = { s with plim := s.readPlim } := by
    unfold State.acceptDatum
    dsimp only
    rw [h]
    rfl
  unfold State.beginPeriod
  rw [hnone]
  rfl

theorem State.not_mem_freeTiles {s : State} {g : Nat} (h : ∀ e ∈ s.parts, e.2.datum = false → g ∉ e.2.tiles) :
    g ∉ s.freeTiles := by
  intro hmem
  obtain ⟨gs, hgs, hg⟩ := List.mem_flatten.1 hmem
  obtain ⟨e, he, rfl⟩ := List.mem_map.1 hgs
  obtain ⟨he, hdatum⟩ := List.mem_filter.1 he
  exact h e he (by simpa using hdatum) (List.mem_filter.1 hg).1

theorem apportionerPeriod_leaves {s : State} (h : s.ctxs = []) :
    ∃ t, exec .apportionerPeriod s = .next t ∧ SameBytes s t ∧
      t.plim = min 3600 (max 600 (Memory.num s.hbm (serviceFrame 0 + 0x10000) 2 % 2 ^ 12)) ∧
      ∀ g, (t.tile g).throttle ≤ 12 ∧
        ((∀ e ∈ s.parts, e.2.datum = false → g ∉ e.2.tiles) → (t.tile g).throttle = 0) := by
  generalize hu : ({ s with plim := s.readPlim } : State) = u
  have hcalm : SameBytes s u.calmed := by
    refine ⟨fun a => by rw [← hu]; rfl, fun a => by rw [← hu]; rfl, fun g a => ?_⟩
    rw [State.tile_calmed, ← hu]
    rfl
  have hlow : ∀ g, (u.calmed.tile g).throttle = 0 := fun g => by rw [State.tile_calmed]
  obtain ⟨hsame, hplim, hlows, hothers⟩ := State.foldl_throttle (level := u.levels) (fun g => throttleLevel_le ..)
    u.freeTiles u.calmed hcalm fun g => by rw [hlow]; exact Nat.zero_le _
  have hrun : exec .apportionerPeriod s = .next { u.freeTiles.foldl (fun w g => w.throttle u.levels g) u.calmed with
      fresh := s.fresh + 644, guardband := bringUpBands (s.fresh + 640) } := by
    rw [← hu]
    exact congrArg Outcome.next (State.beginPeriod_bare h)
  have hlimit : u.calmed.plim = min 3600 (max 600 (Memory.num s.hbm (serviceFrame 0 + 0x10000) 2 % 2 ^ 12)) := by
    rw [← hu]
    rfl
  have hfree : u.parts = s.parts := by rw [← hu]
  generalize u.freeTiles.foldl (fun w g => w.throttle u.levels g) u.calmed = w at hrun hsame hplim hlows hothers
  refine ⟨_, hrun, hsame, hplim.trans hlimit, fun g => ⟨hlows g, fun hg => (hothers g ?_).trans (hlow g)⟩⟩
  exact State.not_mem_freeTiles (by rwa [hfree])

/-! The record in flash (R382). -/

theorem State.hbm_writeMirror (s : State) : ∃ m, s.writeMirror.hbm = Memory.setBytes m (serviceFrame 0 + 0x20000)
    ((s.monument.map fun e => e.toNat).map (leBytes 16)).flatten := by
  refine ⟨(s.clearPhys (serviceFrame 0 + 0x20000) 0x10000).hbm, ?_⟩
  rw [State.writeMirror, State.hbm_writePhys, List.map_map]
  rfl

theorem State.writeMirror_entry (s : State) {k : Nat} {e : BitVec 128} (he : s.monument[k]? = some e) :
    Memory.num s.writeMirror.hbm (serviceFrame 0 + 0x20000 + 16 * k) 16 = e.toNat := by
  obtain ⟨hk, hget⟩ := List.getElem?_eq_some_iff.1 he
  obtain ⟨m, hm⟩ := s.hbm_writeMirror
  rw [hm, Memory.num_row 16 _ _ (by rwa [List.length_map]), List.getD_eq_getElem _ _ (by rwa [List.length_map]),
    List.getElem_map, hget]
  exact Nat.mod_eq_of_lt e.isLt

theorem monumentFlashComplete_leaves (s : State) :
    (s.flashing = [] → exec .monumentFlashComplete s = .next s) ∧
    (s.flashing ≠ [] → ∃ t, exec .monumentFlashComplete s = .next t ∧ t.flashing = s.flashing.tail ∧
      t.monument = s.monument ∧ t.tiles = s.tiles ∧ ∀ k e, k < 4096 → s.monument[k]? = some e →
        Memory.num t.hbm (serviceFrame 0 + 0x20000 + 16 * k) 16 = e.toNat) := by
  refine ⟨fun h => ?_, fun h => ?_⟩
  · change Outcome.next s.flashed = _
    rw [State.flashed, if_pos (List.isEmpty_iff.2 h)]
  · have hrun : exec .monumentFlashComplete s = .next ({ s with flashing := s.flashing.tail } : State).writeMirror := by
      change Outcome.next s.flashed = _
      rw [State.flashed, if_neg (by rwa [List.isEmpty_iff])]
    exact ⟨_, hrun, rfl, rfl, rfl, fun k e _ he => State.writeMirror_entry { s with flashing := s.flashing.tail } he⟩

end Sys2Proof.Machine

/-!
Bring-up (R387)
-/

namespace Sys2Proof.Machine

open Host (Outcome)

/-! Bring-up (R387). -/

/-- The package as a reset finds it: what outlasts the reset. -/
def State.keptBy (s : State) (found : BringUp) : State :=
  { State.reset with
    host := s.host, hostBad := s.hostBad, hostPoison := s.hostPoison, badFrames := s.badFrames, out := s.out,
      fresh := s.fresh + 4, agenda := s.agenda,
    counts := s.counts.filter (fun e => isErrorKey e.1), monument := s.monument,
    flashing := s.flashing.map (fun t => t - s.now), spares := (usedSpares s.monument ++ found.spares).eraseDups,
    broken := s.broken ++ found.tiles, downPorts := found.ports, guardband := bringUpBands s.fresh, calib := s.calib,
    rising := true }

/-- Self-test of what it finds faulty, and of what the record has lost. -/
def State.tested (s : State) (found : BringUp) (again : List Nat) : State :=
  ((again ++ found.tiles).eraseDups.filter (fun g => (s.tile g).inService)).foldl (fun s g => s.selfTest g) s

/-- From `s` to `t` the stages of a bring-up: tiles hold nothing, the record may have grown, and nothing else that a reset sets
has changed. -/
structure State.Rises (s t : State) : Prop where
  powered : t.powered = s.powered
  now : t.now = s.now
  parts : t.parts = s.parts
  ctxs : t.ctxs = s.ctxs
  cards : t.cards = s.cards
  saved : t.saved = s.saved
  dev : t.dev = s.dev
  ptp : t.ptp = s.ptp
  plim : t.plim = s.plim
  counts : t.counts = s.counts
  ports : t.downPorts = s.downPorts
  rising : t.rising = s.rising
  monument : ∃ more, t.monument = s.monument ++ more
  idle : (∀ g, ({ s.tile g with inService := true } : Tile) = Tile.idle) →
    ∀ g, ({ t.tile g with inService := true } : Tile) = Tile.idle

theorem State.Rises.refl (s : State) : s.Rises s :=
  ⟨rfl, rfl, rfl, rfl, rfl, rfl, rfl, rfl, rfl, rfl, rfl, rfl, ⟨[], (List.append_nil _).symm⟩, id⟩

theorem State.Rises.trans {s t u : State} (h : s.Rises t) (h' : t.Rises u) : s.Rises u := by
  obtain ⟨more, hmore⟩ := h.monument
  obtain ⟨more', hmore'⟩ := h'.monument
  exact ⟨h'.powered.trans h.powered, h'.now.trans h.now, h'.parts.trans h.parts, h'.ctxs.trans h.ctxs,
    h'.cards.trans h.cards, h'.saved.trans h.saved, h'.dev.trans h.dev, h'.ptp.trans h.ptp, h'.plim.trans h.plim,
    h'.counts.trans h.counts, h'.ports.trans h.ports, h'.rising.trans h.rising,
    ⟨more ++ more', by rw [hmore', hmore, List.append_assoc]⟩, h'.idle ∘ h.idle⟩

theorem State.Rises.foldl {α : Type} {f : State → α → State} (h : ∀ (s : State) (a : α), s.Rises (f s a)) (as : List α) (s : State) :
    s.Rises (as.foldl f s) := by
  induction as generalizing s with
  | nil => exact .refl s
  | cons a as ih => exact (h s a).trans (ih _)

theorem State.rises_setTile {s : State} {g : Nat} {u : Tile}
    (h : ({ s.tile g with inService := true } : Tile) = Tile.idle → ({ u with inService := true } : Tile) = Tile.idle) :
    s.Rises (s.setTile g u) := by
  refine ⟨rfl, rfl, rfl, rfl, rfl, rfl, rfl, rfl, rfl, rfl, rfl, rfl, ⟨[], (List.append_nil _).symm⟩, fun hidle k => ?_⟩
  rw [State.tile_setTile]
  split
  · exact h (hidle g)
  · exact hidle k

theorem State.rises_shut (s : State) (gs : List Nat) : s.Rises (s.shut gs) :=
  .foldl (fun s g => State.rises_setTile (g := g) (u := { s.tile g with inService := false }) id) gs s

theorem State.rises_writePhys (s : State) (a : Nat) (bs : List Byte) : s.Rises (s.writePhys a bs) :=
  ⟨rfl, rfl, rfl, rfl, rfl, rfl, rfl, rfl, rfl, rfl, rfl, rfl, ⟨[], (List.append_nil _).symm⟩, id⟩

theorem State.rises_appendMonument (s : State) (kind fields : Nat) : s.Rises (s.appendMonument kind fields) := by
  unfold State.appendMonument
  split
  · exact ⟨rfl, rfl, rfl, rfl, rfl, rfl, rfl, rfl, rfl, rfl, rfl, rfl, ⟨_, rfl⟩, id⟩
  · exact s.rises_writePhys ..

theorem State.rises_mapSpare (s : State) (g : Nat) : s.Rises (s.mapSpare g) := by
  unfold State.mapSpare
  split
  · next n _ =>
    split
    · exact .refl s
    · have hspare : s.Rises { s.setTile g Tile.idle with spares := s.spares ++ [(dieOf g, n)] } :=
        (State.rises_setTile (g := g) (u := Tile.idle) fun _ => rfl).trans
          ⟨rfl, rfl, rfl, rfl, rfl, rfl, rfl, rfl, rfl, rfl, rfl, rfl, ⟨[], (List.append_nil _).symm⟩, id⟩
      exact hspare.trans (State.rises_appendMonument ..)
  · exact .refl s

theorem State.rises_tested (s : State) (found : BringUp) (again : List Nat) : s.Rises (s.tested found again) :=
  .foldl (fun s g => ((s.rises_shut [g]).trans (State.rises_appendMonument ..)).trans (State.rises_mapSpare _ g)) _ s

theorem State.tile_shut (gs : List Nat) : ∀ (s : State) (g : Nat), g ∈ gs → ((s.shut gs).tile g).inService = false := by
  have hout : ∀ (hs : List Nat) (s : State) (g : Nat), (s.tile g).inService = false → ((s.shut hs).tile g).inService = false := by
    intro hs
    induction hs with
    | nil => exact fun _ _ h => h
    | cons k hs ih =>
      intro s g hg
      refine ih _ g ?_
      rw [State.tile_setTile]
      split
      · rfl
      · exact hg
  induction gs with
  | nil => exact fun _ _ h => nomatch h
  | cons k gs ih =>
    intro s g hg
    rcases List.mem_cons.1 hg with rfl | hrest
    · exact hout gs _ g (by rw [State.tile_setTile_same])
    · exact ih _ g hrest

theorem State.rises_writeMirror (s : State) : s.Rises s.writeMirror := by
  have hclear : ∀ a n, s.Rises (s.clearPhys a n) := fun _ _ =>
    ⟨rfl, rfl, rfl, rfl, rfl, rfl, rfl, rfl, rfl, rfl, rfl, rfl, ⟨[], (List.append_nil _).symm⟩, id⟩
  exact (hclear _ _).trans (State.rises_writePhys ..)

theorem State.rises_writeMarker (s : State) : s.Rises s.writeMarker := State.rises_writePhys ..

/-- The hub told to take no command before the bring-up has ended. -/
def State.heldBack (s : State) (dies : List Nat) : State := State.devSet { s with deadDies := dies } 0x1010 0

theorem State.bringUp_stages (s : State) (found : BringUp) :
    s.bringUp found = (((((s.keptBy found).shut (retiredTiles s.monument)).tested found s.foundAgain).shut
      ((List.range 640).filter (fun g => found.dies.contains (dieOf g)))).heldBack found.dies).writeMirror.writeMarker := rfl

theorem State.get_keptCounts (s : State) (k : Nat) :
    Store.get 0 (s.counts.filter fun e => isErrorKey e.1) k = if isErrorKey k then Store.get 0 s.counts k else 0 :=
  Store.get_filter_key 0 isErrorKey s.counts k

theorem isErrorKey_iff (k : Nat) : isErrorKey k = true ↔ ∀ d, d < 4 → k ≠ 2003 + 4 * d := by
  simp only [isErrorKey, dieKey, List.all_cons, List.all_nil, Bool.and_true, Bool.and_eq_true, bne_iff_ne]
  constructor
  · rintro ⟨h0, h1, h2, h3⟩ d hd
    omega
  · intro h
    exact ⟨h 0 (by decide), h 1 (by decide), h 2 (by decide), h 3 (by decide)⟩

/-- What a bring-up leaves (R387). -/
theorem State.bringUp_leaves (s : State) (found : BringUp) :
    ∃ more, (s.bringUp found).powered = true ∧ (s.bringUp found).now = 0 ∧ (s.bringUp found).parts = [] ∧
      (s.bringUp found).ctxs = [] ∧ (s.bringUp found).cards = [] ∧ (s.bringUp found).saved = [] ∧
      (s.bringUp found).devGet 0x1010 = 0 ∧ (s.bringUp found).rising = true ∧
      (∀ off, off ≠ 0x1010 → (s.bringUp found).devGet off = State.reset.devGet off) ∧
      (s.bringUp found).ptp = State.reset.ptp ∧ (s.bringUp found).plim = 3600 ∧
      (s.bringUp found).counts = s.counts.filter (fun e => isErrorKey e.1) ∧
      (s.bringUp found).monument = s.monument ++ more ∧ (s.bringUp found).downPorts = found.ports ∧
      (∀ g, ({ (s.bringUp found).tile g with inService := true } : Tile) = Tile.idle) ∧
      ∀ g, g < 640 → dieOf g ∈ found.dies → ((s.bringUp found).tile g).inService = false := by
  have hrises := (((s.keptBy found).rises_shut (retiredTiles s.monument)).trans
    (State.rises_tested _ found s.foundAgain)).trans
    (State.rises_shut _ ((List.range 640).filter (fun g => found.dies.contains (dieOf g))))
  have hshut := State.tile_shut ((List.range 640).filter (fun g => found.dies.contains (dieOf g)))
    (((s.keptBy found).shut (retiredTiles s.monument)).tested found s.foundAgain)
  have hstages := s.bringUp_stages found
  generalize (((s.keptBy found).shut (retiredTiles s.monument)).tested found s.foundAgain).shut
    ((List.range 640).filter (fun g => found.dies.contains (dieOf g))) = u at hrises hshut hstages
  have hlast := (u.heldBack found.dies).rises_writeMirror.trans (State.rises_writeMarker _)
  have htile : ∀ g, (s.bringUp found).tile g = u.tile g := fun g => by rw [hstages]; rfl
  have hgrown : (s.bringUp found).monument = u.monument := by rw [hstages]; rfl
  rw [← hstages] at hlast
  generalize s.bringUp found = t at *
  obtain ⟨more, hmore⟩ := hrises.monument
  have hdev : t.dev = (State.reset.devSet 0x1010 0).dev := by
    rw [hlast.dev]
    exact congrArg (fun d => Store.set (devReset 0x1010) d 0x1010 0) hrises.dev
  refine ⟨more, hlast.powered.trans hrises.powered, hlast.now.trans hrises.now, hlast.parts.trans hrises.parts,
    hlast.ctxs.trans hrises.ctxs, hlast.cards.trans hrises.cards, hlast.saved.trans hrises.saved, ?_,
    hlast.rising.trans hrises.rising, fun off hoff => ?_, hlast.ptp.trans hrises.ptp, hlast.plim.trans hrises.plim,
    hlast.counts.trans hrises.counts, hgrown.trans hmore, hlast.ports.trans hrises.ports, fun g => ?_, fun g hg hdie => ?_⟩
  · rw [State.devGet, hdev]
    exact State.devGet_devSet_same ..
  · rw [State.devGet, hdev]
    exact State.devGet_devSet_ne State.reset 0 hoff
  · rw [htile]
    exact hrises.idle (fun g => rfl) g
  · rw [htile]
    exact hshut g (List.mem_filter.2 ⟨List.mem_range.2 hg, List.contains_iff_mem.2 hdie⟩)

end Sys2Proof.Machine

/-!
Errors and power
-/

namespace Sys2Proof.Machine

open Host (Outcome)

/-! Self-test of a tile (R387). -/

/-- The package with a tile's first spare used. -/
def State.spared (s : State) (g : Nat) : State := { s.setTile g Tile.idle with spares := s.spares ++ [(dieOf g, 0)] }

theorem State.mapSpare_first {s : State} {g : Nat} (hspares : s.spares = []) (hdead : s.deadDies = [])
    (hout : (s.tile g).inService = false) : s.mapSpare g = (s.spared g).appendMonument 1 (tileEntry g 0) := by
  have hfree : s.freeSpare (dieOf g) = some 0 := by
    rw [State.freeSpare, hspares]
    rfl
  have hgone : ¬ ((s.tile g).inService = true ∨ s.deadDies.contains (dieOf g) = true) := by
    rw [hout, hdead]
    simp
  unfold State.mapSpare
  rw [hfree]
  exact if_neg hgone

/-- A faulty tile of a package with an empty record is retired and spared. -/
theorem State.selfTest_spares {s : State} {g : Nat} (hg : g < 640) (hrecord : s.monument = []) (hspares : s.spares = [])
    (hdead : s.deadDies = []) :
    ∃ e f, (s.selfTest g).monument = [e, f] ∧ e.toNat / 2 ^ 120 = 2 ∧ e.toNat / 2 ^ 95 % 2 ^ 10 = g ∧
      f.toNat / 2 ^ 120 = 1 ∧ f.toNat / 2 ^ 95 % 2 ^ 10 = g ∧ ((s.selfTest g).tile g).inService = true := by
  obtain ⟨hretired, hretiredTile⟩ := (s.shut [g]).tileEntry_says (kind := 2) (spare := 0) (by decide) hg (by decide)
  have hshut : (s.shut [g]).monument = [] := hrecord
  have hout : (((s.shut [g]).appendMonument 2 (tileEntry g 0)).tile g).inService = false := by
    rw [State.tile, State.tiles_appendMonument]
    exact State.tile_shut [g] s g (List.mem_singleton_self g)
  have hentry := State.monument_append (s := s.shut [g]) (by rw [hshut]; decide) 2 (tileEntry g 0)
  have htest : s.selfTest g = (((s.shut [g]).appendMonument 2 (tileEntry g 0)).spared g).appendMonument 1 (tileEntry g 0) := by
    refine State.mapSpare_first ?_ ?_ hout
    · rw [hentry]
      exact hspares
    · rw [hentry]
      exact hdead
  generalize hv : ((s.shut [g]).appendMonument 2 (tileEntry g 0)).spared g = v at htest
  have hmonument : v.monument = [BitVec.ofNat 128 (2 * 2 ^ 120 + tileEntry g 0 + (s.shut [g]).tai)] := by
    rw [← hv, hentry]
    exact congrArg (· ++ _) hshut
  have hidle : v.tile g = Tile.idle := by
    rw [← hv]
    exact State.tile_setTile_same ..
  obtain ⟨hspared, hsparedTile⟩ := v.tileEntry_says (kind := 1) (spare := 0) (by decide) hg (by decide)
  refine ⟨_, _, ?_, hretired, hretiredTile, hspared, hsparedTile, ?_⟩
  · rw [htest, State.monument_append (by rw [hmonument, List.length_singleton]; decide), hmonument]
    rfl
  · rw [htest, State.tile, State.tiles_appendMonument]
    exact congrArg (fun t : Tile => t.inService) hidle

theorem retiredTiles_nil : retiredTiles [] = [] := List.filter_eq_nil_iff.2 fun g _ => by simp [entriesOf]

/-- A bring-up that finds one faulty tile, of a package whose part is sound. -/
theorem packageReset_spares {s : State} {g : Nat} (hg : g < 640) (hrecord : s.monument = []) (hbroken : s.broken = []) :
    ∃ t e f, exec (.packageReset ⟨[g], []⟩ ⟨[], []⟩) s = .next t ∧ t.monument = [e, f] ∧ e.toNat / 2 ^ 120 = 2 ∧
      e.toNat / 2 ^ 95 % 2 ^ 10 = g ∧ f.toNat / 2 ^ 120 = 1 ∧ f.toNat / 2 ^ 95 % 2 ^ 10 = g ∧ (t.tile g).inService = true := by
  generalize hk : s.keptBy ⟨⟨[g], []⟩, ⟨[], []⟩⟩ = k
  obtain ⟨e, f, hboth, hekind, hetile, hfkind, hftile, hserves⟩ := State.selfTest_spares (s := k) hg (by rw [← hk]; exact hrecord)
    (by rw [← hk, State.keptBy, hrecord]; rfl) (by rw [← hk]; rfl)
  have hagain : s.foundAgain = [] := by
    rw [State.foundAgain, hbroken]
    rfl
  have htested : k.tested ⟨⟨[g], []⟩, ⟨[], []⟩⟩ [] = k.selfTest g := by
    have hfound : (([] ++ [g] : List Nat).eraseDups.filter fun g => (k.tile g).inService) = [g] := by
      rw [← hk]
      rfl
    rw [State.tested, hfound]
    rfl
  have hnoDies : (List.range 640).filter (fun g => ([] : List Nat).contains (dieOf g)) = [] :=
    List.filter_eq_nil_iff.2 fun _ _ => Bool.false_ne_true
  have hrun : exec (.packageReset ⟨[g], []⟩ ⟨[], []⟩) s =
      .next (((k.selfTest g).heldBack []).writeMirror.writeMarker) := by
    change Outcome.next (s.bringUp ⟨⟨[g], []⟩, ⟨[], []⟩⟩) = _
    rw [State.bringUp_stages, hk, hrecord, retiredTiles_nil, hagain]
    dsimp only
    rw [hnoDies, State.shut, List.foldl_nil, State.shut, List.foldl_nil, htested]
  generalize k.selfTest g = w at hrun hboth hserves
  exact ⟨_, e, f, hrun, hboth, hekind, hetile, hfkind, hftile, hserves⟩

/-! Power. -/

theorem thermalTrip_records {s : State} (die : Nat) (found : BringUp) (hroom : s.monument.length < 4096) :
    ∃ t e more, exec (.thermalTrip (die, found)) s = .next t ∧ t.now = 0 ∧ t.parts = [] ∧ t.ctxs = [] ∧
      t.monument = s.monument ++ e :: more ∧ e.toNat / 2 ^ 120 = 4 := by
  obtain ⟨more, -, hnow, hparts, hctxs, -, -, -, -, -, -, -, -, hmore, -, -, -⟩ := (s.appendMonument 4 0).bringUp_leaves found
  refine ⟨_, BitVec.ofNat 128 (4 * 2 ^ 120 + 0 + s.tai), more, rfl, hnow, hparts, hctxs, ?_, ?_⟩
  · rw [hmore, State.monument_append hroom, List.append_assoc]
    rfl
  · have htai := s.tai_lt
    rw [BitVec.toNat_ofNat, Nat.mod_eq_of_lt (by omega)]
    omega

/-- The step in which a bring-up ends (R387). -/
theorem step_rises {s : State} (hpower : s.powered = true) (hrising : s.rising = true) (hagenda : s.agenda = [])
    (hturn : s.turn = []) : step s = .next s.risen := by
  rw [step_quiet hagenda hturn hpower, State.quiet, if_pos hrising]

theorem step_powerless {s : State} (hpower : s.powered = false) (hagenda : s.agenda = []) : step s = .fault .powerOff := by
  have hnone : s.nextEvent = none := by simp [State.nextEvent, hagenda, hpower, takeFirst]
  rw [step, State.advance, hnone]
  cases s.turn with
  | nil => exact if_neg (by rw [hpower]; exact Bool.false_ne_true)
  | cons w more => exact if_neg (by rw [hpower]; exact Bool.false_ne_true)

/-- Settles O55. -/
theorem errorsAndPower : Obligations.ErrorsAndPower := by
  unfold Obligations.ErrorsAndPower
  refine ⟨fun s n => rfl, recalibration_leaves, fun s n => ⟨_, rfl, .refl s, rfl, s.get_countUp _⟩, fun s p => ?_, hbmScrub_poisons,
    fun s g hg hlive howner hchunk hroom => machineCheck_idle hg hlive howner hchunk hroom,
    fun s g c gl stack frame hglob => hbmWord_faults hglob stack frame, fun s hpoison => telemetryWrite_leaves hpoison,
    fun s hctxs => apportionerPeriod_leaves hctxs, monumentFlashComplete_leaves, fun s found => ?_,
    fun s g hg hrecord hbroken => packageReset_spares hg hrecord hbroken, fun s hpower hrising hagenda hturn => ?_,
    fun s die found hroom => thermalTrip_records die found hroom, fun s => ⟨_, rfl, rfl, rfl, rfl, rfl, rfl, rfl⟩,
    fun s hpower hagenda => step_powerless hpower hagenda⟩
  · cases p with
    | tile g corrected =>
      cases corrected with
      | false => exact ⟨s, rfl, .refl s, rfl, nofun, nofun, nofun, fun _ _ => rfl⟩
      | true =>
        refine ⟨_, rfl, .refl s, rfl, ?_, nofun, nofun, nofun⟩
        rintro h ⟨⟩
        exact s.get_countUp _
    | dieCache d corrected =>
      cases corrected with
      | false => exact ⟨s, rfl, .refl s, rfl, nofun, nofun, nofun, nofun⟩
      | true =>
        refine ⟨_, rfl, .refl s, rfl, nofun, ?_, nofun, nofun⟩
        rintro h ⟨⟩
        exact s.get_countUp _
    | stack n fixed pass =>
      obtain ⟨t, hrun, hsame, htiles, hfixed, hpass⟩ := patrolScrub_stack s n fixed pass
      refine ⟨t, hrun, hsame, htiles, nofun, nofun, ?_, nofun⟩
      rintro n fixed pass ⟨⟩
      exact ⟨hfixed, hpass⟩
  · obtain ⟨more, hpowered, hnow, hparts, hctxs, hcards, hsaved, hstatus, hrising, hregs, hptp, hplim, hcounts, hmore, hports,
      hidle, hdead⟩ := s.bringUp_leaves found
    have hkept : ∀ k, (∀ d, d < 4 → k ≠ 2003 + 4 * d) → Store.get 0 (s.bringUp found).counts k = Store.get 0 s.counts k := by
      intro k hk
      rw [hcounts, State.get_keptCounts, if_pos ((isErrorKey_iff k).2 hk)]
    refine ⟨_, more, rfl, hpowered, hnow, hparts, hctxs, hcards, hsaved, hstatus, hrising, hregs, hptp, hplim,
      fun n hn => hkept n (by omega), fun n k hn hk => hkept _ (by unfold stackKey; omega),
      fun d k hd hk => hkept _ (by unfold dieKey; omega), fun d hd => ?_, hmore, hports, hidle, hdead⟩
    rw [hcounts, State.get_keptCounts, if_neg]
    intro h
    exact (isErrorKey_iff _).1 h d hd (by unfold dieKey; omega)
  · exact ⟨_, step_rises hpower hrising hagenda hturn, rfl,
      State.devGet_devSet_same s 0x1010 0x8000000000000000, rfl, .refl s⟩

end Sys2Proof.Machine

/-!
O60, the frame: the invariant taken apart, and the shapes of the operations that keep it.
-/

namespace Sys2Proof.Machine

open Host (Outcome)

/-! The invariant of O60 taken apart, and the shapes in which the model's operations keep it. -/

theorem MemoriesCanonical.intro {s : State} (hbm : Memory.wf s.hbm = true) (host : Memory.wf s.host = true)
    (tiles : ∀ e ∈ s.tiles, Memory.wf e.2.scratch = true) (saved : ∀ e ∈ s.saved, Memory.wf e.2.tile.scratch = true) :
    MemoriesCanonical s := ⟨hbm, host, tiles, saved⟩

theorem MemoriesCanonical.hbm {s : State} (h : MemoriesCanonical s) : Memory.wf s.hbm = true := h.1

theorem MemoriesCanonical.host {s : State} (h : MemoriesCanonical s) : Memory.wf s.host = true := h.2.1

theorem MemoriesCanonical.tiles {s : State} (h : MemoriesCanonical s) : ∀ e ∈ s.tiles, Memory.wf e.2.scratch = true := h.2.2.1

theorem MemoriesCanonical.saved {s : State} (h : MemoriesCanonical s) : ∀ e ∈ s.saved, Memory.wf e.2.tile.scratch = true :=
  h.2.2.2

theorem MemoriesCanonical.ite {s t : State} {c : Prop} [Decidable c] (hs : MemoriesCanonical s) (ht : MemoriesCanonical t) :
    MemoriesCanonical (if c then s else t) := by
  split
  · exact hs
  · exact ht

/-- A conditional change of a canonical state. -/
theorem MemoriesCanonical.ite_then {s t : State} {c : Prop} [Decidable c] (h : MemoriesCanonical s)
    (ht : MemoriesCanonical s → MemoriesCanonical t) : MemoriesCanonical (if c then t else s) := (ht h).ite h

theorem MemoriesCanonical.ite_else {s t : State} {c : Prop} [Decidable c] (h : MemoriesCanonical s)
    (ht : MemoriesCanonical s → MemoriesCanonical t) : MemoriesCanonical (if c then s else t) := h.ite (ht h)

theorem Tile.wf_ite {t u : Tile} {c : Prop} [Decidable c] (ht : Memory.wf t.scratch = true)
    (hu : Memory.wf u.scratch = true) : Memory.wf (if c then t else u).scratch = true := by
  split
  · exact ht
  · exact hu

theorem Tile.wf_ite_then {t u : Tile} {c : Prop} [Decidable c] (ht : Memory.wf t.scratch = true)
    (hu : Memory.wf t.scratch = true → Memory.wf u.scratch = true) : Memory.wf (if c then u else t).scratch = true :=
  Tile.wf_ite (hu ht) ht

theorem MemoriesCanonical.foldl {α : Type} {f : State → α → State} {l : List α} {s : State} (h : MemoriesCanonical s)
    (hf : ∀ s a, MemoriesCanonical s → MemoriesCanonical (f s a)) : MemoriesCanonical (l.foldl f s) := by
  induction l generalizing s with
  | nil => exact h
  | cons a l ih => exact ih (hf s a h)

theorem Tile.wf_foldl {α : Type} {f : Tile → α → Tile} {l : List α} {t : Tile} (h : Memory.wf t.scratch = true)
    (hf : ∀ t a, Memory.wf t.scratch = true → Memory.wf (f t a).scratch = true) :
    Memory.wf (l.foldl f t).scratch = true := by
  induction l generalizing t with
  | nil => exact h
  | cons a l ih => exact ih (hf t a h)

theorem MemoriesCanonical.ite_fst {α : Type} {s t : State × α} {c : Prop} [Decidable c] (hs : MemoriesCanonical s.1)
    (ht : MemoriesCanonical t.1) : MemoriesCanonical (if c then s else t).1 := by
  split
  · exact hs
  · exact ht

theorem MemoriesCanonical.ite_snd {α : Type} {s t : α × State} {c : Prop} [Decidable c] (hs : MemoriesCanonical s.2)
    (ht : MemoriesCanonical t.2) : MemoriesCanonical (if c then s else t).2 := by
  split
  · exact hs
  · exact ht

/-- A fold that carries a state with something else. -/
theorem MemoriesCanonical.foldl_fst {α β : Type} {f : State × β → α → State × β} {l : List α} {s : State × β}
    (h : MemoriesCanonical s.1) (hf : ∀ s a, MemoriesCanonical s.1 → MemoriesCanonical (f s a).1) :
    MemoriesCanonical (l.foldl f s).1 := by
  induction l generalizing s with
  | nil => exact h
  | cons a l ih => exact ih (hf s a h)

/-- Every tile of a mapped list is canonical where the map keeps canonical scratch. -/
theorem Tile.wf_map {f : Nat × Tile → Nat × Tile} {m : Store Tile} (h : ∀ e ∈ m, Memory.wf e.2.scratch = true)
    (hf : ∀ e, Memory.wf e.2.scratch = true → Memory.wf (f e).2.scratch = true) :
    ∀ e ∈ m.map f, Memory.wf e.2.scratch = true := by
  intro e he
  obtain ⟨a, ha, rfl⟩ := List.mem_map.1 he
  exact hf a (h a ha)

theorem Store.mem_of_find {α : Type} {m : Store α} {k : Nat} {v : α} (h : Store.find m k = some v) : (k, v) ∈ m := by
  induction m with
  | nil => cases h
  | cons e m ih =>
    obtain ⟨j, u⟩ := e
    rw [Store.find] at h
    split at h
    · next hj =>
      obtain rfl := Option.some.inj h
      exact List.mem_cons.2 (.inl (Prod.ext hj.symm rfl))
    · exact List.mem_cons_of_mem _ (ih h)

/-- A store whose keys are all at least `a`, its keys counted from `a`. -/
theorem Store.wf_shift {α : Type} [DecidableEq α] {d : α} {m : Store α} {a : Nat} (h : Store.wf d m = true)
    (ha : ∀ e ∈ m, a ≤ e.1) : Store.wf d (m.map (fun c => (c.1 - a, c.2))) = true := by
  induction m with
  | nil => rfl
  | cons e m ih =>
    obtain ⟨k, v⟩ := e
    simp only [Store.wf, Bool.and_eq_true] at h
    simp only [List.map_cons, Store.wf, Bool.and_eq_true]
    refine ⟨⟨?_, h.1.2⟩, ih h.2 (fun e he => ha e (List.mem_cons_of_mem _ he))⟩
    have hk := h.1.1
    have hak : a ≤ k := ha (k, v) List.mem_cons_self
    simp only [Store.above, List.all_eq_true, decide_eq_true_eq, List.mem_map] at hk ⊢
    rintro _ ⟨e, he, rfl⟩
    have := hk e he
    omega

/-- A part of a canonical memory, its addresses counted from the part's first. -/
theorem Memory.wf_part {m : Memory} {a n : Nat} (h : Memory.wf m = true) : Memory.wf (Memory.part m a n) = true := by
  refine Store.wf_shift (Store.wf_filter 0 _ m h) (fun e he => ?_)
  have := (List.mem_filter.1 he).2
  simp only [decide_eq_true_eq] at this
  exact this.1

/-- The scratch of a saved task. -/
theorem MemoriesCanonical.saved_find {s : State} (h : MemoriesCanonical s) {uid : Nat} {v : Saved}
    (hv : Store.find s.saved uid = some v) : Memory.wf v.tile.scratch = true := h.saved _ (Store.mem_of_find hv)

theorem Saved.wf_map {f : Nat × Saved → Nat × Saved} {m : Store Saved}
    (h : ∀ e ∈ m, Memory.wf e.2.tile.scratch = true)
    (hf : ∀ e, Memory.wf e.2.tile.scratch = true → Memory.wf (f e).2.tile.scratch = true) :
    ∀ e ∈ m.map f, Memory.wf e.2.tile.scratch = true := by
  intro e he
  obtain ⟨a, ha, rfl⟩ := List.mem_map.1 he
  exact hf a (h a ha)

theorem Saved.wf_filter {p : Nat × Saved → Bool} {m : Store Saved} (h : ∀ e ∈ m, Memory.wf e.2.tile.scratch = true) :
    ∀ e ∈ m.filter p, Memory.wf e.2.tile.scratch = true := fun e he => h e (List.mem_filter.1 he).1

theorem Saved.wf_ite {v w : Saved} {c : Prop} [Decidable c] (hv : Memory.wf v.tile.scratch = true)
    (hw : Memory.wf w.tile.scratch = true) : Memory.wf (if c then v else w).tile.scratch = true := by
  split
  · exact hv
  · exact hw

theorem Store.mem_of_mem_erase {α : Type} {m : Store α} {k : Nat} {e : Nat × α} (h : e ∈ Store.erase m k) : e ∈ m := by
  induction m with
  | nil => exact h
  | cons c m ih =>
    obtain ⟨j, v⟩ := c
    rw [Store.erase] at h
    split at h
    · exact List.mem_cons_of_mem _ (ih h)
    · exact (List.mem_cons.1 h).elim (fun h => h ▸ List.mem_cons_self) (fun h => List.mem_cons_of_mem _ (ih h))

theorem Saved.wf_erase {k : Nat} {m : Store Saved} (h : ∀ e ∈ m, Memory.wf e.2.tile.scratch = true) :
    ∀ e ∈ Store.erase m k, Memory.wf e.2.tile.scratch = true := fun e he => h e (Store.mem_of_mem_erase he)

theorem Saved.wf_put {k : Nat} {v : Saved} {m : Store Saved} (h : ∀ e ∈ m, Memory.wf e.2.tile.scratch = true)
    (hv : Memory.wf v.tile.scratch = true) : ∀ e ∈ Store.put m k v, Memory.wf e.2.tile.scratch = true := by
  intro e he
  rcases Store.mem_put he with rfl | he
  · exact hv
  · exact h e he

section

variable {powered rising : Bool} {now nextUid nextCard htxHead telSeq plim fresh : Nat} {ptp : Nat × Nat × Nat}
  {ptpPend : Option (Nat × Nat × Nat)}
  {poison hostBad hostPoison asking flashing broken downPorts deadDies : List Nat} {parts : Store Part}
  {ctxs : Store Ctx} {cards : Store Card} {lastCtx flowSeq txFree counts guardband calib : Store Nat}
  {aborts crossed : List (Nat × Nat × Nat)} {dev : Store U64} {hubBusy : Option Nat} {txq : Store (List TxFrame)}
  {migs : List Mig} {remote : List Remote} {peers : List PeerReq} {hostAcks : List HostWriter} {out : List Out}
  {monument : List (BitVec 128)} {spares badFrames : List (Nat × Nat)} {agenda : List Instr} {turn later : List Who}
  {ends : List TaskEnd} {cur : Who}

/-- A canonical state with other values in the fields that are no memories. -/
theorem MemoriesCanonical.update {s : State} (h : MemoriesCanonical s) :
    MemoriesCanonical (State.mk powered now ptp ptpPend s.tiles s.hbm poison s.host hostBad hostPoison parts ctxs cards
      s.saved asking nextUid nextCard lastCtx aborts dev hubBusy flowSeq txq txFree htxHead migs crossed remote peers
      hostAcks out counts telSeq plim monument flashing spares broken downPorts badFrames guardband calib rising
      deadDies agenda turn later ends cur fresh) := h

theorem MemoriesCanonical.withTiles {s : State} {m : Store Tile} (h : MemoriesCanonical s)
    (hm : ∀ e ∈ m, Memory.wf e.2.scratch = true) :
    MemoriesCanonical (State.mk powered now ptp ptpPend m s.hbm poison s.host hostBad hostPoison parts ctxs cards
      s.saved asking nextUid nextCard lastCtx aborts dev hubBusy flowSeq txq txFree htxHead migs crossed remote peers
      hostAcks out counts telSeq plim monument flashing spares broken downPorts badFrames guardband calib rising
      deadDies agenda turn later ends cur fresh) := ⟨h.hbm, h.host, hm, h.saved⟩

theorem MemoriesCanonical.mapTiles {s : State} {f : Nat × Tile → Nat × Tile} (h : MemoriesCanonical s)
    (hf : ∀ e, Memory.wf e.2.scratch = true → Memory.wf (f e).2.scratch = true) :
    MemoriesCanonical (State.mk powered now ptp ptpPend (s.tiles.map f) s.hbm poison s.host hostBad hostPoison parts
      ctxs cards s.saved asking nextUid nextCard lastCtx aborts dev hubBusy flowSeq txq txFree htxHead migs crossed
      remote peers hostAcks out counts telSeq plim monument flashing spares broken downPorts badFrames guardband calib
      rising deadDies agenda turn later ends cur fresh) :=
  h.withTiles (Tile.wf_map h.tiles hf)

theorem MemoriesCanonical.withSaved {s : State} {m : Store Saved} (h : MemoriesCanonical s)
    (hm : ∀ e ∈ m, Memory.wf e.2.tile.scratch = true) :
    MemoriesCanonical (State.mk powered now ptp ptpPend s.tiles s.hbm poison s.host hostBad hostPoison parts ctxs cards
      m asking nextUid nextCard lastCtx aborts dev hubBusy flowSeq txq txFree htxHead migs crossed remote peers
      hostAcks out counts telSeq plim monument flashing spares broken downPorts badFrames guardband calib rising
      deadDies agenda turn later ends cur fresh) := ⟨h.hbm, h.host, h.tiles, hm⟩

end

theorem MemoriesCanonical.myTile {s : State} (h : MemoriesCanonical s) : Memory.wf s.myTile.scratch = true := h.tile s.cur.tile

theorem MemoriesCanonical.setMyTile {s : State} (h : MemoriesCanonical s) {t : Tile} (ht : Memory.wf t.scratch = true) :
    MemoriesCanonical (s.setMyTile t) := h.setTile s.cur.tile ht

/-- A tile changed in place. -/
theorem MemoriesCanonical.setTile_of_tile {s : State} (h : MemoriesCanonical s) {g : Nat} {t : Tile}
    (ht : Memory.wf (s.tile g).scratch = true → Memory.wf t.scratch = true) : MemoriesCanonical (s.setTile g t) :=
  h.setTile g (ht (h.tile g))

theorem MemoriesCanonical.setMyTile_of_myTile {s : State} (h : MemoriesCanonical s) {t : Tile}
    (ht : Memory.wf s.myTile.scratch = true → Memory.wf t.scratch = true) : MemoriesCanonical (s.setMyTile t) :=
  h.setMyTile (ht h.myTile)

theorem Tile.wf_idle : Memory.wf Tile.idle.scratch = true := rfl

/-- An outcome keeps the memories: where it answers a next state, that state's memories are canonical. -/
def KeepsMemories (o : Outcome State Fault Refusal) : Prop := ∀ s, o = .next s → MemoriesCanonical s

theorem KeepsMemories.next {s : State} (h : MemoriesCanonical s) : KeepsMemories (.next s) := by
  rintro t ⟨⟩
  exact h

theorem KeepsMemories.refused {r : Refusal} : KeepsMemories (.refused r) := nofun

/-- What may fail keeps the memories: where it answers, its state's memories are canonical. -/
def KeepsOk {ε α : Type} (o : Except ε (State × α)) : Prop := ∀ r, o = .ok r → MemoriesCanonical r.1

theorem KeepsOk.ok {ε α : Type} {s : State} {a : α} (h : MemoriesCanonical s) :
    KeepsOk (Except.ok (s, a) : Except ε (State × α)) := by
  rintro r ⟨⟩
  exact h

theorem KeepsOk.ok_pair {ε α : Type} {r : State × α} (h : MemoriesCanonical r.1) :
    KeepsOk (Except.ok r : Except ε (State × α)) := by
  rintro _ ⟨⟩
  exact h

theorem KeepsOk.error {ε α : Type} {e : ε} : KeepsOk (Except.error e : Except ε (State × α)) := nofun

theorem KeepsOk.ite {ε α : Type} {o p : Except ε (State × α)} {c : Prop} [Decidable c] (ho : KeepsOk o)
    (hp : KeepsOk p) : KeepsOk (if c then o else p) := by
  split
  · exact ho
  · exact hp

theorem KeepsMemories.stopped {f : Fault} : KeepsMemories (.fault f) := nofun

/-- The state that an outcome answers, and another where it answers none. -/
theorem MemoriesCanonical.ofOutcome {s : State} (h : MemoriesCanonical s) :
    ∀ {o : Outcome State Fault Refusal}, KeepsMemories o → MemoriesCanonical (match o with | .next t => t | _ => s)
  | .next t, ho => ho t rfl
  | .fault _, _ => h
  | .refused _, _ => h

theorem KeepsMemories.ite {o p : Outcome State Fault Refusal} {c : Prop} [Decidable c] (ho : KeepsMemories o)
    (hp : KeepsMemories p) : KeepsMemories (if c then o else p) := by
  split
  · exact ho
  · exact hp

end Sys2Proof.Machine

/-!
O60, the state's and a tile's operations.
-/

namespace Sys2Proof.Machine

open Host (Outcome)

/-! The state's and a tile's own operations keep the memories canonical. -/

theorem MemoriesCanonical.reset : MemoriesCanonical State.reset :=
  .intro State.reset_hbm_wf rfl (fun _ he => absurd he List.not_mem_nil) (fun _ he => absurd he List.not_mem_nil)

theorem Tile.wf_setCore {t : Tile} (ht : Memory.wf t.scratch = true) {c : CoreId} {k : Core} :
    Memory.wf (t.setCore c k).scratch = true := by
  unfold Tile.setCore
  split
  · exact ht
  · exact ht
  · exact ht

theorem MemoriesCanonical.setCore {s : State} (h : MemoriesCanonical s) {w : Who} {k : Core} :
    MemoriesCanonical (s.setCore w k) := h.setTile _ (Tile.wf_setCore (h.tile _))

theorem MemoriesCanonical.setMe {s : State} (h : MemoriesCanonical s) {k : Core} : MemoriesCanonical (s.setMe k) :=
  h.setCore

theorem MemoriesCanonical.setCtx {s : State} (h : MemoriesCanonical s) {x : Nat} {c : Ctx} :
    MemoriesCanonical (s.setCtx x c) := h.update

theorem MemoriesCanonical.setCard {s : State} (h : MemoriesCanonical s) {n : Nat} {c : Card} :
    MemoriesCanonical (s.setCard n c) := h.update

theorem MemoriesCanonical.emit {s : State} (h : MemoriesCanonical s) {o : Out} : MemoriesCanonical (s.emit o) := h.update

theorem MemoriesCanonical.due {s : State} (h : MemoriesCanonical s) {i : Instr} : MemoriesCanonical (s.due i) := h.update

theorem MemoriesCanonical.dueOnce {s : State} (h : MemoriesCanonical s) {i : Instr} : MemoriesCanonical (s.dueOnce i) :=
  h.ite h.due

theorem MemoriesCanonical.tick {s : State} (h : MemoriesCanonical s) : MemoriesCanonical s.tick := h.update

theorem Tile.wf_latch {t : Tile} (ht : Memory.wf t.scratch = true) {now rank : Nat} {addr : U64} :
    Memory.wf (t.latch now rank addr).scratch = true := Tile.wf_ite (Tile.wf_ite ht ht) ht

theorem Tile.wf_store {t : Tile} (ht : Memory.wf t.scratch = true) {a : Nat} {bs : List Byte} :
    Memory.wf (t.store a bs).scratch = true := Memory.wf_setBytes _ _ _ ht

theorem Tile.wf_touch {t : Tile} (ht : Memory.wf t.scratch = true) {now rank : Nat} {line : Int} :
    Memory.wf (t.touch now rank line).scratch = true := Tile.wf_ite ht (Tile.wf_latch ht)

theorem Tile.wf_touchAt {t : Tile} (ht : Memory.wf t.scratch = true) {now rank : Nat} {ea : Int} :
    Memory.wf (t.touchAt now rank ea).scratch = true := Tile.wf_ite ht (Tile.wf_latch ht)

theorem Tile.wf_setRing {t : Tile} (ht : Memory.wf t.scratch = true) {n : Nat} {r : Ring} :
    Memory.wf (t.setRing n r).scratch = true := ht

theorem Tile.wf_setFifo {t : Tile} (ht : Memory.wf t.scratch = true) {f : Fifo} {q : List Cmd} :
    Memory.wf (t.setFifo f q).scratch = true := by
  unfold Tile.setFifo
  split
  · exact ht
  · exact ht

theorem Tile.wf_ask {t : Tile} (ht : Memory.wf t.scratch = true) {now rank within : Nat} {ls : List (Int × BankAct)}
    {pc : U64} : Memory.wf (t.ask now rank within ls pc).scratch = true := ht

theorem Tile.wf_slipQueues {t : Tile} (ht : Memory.wf t.scratch = true) : Memory.wf t.slipQueues.scratch = true := ht

theorem Tile.wf_updateBarrier {t : Tile} (ht : Memory.wf t.scratch = true) {now rank : Nat} {ba : Int} {da ds fl : Nat} :
    Memory.wf (t.updateBarrier now rank ba da ds fl).scratch = true :=
  Tile.wf_ite (Tile.wf_touchAt ht) (Tile.wf_writeAt _ _ _ (Tile.wf_touchAt ht))

theorem Tile.wf_deliver {t : Tile} (ht : Memory.wf t.scratch = true) {c : CoreId} {issued d : Nat} {v : U64} :
    Memory.wf (t.deliver c issued d v).scratch = true := Tile.wf_ite ht (Tile.wf_ite ht (Tile.wf_setCore ht))

theorem Tile.wf_mapJob {t : Tile} (ht : Memory.wf t.scratch = true) {issued : Nat} {f : VJob → VJob} :
    Memory.wf (t.mapJob issued f).scratch = true := ht

theorem Tile.wf_serveAsk {t : Tile} (ht : Memory.wf t.scratch = true) {now : Nat} {x : Ask} :
    Memory.wf (t.serveAsk now x).scratch = true := by
  unfold Tile.serveAsk
  split
  · exact ht
  · exact Tile.wf_deliver ht
  · exact Tile.wf_foldl ht (fun _ _ h2 => Tile.wf_writeAt _ _ _ h2)
  · exact Tile.wf_mapJob ht
  · exact Tile.wf_mapJob ht
  · exact Tile.wf_updateBarrier ht
  · exact Tile.wf_writeAt _ _ _ ht
  · exact Tile.wf_writeAt _ _ _ ht
  · exact Tile.wf_writeAt _ _ _ ht
  · split
    · exact Tile.wf_setRing ht
    · exact ht
  · exact ht

theorem Tile.wf_arbitrate {t : Tile} (ht : Memory.wf t.scratch = true) {now : Nat} {datum : Bool} :
    Memory.wf (t.arbitrate now datum).scratch = true :=
  Tile.wf_ite (Tile.wf_foldl ht (fun _ _ h1 => Tile.wf_serveAsk h1)) (Tile.wf_slipQueues
    (Tile.wf_foldl ht (fun _ _ h1 => Tile.wf_serveAsk h1)))

theorem Tile.wf_serve {t : Tile} (ht : Memory.wf t.scratch = true) {ea : Int} : Memory.wf (t.serve ea).scratch = true :=
  Tile.wf_ite ht ht

theorem MemoriesCanonical.devSet {s : State} (h : MemoriesCanonical s) {off : Nat} {v : U64} :
    MemoriesCanonical (s.devSet off v) := h.update

theorem MemoriesCanonical.writeHost {s : State} (h : MemoriesCanonical s) {addr : Nat} {bs : List Byte} :
    MemoriesCanonical (s.writeHost addr bs) := .intro h.hbm (Memory.wf_setBytes _ _ _ h.host) h.tiles h.saved

theorem MemoriesCanonical.copyPhys {s : State} (h : MemoriesCanonical s) {src dst n : Nat} :
    MemoriesCanonical (s.copyPhys src dst n) := .intro (Memory.wf_copyRange _ _ _ _ h.hbm) h.host h.tiles h.saved

theorem MemoriesCanonical.setPage {s : State} (h : MemoriesCanonical s) {x p : Nat} {w : U64} :
    MemoriesCanonical (s.setPage x p w) := by
  unfold State.setPage
  split
  · exact h.setCtx.writePhys _ _
  · exact h

theorem MemoriesCanonical.settlePage {s : State} (h : MemoriesCanonical s) {x p : Nat} {datum : Bool} :
    MemoriesCanonical (s.settlePage x p datum) := by
  unfold State.settlePage
  dsimp only
  split
  · exact h
  · exact h.setPage.ite_then (fun h2 => h2.copyPhys)

theorem MemoriesCanonical.makeShadow {s : State} (h : MemoriesCanonical s) {x p : Nat} :
    MemoriesCanonical (s.makeShadow x p) := by
  unfold State.makeShadow
  dsimp only
  split
  · exact h
  · exact h.ite h.setPage.copyPhys

theorem MemoriesCanonical.setFree {s : State} (h : MemoriesCanonical s) {stack f : Nat} {v : Bool} :
    MemoriesCanonical (s.setFree stack f v) := h.writePhys _ _

theorem MemoriesCanonical.postNotice {s : State} (h : MemoriesCanonical s) {x p die kind : Nat} :
    MemoriesCanonical (s.postNotice x p die kind) := by
  unfold State.postNotice
  dsimp only
  split
  · exact h
  · exact h.ite (.ite (.emit (.devSet (h.setPage.writePhys _ _))) h.devSet)

theorem MemoriesCanonical.crossing {s : State} (h : MemoriesCanonical s) {x p die w : Nat} :
    MemoriesCanonical (s.crossing x p die w) := by
  unfold State.crossing
  refine h.postNotice.ite (h.ite (h.postNotice.ite_else ?_))
  intro h1
  dsimp only
  split
  · exact h1
  · exact .update (h.setFree.ite_then (fun h3 => h3.setFree))

theorem MemoriesCanonical.countFrom {s : State} (h : MemoriesCanonical s) {die x ia : Nat} {nc : Bool} :
    MemoriesCanonical (s.countFrom die x ia nc) := by
  unfold State.countFrom
  dsimp only
  split
  · exact h
  · exact h.ite (h.ite (h.tick.ite_else (fun h2 => h2.ite_else (fun _ => .ite_then (h2.writePhys _ _)
      (fun h4 => h4.update)))))

theorem MemoriesCanonical.settleCrossings {s : State} (h : MemoriesCanonical s) : MemoriesCanonical s.settleCrossings := by
  unfold State.settleCrossings
  refine h.update.foldl_fst ?_
  intro _ _ h1
  dsimp only
  split
  · exact h1
  · exact h1.ite_fst h1.crossing

theorem MemoriesCanonical.countRequest {s : State} (h : MemoriesCanonical s) {g x ia : Nat} {nc : Bool} :
    MemoriesCanonical (s.countRequest g x ia nc) := h.ite h.countFrom

theorem MemoriesCanonical.charge {s : State} (h : MemoriesCanonical s) {g cls n : Nat} :
    MemoriesCanonical (s.charge g cls n) := by
  unfold State.charge
  dsimp only
  split
  · exact h
  · exact h.ite (h.setTile _ (h.tile _))

theorem Tile.wf_payCharges {t : Tile} (ht : Memory.wf t.scratch = true) : Memory.wf t.payCharges.scratch = true :=
  Tile.wf_ite ht ht

theorem MemoriesCanonical.chargeAt {s : State} (h : MemoriesCanonical s) {ea : Int} : MemoriesCanonical (s.chargeAt ea) :=
  h.charge.ite h

theorem MemoriesCanonical.countRefused {s : State} (h : MemoriesCanonical s) {x : Nat} :
    MemoriesCanonical (s.countRefused x) := by
  unfold State.countRefused
  split
  · exact h
  · exact h.setCtx

theorem MemoriesCanonical.putStatus {s : State} (h : MemoriesCanonical s) {n : Nat} {c : Card} {bs : List Byte} :
    MemoriesCanonical (s.putStatus n c bs) := by
  unfold State.putStatus
  split
  · exact h.setCard
  · exact h.setCard.countRefused.emit
  · exact h.setCard.countRefused.emit.ite (h.setCard.writeReach _ _ _)
  · exact h.setCard.writeReach _ _ _

theorem MemoriesCanonical.writeStatus {s : State} (h : MemoriesCanonical s) {n : Nat} {c : Card} :
    MemoriesCanonical (s.writeStatus n c) := h.putStatus.ite h.setCard

theorem MemoriesCanonical.recordEnd {s : State} (h : MemoriesCanonical s) {n rec kind code : Nat} :
    MemoriesCanonical (s.recordEnd n rec kind code) := by
  unfold State.recordEnd
  split
  · exact h
  · exact h.ite h.writeStatus

theorem MemoriesCanonical.roundEnd {s : State} (h : MemoriesCanonical s) {g : Nat} : MemoriesCanonical (s.roundEnd g) := by
  unfold State.roundEnd
  dsimp only
  split
  · exact h
  · split
    · exact h
    · refine .ite ?_ h.update
      split
      · exact h
      · exact h.update

theorem MemoriesCanonical.noteEnd {s : State} (h : MemoriesCanonical s) {e : TaskEnd} : MemoriesCanonical (s.noteEnd e) :=
  h.update

theorem MemoriesCanonical.recordEnds {s : State} (h : MemoriesCanonical s) : MemoriesCanonical s.recordEnds :=
  h.update.foldl (fun _ _ h1 => h1.recordEnd.ite_else (fun h2 => h2.roundEnd))

theorem MemoriesCanonical.leaveAll {s : State} (h : MemoriesCanonical s) {g uid : Nat} :
    MemoriesCanonical (s.leaveAll g uid) := by
  unfold State.leaveAll
  split
  · exact h
  · exact h.update

theorem MemoriesCanonical.abandon {s : State} (h : MemoriesCanonical s) {w : Who} : MemoriesCanonical (s.abandon w) := by
  unfold State.abandon
  dsimp only
  split
  · exact h.ite h.update
  · exact h.update.ite h
  · exact h.setCore
  · exact h

theorem MemoriesCanonical.settleGroup {s : State} (h : MemoriesCanonical s) {x grp : Nat} {datum : Bool} :
    MemoriesCanonical (s.settleGroup x grp datum) := by
  unfold State.settleGroup
  dsimp only
  split
  · exact h
  · split
    · exact h.foldl (fun _ _ h3 => h3.settlePage.ite h3)
    · exact .setCtx (h.foldl (fun _ _ h3 => h3.settlePage.ite h3))

theorem MemoriesCanonical.flip {s : State} (h : MemoriesCanonical s) {x grp : Nat} {publish datum : Bool} {stamp : Nat} :
    MemoriesCanonical (s.flip x grp publish datum stamp) := by
  unfold State.flip
  dsimp only
  split
  · exact h.settleGroup
  · refine .tick ?_
    refine .setCtx ?_
    refine .intro h.settleGroup.hbm h.settleGroup.host ?_ ?_
    · refine Tile.wf_map h.settleGroup.tiles ?_
      intro _ h2
      refine Tile.wf_ite_then h2 ?_
      intro _
      exact h2
    · refine Saved.wf_map h.settleGroup.saved ?_
      intro _ h2
      refine Tile.wf_ite_then h2 ?_
      intro _
      exact h2

theorem Tile.wf_dropOwners {t : Tile} (ht : Memory.wf t.scratch = true) {gone : Owner → Bool} :
    Memory.wf (t.dropOwners gone).scratch = true := ht

theorem MemoriesCanonical.storeEntry {s : State} (h : MemoriesCanonical s) {g : Nat} :
    MemoriesCanonical (s.storeEntry g) := by
  unfold State.storeEntry
  dsimp only
  split
  · exact h
  · exact h.writePhys _ _

theorem Tile.wf_vacated {t : Tile} : Memory.wf t.vacated.scratch = true := Tile.wf_idle

theorem MemoriesCanonical.freeFrame {s : State} (h : MemoriesCanonical s) {x : Nat} {f : Option Nat} :
    MemoriesCanonical (s.freeFrame x f) := by
  unfold State.freeFrame
  split
  · exact h.setCtx
  · exact h

theorem MemoriesCanonical.returnFrame {s : State} (h : MemoriesCanonical s) {g : Nat} :
    MemoriesCanonical (s.returnFrame g) := .ite (h.freeFrame.setTile _ (h.tile _)) h

theorem MemoriesCanonical.endTask {s : State} (h : MemoriesCanonical s) {g kind code : Nat} :
    MemoriesCanonical (s.endTask g kind code) := by
  unfold State.endTask
  refine .noteEnd (.mapTiles ?_ ?_)
  · refine .setTile_of_tile ?_ ?_
    · exact .leaveAll (.freeFrame (.storeEntry (h.foldl (fun _ _ h1 => h1.flip))))
    · exact fun _ => Tile.wf_vacated
  · exact fun _ h1 => h1

theorem MemoriesCanonical.beginEnd {s : State} (h : MemoriesCanonical s) {g kind code at_ : Nat} :
    MemoriesCanonical (s.beginEnd g kind code at_) := .update (h.setTile _ (h.tile _))

theorem Tile.wf_stopToPark {t : Tile} (ht : Memory.wf t.scratch = true) {va : U64} :
    Memory.wf (t.stopToPark va).scratch = true := by
  unfold Tile.stopToPark
  dsimp only
  split
  · exact ht
  · exact ht
  · exact ht

theorem MemoriesCanonical.endTasks {s : State} (h : MemoriesCanonical s) : MemoriesCanonical s.endTasks :=
  .recordEnds (h.foldl (fun _ _ h1 => h1.endTask))

theorem MemoriesCanonical.mapMe {s : State} (h : MemoriesCanonical s) {f : Core → Core} : MemoriesCanonical (s.mapMe f) :=
  h.setMe

theorem Tile.wf_loseLatches {t : Tile} (ht : Memory.wf t.scratch = true) : Memory.wf t.loseLatches.scratch = true := ht

theorem Tile.wf_endActivation {t : Tile} (ht : Memory.wf t.scratch = true) {level : Nat} :
    Memory.wf (t.endActivation level).scratch = true := by
  unfold Tile.endActivation
  dsimp only
  exact Tile.wf_dropOwners ht

theorem MemoriesCanonical.trap {s : State} (h : MemoriesCanonical s) {w : Who} {code : Nat} {tval tpc : U64}
    {eng : Bool} : MemoriesCanonical (s.trap w code tval tpc eng) :=
  h.beginEnd.ite (h.setTile _ (Tile.wf_ite_then (Tile.wf_setCore (h.tile _)) (fun h1 => Tile.wf_loseLatches h1)))

theorem KeepsMemories.fault {s : State} (h : MemoriesCanonical s) {code : Nat} {tval : U64} :
    KeepsMemories (s.fault code tval) := .next h.trap

theorem KeepsMemories.illegal {s : State} (h : MemoriesCanonical s) {i : Instr} : KeepsMemories (s.illegal i) := .fault h

theorem KeepsMemories.badOperand {s : State} (h : MemoriesCanonical s) {field bits : Nat} :
    KeepsMemories (s.badOperand field bits) := .fault h

theorem KeepsMemories.wait {s : State} (h : MemoriesCanonical s) {w : Wait} : KeepsMemories (s.wait w) := .next h.mapMe

theorem MemoriesCanonical.eret {s : State} (h : MemoriesCanonical s) : MemoriesCanonical s.eret := by
  unfold State.eret
  refine .ite_then (.tick (.returnFrame (h.setMyTile (Tile.wf_setCore ?_)))) (fun h1 => h1.due)
  refine Tile.wf_ite_then (Tile.wf_loseLatches (Tile.wf_ite (Tile.wf_endActivation h.myTile) h.myTile)) ?_
  intro h1
  split
  · exact h1
  · exact h1
  · exact h1

theorem MemoriesCanonical.issue {s : State} (h : MemoriesCanonical s) {npc : U64} {next : Nat} {p : Pend} :
    MemoriesCanonical (s.issue npc next p) := h.mapMe

theorem MemoriesCanonical.stepOn {s : State} (h : MemoriesCanonical s) : MemoriesCanonical s.stepOn := h.issue

theorem Tile.wf_setQueue {t : Tile} (ht : Memory.wf t.scratch = true) {q : Nat} {u : Queue} :
    Memory.wf (t.setQueue q u).scratch = true := ht

theorem Tile.wf_takeUses {c : CoreId} {now : Nat} {us : List (Nat × Bool)} {t : Tile} (ht : Memory.wf t.scratch = true) :
    Memory.wf (takeUses c now t us).1.scratch = true := by
  induction us generalizing t with
  | nil => exact ht
  | cons u us ih =>
    obtain ⟨n, _ | _⟩ := u
    · unfold takeUses
      split
      · split
        · exact ih ht
        · exact ih ht
      · exact ih ht
    · exact ih ht

theorem KeepsMemories.withRegs {s : State} (h : MemoriesCanonical s) {us : List (Nat × Bool)}
    {k : State → List U64 → Outcome State Fault Refusal} (hk : ∀ s' v, MemoriesCanonical s' → KeepsMemories (k s' v)) :
    KeepsMemories (s.withRegs us k) := by
  unfold State.withRegs
  split
  · exact .fault h
  · exact .wait h
  · next hs =>
    unfold State.take at hs
    split at hs
    · cases hs
    · split at hs
      · cases hs
      · obtain ⟨rfl, rfl⟩ := Taken.ok.inj hs
        exact hk _ _ (h.setMyTile (Tile.wf_takeUses h.myTile))

theorem MemoriesCanonical.putReg {s : State} (h : MemoriesCanonical s) {d : Nat} {v : U64} {lat : Nat} :
    MemoriesCanonical (s.putReg d v lat) := by
  unfold State.putReg
  refine .ite ?_ h.mapMe
  dsimp only
  split
  · exact h.setMyTile (Tile.wf_setQueue h.myTile)
  · exact h

end Sys2Proof.Machine

/-!
O60, the scalar words.
-/

namespace Sys2Proof.Machine

open Host (Outcome)

/-! The scalar words, their loads and stores, CSRs and tokens. -/

theorem KeepsMemories.finishWith {s0 : State} (h0 : MemoriesCanonical s0) {s : State} (h : MemoriesCanonical s) {d : Nat}
    {v : U64} {lat : Nat} {p : Pend} {npc : U64} {next : Nat} :
    KeepsMemories (s0.finishWith s d v lat p npc next) := .ite (.fault h0) (.next h.putReg.issue)

theorem KeepsMemories.finish {s0 : State} (h0 : MemoriesCanonical s0) {s : State} (h : MemoriesCanonical s) {d : Nat}
    {v : U64} {lat : Nat} {npc : U64} {next : Nat} : KeepsMemories (s0.finish s d v lat npc next) := .finishWith h0 h

theorem KeepsMemories.compute {s : State} (h : MemoriesCanonical s) {srcs : List Nat} {d lat : Nat} {f : List U64 → U64} :
    KeepsMemories (s.compute srcs d lat f) := by
  unfold State.compute
  split
  · exact .fault h
  · exact .withRegs h (fun _ _ h2 => .finish h h2)

theorem KeepsMemories.alu2 {s : State} (h : MemoriesCanonical s) {d a b : BitVec 5} {lat : Nat} {f : U64 → U64 → U64} :
    KeepsMemories (s.alu2 d a b lat f) := .compute h

theorem KeepsMemories.alu1 {s : State} (h : MemoriesCanonical s) {d a : BitVec 5} {f : U64 → U64} :
    KeepsMemories (s.alu1 d a f) := .compute h

theorem KeepsMemories.execSel {s : State} (h : MemoriesCanonical s) {d a b : BitVec 5} :
    KeepsMemories (execSel d a b s) := .ite (.illegal h) (.compute h)

theorem KeepsMemories.aluImm {s : State} (h : MemoriesCanonical s) {d a : BitVec 5} {i : BitVec 14} {lat : Nat}
    {f : U64 → U64 → U64} : KeepsMemories (s.aluImm d a i lat f) := .compute h

theorem KeepsMemories.shiftImm {s : State} (h : MemoriesCanonical s) {d a : BitVec 5} {k : BitVec 6}
    {f : U64 → Nat → U64} : KeepsMemories (s.shiftImm d a k f) := .compute h

theorem KeepsMemories.execExtr {s : State} (h : MemoriesCanonical s) {d a : BitVec 5} {l p : BitVec 6} :
    KeepsMemories (execExtr d a l p s) := .ite (.illegal h) (.compute h)

theorem KeepsMemories.execExtru {s : State} (h : MemoriesCanonical s) {d a : BitVec 5} {l p : BitVec 6} :
    KeepsMemories (execExtru d a l p s) := .ite (.illegal h) (.compute h)

theorem KeepsMemories.execInsr {s : State} (h : MemoriesCanonical s) {d a : BitVec 5} {l p : BitVec 6} :
    KeepsMemories (execInsr d a l p s) := .ite (.illegal h) (.compute h)

theorem MemoriesCanonical.jump {s : State} (h : MemoriesCanonical s) {taken : Bool} {t pc : U64} {res : List Res} :
    MemoriesCanonical (s.jump taken t pc res) := h.issue.ite h.issue

theorem KeepsMemories.execBr {s : State} (h : MemoriesCanonical s) {a b : BitVec 5} {c : BitVec 3} {o : BitVec 11} :
    KeepsMemories (execBr a b c o s) := .ite (.illegal h) (.withRegs h (fun _ _ h1 => .next h1.jump))

theorem KeepsMemories.execLoop {s : State} (h : MemoriesCanonical s) {a : BitVec 5} {o : BitVec 11} :
    KeepsMemories (execLoop a o s) := .ite (.illegal h) (.withRegs h (fun _ _ h1 => .next h1.putReg.jump))

theorem KeepsMemories.execJ {s : State} (h : MemoriesCanonical s) {o : BitVec 24} : KeepsMemories (execJ o s) :=
  .next h.jump

theorem KeepsMemories.execCall {s : State} (h : MemoriesCanonical s) {o : BitVec 24} : KeepsMemories (execCall o s) :=
  .withRegs h (fun _ _ h1 => .next h1.putReg.jump)

theorem KeepsMemories.execJr {s : State} (h : MemoriesCanonical s) {a : BitVec 5} {i : BitVec 14} :
    KeepsMemories (execJr a i s) := .withRegs h (fun _ _ h1 => .ite (.fault h) (.next h1.jump))

theorem KeepsMemories.execCallr {s : State} (h : MemoriesCanonical s) {a : BitVec 5} {i : BitVec 14} :
    KeepsMemories (execCallr a i s) := .withRegs h (fun _ _ h1 => .ite (.fault h) (.next h1.putReg.jump))

theorem MemoriesCanonical.askScalar {s : State} (h : MemoriesCanonical s) {ea : Int} {act : BankAct} :
    MemoriesCanonical (s.askScalar ea act) := h.setMyTile (Tile.wf_ask (Tile.wf_touchAt h.myTile))

theorem KeepsMemories.loadScratch {s : State} (h : MemoriesCanonical s) {d a : BitVec 5} {i : BitVec 14} {n : Nat}
    {sgn : Bool} : KeepsMemories (s.loadScratch d a i n sgn) :=
  .withRegs h (fun _ _ h1 => .ite (.fault h) (.next (.issue (h1.askScalar.ite_then (fun h2 => h2.putReg)))))

theorem KeepsMemories.storeScratch {s : State} (h : MemoriesCanonical s) {d a : BitVec 5} {i : BitVec 14} {n : Nat} :
    KeepsMemories (s.storeScratch d a i n) := .withRegs h (fun _ _ h1 => .ite (.fault h) (.next h1.askScalar.issue))

theorem MemoriesCanonical.twinWrite {s : State} (h : MemoriesCanonical s) {g x ia grp : Nat} {bs : List Byte} :
    MemoriesCanonical (s.twinWrite g x ia grp bs) := by
  unfold State.twinWrite
  refine .writeReach ?_ _ _ _
  refine h.makeShadow.setTile_of_tile ?_
  intro h1
  exact h1

theorem MemoriesCanonical.emitFlits {s : State} (h : MemoriesCanonical s) {port hdr : Nat} {payload : List Byte} :
    MemoriesCanonical (s.emitFlits port hdr payload) := h.foldl (fun _ _ h2 => h2.emit)

/-- A request sent to a peer is a message out and an entry of the tag table. -/
theorem MemoriesCanonical.sendPeer {s s' : State} (h : MemoriesCanonical s) {g : Nat} {c : CoreId} {f : Option Fifo}
    {ia sect va : Nat} {data : Option (List Byte)} {issued : Nat}
    (hs : s.sendPeer g c f ia sect va data issued = some s') : MemoriesCanonical s' := by
  unfold State.sendPeer at hs
  split at hs
  · cases hs
  · split at hs
    · cases hs
    · obtain rfl := Option.some.inj hs
      exact h.emitFlits.update

theorem MemoriesCanonical.performAt {s : State} (h : MemoriesCanonical s) {w : Who} {r : Reach} {cls n : Nat}
    {data : Option (List Byte)} : MemoriesCanonical (s.performAt w r cls n data).1 := by
  unfold State.performAt
  dsimp only
  split
  · split
    · exact h.charge
    · exact h
  · split
    · exact h.ite_fst (.charge (h.writeReach _ _ _))
    · exact .charge (h.writeReach _ _ _)

theorem MemoriesCanonical.beginAccess {s : State} (h : MemoriesCanonical s) {w : Who} {ia n : Nat} {nc : Bool}
    {data : Option (List Byte)} : MemoriesCanonical (s.beginAccess w ia n nc data).1 := by
  unfold State.beginAccess
  dsimp only
  split
  · split
    · exact h.countRequest
    · exact h.countRequest
    · refine h.countRequest.ite_fst ?_
      split
      · exact h.countRequest.sendPeer ‹_›
      · exact h.countRequest
    · exact h.countRequest.twinWrite.charge
    · exact h.countRequest.performAt
    · exact h.countRequest.performAt
  · exact h.update
  · refine h.ite_fst ?_
    split
    · exact h.sendPeer ‹_›
    · exact h
  · exact h.performAt

theorem MemoriesCanonical.holdPorts {s : State} (h : MemoriesCanonical s) {us : List (Nat × Bool)} :
    MemoriesCanonical (s.holdPorts us).1 := by
  unfold State.holdPorts
  refine h.foldl_fst ?_
  intro _ _ h2
  refine h2.ite_fst ?_
  dsimp only
  split
  · exact h2.setMyTile_of_myTile (fun h5 => Tile.wf_setQueue h5)
  · exact h2.setMyTile_of_myTile (fun h5 => Tile.wf_setQueue h5)
  · exact h2

theorem KeepsMemories.globalWord {s : State} (h : MemoriesCanonical s) {kind : Nat} {d a : BitVec 5} {i : BitVec 14}
    {n : Nat} {isLoad : Bool} : KeepsMemories (s.globalWord kind d a i n isLoad) := by
  unfold State.globalWord
  refine .withRegs h ?_
  intro _ _ _
  refine .ite (.fault h) ?_
  dsimp only
  split
  · exact .fault h
  · refine .ite (.fault h) (.ite (.wait h) (.next (.tick (.mapMe ?_))))
    exact .ite_fst h.holdPorts h.holdPorts.beginAccess

theorem MemoriesCanonical.park {s : State} (h : MemoriesCanonical s) {w : Who} {va : U64} :
    MemoriesCanonical (s.park w va) := h.setTile _ (Tile.wf_stopToPark (Tile.wf_setCore (h.tile _)))

theorem Tile.wf_giveBack {t : Tile} (ht : Memory.wf t.scratch = true) {c : CoreId} {gl : Glob} :
    Memory.wf (t.giveBack c gl).scratch = true := by
  unfold Tile.giveBack
  refine Tile.wf_ite_then (Tile.wf_foldl ht (fun _ _ h1 => Tile.wf_setQueue h1)) ?_
  intro h1
  dsimp only
  split
  · exact Tile.wf_setQueue h1
  · exact h1

theorem MemoriesCanonical.globFault {s : State} (h : MemoriesCanonical s) {w : Who} {gl : Glob} {code : Nat}
    {tval : U64} : MemoriesCanonical (s.globFault w gl code tval) :=
  .ite (.park (h.setTile _ (Tile.wf_giveBack (h.tile _)))) (.trap (h.setTile _ (Tile.wf_giveBack (h.tile _))))

theorem MemoriesCanonical.storeHeld {s : State} (h : MemoriesCanonical s) {w : Who} {gl : Glob} :
    MemoriesCanonical (s.storeHeld w gl).1 := by
  unfold State.storeHeld
  dsimp only
  split
  · exact h
  · exact h.beginAccess

theorem MemoriesCanonical.lateFar {s : State} (h : MemoriesCanonical s) {w : Who} {gl : Glob} :
    MemoriesCanonical (s.lateFar w gl).1 := .ite_fst (h.setTile _ (h.tile _)) h

theorem KeepsMemories.execGlobalAccessCompletion {s : State} (h : MemoriesCanonical s) {g : Nat} {c : CoreId} :
    KeepsMemories (execGlobalAccessCompletion g c s) := by
  unfold Machine.execGlobalAccessCompletion
  dsimp only
  split
  · exact .next h
  · refine .ite (.next h) (.ite (.next h.storeHeld.lateFar.setCore) ?_)
    split
    · exact .next h.storeHeld.lateFar
    · exact .next h.storeHeld.lateFar.globFault
    · refine .ite (.next h.storeHeld.lateFar.setCore) (.ite ?_ (.next h.storeHeld.lateFar.setCore))
      refine .ite (.next h.storeHeld.lateFar.globFault) ?_
      split
      · exact .next (h.storeHeld.lateFar.setTile_of_tile (fun h4 => Tile.wf_setCore (Tile.wf_setQueue h4)))
      · exact .next h.storeHeld.lateFar.setCore

theorem MemoriesCanonical.keepInRecord {s : State} (h : MemoriesCanonical s) {g : Nat} {set : CtxRec → CtxRec}
    {off n v : Nat} : MemoriesCanonical (s.keepInRecord g set off n v) := by
  unfold State.keepInRecord
  dsimp only
  split
  · exact .ite (h.setCtx.writePhys _ _) h
  · exact h

theorem MemoriesCanonical.writeCsr {s : State} (h : MemoriesCanonical s) {w : Who} {n v : Nat} :
    MemoriesCanonical (s.writeCsr w n v) := by
  unfold State.writeCsr
  refine .ite ?_ ?_
  · split
    · exact h.update
    · exact h
  · refine .ite ?_ ?_
    · refine h.setTile _ ?_
      dsimp only
      exact h.tile _
    · dsimp only
      split
      · exact h.setTile _ (Tile.wf_setCore (h.tile _))
      · exact h.setTile _ (Tile.wf_setCore (h.tile _))
      · refine h.setTile _ ?_
        dsimp only
        exact h.tile _
      · refine .keepInRecord (h.setTile _ ?_)
        dsimp only
        exact h.tile _
      · refine .keepInRecord (h.setTile _ ?_)
        dsimp only
        exact h.tile _
      · refine h.setTile _ ?_
        dsimp only
        exact h.tile _
      · refine h.setTile _ ?_
        dsimp only
        exact h.tile _
      · exact .keepInRecord (h.setTile _ (Tile.wf_setCore (h.tile _)))
      · exact h.setTile _ (Tile.wf_setCore (h.tile _))
      · exact h.setTile _ (Tile.wf_setCore (h.tile _))
      · exact h.setTile _ (Tile.wf_setCore (h.tile _))
      · exact h.setTile _ (Tile.wf_setCore (h.tile _))
      · exact .keepInRecord (h.setTile _ (Tile.wf_setCore (h.tile _)))
      · exact .keepInRecord (h.setTile _ (Tile.wf_setCore (h.tile _)))
      · refine h.setTile _ ?_
        dsimp only
        exact h.tile _
      · exact h

theorem KeepsMemories.csrWord {s : State} (h : MemoriesCanonical s) {i : Instr} {op : CsrOp} {d a : Nat} {c : BitVec 14} :
    KeepsMemories (s.csrWord i op d a c) := by
  unfold State.csrWord
  refine .ite (.illegal h) ?_
  dsimp only
  split
  · exact .fault h
  · refine .ite (.fault h) ?_
    split
    · exact .fault h
    · exact .ite (.wait h) (.withRegs h (fun _ _ h3 => .ite (.badOperand h) (.finish h (h3.ite h3.writeCsr))))

theorem KeepsMemories.execQpop {s : State} (h : MemoriesCanonical s) {d : BitVec 5} {y : BitVec 1} {k : BitVec 2}
    {t : BitVec 4} : KeepsMemories (execQpop d y k t s) := by
  unfold Machine.execQpop
  refine .ite (.illegal h) ?_
  dsimp only
  split
  · exact .fault h
  · exact .fault h
  · exact .ite (.wait h) (.ite (.fault h) (.withRegs h (fun _ _ h3 => .finish h h3)))

theorem KeepsMemories.execQpush {s : State} (h : MemoriesCanonical s) {a : BitVec 5} {r : BitVec 1} {k : BitVec 2}
    {t : BitVec 4} : KeepsMemories (execQpush a r k t s) := .ite (.illegal h) (.compute h)

theorem KeepsMemories.execQpeek {s : State} (h : MemoriesCanonical s) {d : BitVec 5} {k : BitVec 2} :
    KeepsMemories (execQpeek d k s) := by
  unfold Machine.execQpeek
  dsimp only
  split
  · exact .fault h
  · exact .compute h

theorem KeepsMemories.execQcnt {s : State} (h : MemoriesCanonical s) {d : BitVec 5} {o : BitVec 1} {k : BitVec 2} :
    KeepsMemories (execQcnt d o k s) := by
  unfold Machine.execQcnt
  dsimp only
  split
  · exact .fault h
  · exact .compute h

theorem KeepsMemories.execFork {s : State} (h : MemoriesCanonical s) {d a : BitVec 5} {e : BitVec 2} :
    KeepsMemories (execFork d a e s) := by
  unfold Machine.execFork
  refine .ite (.illegal h) (.withRegs h ?_)
  intro _ _ h1
  dsimp only
  split
  · exact .fault h
  · exact .fault h
  · exact .next (.stepOn (h1.setMyTile (Tile.wf_ite_then (Tile.wf_ite h1.myTile h1.myTile) (fun h4 => h4))))

theorem MemoriesCanonical.deliverAbort {s : State} (h : MemoriesCanonical s) {g : Nat} :
    MemoriesCanonical (s.deliverAbort g) := h.beginEnd

theorem Tile.wf_pairMarks {t : Tile} (ht : Memory.wf t.scratch = true) {c : CoreId} {now : Nat} :
    Memory.wf (t.pairMarks c now).scratch = true := by
  unfold Tile.pairMarks
  dsimp only
  split
  · exact Tile.wf_ite ht ht
  · exact Tile.wf_ite ht ht
  · exact ht

theorem Tile.wf_beginDrain {t : Tile} (ht : Memory.wf t.scratch = true) {c : CoreId} {now : Nat} :
    Memory.wf (t.beginDrain c now).scratch = true := Tile.wf_setCore (Tile.wf_pairMarks ht)

theorem MemoriesCanonical.drainMe {s : State} (h : MemoriesCanonical s) : MemoriesCanonical s.drainMe := by
  unfold State.drainMe
  dsimp only
  split
  · exact .update (h.setMyTile (Tile.wf_beginDrain h.myTile))
  · exact h.setMyTile (Tile.wf_beginDrain h.myTile)

theorem KeepsMemories.execRendz {s : State} (h : MemoriesCanonical s) : KeepsMemories (execRendz s) :=
  .ite (.next h.deliverAbort) (.ite (.ite (.next h.issue) (.wait h)) (.next h.drainMe))

theorem KeepsMemories.miss {s : State} (h : MemoriesCanonical s) {reason stamp : Nat} :
    KeepsMemories (s.miss reason stamp) := .fault h

end Sys2Proof.Machine

/-!
O60, words that synchronise, and the end of a task.
-/

namespace Sys2Proof.Machine

open Host (Outcome)

/-! Barriers, groups, rings, task ends and the timed words. -/

theorem KeepsMemories.notReady {s : State} (h : MemoriesCanonical s) {w : Wait} : KeepsMemories (s.notReady w) :=
  .ite (.miss h) (.wait h)

theorem KeepsMemories.atBank {s : State} (h : MemoriesCanonical s) {ea : Int} {writes : Bool} {w : Wait}
    {go : Outcome State Fault Refusal} (hgo : KeepsMemories go) : KeepsMemories (s.atBank ea writes w go) := by
  unfold State.atBank
  refine .ite (.ite (.notReady h) hgo) ?_
  split
  · exact .wait h
  · exact hgo

theorem Tile.wf_visit {t : Tile} (ht : Memory.wf t.scratch = true) {now : Nat} {c : CoreId} {ea : Int} :
    Memory.wf (t.visit now c ea).scratch = true := Tile.wf_serve (Tile.wf_touchAt ht)

theorem KeepsMemories.execWaitb {s : State} (h : MemoriesCanonical s) {d a : BitVec 5} {i : BitVec 14} :
    KeepsMemories (execWaitb d a i s) :=
  .ite (.illegal h) (.withRegs h (fun _ _ h1 => .ite (.fault h) (.atBank h
    (.ite (.notReady (h.setMyTile (Tile.wf_visit h.myTile))) (.finish h
    (.chargeAt (h1.setMyTile (Tile.wf_visit h1.myTile))))))))

theorem KeepsMemories.onBarrier {s : State} (h : MemoriesCanonical s) {s' : State} (h' : MemoriesCanonical s') {ba : Int}
    {act : BankAct} : KeepsMemories (s.onBarrier s' ba act) := .next h'.askScalar.issue

theorem KeepsMemories.execArrive {s : State} (h : MemoriesCanonical s) {a : BitVec 5} {n : BitVec 14} :
    KeepsMemories (execArrive a n s) := .ite (.illegal h) (.withRegs h (fun _ _ h1 => .ite (.fault h) (.onBarrier h h1)))

theorem KeepsMemories.execBarinit {s : State} (h : MemoriesCanonical s) {d a : BitVec 5} :
    KeepsMemories (execBarinit d a s) :=
  .withRegs h (fun _ _ h1 => .ite (.fault h) (.ite (.badOperand h) (.onBarrier h h1)))

theorem KeepsMemories.execPutf {s : State} (h : MemoriesCanonical s) {d a : BitVec 5} {i : BitVec 14} :
    KeepsMemories (execPutf d a i s) :=
  .withRegs h (fun _ _ h1 => .ite (.fault h) (.ite (.wait h)
    (.atBank h (.ite (.notReady (h.setMyTile (Tile.wf_serve h.myTile))) (.ite (.next h1.askScalar.issue)
    (.next (.stepOn (.chargeAt (h1.setMyTile (Tile.wf_writeAt _ _ _ (Tile.wf_visit h1.myTile)))))))))))

theorem KeepsMemories.execGetf {s : State} (h : MemoriesCanonical s) {d a : BitVec 5} {i : BitVec 14} :
    KeepsMemories (execGetf d a i s) :=
  .withRegs h (fun _ _ h1 => .ite (.fault h) (.atBank h
    (.ite (.notReady (h.setMyTile (Tile.wf_serve h.myTile))) (.finish h
    (h1.askScalar.ite (.chargeAt (h1.setMyTile (Tile.wf_writeAt _ _ _ (Tile.wf_visit h1.myTile)))))))))

theorem MemoriesCanonical.setGroup {s : State} (h : MemoriesCanonical s) {g k : Nat} {gr : Option Group} :
    MemoriesCanonical (s.setGroup g k gr) := by
  unfold State.setGroup
  dsimp only
  split
  · exact h
  · exact h.update

theorem Tile.wf_maskBit {t : Tile} (ht : Memory.wf t.scratch = true) {k : Nat} {v : Bool} :
    Memory.wf (t.maskBit k v).scratch = true := ht

theorem KeepsMemories.atHub {s : State} (h : MemoriesCanonical s) {at_ : Nat} {go : Outcome State Fault Refusal}
    (hgo : KeepsMemories go) : KeepsMemories (s.atHub at_ go) := by
  unfold State.atHub
  split
  · exact .ite hgo (.wait h)
  · exact .wait h

theorem KeepsMemories.execJoin {s : State} (h : MemoriesCanonical s) {d : BitVec 5} {g : BitVec 4} :
    KeepsMemories (execJoin d g s) :=
  .withRegs h (fun _ _ h1 => .atHub h (.finish h (h1.setGroup.setMyTile_of_myTile (fun h2 => Tile.wf_maskBit h2))))

theorem KeepsMemories.execLeave {s : State} (h : MemoriesCanonical s) {d : BitVec 5} {g : BitVec 4} :
    KeepsMemories (execLeave d g s) := by
  unfold Machine.execLeave
  refine .withRegs h ?_
  intro _ _ h1
  refine .atHub h (.finish h (.setMyTile_of_myTile ?_ ?_))
  · split
    · exact h1
    · exact h1.setGroup.ite h1
  · intro h2
    dsimp only
    exact Tile.wf_maskBit h2

theorem KeepsMemories.execGbar {s : State} (h : MemoriesCanonical s) {g : BitVec 4} : KeepsMemories (execGbar g s) := by
  unfold Machine.execGbar
  refine .ite (.badOperand h) (.ite (.next h.deliverAbort) ?_)
  dsimp only
  split
  · exact .badOperand h
  · exact .ite (.next h.mapMe) (.ite (.wait h) (.wait h.setGroup))

theorem KeepsMemories.execGroupBarrierRelease {s : State} (h : MemoriesCanonical s) {p k : Nat} :
    KeepsMemories (execGroupBarrierRelease p k s) := by
  unfold Machine.execGroupBarrierRelease
  dsimp only
  split
  · exact .next h
  · split
    · exact .next h
    · exact .next (h.update.foldl (fun _ _ h3 => .ite (h3.setTile _ (h3.tile _)) h3))

theorem KeepsMemories.execAbortg {s : State} (h : MemoriesCanonical s) {a : BitVec 5} : KeepsMemories (execAbortg a s) := by
  unfold Machine.execAbortg
  refine .withRegs h ?_
  intro _ _ h1
  dsimp only
  split
  · exact .badOperand h
  · exact .ite (.badOperand h) (.next h1.update.stepOn)

theorem MemoriesCanonical.sampleGbar {s : State} (h : MemoriesCanonical s) {w : Who} {k : Nat} :
    MemoriesCanonical (s.sampleGbar w k) := by
  unfold State.sampleGbar
  refine .ite (h.deliverAbort.ite ?_) h
  split
  · exact h.setCore
  · exact h

theorem KeepsMemories.execGroupAbortMarking {s : State} (h : MemoriesCanonical s) {p k : Nat} :
    KeepsMemories (execGroupAbortMarking p k s) := by
  unfold Machine.execGroupAbortMarking
  dsimp only
  split
  · split
    · exact .next h.update
    · exact .next (.withSaved (h.update.foldl (fun _ _ h4 => h4.setTile _ (Tile.wf_ite (h4.tile _) (h4.tile _))))
        (Saved.wf_map (MemoriesCanonical.saved (h.update.foldl
        (fun _ _ h4 => h4.setTile _ (Tile.wf_ite (h4.tile _) (h4.tile _))))) (fun _ h4 => Tile.wf_ite_then h4
        (fun _ => h4))))
  · exact .next h

theorem KeepsMemories.execAbchk {s : State} (h : MemoriesCanonical s) : KeepsMemories (execAbchk s) :=
  .ite (.next h.deliverAbort) (.next h.stepOn)

theorem KeepsMemories.execRingset {s : State} (h : MemoriesCanonical s) {a : BitVec 5} {n : BitVec 3} :
    KeepsMemories (execRingset a n s) := by
  unfold Machine.execRingset
  refine .withRegs h ?_
  intro _ _ h1
  refine .ite (.fault h) (.ite (.wait h) (.ite (.next h1.askScalar.issue) ?_))
  dsimp only
  split
  · exact .badOperand h
  · exact .next (.issue (h1.askScalar.setMyTile_of_myTile (fun h3 => Tile.wf_setRing h3)))

theorem KeepsMemories.ringOp {s : State} (h : MemoriesCanonical s) {n : BitVec 3}
    {k : Ring → Outcome State Fault Refusal} (hk : ∀ r, KeepsMemories (k r)) : KeepsMemories (s.ringOp n k) :=
  .ite (.wait h) (.ite (.badOperand h) (hk _))

theorem KeepsMemories.execRingopTail {s : State} (h : MemoriesCanonical s) {d : BitVec 5} {n : BitVec 3} :
    KeepsMemories (execRingopTail d n s) := by
  unfold Machine.execRingopTail
  refine .ringOp h ?_
  intro _
  split
  · exact .fault h
  · exact .ite (.wait h) (.compute h)

theorem KeepsMemories.execRingopFill {s : State} (h : MemoriesCanonical s) {n : BitVec 3} :
    KeepsMemories (execRingopFill n s) :=
  .ringOp h (fun _ => .ite (.fault h) (.next (.stepOn (h.setMyTile (Tile.wf_setRing h.myTile)))))

theorem KeepsMemories.execRingopHead {s : State} (h : MemoriesCanonical s) {d : BitVec 5} {n : BitVec 3} :
    KeepsMemories (execRingopHead d n s) := by
  unfold Machine.execRingopHead
  refine .ringOp h ?_
  intro _
  split
  · exact .fault h
  · exact .ite (.wait h) (.compute h)

theorem KeepsMemories.execRingopFree {s : State} (h : MemoriesCanonical s) {n : BitVec 3} :
    KeepsMemories (execRingopFree n s) :=
  .ringOp h (fun _ => .ite (.fault h) (.next (.stepOn (h.setMyTile (Tile.wf_setRing h.myTile)))))

theorem KeepsMemories.execRingopReset {s : State} (h : MemoriesCanonical s) {n : BitVec 3} :
    KeepsMemories (execRingopReset n s) :=
  .ringOp h (fun _ => .ite (.wait h) (.next (.stepOn (h.setMyTile (Tile.wf_setRing h.myTile)))))

theorem KeepsMemories.execNop {s : State} (h : MemoriesCanonical s) : KeepsMemories (execNop s) := .next h.stepOn

theorem KeepsMemories.execTrap {s : State} (h : MemoriesCanonical s) {a : BitVec 5} : KeepsMemories (execTrap a s) :=
  .withRegs h (fun _ _ h1 => .next h1.trap)

theorem KeepsMemories.execEret {s : State} (h : MemoriesCanonical s) : KeepsMemories (execEret s) :=
  .ite (.fault h) (.next h.eret)

theorem KeepsMemories.exitTask {s : State} (h : MemoriesCanonical s) {code : Nat} : KeepsMemories (s.exitTask code) :=
  .ite (.next h) (.next h.stepOn.beginEnd)

theorem KeepsMemories.execExit {s : State} (h : MemoriesCanonical s) {a : BitVec 5} : KeepsMemories (execExit a s) :=
  .withRegs h (fun _ _ _ => .exitTask h)

theorem KeepsMemories.execHalt {s : State} (h : MemoriesCanonical s) : KeepsMemories (execHalt s) :=
  .ite (.exitTask h) (.next h.drainMe)

theorem MemoriesCanonical.retire {s : State} (h : MemoriesCanonical s) {g : Nat} : MemoriesCanonical (s.retire g) :=
  h.ite h.stepOn.beginEnd

theorem MemoriesCanonical.refuseRetire {s : State} (h : MemoriesCanonical s) {g : Nat} :
    MemoriesCanonical (s.refuseRetire g) := by
  unfold State.refuseRetire
  dsimp only
  split
  · refine .trap (h.setTile _ ?_)
    dsimp only
    exact h.tile _
  · exact h

theorem MemoriesCanonical.refuseRetires {s : State} (h : MemoriesCanonical s) : MemoriesCanonical s.refuseRetires :=
  h.foldl (fun _ _ h1 => h1.refuseRetire)

theorem KeepsMemories.execRetire {s : State} (h : MemoriesCanonical s) : KeepsMemories (execRetire s) :=
  .ite (.illegal h) (.ite (.next h.retire) (.wait h))

theorem KeepsMemories.execFence {s : State} (h : MemoriesCanonical s) {k sc : BitVec 2} :
    KeepsMemories (execFence k sc s) := .ite (.illegal h) (.ite (.next h.stepOn) (.wait h))

theorem KeepsMemories.placeMark {s : State} (h : MemoriesCanonical s) {f : Fifo} {n : Nat} :
    KeepsMemories (s.placeMark f n) :=
  .ite (.wait h) (.ite (.badOperand h) (.next (.stepOn
    (.mapMe (h.setMyTile (Tile.wf_ite_then (Tile.wf_setFifo h.myTile) (fun h1 => Tile.wf_setCore h1)))))))

theorem KeepsMemories.execMark {s : State} (h : MemoriesCanonical s) {n : BitVec 5} : KeepsMemories (execMark n s) := by
  unfold Machine.execMark
  split
  · exact .next h.stepOn
  · exact .placeMark h
  · exact .placeMark h

theorem KeepsMemories.execSstep {s : State} (h : MemoriesCanonical s) {a : BitVec 5} : KeepsMemories (execSstep a s) :=
  .ite (.illegal h) (.withRegs h (fun _ _ _ => .ite (.miss h.mapMe) (.wait h.mapMe)))

theorem KeepsMemories.execFrame {s : State} (h : MemoriesCanonical s) {a : BitVec 5} : KeepsMemories (execFrame a s) := by
  unfold Machine.execFrame
  refine .ite (.illegal h) (.withRegs h ?_)
  intro _ _ _
  refine .ite (.miss h) ?_
  split
  · exact .wait h
  · exact .ite (.badOperand h) (.wait h.update)

theorem KeepsMemories.execWaitd {s : State} (h : MemoriesCanonical s) {a : BitVec 5} : KeepsMemories (execWaitd a s) :=
  .withRegs h (fun _ _ h1 => .ite (.next h1.stepOn) (.wait h))

theorem KeepsMemories.execWaitt {s : State} (h : MemoriesCanonical s) {a : BitVec 5} : KeepsMemories (execWaitt a s) :=
  .withRegs h (fun _ _ h1 => .ite (.next h1.stepOn) (.wait h))

theorem MemoriesCanonical.appendCard {s : State} (h : MemoriesCanonical s) {x : Nat} {c : Ctx} {va : U64}
    {bs : List Byte} : MemoriesCanonical (s.appendCard x c va bs) := h.setCtx.writePhys _ _

theorem KeepsMemories.execLaunch {s : State} (h : MemoriesCanonical s) {d a : BitVec 5} :
    KeepsMemories (execLaunch d a s) := by
  unfold Machine.execLaunch
  refine .ite (.illegal h) (.ite (.wait h) (.withRegs h ?_))
  intro _ _ h1
  refine .ite (.fault h) ?_
  split
  · exact .fault h
  · exact .fault h
  · refine .ite (.fault h) ?_
    split
    · exact .fault h
    · exact .atHub h.tick (.ite (.finish h h1) (.finish h h1.appendCard))

end Sys2Proof.Machine

/-!
O60, the vector and matrix words.
-/

namespace Sys2Proof.Machine

open Host (Outcome)

/-! The vector and matrix words. -/

theorem Tile.wf_putElems {t : Tile} (ht : Memory.wf t.scratch = true) {ty : Nat} {o : Opnd} {new : List Nat}
    {wr : List Bool} : Memory.wf (t.putElems ty o new wr).scratch = true := by
  unfold Tile.putElems
  dsimp only
  split
  · exact ht
  · exact Tile.wf_foldl ht (fun _ _ h1 => Tile.wf_setLine _ _ _ h1)
  · exact ht
  · exact ht

theorem KeepsMemories.notYet {s : State} (h : MemoriesCanonical s) {stamp : Option (BitVec 30)} {reason : Nat}
    {w : Wait} : KeepsMemories (s.notYet stamp reason w) := .ite (.miss h) (.wait h)

theorem KeepsMemories.atStamp {s : State} (h : MemoriesCanonical s) {stamp : Option (BitVec 30)}
    {go : Outcome State Fault Refusal} (hgo : KeepsMemories go) : KeepsMemories (s.atStamp stamp go) :=
  .ite (.ite (.miss h) (.ite (.miss h) (.ite (.wait h.mapMe) hgo))) hgo

theorem Tile.wf_touchLines {t : Tile} (ht : Memory.wf t.scratch = true) {now rank : Nat} {ls : List Int} :
    Memory.wf (t.touchLines now rank ls).scratch = true := by
  unfold Tile.touchLines
  split
  · exact Tile.wf_touch ht
  · exact ht

theorem MemoriesCanonical.chargeLines {s : State} (h : MemoriesCanonical s) {g : Nat} {ls : List Int} :
    MemoriesCanonical (s.chargeLines g ls) := h.ite h.charge

theorem Tile.wf_startJob {t : Tile} (ht : Memory.wf t.scratch = true) {now slack lat : Nat} {i : Instr} {v : VIn}
    {reads : List (Nat × List Int)} {writes : List Int} {pc : U64} {out : Option (Nat × List Nat × List Bool)}
    {walks : List (Nat × U64 × U64)} :
    Memory.wf (t.startJob now slack lat i v reads writes pc out walks).scratch = true := by
  unfold Tile.startJob
  dsimp only
  exact Tile.wf_ask (Tile.wf_touchLines ht)

theorem MemoriesCanonical.vectorEffect {s : State} (h : MemoriesCanonical s) {i : Instr} {w : VWord} {p : VPlan}
    {f : Fields} {readD : Bool} {rd : List (Nat × List Int)} {wl : List Int} {lat : Nat} {res : List Res} :
    MemoriesCanonical (s.vectorEffect i w p f readD rd wl lat res) := by
  unfold State.vectorEffect
  refine .ite ?_ ?_
  · refine .issue (h.setMyTile ?_)
    dsimp only
    exact Tile.wf_ite (Tile.wf_touchLines h.myTile) (Tile.wf_putElems (Tile.wf_touchLines h.myTile))
  · refine .issue (h.setMyTile ?_)
    dsimp only
    exact Tile.wf_startJob h.myTile

theorem KeepsMemories.vectorIssue {s : State} (h : MemoriesCanonical s) {i : Instr} {w : VWord} {p : VPlan} {f : Fields} :
    KeepsMemories (s.vectorIssue i w p f) := by
  unfold State.vectorIssue
  refine .ite (.notYet h) ?_
  split
  · exact .fault h
  · exact .next h.vectorEffect

theorem KeepsMemories.longWord {s : State} (h : MemoriesCanonical s) {i : Instr} {w : VWord} {p : VPlan}
    {go : Fields → Outcome State Fault Refusal} (hgo : ∀ f, KeepsMemories (go f)) :
    KeepsMemories (s.longWord i w p go) := by
  unfold State.longWord
  refine .ite (.illegal h) ?_
  split
  · exact .badOperand h
  · exact .atStamp h (hgo _)

theorem KeepsMemories.vectorWord {s : State} (h : MemoriesCanonical s) {i : Instr} {w : VWord} {p : VPlan} :
    KeepsMemories (s.vectorWord i w p) := .longWord h (fun _ => .vectorIssue h)

theorem Tile.wf_jobResult {t : Tile} (ht : Memory.wf t.scratch = true) {j : VJob} {p : VPlan} {w : VWord} {d : Opnd}
    {now : Nat} : Memory.wf (t.jobResult j p w d now).scratch = true := by
  unfold Tile.jobResult
  refine Tile.wf_mapJob ?_
  refine Tile.wf_ite_then (Tile.wf_ite (Tile.wf_putElems ht) ht) ?_
  intro h1
  exact h1

theorem KeepsMemories.execVtos {s : State} (h : MemoriesCanonical s) {w : VWord} : KeepsMemories (execVtos w s) := by
  unfold Machine.execVtos
  refine .longWord h ?_
  intro _
  refine .ite (.notYet h) (.ite ?_ ?_)
  · refine .next (.issue (.mapMe (h.setMyTile ?_)))
    dsimp only
    exact Tile.wf_touchLines h.myTile
  · refine .next (.issue (h.setMyTile ?_))
    dsimp only
    exact Tile.wf_startJob h.myTile

theorem Tile.wf_touchLanes {t : Tile} (ht : Memory.wf t.scratch = true) {now : Nat} {act : List Bool} {ea : Nat → Int} :
    Memory.wf (t.touchLanes now act ea).scratch = true :=
  Tile.wf_foldl ht (fun _ _ h1 => Tile.wf_ite (Tile.wf_touchAt h1) h1)

theorem KeepsMemories.gatherWord {s : State} (h : MemoriesCanonical s) {w : VWord} {f : Fields} {store : Bool}
    {go : VIn → (Nat → Int) → List Int → Outcome State Fault Refusal} (hgo : ∀ v ea ls, KeepsMemories (go v ea ls)) :
    KeepsMemories (s.gatherWord w f store go) :=
  .ite (.notYet h) (.ite (.fault h) (.ite (.notYet h) (hgo _ _ _)))

theorem Tile.wf_putGather {t : Tile} (ht : Memory.wf t.scratch = true) {w : VWord} {o : VOut} :
    Memory.wf (t.putGather w o).scratch = true := Tile.wf_ite ht (Tile.wf_putElems ht)

theorem KeepsMemories.execVgath {s : State} (h : MemoriesCanonical s) {w : VWord} : KeepsMemories (execVgath w s) :=
  .longWord h (fun _ => .gatherWord h (fun _ _ _ => .ite (.next
    (.issue (h.setMyTile (Tile.wf_putGather (Tile.wf_touchLanes h.myTile))))) (.next
    (.issue (h.setMyTile (Tile.wf_startJob (Tile.wf_touchLanes h.myTile)))))))

theorem Tile.wf_scatterLine {t : Tile} (ht : Memory.wf t.scratch = true) {w : VWord} {v : VIn} {line : Int} :
    Memory.wf (t.scatterLine w v line).scratch = true := Tile.wf_foldl ht (fun _ _ h1 => Tile.wf_writeAt _ _ _ h1)

theorem KeepsMemories.execVscat {s : State} (h : MemoriesCanonical s) {w : VWord} : KeepsMemories (execVscat w s) :=
  .longWord h (fun _ => .gatherWord h (fun _ _ _ => .next (.issue
    (h.setMyTile (Tile.wf_startJob (Tile.wf_touchLanes h.myTile))))))

theorem KeepsMemories.loadImage {s : State} (h : MemoriesCanonical s) {i : Instr} {w : VWord} {dst rdr : Res}
    {busy : Bool} {put : XRes → List Nat → XRes} : KeepsMemories (s.loadImage i w dst rdr busy put) := by
  unfold State.loadImage
  refine .longWord h ?_
  intro _
  refine .ite (.notYet h) (.ite ?_ ?_)
  · refine .next (.issue (h.setMyTile ?_))
    dsimp only
    exact Tile.wf_touchLines h.myTile
  · refine .next (.issue (h.setMyTile ?_))
    dsimp only
    exact Tile.wf_startJob h.myTile

theorem KeepsMemories.execCbldCodebook {s : State} (h : MemoriesCanonical s) {w : VWord} :
    KeepsMemories (execCbldCodebook w s) := .loadImage h

theorem Tile.wf_setAcc {t : Tile} (ht : Memory.wf t.scratch = true) {n : Nat} {v : List Nat} {tag : Nat} :
    Memory.wf (t.setAcc n v tag).scratch = true := ht

theorem Tile.wf_setOwner {t : Tile} (ht : Memory.wf t.scratch = true) {n : Nat} {o : Owner} :
    Memory.wf (t.setOwner n o).scratch = true := ht

theorem Tile.wf_freeAcc {t : Tile} (ht : Memory.wf t.scratch = true) {n : Nat} : Memory.wf (t.freeAcc n).scratch = true :=
  Tile.wf_setOwner (Tile.wf_setAcc ht)

theorem MemoriesCanonical.setHolder {s : State} (h : MemoriesCanonical s) {g : Nat} {o : Owner} {k : Task} :
    MemoriesCanonical (s.setHolder g o k) := by
  unfold State.setHolder
  refine .ite (h.setTile _ (h.tile _)) ?_
  split
  · next v hv =>
    have hs : Memory.wf v.tile.scratch = true := h.saved_find hv
    exact h.withSaved (Saved.wf_put h.saved hs)
  · exact h

theorem MemoriesCanonical.takeFrame {s s' : State} (h : MemoriesCanonical s) {g : Nat} (hs : s.takeFrame g = some s') :
    MemoriesCanonical s' := by
  unfold State.takeFrame at hs
  dsimp only at hs
  split at hs
  · obtain rfl := Option.some.inj hs
    exact h
  · split at hs
    · cases hs
    · split at hs
      · cases hs
      · obtain rfl := Option.some.inj hs
        exact h.setCtx.setTile _ (h.tile g)

theorem MemoriesCanonical.startMove {s : State} (h : MemoriesCanonical s) {g n : Nat} {fill : Bool} {who : Owner} :
    MemoriesCanonical (s.startMove g n fill who) := .tick (h.setTile _ (h.tile _))

/-- A word's use of an accumulator begins with its owner's claim, a move, or nothing. -/
theorem MemoriesCanonical.beginUse {s s' : State} (h : MemoriesCanonical s) {g n : Nat} (hs : s.beginUse g n = some s') :
    MemoriesCanonical s' := by
  unfold State.beginUse at hs
  dsimp only at hs
  split at hs
  · obtain rfl := Option.some.inj hs
    exact h
  · split at hs
    · obtain rfl := Option.some.inj hs
      exact h.setTile _ (h.tile g)
    · split at hs
      · split at hs <;> obtain rfl := Option.some.inj hs
        · exact h.startMove
        · exact h.setTile _ (Tile.wf_setOwner (h.tile g))
      · split at hs
        · obtain ⟨u, hu, rfl⟩ := Option.map_eq_some_iff.1 hs
          exact (h.takeFrame hu).startMove
        · obtain rfl := Option.some.inj hs
          exact h.startMove

theorem MemoriesCanonical.beginUses {s : State} (h : MemoriesCanonical s) {g : Nat} {ns : List Nat} :
    MemoriesCanonical (s.beginUses g ns).1 := by
  induction ns generalizing s with
  | nil => exact h
  | cons n ns ih =>
    unfold State.beginUses
    split
    · next hs => exact ih (h.beginUse hs)
    · exact ih h

theorem MemoriesCanonical.writeImage {s : State} (h : MemoriesCanonical s) {g n : Nat} :
    MemoriesCanonical (s.writeImage g n) := by
  unfold State.writeImage
  dsimp only
  split
  · exact h
  · split
    · exact .setHolder (h.writePhys _ _)
    · exact h

theorem MemoriesCanonical.readImage {s : State} (h : MemoriesCanonical s) {g n : Nat} {me : Owner} :
    MemoriesCanonical (s.readImage g n me) := by
  unfold State.readImage
  dsimp only
  split
  · refine h.beginEnd.ite (.returnFrame (h.setTile _ ?_))
    dsimp only
    exact Tile.wf_setOwner (Tile.wf_setAcc (h.tile _))
  · exact h

theorem Tile.wf_popHeads {t : Tile} (ht : Memory.wf t.scratch = true) {rs : List RingRead} :
    Memory.wf (t.popHeads rs).scratch = true := Tile.wf_foldl ht (fun _ _ h1 => Tile.wf_ite (Tile.wf_setRing h1) h1)

theorem Tile.wf_fillTail {t : Tile} (ht : Memory.wf t.scratch = true) {f : Option (Nat × Nat)} :
    Memory.wf (t.fillTail f).scratch = true := by
  unfold Tile.fillTail
  dsimp only
  split
  · exact ht
  · exact Tile.wf_setRing ht

theorem Tile.wf_putAccs {t : Tile} (ht : Memory.wf t.scratch = true) {as : List (Nat × Option (List Nat × Nat))} :
    Memory.wf (t.putAccs as).scratch = true := by
  unfold Tile.putAccs
  refine Tile.wf_foldl ht ?_
  intro _ _ h1
  split
  · exact Tile.wf_setAcc h1
  · exact Tile.wf_freeAcc h1

theorem Tile.wf_matrixResult {t : Tile} (ht : Memory.wf t.scratch = true) {m : MOpen} {o : MOut} {fill : Option
    (Nat × Nat)} {due : Nat} : Memory.wf (t.matrixResult m o fill due).scratch = true := Tile.wf_putAccs ht

theorem MemoriesCanonical.matrixEffect {s : State} (h : MemoriesCanonical s) {i : Instr} {op : Nat} {w : MWord}
    {p : MPlan} {rm : Nat} {q : MRead} : MemoriesCanonical (s.matrixEffect i op w p rm q) := by
  unfold State.matrixEffect
  refine .issue ?_
  refine .chargeLines ?_
  refine h.setMyTile ?_
  dsimp only
  split
  · refine Tile.wf_setQueue ?_
    refine Tile.wf_touchLines ?_
    refine Tile.wf_fillTail ?_
    refine Tile.wf_popHeads ?_
    refine Tile.wf_ite_then h.myTile ?_
    intro h2
    exact Tile.wf_matrixResult h2
  · refine Tile.wf_touchLines ?_
    refine Tile.wf_fillTail ?_
    refine Tile.wf_popHeads ?_
    refine Tile.wf_ite_then h.myTile ?_
    intro h2
    exact Tile.wf_matrixResult h2

theorem KeepsMemories.matrixIssue {s : State} (h : MemoriesCanonical s) {i : Instr} {op : Nat} {w : MWord} {p : MPlan}
    {lack : Bool} : KeepsMemories (s.matrixIssue i op w p lack) := by
  unfold State.matrixIssue
  dsimp only
  split
  · exact .notYet h
  · split
    · exact .fault h
    · exact .next h.matrixEffect

theorem KeepsMemories.matrixWord {s : State} (h : MemoriesCanonical s) {i : Instr} {op : Nat} {w : MWord} {p : MPlan} :
    KeepsMemories (s.matrixWord i op w p) := by
  unfold State.matrixWord
  refine .ite (.illegal h) ?_
  dsimp only
  split
  · exact .badOperand h
  · exact .ite (.fault h) (.ite (.atStamp h (.next h)) (.atStamp h.beginUses (.matrixIssue h.beginUses)))

theorem Tile.wf_computeHeld {t : Tile} (ht : Memory.wf t.scratch = true) {m : MOpen} {due : Nat} :
    Memory.wf (t.computeHeld m due).scratch = true := by
  unfold Tile.computeHeld
  dsimp only
  split
  · exact ht
  · exact Tile.wf_ite ht (Tile.wf_matrixResult ht)

theorem Tile.wf_readHeld {t : Tile} (ht : Memory.wf t.scratch = true) {now : Nat} {datum : Bool} {m : MOpen} :
    Memory.wf (t.readHeld now datum m).scratch = true := by
  unfold Tile.readHeld
  dsimp only
  split
  · exact ht
  · refine Tile.wf_ite ?_ ?_
    · dsimp only
      exact ht
    · refine Tile.wf_computeHeld ?_
      dsimp only
      exact ht

theorem Tile.wf_dropFill {t : Tile} (ht : Memory.wf t.scratch = true) {m : MOpen} :
    Memory.wf (t.dropFill m).scratch = true := by
  unfold Tile.dropFill
  dsimp only
  split
  · exact Tile.wf_setQueue (Tile.wf_foldl ht (fun _ _ h2 => Tile.wf_setRing h2))
  · exact Tile.wf_foldl ht (fun _ _ h2 => Tile.wf_setRing h2)

end Sys2Proof.Machine

/-!
O60, the engines' commands.
-/

namespace Sys2Proof.Machine

open Host (Outcome)

/-! The engines' commands. -/

theorem MemoriesCanonical.enqueue {s : State} (h : MemoriesCanonical s) {w : EWord} {c : Cmd} :
    MemoriesCanonical (s.enqueue w c) := by
  unfold State.enqueue
  refine .ite_then ?_ (fun h1 => h1.due)
  refine .issue ?_
  refine .tick ?_
  refine h.setMyTile ?_
  refine Tile.wf_setFifo ?_
  dsimp only
  split
  · exact Tile.wf_setQueue (Tile.wf_ite_then (Tile.wf_ite (Tile.wf_touch h.myTile) h.myTile)
      (fun h2 => Tile.wf_touchLines h2))
  · exact Tile.wf_ite_then (Tile.wf_ite (Tile.wf_touch h.myTile) h.myTile) (fun h2 => Tile.wf_touchLines h2)

theorem KeepsMemories.engineIssue {s : State} (h : MemoriesCanonical s) {op : Nat} {w : EWord} :
    KeepsMemories (s.engineIssue op w) := by
  unfold State.engineIssue
  dsimp only
  split
  · exact .notYet h
  · exact .next h.mapMe
  · split
    · exact .fault h
    · exact .next h.enqueue

theorem KeepsMemories.engineWord {s : State} (h : MemoriesCanonical s) {i : Instr} {op : Nat} {w : EWord} :
    KeepsMemories (s.engineWord i op w) := by
  unfold State.engineWord
  refine .ite (.illegal h) ?_
  split
  · exact .fault h
  · exact .ite (.fault h) (.atStamp h (.engineIssue h))

theorem MemoriesCanonical.latchRemote {s : State} (hs : MemoriesCanonical s) {h ia : Nat} :
    MemoriesCanonical (s.latchRemote h ia) := hs.setTile _ (Tile.wf_latch (hs.tile _))

theorem MemoriesCanonical.askFar {s : State} (hs : MemoriesCanonical s) {h : Nat} {r : Remote} :
    MemoriesCanonical (s.askFar h r) := hs.setTile _ (Tile.wf_ask (hs.tile _))

theorem MemoriesCanonical.remoteRead {s : State} (h : MemoriesCanonical s) {g ia n : Nat} {got : List (Nat × Nat × Nat)} :
    MemoriesCanonical (s.remoteRead g ia n got).1 := h.ite_fst h.latchRemote

theorem MemoriesCanonical.remoteWrite {s : State} (h : MemoriesCanonical s) {g ia : Nat} {bs : List Byte} :
    MemoriesCanonical (s.remoteWrite g ia bs) := .ite (h.setTile _ (Tile.wf_store (h.tile _))) h.latchRemote

theorem MemoriesCanonical.chargeSector {s : State} (h : MemoriesCanonical s) {g cls va : Nat} :
    MemoriesCanonical (s.chargeSector g cls va) := h.charge.ite h

theorem MemoriesCanonical.chargeBlock {s : State} (h : MemoriesCanonical s) {g cls va n : Nat} :
    MemoriesCanonical (s.chargeBlock g cls va n) := h.charge.ite (h.chargeSector.ite h.charge)

theorem MemoriesCanonical.readPiece {s : State} (h : MemoriesCanonical s) {g : Nat} {c : Cmd} {va n : Nat} :
    MemoriesCanonical (s.readPiece g c va n).1 := by
  unfold State.readPiece
  dsimp only
  split
  · exact h
  · split
    · exact h.remoteRead.chargeSector
    · split
      · exact h.chargeSector
      · exact h
    · split
      · exact h.countRequest.ite h
      · split
        · exact .chargeSector (h.countRequest.ite h)
        · exact h.countRequest.ite h
      · split
        · exact .chargeSector (h.countRequest.ite h)
        · exact .chargeSector (h.countRequest.ite h)

theorem MemoriesCanonical.readPieces {s : State} (h : MemoriesCanonical s) {g : Nat} {c : Cmd} {ps : List (Nat × Nat)} :
    MemoriesCanonical (s.readPieces g c ps).1 := by
  induction ps generalizing s with
  | nil => exact h
  | cons p ps ih =>
    unfold State.readPieces
    dsimp only
    split
    · exact ih h.readPiece
    · exact h.readPiece

theorem MemoriesCanonical.chargeOwn {s : State} (h : MemoriesCanonical s) {g : Nat} {line : Int} :
    MemoriesCanonical (s.chargeOwn g line) := h.chargeLines.ite h

theorem MemoriesCanonical.readLine {s : State} (h : MemoriesCanonical s) {g rank : Nat} {c : Cmd} {line : Int} :
    MemoriesCanonical (s.readLine g rank c line).1 := .chargeOwn (h.setTile _ (Tile.wf_touch (h.tile _)))

theorem MemoriesCanonical.readOwn {s : State} (h : MemoriesCanonical s) {g rank : Nat} {c : Cmd} {line : Int} :
    MemoriesCanonical (s.readOwn g rank c line).1 := by
  unfold State.readOwn
  refine .ite_fst (h.setTile _ (Tile.wf_touch (h.tile _))) ?_
  split
  · exact h
  · exact h

theorem MemoriesCanonical.takeLines {s : State} (h : MemoriesCanonical s) {g : Nat} {f : Fifo} {c : Cmd} :
    MemoriesCanonical (s.takeLines g f c).1 := h.chargeLines

theorem MemoriesCanonical.writeOwn {s : State} (h : MemoriesCanonical s) {g rank : Nat} {line : Int} {bs : List Byte} :
    MemoriesCanonical (s.writeOwn g rank line bs) :=
  .chargeOwn (h.setTile _ (Tile.wf_setLine _ _ _ (Tile.wf_touch (h.tile _))))

theorem MemoriesCanonical.readRuns {s : State} (h : MemoriesCanonical s) {g : Nat} {f : Fifo} {c : Cmd} {own : Bool}
    {rs : List (Option (Nat × Nat))} : MemoriesCanonical (s.readRuns g f c own rs).1 := by
  induction rs generalizing s with
  | nil => exact h
  | cons r rs ih =>
    obtain _ | ⟨a, n⟩ := r
    · exact ih h
    · unfold State.readRuns
      dsimp only
      split
      · exact ih (.ite_fst h.readOwn h.readPieces)
      · exact .ite_fst h.readOwn h.readPieces

theorem MemoriesCanonical.readSource {s : State} (h : MemoriesCanonical s) {g : Nat} {f : Fifo} {c : Cmd} :
    MemoriesCanonical (s.readSource g f c).1 := by
  unfold State.readSource
  dsimp only
  split
  · split
    · exact h.readRuns.readRuns.readRuns
    · exact h.readRuns.readRuns
  · exact h.readRuns

theorem MemoriesCanonical.startScatter {s : State} (h : MemoriesCanonical s) {g : Nat} {f : Fifo} {c : Cmd} :
    MemoriesCanonical (s.startScatter g f c).1 := h.readRuns.readRuns

/-- A command that begins, or goes on with its source, has read it. -/
theorem MemoriesCanonical.startCommand {s s' : State} (h : MemoriesCanonical s) {g : Nat} {f : Fifo} {c c' : Cmd}
    (hs : s.startCommand g f c = .planned s' c') : MemoriesCanonical s' := by
  unfold State.startCommand at hs
  split at hs
  · obtain ⟨rfl, -⟩ := Started.planned.inj hs
    exact h.readRuns
  · split at hs
    · obtain ⟨rfl, -⟩ := Started.planned.inj hs
      exact h.startScatter
    · dsimp only at hs
      split at hs
      · cases hs
      all_goals
        obtain ⟨rfl, -⟩ := Started.planned.inj hs
        exact h.readSource

theorem KeepsOk.writePiece {s : State} (h : MemoriesCanonical s) {g : Nat} {f : Fifo} {c : Cmd} {va : Nat}
    {bs : List Byte} {twin : Bool} : KeepsOk (s.writePiece g f c va bs twin) := by
  unfold State.writePiece
  dsimp only
  split
  · exact .error
  · split
    · exact .ite .error .error
    · exact .ite .error (.ok h.countRequest.twinWrite.chargeBlock)
    · split
      · exact .ok h.remoteWrite.chargeBlock
      · refine .ite .error ?_
        split
        · exact .ok (.chargeBlock (h.sendPeer ‹_›))
        · exact .error
      · split
        · exact .error
        · exact .error
        · refine .ite .error ?_
          split
          · exact .ok (.chargeBlock (.sendPeer (h.countRequest.ite h) ‹_›))
          · exact .error
        · exact .ite .error (.ok (.chargeBlock (.writeReach (h.countRequest.ite h) _ _ _)))
        · exact .ok (.chargeBlock (.writeReach (h.countRequest.ite h) _ _ _))

theorem MemoriesCanonical.writePiece {s s' : State} (h : MemoriesCanonical s) {g : Nat} {f : Fifo} {c : Cmd} {va : Nat}
    {bs : List Byte} {twin b : Bool} (hs : s.writePiece g f c va bs twin = .ok (s', b)) : MemoriesCanonical s' :=
  KeepsOk.writePiece h (s', b) hs

theorem MemoriesCanonical.sectors {s : State} (h : MemoriesCanonical s) {g : Nat} {f : Fifo} {c : Cmd} {n : Nat} :
    MemoriesCanonical (s.sectors g f c n) := h.ite (h.setTile _ (Tile.wf_updateBarrier (h.tile _)))

theorem MemoriesCanonical.updateElement {s : State} (h : MemoriesCanonical s) {g : Nat} {f : Fifo} {c : Cmd} {idx : Nat}
    {xs : List Nat} : MemoriesCanonical (s.updateElement g f c idx xs).1 :=
  .ite_fst (.ite (.chargeOwn (h.setTile _ (Tile.wf_store (h.tile _)))) (.charge
    (h.setTile _ (Tile.wf_store (h.tile _))))) (h.setTile _ (Tile.wf_latch (h.tile _)))

theorem KeepsOk.performAct {s : State} (h : MemoriesCanonical s) {g : Nat} {f : Fifo} {c : Cmd} {a : Act} :
    KeepsOk (s.performAct g f c a) := by
  unfold State.performAct
  dsimp only
  split
  · exact .ok h.writeOwn.sectors
  · split
    · exact .error
    · exact .ok (.sectors (h.writePiece ‹_›))
    · exact .ok (h.writePiece ‹_›)
  · exact .ok_pair h.updateElement
  · split
    · exact .ok (.charge (h.sendPeer ‹_›))
    · exact .error
  · exact .ok h

theorem MemoriesCanonical.performAct {s s' : State} (h : MemoriesCanonical s) {g : Nat} {f : Fifo} {c c' : Cmd} {a : Act}
    (hs : s.performAct g f c a = .ok (s', c')) : MemoriesCanonical s' := KeepsOk.performAct h (s', c') hs

theorem MemoriesCanonical.unitOfWork {s : State} (h : MemoriesCanonical s) {g : Nat} {c : Cmd} :
    MemoriesCanonical (s.unitOfWork g c).1 := .charge (h.foldl (fun _ _ h1 => h1.readLine))

theorem KeepsOk.atomicStep {s : State} (h : MemoriesCanonical s) {g : Nat} {f : Fifo} {c : Cmd} :
    KeepsOk (s.atomicStep g f c) := by
  unfold State.atomicStep
  dsimp only
  split
  · exact .error
  · split
    · exact .ok (.chargeOwn (h.remoteRead.charge.remoteWrite.setTile_of_tile (fun h3 => Tile.wf_writeAt _ _ _
        (Tile.wf_touchAt h3))))
    · exact .error
    · split
      · exact .error
      · exact .error
      · exact .error
      · split
        · exact .error
        · exact .ok (.chargeOwn (.setTile_of_tile (.writeReach (.charge (h.countRequest.ite h)) _ _ _)
            (fun h3 => Tile.wf_writeAt _ _ _ (Tile.wf_touchAt h3))))

theorem KeepsOk.finishCommand {s : State} (h : MemoriesCanonical s) {g : Nat} {f : Fifo} {c : Cmd} :
    KeepsOk (s.finishCommand g f c) := by
  unfold State.finishCommand
  dsimp only
  split
  · exact .ok (.chargeOwn (h.setTile _ (Tile.wf_writeAt _ _ _ (Tile.wf_touch (h.tile _)))))
  · exact .atomicStep h
  · exact .ite .error (.ok h.flip)
  · exact .ite .error (.ok h.flip)
  · exact .ok (h.setTile _ (Tile.wf_writeAt _ _ _ (h.tile _)))
  · exact .ok (.update (h.setTile _ (h.tile _)))
  · exact .ok h

theorem MemoriesCanonical.finishCommand {s s' : State} (h : MemoriesCanonical s) {g : Nat} {f : Fifo} {c c' : Cmd}
    (hs : s.finishCommand g f c = .ok (s', c')) : MemoriesCanonical s' := KeepsOk.finishCommand h (s', c') hs

theorem MemoriesCanonical.setCmd {s : State} (h : MemoriesCanonical s) {g : Nat} {f : Fifo} {c : Cmd} :
    MemoriesCanonical (s.setCmd g f c) := h.setTile _ (Tile.wf_setFifo (h.tile _))

theorem Tile.wf_popPair {t : Tile} (ht : Memory.wf t.scratch = true) : Memory.wf t.popPair.scratch = true := by
  unfold Tile.popPair
  dsimp only
  split
  · refine Tile.wf_ite ht ?_
    split
    · exact Tile.wf_ite ht (Tile.wf_ite ht ht)
    · exact ht
  · exact Tile.wf_ite ht ht
  · exact ht

theorem Tile.wf_endDrain {t : Tile} (ht : Memory.wf t.scratch = true) {now : Nat} :
    Memory.wf (t.endDrain now).scratch = true := Tile.wf_ite_then (Tile.wf_ite ht ht) (fun h1 => h1)

theorem Tile.wf_popMarks {t : Tile} (ht : Memory.wf t.scratch = true) {now : Nat} :
    Memory.wf (t.popMarks now).scratch = true := Tile.wf_endDrain (Tile.wf_foldl ht (fun _ _ h1 => Tile.wf_popPair h1))

theorem MemoriesCanonical.followEngine {s : State} (h : MemoriesCanonical s) {g : Nat} :
    MemoriesCanonical (s.followEngine g) := h.setTile _ (Tile.wf_popMarks (h.tile _))

theorem MemoriesCanonical.dueEngine {s : State} (h : MemoriesCanonical s) {g : Nat} : MemoriesCanonical (s.dueEngine g) := by
  unfold State.dueEngine
  refine .ite_then ?_ (fun h1 => h1.dueOnce)
  split
  · refine .dueOnce ?_
    split
    · exact h.dueOnce
    · exact h
  · split
    · exact h.dueOnce
    · exact h

theorem MemoriesCanonical.startSend {s : State} (h : MemoriesCanonical s) {g : Nat} {f : Fifo} {c : Cmd} :
    MemoriesCanonical (s.startSend g f c) := by
  unfold State.startSend
  dsimp only
  split
  · exact .setCmd (h.setTile _ (Tile.wf_touch (h.tile _)))
  · exact .ite (.setCmd (h.setTile _ (Tile.wf_touch (h.tile _)))) (.ite_then
      (.tick (.setCmd (.update (.charge (.chargeLines (.setTile_of_tile (h.setTile _ (Tile.wf_touch (h.tile _)))
      (fun h2 => Tile.wf_touchLines h2))))))) (fun h2 => h2.dueOnce))

theorem MemoriesCanonical.goOn {s : State} (h : MemoriesCanonical s) {g : Nat} {f : Fifo} {c : Cmd} :
    MemoriesCanonical (s.goOn g f c) := h.setCmd.tick

theorem MemoriesCanonical.stepPlan {s : State} (h : MemoriesCanonical s) {g : Nat} {f : Fifo} {c : Cmd} :
    MemoriesCanonical (s.stepPlan g f c) := by
  unfold State.stepPlan
  split
  · exact h.goOn
  · refine .ite (h.setCmd.ite h.setCmd) ?_
    split
    · exact h.setCmd
    · exact .goOn (h.performAct ‹_›)

theorem MemoriesCanonical.startAccess {s : State} (h : MemoriesCanonical s) {g : Nat} {f : Fifo} {c : Cmd} :
    MemoriesCanonical (s.startAccess g f c) := by
  unfold State.startAccess
  dsimp only
  split
  · exact .ite (.stepPlan (h.takeLines.startCommand ‹_›)) (.goOn (h.takeLines.startCommand ‹_›))
  · refine h.setCmd.ite (h.setCmd.ite ?_)
    split
    · exact h.sendPeer ‹_›
    · exact h.setCmd

theorem MemoriesCanonical.askStep {s : State} (h : MemoriesCanonical s) {g : Nat} {f : Fifo} {c : Cmd} :
    MemoriesCanonical (s.askStep g f c) := .setCmd (h.foldl (fun _ _ h1 => h1.setTile _ (Tile.wf_ask (h1.tile _))))

theorem KeepsMemories.execEngineSectorPerformed {s : State} (h : MemoriesCanonical s) {g : Nat} {f : Fifo} :
    KeepsMemories (execEngineSectorPerformed g f s) := by
  unfold Machine.execEngineSectorPerformed
  dsimp only
  split
  · exact .next h.askStep.dueEngine
  · exact .next (.dueEngine (.followEngine (h.startSend.ite (h.startAccess.ite h.stepPlan))))
  · exact .next h.dueEngine
  · exact .next h

theorem KeepsMemories.execTransformUnitWork {s : State} (h : MemoriesCanonical s) {g : Nat} {f : Fifo} :
    KeepsMemories (execTransformUnitWork g f s) := by
  unfold Machine.execTransformUnitWork
  dsimp only
  split
  · exact .next h.unitOfWork.goOn.followEngine.dueEngine
  · exact .next h

theorem Tile.wf_pushDone {t : Tile} (ht : Memory.wf t.scratch = true) {q : Option Nat} {tok : U32} {now rank : Nat} :
    Memory.wf (t.pushDone q tok now rank).scratch = true := by
  unfold Tile.pushDone
  dsimp only
  split
  · exact ht
  · exact Tile.wf_setQueue ht

theorem MemoriesCanonical.completeHead {s : State} (h : MemoriesCanonical s) {g : Nat} {f : Fifo} {c : Cmd} :
    MemoriesCanonical (s.completeHead g f c) :=
  h.setTile _ (Tile.wf_setFifo (Tile.wf_pushDone (Tile.wf_setCore
    (Tile.wf_ite (h.tile _) (Tile.wf_updateBarrier (h.tile _))))))

theorem KeepsMemories.execEngineCommandCompletion {s : State} (h : MemoriesCanonical s) {g : Nat} {f : Fifo} :
    KeepsMemories (execEngineCommandCompletion g f s) := by
  unfold Machine.execEngineCommandCompletion
  split
  · split
    · exact .next h.setCmd.dueEngine
    · exact .next (.dueEngine (.followEngine (.completeHead (h.finishCommand ‹_›))))
  · exact .next h

theorem MemoriesCanonical.parkEngine {s : State} (h : MemoriesCanonical s) {g : Nat} {f : Fifo} {va : U64} :
    MemoriesCanonical (s.parkEngine g f va) :=
  h.setTile _ (Tile.wf_stopToPark (Tile.wf_ite (Tile.wf_setCore (h.tile _)) (h.tile _)))

theorem MemoriesCanonical.takeEngineFault {s : State} (h : MemoriesCanonical s) {g : Nat} {f : Fifo} {c : Cmd} :
    MemoriesCanonical (s.takeEngineFault g f c) := by
  unfold State.takeEngineFault
  refine .ite ?_ (.ite_else (.setCmd (.update (h.setTile _ (Tile.wf_ite (h.tile _) (Tile.wf_updateBarrier (h.tile _))))))
    (fun h1 => h1.parkEngine.ite h1.abandon.setCore.trap))
  refine .dueEngine ?_
  refine .followEngine ?_
  refine .setTile (.update (h.setTile _ (Tile.wf_ite (h.tile _) (Tile.wf_updateBarrier (h.tile _))))) _ ?_
  refine Tile.wf_setFifo ?_
  dsimp only
  split
  · exact Tile.wf_setQueue (Tile.wf_ite (h.tile _) (Tile.wf_updateBarrier (h.tile _)))
  · exact Tile.wf_ite (h.tile _) (Tile.wf_updateBarrier (h.tile _))

theorem KeepsMemories.execEngineFault {s : State} (h : MemoriesCanonical s) {g : Nat} {f : Fifo} :
    KeepsMemories (execEngineFault g f s) := by
  unfold Machine.execEngineFault
  split
  · exact .next h.takeEngineFault
  · exact .next h.setCmd.dueEngine
  · exact .next h.dueEngine
  · exact .next h

theorem MemoriesCanonical.countUnit {s : State} (h : MemoriesCanonical s) {g : Nat} {va : U64} :
    MemoriesCanonical (s.countUnit g va) := by
  unfold State.countUnit
  split
  · exact h.countRequest.ite h
  · exact h

theorem MemoriesCanonical.countFetch {s : State} (h : MemoriesCanonical s) {w : Who} :
    MemoriesCanonical (s.countFetch w) := by
  unfold State.countFetch
  refine h.ite ?_
  split
  · exact h
  · exact h.ite (h.foldl (fun _ _ h2 => h2.countUnit))

theorem KeepsMemories.execStampedIssue {s : State} (h : MemoriesCanonical s) {g : Nat} {c : CoreId} :
    KeepsMemories (execStampedIssue g c s) := by
  unfold Machine.execStampedIssue
  dsimp only
  split
  · exact .ite (.next h.setCore) (.next h)
  · exact .next h

theorem KeepsMemories.execWaitConditionMet {s : State} (h : MemoriesCanonical s) {g : Nat} {c : CoreId} :
    KeepsMemories (execWaitConditionMet g c s) := by
  unfold Machine.execWaitConditionMet
  dsimp only
  split
  · exact .ite (.next h) (.ite (.next h.setCore) (.next h.setCore))
  · exact .next h

theorem KeepsMemories.execBarrierReread {s : State} (h : MemoriesCanonical s) {g : Nat} {c : CoreId} :
    KeepsMemories (execBarrierReread g c s) := by
  unfold Machine.execBarrierReread
  dsimp only
  split
  · exact .ite (.next h.setCore) (.next h)
  · exact .next h

theorem KeepsMemories.execFutureCellRetry {s : State} (h : MemoriesCanonical s) {g : Nat} {c : CoreId} :
    KeepsMemories (execFutureCellRetry g c s) := by
  unfold Machine.execFutureCellRetry
  dsimp only
  split
  · exact .next h.setCore
  · exact .next h

end Sys2Proof.Machine

/-!
O60, completions, dealing, saves and resumptions.
-/

namespace Sys2Proof.Machine

open Host (Outcome)

/-! Completions, dealing, saves and resumptions. -/

theorem MemoriesCanonical.completePend {s : State} (h : MemoriesCanonical s) {g : Nat} {c : CoreId} {p : Pend} :
    MemoriesCanonical (s.completePend g c p) := by
  unfold State.completePend
  refine .charge (h.setTile _ ?_)
  split
  · exact Tile.wf_setCore (h.tile _)
  · exact Tile.wf_setCore (h.tile _)

theorem Tile.wf_dropWord {t : Tile} (ht : Memory.wf t.scratch = true) {c : CoreId} {issued : Nat} :
    Memory.wf (t.dropWord c issued).scratch = true := by
  unfold Tile.dropWord
  refine Tile.wf_setCore ?_
  split
  · exact ht
  · exact ht

theorem KeepsMemories.execWordCompletion {s : State} (h : MemoriesCanonical s) {g : Nat} {c : CoreId} :
    KeepsMemories (execWordCompletion g c s) := by
  unfold Machine.execWordCompletion
  dsimp only
  split
  · exact .ite (.next (.followEngine (.foldl (.setCore
      (h.setTile _ (Tile.wf_foldl (h.tile _) (fun _ _ h2 => Tile.wf_dropWord h2)))) (fun _ _ h2 => h2.completePend))))
      (.next (.trap (.foldl (.setCore (h.setTile _ (Tile.wf_foldl (h.tile _) (fun _ _ h2 => Tile.wf_dropWord h2))))
      (fun _ _ h2 => h2.completePend))))
  · exact .next (.followEngine (.foldl (.setCore (h.setTile _
      (Tile.wf_foldl (h.tile _) (fun _ _ h2 => Tile.wf_dropWord h2)))) (fun _ _ h2 => h2.completePend)))

theorem MemoriesCanonical.completeMatrix {s : State} (h : MemoriesCanonical s) {g : Nat} {m : MOpen} :
    MemoriesCanonical (s.completeMatrix g m) := by
  unfold State.completeMatrix
  refine .charge ?_
  refine .chargeLines ?_
  refine h.setTile _ ?_
  refine Tile.wf_pushDone ?_
  refine Tile.wf_foldl ?_ ?_
  · refine Tile.wf_foldl (h.tile _) ?_
    intro _ _ h1
    exact Tile.wf_setRing h1
  · intro _ _ h1
    exact Tile.wf_setRing h1

theorem Tile.wf_beginEpilogue {t : Tile} (ht : Memory.wf t.scratch = true) {now : Nat} {m : MOpen} :
    Memory.wf (t.beginEpilogue now m).scratch = true := by
  unfold Tile.beginEpilogue
  refine Tile.wf_ite ht ?_
  dsimp only
  exact Tile.wf_ask ht

theorem MemoriesCanonical.lateMatrix {s : State} (h : MemoriesCanonical s) {g : Nat} {m : MOpen} :
    MemoriesCanonical (s.lateMatrix g m) :=
  .ite_else (.completeMatrix (h.setTile _ (Tile.wf_foldl (Tile.wf_ite (h.tile _) (Tile.wf_computeHeld (h.tile _)))
    (fun _ _ h1 => Tile.wf_setLine _ _ _ h1)))) (fun h1 => h1.trap)

theorem KeepsMemories.execMWordCompletion {s : State} (h : MemoriesCanonical s) {g : Nat} :
    KeepsMemories (execMWordCompletion g s) := by
  unfold Machine.execMWordCompletion
  dsimp only
  split
  · exact .next (.followEngine (.lateMatrix (h.foldl (fun _ _ h2 => h2.completeMatrix))))
  · exact .next (.followEngine (h.foldl (fun _ _ h2 => h2.completeMatrix)))

theorem MemoriesCanonical.chargeMove {s : State} (h : MemoriesCanonical s) {g : Nat} {k : Option Task} :
    MemoriesCanonical (s.chargeMove g k) := by
  unfold State.chargeMove
  dsimp only
  split
  · exact h
  · refine h.charge.ite ?_
    split
    · exact h.writePhys _ _
    · exact h

theorem KeepsMemories.execAccumulatorSpillEnd {s : State} (h : MemoriesCanonical s) {g n : Nat} :
    KeepsMemories (execAccumulatorSpillEnd g n s) := by
  unfold Machine.execAccumulatorSpillEnd
  dsimp only
  split
  · exact .next h
  · refine .ite ?_ ?_
    · refine .next (h.chargeMove.writeImage.setTile_of_tile ?_)
      intro h2
      refine Tile.wf_freeAcc ?_
      dsimp only
      exact h2
    · refine .ite ?_ ?_
      · refine .next (.startMove (h.chargeMove.writeImage.setTile_of_tile ?_))
        intro h2
        refine Tile.wf_freeAcc ?_
        dsimp only
        exact h2
      · refine .next (.setTile ?_ _ ?_)
        · refine h.chargeMove.writeImage.setTile_of_tile ?_
          intro h2
          refine Tile.wf_freeAcc ?_
          dsimp only
          exact h2
        · refine Tile.wf_setOwner (Tile.wf_freeAcc ?_)
          dsimp only
          exact h.chargeMove.writeImage.tile _

theorem KeepsMemories.execAccumulatorFillEnd {s : State} (h : MemoriesCanonical s) {g n : Nat} :
    KeepsMemories (execAccumulatorFillEnd g n s) := by
  unfold Machine.execAccumulatorFillEnd
  dsimp only
  split
  · exact .next h
  · refine .next ?_
    refine .charge ?_
    refine .ite_then (h.setTile _ (h.tile _)) ?_
    intro h2
    exact h2.readImage

theorem MemoriesCanonical.answer {s : State} (h : MemoriesCanonical s) {w : Who} {r : Reply} :
    MemoriesCanonical (s.answer w r) := by
  unfold State.answer
  dsimp only
  split
  · exact h
  · exact h.setCore

theorem KeepsMemories.execRemoteScratchRequest {s : State} (h : MemoriesCanonical s) {k : Nat} :
    KeepsMemories (execRemoteScratchRequest k s) := by
  unfold Machine.execRemoteScratchRequest
  dsimp only
  split
  · exact .next h
  · exact .ite (.next h.update.askFar) (.next h.update.latchRemote.answer)

theorem KeepsMemories.execClosure {s : State} (h : MemoriesCanonical s) {g : Nat} : KeepsMemories (execClosure g s) :=
  .ite (.next h) (.next h.trap)

theorem MemoriesCanonical.proceed {s : State} (h : MemoriesCanonical s) {w : Who} {a : Nat} :
    MemoriesCanonical (s.proceed w a) := h.setTile _ (Tile.wf_setCore (Tile.wf_takeUses (h.tile _)))

theorem KeepsMemories.execTimedWaitRelease {s : State} (h : MemoriesCanonical s) {g : Nat} {c : CoreId} :
    KeepsMemories (execTimedWaitRelease g c s) := by
  unfold Machine.execTimedWaitRelease
  split
  · exact .ite (.next h.proceed) (.next h)
  · exact .ite (.next h.proceed) (.next h)
  · exact .next h

theorem KeepsMemories.execFrameOrigin {s : State} (h : MemoriesCanonical s) {p : Nat} :
    KeepsMemories (execFrameOrigin p s) := by
  unfold Machine.execFrameOrigin
  dsimp only
  split
  · exact .next h
  · split
    · exact .next h
    · refine .ite (.next h) (.next (h.update.foldl ?_))
      intro _ _ h3
      split
      · exact h3.proceed.ite h3
      · exact h3

theorem MemoriesCanonical.passSstep {s : State} (h : MemoriesCanonical s) {w : Who} : MemoriesCanonical (s.passSstep w) := by
  unfold State.passSstep
  dsimp only
  split
  · exact h.setCore.proceed
  · exact h.setCore

theorem KeepsMemories.execSstepRelease {s : State} (h : MemoriesCanonical s) {p : Nat} :
    KeepsMemories (execSstepRelease p s) := by
  unfold Machine.execSstepRelease
  split
  · exact .next h
  · split
    · exact .next h
    · exact .ite (.next h) (.next (h.update.foldl (fun _ _ h3 => h3.passSstep.passSstep.passSstep)))

theorem KeepsMemories.execSstepDeadline {s : State} (h : MemoriesCanonical s) {g : Nat} {c : CoreId} :
    KeepsMemories (execSstepDeadline g c s) := by
  unfold Machine.execSstepDeadline
  dsimp only
  split
  · exact .ite (.next h.setCore.trap) (.next h.setCore)
  · exact .next h

theorem MemoriesCanonical.accept {s : State} (h : MemoriesCanonical s) {x : Nat} {boundary : Bool} :
    MemoriesCanonical (s.accept x boundary) := by
  unfold State.accept
  split
  · exact h
  · exact h.setCtx.countRefused.emit
  · refine h.ite (h.setCtx.countRefused.emit.ite ?_)
    dsimp only
    split
    · exact h.setCtx.update.writeStatus.emit
    · split
      · exact h.setCtx.update.writeStatus.ite_then (fun h4 => h4.update)
      · exact h.setCtx.update.writeStatus

theorem KeepsMemories.execCardAcceptance {s : State} (h : MemoriesCanonical s) {x : Nat} :
    KeepsMemories (execCardAcceptance x s) := .next h.accept

theorem KeepsMemories.execTailDoorbell {s : State} (h : MemoriesCanonical s) {x : Nat} {v : U32} :
    KeepsMemories (execTailDoorbell x v s) := by
  unfold Machine.execTailDoorbell
  dsimp only
  split
  · exact .next h
  · exact .next h.setCtx

theorem KeepsMemories.execAppendDoorbell {s : State} (h : MemoriesCanonical s) {x : Nat} {va : U64} :
    KeepsMemories (execAppendDoorbell x va s) := by
  unfold Machine.execAppendDoorbell
  dsimp only
  split
  · exact .next h
  · refine .ite (.next h.setCtx.countRefused) ?_
    split
    · exact .next h.setCtx.appendCard
    · exact .next h.setCtx.countRefused

theorem MemoriesCanonical.firstDeal {s : State} (h : MemoriesCanonical s) {n : Nat} {c : Card} :
    MemoriesCanonical (s.firstDeal n c) := h.writeStatus.ite h.setCard

theorem MemoriesCanonical.deal {s : State} (h : MemoriesCanonical s) {g p n : Nat} {c : Card} :
    MemoriesCanonical (s.deal g p n c) := by
  unfold State.deal
  dsimp only
  split
  · split
    · next v hv =>
      have hs : Memory.wf v.tile.scratch = true := h.saved_find hv
      exact .firstDeal (h.withSaved (Saved.wf_put (v := { v with dealt := some g }) h.saved hs))
    · exact h.update
  · exact .setTile_of_tile (.firstDeal h.update) (fun h1 => h1)
  · split
    · exact .setTile_of_tile (.firstDeal h.update) (fun h1 => h1)
    · exact .setTile_of_tile (.firstDeal h.update) (fun h1 => h1)

theorem KeepsMemories.execDealRequest {s : State} (h : MemoriesCanonical s) {g : Nat} :
    KeepsMemories (execDealRequest g s) := by
  unfold Machine.execDealRequest
  split
  · exact .next h
  · refine .ite (.next h) ?_
    split
    · exact .next h
    · exact .next h.deal

theorem MemoriesCanonical.returnChunk {s : State} (h : MemoriesCanonical s) {g : Nat} :
    MemoriesCanonical (s.returnChunk g) := by
  unfold State.returnChunk
  refine .setTile_of_tile (h.foldl ?_) (fun h1 => h1)
  intro _ _ h1
  split
  · exact h1.setCard
  · exact h1

theorem MemoriesCanonical.loadEntry {s : State} (h : MemoriesCanonical s) {g x : Nat} :
    MemoriesCanonical (s.loadEntry g x) := by
  unfold State.loadEntry
  dsimp only
  split
  · exact h
  · exact h.setTile _ (h.tile _)

theorem Tile.wf_started {t : Tile} {x : Ctx} {c : Card} {k : Task} {rec_ consts book : List Byte} {first : Nat} :
    Memory.wf (t.started x c k rec_ consts book first).scratch = true := Memory.wf_setBytes _ _ _ rfl

theorem KeepsMemories.execTaskStart {s : State} (h : MemoriesCanonical s) {g : Nat} : KeepsMemories (execTaskStart g s) := by
  unfold Machine.execTaskStart
  dsimp only
  split
  · exact .next h
  · refine .ite (.next h) ?_
    split
    · refine .next (h.setTile _ ?_)
      dsimp only
      exact h.tile _
    · split
      · refine .next (h.setTile _ ?_)
        dsimp only
        exact h.tile _
      · split
        · refine .ite ?_ ?_
          · refine .next (.noteEnd (h.setTile _ ?_))
            dsimp only
            exact h.tile _
          · refine .next (.returnChunk (.update (.setCard (h.setTile _ ?_))))
            dsimp only
            exact h.tile _
        · refine .next (.noteEnd (h.setTile _ ?_))
          dsimp only
          exact h.tile _
        · refine .next (.setTile_of_tile ?_ ?_)
          · refine .loadEntry (.update (.setTile_of_tile ?_ ?_))
            · refine .setCard (h.setTile _ ?_)
              dsimp only
              exact h.tile _
            · exact fun _ => Tile.wf_started
          · intro h5
            dsimp only
            exact h5

theorem MemoriesCanonical.dealRound {s : State} (h : MemoriesCanonical s) {p : Nat} : MemoriesCanonical (s.dealRound p) := by
  unfold State.dealRound
  dsimp only
  split
  · exact h
  · refine h.ite ?_
    split
    · exact h
    · split
      · exact h
      · refine .foldl ?_ ?_
        · exact .update (h.firstDeal.ite h)
        · intro _ _ h4
          refine .ite (.due (h4.setTile _ ?_)) h4
          dsimp only
          exact h4.tile _

theorem KeepsMemories.execRoundDeal {s : State} (h : MemoriesCanonical s) {p : Nat} : KeepsMemories (execRoundDeal p s) :=
  .next h.dealRound

theorem KeepsMemories.execRoundOrigin {s : State} (h : MemoriesCanonical s) {p : Nat} :
    KeepsMemories (execRoundOrigin p s) := by
  unfold Machine.execRoundOrigin
  dsimp only
  split
  · exact .next h
  · refine .ite (.next h) ?_
    split
    · exact .next h.update
    · exact .ite (.next h.update) (.next (h.update.foldl (fun _ _ h3 => h3.noteEnd)))

theorem MemoriesCanonical.writeFrame {s : State} (h : MemoriesCanonical s) {t : Tile} {c : Ctx} {f kind : Nat}
    {fault : U64} : MemoriesCanonical (s.writeFrame c f t kind fault) :=
  .foldl (h.tick.foldl (fun _ _ h1 => h1.writePhys _ _)) (fun _ _ h1 => h1.writePhys _ _)

/-- The scratch that a frame gives back is a part of the frame, without the lines not kept. -/
theorem Tile.wf_fromFrame {t : Tile} {f : Memory} (hf : Memory.wf f = true) :
    Memory.wf (t.fromFrame f).scratch = true := Store.wf_filter 0 _ _ (Memory.wf_part hf)

theorem MemoriesCanonical.sendStop {s : State} (h : MemoriesCanonical s) {g : Nat} : MemoriesCanonical (s.sendStop g) :=
  h.setTile _ (h.tile _)

theorem KeepsMemories.execQuantumExpiry {s : State} (h : MemoriesCanonical s) {g : Nat} :
    KeepsMemories (execQuantumExpiry g s) := by
  unfold Machine.execQuantumExpiry
  dsimp only
  split
  · exact .next h
  · exact .ite (.next (h.setTile _ (h.tile _))) (.next h)

theorem KeepsMemories.execPreemption {s : State} (h : MemoriesCanonical s) {p : Nat} :
    KeepsMemories (execPreemption p s) := by
  unfold Machine.execPreemption
  dsimp only
  split
  · exact .next h
  · exact .next (h.sendStop.setTile_of_tile (fun h2 => h2))

theorem MemoriesCanonical.takeStop {s : State} (h : MemoriesCanonical s) {w : Who} : MemoriesCanonical (s.takeStop w) :=
  h.abandon.setTile_of_tile (fun h1 => Tile.wf_ite_then (Tile.wf_setCore h1) (fun h2 => h2))

theorem KeepsMemories.execCoreHalt {s : State} (h : MemoriesCanonical s) {g : Nat} {c : CoreId} :
    KeepsMemories (execCoreHalt g c s) := by
  unfold Machine.execCoreHalt
  dsimp only
  split
  · refine .ite (.next h) (.next (h.setTile _ ?_))
    split
    · exact Tile.wf_setCore (h.tile _)
    · exact Tile.wf_setCore (h.tile _)
    · exact Tile.wf_setCore (h.tile _)
  · exact .next h

theorem KeepsMemories.execStopTaken {s : State} (h : MemoriesCanonical s) {g : Nat} {c : CoreId} :
    KeepsMemories (execStopTaken g c s) := by
  unfold Machine.execStopTaken
  refine .ite (.next h) (.ite ?_ (.ite (.execCoreHalt h.takeStop) (.next h.takeStop)))
  split
  · exact .next h.trap
  · exact .next h.takeStop

theorem Tile.wf_parkedTile {t : Tile} (ht : Memory.wf t.scratch = true) : Memory.wf t.parkedTile.scratch = true :=
  Store.wf_filter _ _ _ ht

theorem KeepsMemories.execTaskSave {s : State} (h : MemoriesCanonical s) {g : Nat} : KeepsMemories (execTaskSave g s) := by
  unfold Machine.execTaskSave
  dsimp only
  split
  · split
    · exact .next (.setTile_of_tile (.withSaved (.returnChunk
        (h.charge.storeEntry.setCtx.ite_then (fun h5 => h5.writeFrame))) (Saved.wf_put
        (MemoriesCanonical.saved (.returnChunk (h.charge.storeEntry.setCtx.ite_then (fun h5 => h5.writeFrame))))
        (Tile.wf_parkedTile (h.tile _)))) (fun _ => Tile.wf_vacated))
    · exact .next h
  · exact .next h

theorem Tile.wf_restored {t : Tile} {v : Saved} (hv : Memory.wf v.tile.scratch = true) {ws : Store (BitVec 128)}
    {now first : Nat} : Memory.wf (t.restored v ws now first).scratch = true := hv

theorem MemoriesCanonical.dropSaved {s : State} (h : MemoriesCanonical s) {uid kind code : Nat} {at_ : Option Nat} :
    MemoriesCanonical (s.dropSaved uid kind code at_) := by
  unfold State.dropSaved
  dsimp only
  split
  · exact h
  · refine .noteEnd (.mapTiles ?_ ?_)
    · exact .leaveAll (.freeFrame (.foldl (h.withSaved (Saved.wf_erase h.saved)) (fun _ _ h2 => h2.flip)))
    · exact fun _ h2 => Tile.wf_dropOwners h2

theorem MemoriesCanonical.discardSaved {s : State} (h : MemoriesCanonical s) {uid : Nat} {at_ : Option Nat} :
    MemoriesCanonical (s.discardSaved uid at_) := by
  unfold State.discardSaved
  split
  · exact h
  · exact h.dropSaved

theorem Saved.wf_savedAs {s : State} (h : MemoriesCanonical s) {c : Ctx} {v : Saved}
    (hv : Memory.wf v.tile.scratch = true) : Memory.wf (s.savedAs c v).tile.scratch = true :=
  Saved.wf_ite hv (Tile.wf_fromFrame (Memory.wf_part h.hbm))

theorem KeepsMemories.execTaskResumption {s : State} (h : MemoriesCanonical s) {g k : Nat} :
    KeepsMemories (execTaskResumption g k s) := by
  unfold Machine.execTaskResumption
  dsimp only
  split
  · exact .next h
  · refine .ite (.next h) ?_
    split
    · exact .ite (.next (h.foldl (fun _ _ h4 => h4.ite h4.startMove))) (.ite (.next h.discardSaved)
        (.next (.returnFrame (.charge (.loadEntry (.setTile_of_tile (h.tick.withSaved (Saved.wf_erase h.saved))
        (fun _ => Tile.wf_restored (Saved.wf_savedAs h (h.saved_find ‹_›)))))))))
    · exact .next h

end Sys2Proof.Machine

/-!
O60, the hub's commands and the device registers.
-/

namespace Sys2Proof.Machine

open Host (Outcome)

/-! The hub's commands and the device registers. -/

theorem MemoriesCanonical.appendMonument {s : State} (h : MemoriesCanonical s) {kind fields : Nat} :
    MemoriesCanonical (s.appendMonument kind fields) := h.update.ite (h.writePhys _ _)

theorem MemoriesCanonical.hubBegin {s : State} (h : MemoriesCanonical s) {v : U64} {status : Nat} :
    MemoriesCanonical (s.hubBegin v status) := h.devSet.devSet.update

theorem KeepsMemories.hubRun {s : State} (h : MemoriesCanonical s) {op : Nat} {v : U64} {run : State → Nat × State}
    (hr : MemoriesCanonical (run s).2) : KeepsMemories (s.hubRun op v run) :=
  .ite (.next h) (.next hr.hubBegin)

theorem KeepsMemories.execHubcmd {s : State} (h : MemoriesCanonical s) {v : U64} : KeepsMemories (execHubcmd v s) :=
  .ite (.next h.hubBegin) (.next h)

theorem KeepsMemories.execHubCommandDone {s : State} (h : MemoriesCanonical s) : KeepsMemories (execHubCommandDone s) := by
  unfold Machine.execHubCommandDone
  dsimp only
  split
  · exact .next h
  · exact .next h.devSet.update.emit

theorem KeepsMemories.execCreateContext {s : State} (h : MemoriesCanonical s) {v : U64} :
    KeepsMemories (execCreateContext v s) := .hubRun h (h.ite_snd (h.ite_snd (.setCtx (h.writePhys _ _))))

theorem KeepsMemories.execUpdateContext {s : State} (h : MemoriesCanonical s) {v : U64} :
    KeepsMemories (execUpdateContext v s) := by
  unfold Machine.execUpdateContext
  refine .hubRun h ?_
  dsimp only
  split
  · exact h
  · split
    · exact h
    · exact h.ite_snd h.setCtx

theorem MemoriesCanonical.cancelMig {s : State} (h : MemoriesCanonical s) {m : Mig} : MemoriesCanonical (s.cancelMig m) :=
  h.update.setFree.ite_then (fun h1 => h1.setFree)

theorem MemoriesCanonical.destroyCtx {s : State} (h : MemoriesCanonical s) {x : Nat} :
    MemoriesCanonical (s.destroyCtx x) :=
  .update (.foldl (.foldl (.foldl (h.mapTiles (fun _ h1 => h1)) (fun _ _ h1 => h1.endTask)) (fun _ _ h1 => h1.dropSaved))
    (fun _ _ h1 => h1.cancelMig))

theorem KeepsMemories.execDestroyContext {s : State} (h : MemoriesCanonical s) {v : U64} :
    KeepsMemories (execDestroyContext v s) := .hubRun h (h.ite_snd h.destroyCtx)

theorem KeepsMemories.execDefinePartition {s : State} (h : MemoriesCanonical s) {v : U64} :
    KeepsMemories (execDefinePartition v s) := by
  unfold Machine.execDefinePartition
  refine .hubRun h ?_
  dsimp only
  split
  · exact h
  · exact h.ite_snd (h.ite_snd (h.ite_snd h.update))

theorem KeepsMemories.execGrant {s : State} (h : MemoriesCanonical s) {v : U64} : KeepsMemories (execGrant v s) := by
  unfold Machine.execGrant
  refine .hubRun h ?_
  split
  · exact h.ite_snd h.update
  · exact h

theorem KeepsMemories.execRevoke {s : State} (h : MemoriesCanonical s) {v : U64} : KeepsMemories (execRevoke v s) := by
  unfold Machine.execRevoke
  refine .hubRun h ?_
  split
  · exact h.update
  · exact h

theorem MemoriesCanonical.mapSpare {s : State} (h : MemoriesCanonical s) {g : Nat} : MemoriesCanonical (s.mapSpare g) := by
  unfold State.mapSpare
  dsimp only
  split
  · exact h.ite (.appendMonument (.update (h.setTile _ Tile.wf_idle)))
  · exact h

theorem MemoriesCanonical.resetCard {s : State} (h : MemoriesCanonical s) {n : Nat} {held : List (Nat × Nat)} :
    MemoriesCanonical (s.resetCard n held) := by
  unfold State.resetCard
  dsimp only
  split
  · exact h
  · exact h.ite h.writeStatus

theorem MemoriesCanonical.resetPart {s : State} (h : MemoriesCanonical s) {p : Nat} : MemoriesCanonical (s.resetPart p) := by
  unfold State.resetPart
  refine .foldl ?_ ?_
  · refine .devSet (.devSet (.devSet (.update (.foldl ?_ ?_))))
    · refine .recordEnds (.foldl ?_ ?_)
      · exact .foldl (h.foldl (fun _ _ h1 => h1.setTile _ (h1.tile _))) (fun _ _ h1 => h1.endTask)
      · exact fun _ _ h1 => h1.dropSaved
    · exact fun _ _ h1 => h1.resetCard
  · exact fun _ _ h1 => h1.mapSpare

theorem KeepsMemories.execPartitionReset {s : State} (h : MemoriesCanonical s) {v : U64} :
    KeepsMemories (execPartitionReset v s) := .hubRun h (h.ite_snd h.resetPart)

theorem MemoriesCanonical.saveTiles {s : State} (h : MemoriesCanonical s) {p : Nat} {gs : List Nat} :
    MemoriesCanonical (s.saveTiles p gs) := by
  unfold State.saveTiles
  refine h.foldl ?_
  intro _ _ h1
  refine .ite ?_ h1
  split
  · exact h1.update.sendStop
  · exact h1

theorem KeepsMemories.execSaveTile {s : State} (h : MemoriesCanonical s) {v : U64} : KeepsMemories (execSaveTile v s) := by
  unfold Machine.execSaveTile
  refine .hubRun h ?_
  split
  · exact h
  · exact h.ite_snd h.saveTiles

theorem KeepsMemories.execSavePartition {s : State} (h : MemoriesCanonical s) {v : U64} :
    KeepsMemories (execSavePartition v s) := by
  unfold Machine.execSavePartition
  refine .hubRun h ?_
  split
  · exact h
  · exact h.ite_snd h.saveTiles

theorem MemoriesCanonical.flushHeld {s : State} (h : MemoriesCanonical s) {n : Nat} : MemoriesCanonical (s.flushHeld n) := by
  unfold State.flushHeld
  split
  · exact h
  · exact h.ite (h.foldl (fun _ _ h2 => h2.putStatus))

theorem KeepsMemories.execDxuUpdate {s : State} (h : MemoriesCanonical s) {x : Nat} {w : U64} :
    KeepsMemories (execDxuUpdate x w s) := by
  unfold Machine.execDxuUpdate
  dsimp only
  split
  · exact .next h
  · exact .next (.foldl (h.setCtx.setPage.withSaved (Saved.wf_map h.setCtx.setPage.saved
      (fun _ h2 => Saved.wf_ite h2 h2))) (fun _ _ h2 => h2.flushHeld))

theorem KeepsMemories.execDxuUpdateAck {s : State} (h : MemoriesCanonical s) {x : Nat} :
    KeepsMemories (execDxuUpdateAck x s) := by
  unfold Machine.execDxuUpdateAck
  split
  · exact .next h
  · exact .ite (.next h) (.next h.setCtx)

theorem KeepsMemories.execMigrationComplete {s : State} (h : MemoriesCanonical s) {x page : Nat} :
    KeepsMemories (execMigrationComplete x page s) := by
  unfold Machine.execMigrationComplete
  dsimp only
  split
  · exact .ite (.next h.cancelMig) (.next (.ite_then (.setFree (h.update.copyPhys.setPage.writePhys _ _))
      (fun h3 => h3.setFree)))
  · exact .next h

theorem KeepsMemories.execTwinSettlement {s : State} (h : MemoriesCanonical s) {x grp : Nat} :
    KeepsMemories (execTwinSettlement x grp s) := by
  unfold Machine.execTwinSettlement
  split
  · exact .next h
  · split
    · exact .next h
    · exact .ite (.next h) (.next h.settleGroup)

theorem KeepsMemories.execPtpcommit {s : State} (h : MemoriesCanonical s) {v : U64} : KeepsMemories (execPtpcommit v s) :=
  .ite (.next h) (.ite (.next h.devSet) (.next h.update.devSet))

theorem MemoriesCanonical.takeTriple {s : State} (h : MemoriesCanonical s) : MemoriesCanonical s.takeTriple := by
  unfold State.takeTriple
  split
  · exact h
  · exact h.ite h.update.devSet

theorem KeepsMemories.execPtpTripleEffect {s : State} (h : MemoriesCanonical s) : KeepsMemories (execPtpTripleEffect s) :=
  .next h.takeTriple

theorem KeepsMemories.execShadow {s : State} (h : MemoriesCanonical s) {n : Nat} {v : U64} :
    KeepsMemories (execShadow n v s) := .ite (.next h) (.next h.devSet)

theorem KeepsMemories.execNqstat {s : State} (h : MemoriesCanonical s) {v : U64} : KeepsMemories (execNqstat v s) :=
  .ite (.next h.devSet) (.next h)

theorem MemoriesCanonical.takeHostFrame {s : State} (h : MemoriesCanonical s) : MemoriesCanonical s.takeHostFrame :=
  h.ite (h.update.ite (h.ite h.update))

theorem MemoriesCanonical.takeHostFrames {s : State} (h : MemoriesCanonical s) : MemoriesCanonical s.takeHostFrames :=
  h.foldl (fun _ _ h1 => h1.takeHostFrame)

theorem KeepsMemories.execHtxtail {s : State} (h : MemoriesCanonical s) {v : U64} : KeepsMemories (execHtxtail v s) :=
  .next h.devSet.takeHostFrames

theorem KeepsMemories.execRegisterWrite {s : State} (h : MemoriesCanonical s) {off : Nat} {v : U64} :
    KeepsMemories (execRegisterWrite off v s) := by
  unfold Machine.execRegisterWrite
  refine .ite (.next h.emit) (.ite ?_ ?_)
  · dsimp only
    split
    · exact .ite (.next h.setCtx) (.next h)
    · exact .next h
  · dsimp only
    split
    · exact .next h
    · split
      · exact .ite (.next h.devSet.update) (.next h.devSet)
      · exact .next h.devSet

/-- A host write reaches the word of its register. -/
theorem KeepsMemories.writeRegister {s : State} (h : MemoriesCanonical s) {off : Nat} {v : U64} :
    KeepsMemories (s.writeRegister off v) := by
  unfold State.writeRegister
  refine .ite ?_ (.ite (.execShadow h) ?_)
  · dsimp only
    split
    · exact .execTailDoorbell h
    · exact .execAppendDoorbell h
    · exact .execDxuUpdate h
    · exact .execRegisterWrite h
  · split
    · refine .ite (.execHubcmd h) ?_
      split
      · exact .execCreateContext h
      · exact .execUpdateContext h
      · exact .execDestroyContext h
      · exact .execDefinePartition h
      · exact .execGrant h
      · exact .execRevoke h
      · exact .execPartitionReset h
      · exact .execSaveTile h
      · exact .execSavePartition h
      · exact .execHubcmd h
    · exact .execNqstat h
    · exact .execPtpcommit h
    · exact .execHtxtail h
    · exact .execRegisterWrite h

theorem MemoriesCanonical.hostRegister {s : State} (h : MemoriesCanonical s) {off : Nat} :
    MemoriesCanonical (s.hostRegister off) := h.emit.ite_then (fun h2 => h2.devSet)

theorem KeepsMemories.execHostMemoryAccess {s : State} (h : MemoriesCanonical s) {place : HostPlace} {len : Nat}
    {wr : Option (List Byte)} : KeepsMemories (execHostMemoryAccess place len wr s) := by
  unfold Machine.execHostMemoryAccess
  dsimp only
  split
  · exact .ite (.next (h.writePhys _ _)) (.next h.emit)
  · refine .ite ?_ (.next h.emit)
    split
    · exact .next h.emit
    · exact .next h.emit
  · exact .ite (.next h.emit) (.writeRegister h)
  · exact .ite (.next h.emit) (.next h.hostRegister)
  · exact .next h.writeHost.update
  · exact .next h.emit
  · exact .next h.update
  · exact .next h.update

end Sys2Proof.Machine

/-!
O60, links, errors, power and bring-up.
-/

namespace Sys2Proof.Machine

open Host (Outcome)

/-! Links, errors, power and bring-up. -/

theorem MemoriesCanonical.countUp {s : State} (h : MemoriesCanonical s) {k : Nat} : MemoriesCanonical (s.countUp k) :=
  h.update

theorem MemoriesCanonical.devCount {s : State} (h : MemoriesCanonical s) {off width : Nat} :
    MemoriesCanonical (s.devCount off width) := h.devSet

/-- A peer's access that a window lets through writes HBM, host memory or a tile's scratch, or reads. -/
theorem MemoriesCanonical.inboundAt {s s' : State} (h : MemoriesCanonical s) {by_ : HostWriter} {port x ia n : Nat}
    {wr : Option (List Byte)} {bs : List Byte} (hs : s.inboundAt by_ port x ia n wr = some (s', bs)) :
    MemoriesCanonical s' := by
  unfold State.inboundAt at hs
  split at hs
  · split at hs
    · cases hs
    · dsimp only at hs
      split at hs
      · cases hs
        exact h.countFrom.writePhys _ _
      · obtain ⟨_, -, hr⟩ := Option.map_eq_some_iff.1 hs
        cases hr
        exact h.countFrom
      · split at hs
        · split at hs
          · cases hs
          · cases hs
            exact h.countFrom.writeReach _ _ _
        · split at hs
          · cases hs
          · cases hs
            exact h.countFrom
      · cases hs
  · dsimp only at hs
    split at hs
    · cases hs
    · split at hs
      · cases hs
        exact h
      · split at hs
        · obtain ⟨rfl, -⟩ := Prod.mk.inj (Option.some.inj hs)
          exact h.remoteRead
        · cases hs
          exact h.remoteWrite
  · cases hs

theorem MemoriesCanonical.inboundLines {s : State} (h : MemoriesCanonical s) {by_ : HostWriter} {port src a : Nat}
    {wr : Bool} {ls : List (Nat × List Byte)} : MemoriesCanonical (s.inboundLines by_ port src a wr ls).1 := by
  induction ls generalizing s with
  | nil => exact h
  | cons l ls ih =>
    obtain ⟨o, bs⟩ := l
    unfold State.inboundLines
    split
    · exact h
    · split
      · exact h
      · next hs => exact ih (h.inboundAt hs)

theorem MemoriesCanonical.reply {s : State} (h : MemoriesCanonical s) {port src tag kind : Nat} {payload : List Byte} :
    MemoriesCanonical (s.reply port src tag kind payload) := h.emitFlits

theorem KeepsMemories.execPeerWrite {s : State} (h : MemoriesCanonical s) {port src tag a : Nat} {data : List Byte} :
    KeepsMemories (execPeerWrite port src tag a data s) :=
  .ite (.next h) (.ite (.next (h.inboundLines.ite_else (fun h1 => h1.reply))) (.next h.inboundLines.update.reply))

theorem KeepsMemories.execPeerRead {s : State} (h : MemoriesCanonical s) {port src tag a len : Nat} :
    KeepsMemories (execPeerRead port src tag a len s) :=
  .ite (.next h) (.next (h.inboundLines.reply.ite h.inboundLines.reply))

theorem KeepsMemories.execHostAcknowledge {s : State} (h : MemoriesCanonical s) : KeepsMemories (execHostAcknowledge s) := by
  unfold Machine.execHostAcknowledge
  dsimp only
  split
  · exact .next h
  · split
    · exact .next (h.update.ite_else (fun h3 => h3.reply))
    · exact .next h.update

theorem MemoriesCanonical.replyWord {s : State} (h : MemoriesCanonical s) {r : PeerReq} {kind : Nat} {data : List Byte} :
    MemoriesCanonical (s.replyWord r kind data) := by
  unfold State.replyWord
  dsimp only
  split
  · exact h
  · exact .setCore (h.ite h.charge)

theorem MemoriesCanonical.replyCommand {s : State} (h : MemoriesCanonical s) {r : PeerReq} {f : Fifo} {kind : Nat}
    {data : List Byte} : MemoriesCanonical (s.replyCommand r f kind data) := by
  unfold State.replyCommand
  dsimp only
  split
  · exact h
  · refine .dueEngine ?_
    split
    · exact h.sectors
    · exact h.setCmd
    · exact h.setCmd

theorem KeepsMemories.execPeerReply {s : State} (h : MemoriesCanonical s) {port tag kind : Nat} {data : List Byte} :
    KeepsMemories (execPeerReply port tag kind data s) := by
  unfold Machine.execPeerReply
  dsimp only
  split
  · exact .next h
  · refine .ite (.next h) (.next ?_)
    split
    · exact h.update.replyWord
    · exact h.update.replyCommand

theorem KeepsMemories.execLinkReplay {s : State} (h : MemoriesCanonical s) {port tag : Nat} :
    KeepsMemories (execLinkReplay port tag s) := .next h.update

theorem KeepsMemories.execControlFlit {s : State} (h : MemoriesCanonical s) {port : Nat} {hdr : U64} :
    KeepsMemories (execControlFlit port hdr s) := .ite (.next h.countUp) (.next h)

theorem MemoriesCanonical.toHost {s : State} (h : MemoriesCanonical s) {port flow seq : Nat} {bs : List Byte} :
    MemoriesCanonical (s.toHost port flow seq bs) := .ite (.devSet (h.writeReach _ _ _)) h.devCount

theorem MemoriesCanonical.claim {s : State} (h : MemoriesCanonical s) {g n slot flow seq port : Nat} {bs : List Byte} :
    MemoriesCanonical (s.claim g n slot flow seq port bs) := by
  unfold State.claim
  refine .tick (.charge (h.setTile _ (Tile.wf_setQueue (Tile.wf_setRing ?_))))
  dsimp only
  exact Tile.wf_ask (h.tile _)

theorem KeepsMemories.execFrameReceive {s : State} (h : MemoriesCanonical s) {port : Nat} {fcsOk : Bool}
    {bytes : List Byte} : KeepsMemories (execFrameReceive port fcsOk bytes s) := by
  unfold Machine.execFrameReceive
  refine .ite (.next h) (.ite (.next h.devCount) (.ite (.next h.devCount) (.ite (.next h.devCount) ?_)))
  dsimp only
  split
  · exact .next h.devCount.tick.toHost.tick
  · refine .ite (.next h.update.toHost) ?_
    split
    · exact .next h.update.claim
    · exact .next h.update.devCount

theorem KeepsMemories.execIngestSlotFill {s : State} (h : MemoriesCanonical s) {g n : Nat} :
    KeepsMemories (execIngestSlotFill g n s) := by
  unfold Machine.execIngestSlotFill
  dsimp only
  split
  · exact .next h
  · refine .next (h.setTile _ (Tile.wf_pushDone (Tile.wf_setRing ?_)))
    dsimp only
    exact h.tile _

theorem MemoriesCanonical.sentCommand {s : State} (h : MemoriesCanonical s) {x : TxFrame} {last : Nat} :
    MemoriesCanonical (s.sentCommand x last) := by
  unfold State.sentCommand
  split
  · exact h.writeReach _ _ _
  · split
    · exact h
    · exact h.setCmd

theorem KeepsMemories.execFrameTransmit {s : State} (h : MemoriesCanonical s) {port : Nat} :
    KeepsMemories (execFrameTransmit port s) := by
  unfold Machine.execFrameTransmit
  dsimp only
  split
  · exact .next h
  · exact .ite (.next h) (.next h.update.emit.sentCommand.takeHostFrames)

theorem MemoriesCanonical.scrubPass {s : State} (h : MemoriesCanonical s) {stack : Nat} :
    MemoriesCanonical (s.scrubPass stack) := h.countUp

theorem MemoriesCanonical.retrained {s : State} (h : MemoriesCanonical s) {stack : Nat} :
    MemoriesCanonical (s.retrained stack) := h.countUp

theorem MemoriesCanonical.recalibrated {s : State} (h : MemoriesCanonical s) {lane : Nat} :
    MemoriesCanonical (s.recalibrated lane) := h.tick.update

theorem KeepsMemories.execPatrolScrub {s : State} (h : MemoriesCanonical s) {p : ScrubPlace} :
    KeepsMemories (execPatrolScrub p s) := by
  unfold Machine.execPatrolScrub
  dsimp only
  split
  · exact .next (h.countUp.ite h)
  · exact .next (h.countUp.ite h)
  · exact .next (.ite_then (h.countUp.ite h) (fun h1 => h1.scrubPass))

theorem KeepsMemories.execRefresh {s : State} (h : MemoriesCanonical s) {_stack : Nat} :
    KeepsMemories (execRefresh _stack s) := .next h

theorem KeepsMemories.execRetraining {s : State} (h : MemoriesCanonical s) {stack : Nat} :
    KeepsMemories (execRetraining stack s) := .next h.retrained

theorem KeepsMemories.execRecalibration {s : State} (h : MemoriesCanonical s) {lane : Nat} :
    KeepsMemories (execRecalibration lane s) := .next h.recalibrated

theorem MemoriesCanonical.retireFrame {s : State} (h : MemoriesCanonical s) {stack frame : Nat} :
    MemoriesCanonical (s.retireFrame stack frame) := h.ite (.appendMonument (h.ite h.update))

theorem MemoriesCanonical.rescue {s : State} (h : MemoriesCanonical s) {g : Nat} {bad : List Nat} {n : Nat} :
    MemoriesCanonical (s.rescue g bad n) :=
  .setTile_of_tile (h.discardSaved.ite h.chargeMove.writeImage) (fun h1 => Tile.wf_freeAcc h1)

theorem MemoriesCanonical.machineCheck {s : State} (h : MemoriesCanonical s) {g : Nat} {bad : List Nat} :
    MemoriesCanonical (s.machineCheck g bad) := by
  unfold State.machineCheck
  refine .appendMonument (.update (.setTile_of_tile ?_ ?_))
  · refine .withSaved ?_ ?_
    · refine .ite ?_ ?_
      · exact .setTile_of_tile (.foldl (h.endTask.ite h) (fun _ _ h1 => h1.rescue)) (fun h1 => h1)
      · exact .returnChunk (.foldl (h.endTask.ite h) (fun _ _ h1 => h1.rescue))
    · refine Saved.wf_map ?_ ?_
      · refine MemoriesCanonical.saved (.ite ?_ ?_)
        · exact .setTile_of_tile (.foldl (h.endTask.ite h) (fun _ _ h1 => h1.rescue)) (fun h1 => h1)
        · exact .returnChunk (.foldl (h.endTask.ite h) (fun _ _ h1 => h1.rescue))
      · exact fun _ h1 => Saved.wf_ite h1 h1
  · exact fun h1 => h1

theorem KeepsMemories.execUncorrectableError {s : State} (h : MemoriesCanonical s) {p : ErrPlace} :
    KeepsMemories (execUncorrectableError p s) := by
  unfold Machine.execUncorrectableError
  dsimp only
  split
  · exact .next h.emit.countUp.machineCheck
  · exact .next h.emit.countUp
  · exact .next h.emit.countUp.update
  · split
    · exact .next h.emit
    · exact .next h.emit.countUp.discardSaved
  · split
    · exact .next h.emit.countUp.retireFrame
    · exact .next h.emit.countUp.retireFrame.setCore
  · split
    · exact .next h.emit.countUp.retireFrame
    · exact .ite (.next h.emit.countUp.retireFrame) (.next h.emit.countUp.retireFrame.setCmd.dueEngine)
  · split
    · exact .next h.emit
    · split
      · exact .next h.emit
      · exact .next h.emit.countUp.discardSaved
  · exact .next h.emit.countUp.update.retireFrame

theorem KeepsMemories.execTelemetryWrite {s : State} (h : MemoriesCanonical s) : KeepsMemories (execTelemetryWrite s) := by
  have hk : ∀ {t : State} {seq fresh : Nat}, MemoriesCanonical t →
      MemoriesCanonical { t with telSeq := seq, fresh := fresh } := fun ht => ht.update
  unfold Machine.execTelemetryWrite
  generalize (s.telSeq + 1) % 2 ^ 64 = seq
  dsimp only
  split
  · exact .next (.update (h.writePhys _ _))
  · exact .next (hk (.foldl (h.writePhys _ _) (fun _ _ h1 => h1.writePhys _ _)))

theorem MemoriesCanonical.acceptDatum {s : State} (h : MemoriesCanonical s) : MemoriesCanonical s.acceptDatum :=
  h.foldl (fun _ _ h1 => h1.foldl (fun _ _ h2 => h2.accept.ite h2))

theorem MemoriesCanonical.beginPeriod {s : State} (h : MemoriesCanonical s) : MemoriesCanonical s.beginPeriod :=
  .update (.foldl (h.update.acceptDatum.mapTiles (fun _ h1 => h1)) (fun _ _ h1 => .ite_else (h1.setTile _ (h1.tile _))
    (fun h2 => h2.countUp)))

theorem KeepsMemories.execApportionerPeriod {s : State} (h : MemoriesCanonical s) :
    KeepsMemories (execApportionerPeriod s) := .next h.beginPeriod

theorem MemoriesCanonical.clearPhys {s : State} (h : MemoriesCanonical s) {a n : Nat} :
    MemoriesCanonical (s.clearPhys a n) := .intro (State.wf_clearPhys s a n h.hbm) h.host h.tiles h.saved

theorem MemoriesCanonical.writeMirror {s : State} (h : MemoriesCanonical s) : MemoriesCanonical s.writeMirror :=
  h.clearPhys.writePhys _ _

theorem MemoriesCanonical.writeMarker {s : State} (h : MemoriesCanonical s) : MemoriesCanonical s.writeMarker :=
  h.writePhys _ _

theorem MemoriesCanonical.flashed {s : State} (h : MemoriesCanonical s) : MemoriesCanonical s.flashed :=
  h.ite h.update.writeMirror

theorem KeepsMemories.execMonumentFlashComplete {s : State} (h : MemoriesCanonical s) :
    KeepsMemories (execMonumentFlashComplete s) := .next h.flashed

theorem MemoriesCanonical.shut {s : State} (h : MemoriesCanonical s) {gs : List Nat} : MemoriesCanonical (s.shut gs) :=
  h.foldl (fun _ _ h1 => h1.setTile _ (h1.tile _))

theorem MemoriesCanonical.selfTest {s : State} (h : MemoriesCanonical s) {g : Nat} : MemoriesCanonical (s.selfTest g) :=
  h.shut.appendMonument.mapSpare

/-- Bring-up starts from reset's memories and the host's own. -/
theorem MemoriesCanonical.bringUp {s : State} (h : MemoriesCanonical s) {found : BringUp} :
    MemoriesCanonical (s.bringUp found) := by
  have hr := MemoriesCanonical.reset
  have hd : ∀ {t : State} {ds : List Nat}, MemoriesCanonical t → MemoriesCanonical { t with deadDies := ds } :=
    fun ht => ht.update
  unfold State.bringUp
  generalize State.reset = r at hr ⊢
  refine .writeMarker (.writeMirror (.devSet (hd (.shut (.foldl (.shut ?_) (fun _ _ h1 => h1.selfTest))))))
  exact .intro hr.hbm h.host hr.tiles hr.saved

theorem MemoriesCanonical.risen {s : State} (h : MemoriesCanonical s) : MemoriesCanonical s.risen := h.devSet.update

theorem KeepsMemories.execPackageReset {s : State} (h : MemoriesCanonical s) {test : SelfTest} {train : Training} :
    KeepsMemories (execPackageReset test train s) := .next h.bringUp

theorem KeepsMemories.execThermalTrip {s : State} (h : MemoriesCanonical s) {trip : Nat × BringUp} :
    KeepsMemories (execThermalTrip trip s) := .next h.appendMonument.bringUp

theorem KeepsMemories.execPowerLoss {s : State} (h : MemoriesCanonical s) : KeepsMemories (execPowerLoss s) :=
  .next h.update

end Sys2Proof.Machine

/-!
O60, the clock and the step.
-/

namespace Sys2Proof.Machine

open Host (Outcome)

/-! The clock, the words and events taken together, and the step (O60). -/

theorem Tile.wf_jobDone {t : Tile} (ht : Memory.wf t.scratch = true) {now : Nat} {j : VJob} :
    Memory.wf (t.jobDone now j).scratch = true := by
  unfold Tile.jobDone
  dsimp only
  split
  · exact Tile.wf_mapJob (Tile.wf_setCore ht)
  · refine Tile.wf_mapJob ?_
    dsimp only
    exact Tile.wf_putGather ht
  · refine Tile.wf_mapJob ?_
    dsimp only
    exact ht
  · refine Tile.wf_mapJob ?_
    dsimp only
    exact ht
  · split
    · exact Tile.wf_mapJob ht
    · exact Tile.wf_jobResult ht

theorem Tile.wf_jobLine {t : Tile} (ht : Memory.wf t.scratch = true) {j : VJob} {k : Nat} {els : List Nat}
    {wr : List Bool} : Memory.wf (t.jobLine j k els wr).scratch = true := by
  unfold Tile.jobLine
  dsimp only
  split
  · exact Tile.wf_scatterLine ht
  · split
    · exact ht
    · exact Tile.wf_setLine _ _ _ ht

theorem Tile.wf_jobWrites {t : Tile} (ht : Memory.wf t.scratch = true) {now issued : Nat} {datum : Bool} :
    Memory.wf (t.jobWrites now issued datum).scratch = true := by
  unfold Tile.jobWrites
  dsimp only
  split
  · exact ht
  · split
    · exact ht
    · exact Tile.wf_mapJob (Tile.wf_foldl ht (fun _ _ h3 => Tile.wf_jobLine h3))

theorem Tile.wf_finishJobs {t : Tile} (ht : Memory.wf t.scratch = true) {now : Nat} {datum : Bool} :
    Memory.wf (t.finishJobs now datum).scratch = true :=
  Tile.wf_foldl (Tile.wf_foldl ht (fun _ _ h1 => Tile.wf_ite (Tile.wf_jobDone h1) h1))
    (fun _ _ h1 => Tile.wf_jobWrites h1)

theorem MemoriesCanonical.countTile {s : State} (h : MemoriesCanonical s) {g : Nat} : MemoriesCanonical (s.countTile g) := by
  unfold State.countTile
  refine .setTile_of_tile ?_ ?_
  · refine .charge (h.setTile _ ?_)
    dsimp only
    exact h.tile _
  · exact fun h1 => Tile.wf_payCharges h1

theorem MemoriesCanonical.markLate {s : State} (h : MemoriesCanonical s) {port : Nat} :
    MemoriesCanonical (s.markLate port) := h.update.ite h

theorem MemoriesCanonical.capture {s : State} (h : MemoriesCanonical s) {g : Nat} {f : Fifo} {issued tile line v : Nat} :
    MemoriesCanonical (s.capture g f issued tile line v) := by
  unfold State.capture
  split
  · exact h.setCmd.ite h
  · exact h

theorem MemoriesCanonical.granted {s : State} (h : MemoriesCanonical s) {g : Nat} {t : Tile} {x : Ask} :
    MemoriesCanonical (s.granted g t x) := by
  unfold State.granted
  cases x.payer g with
  | none =>
    dsimp only
    split
    · exact h.answer
    · exact h.capture
    · exact h
  | some p =>
    dsimp only
    split
    · exact h.charge.answer
    · exact h.charge.capture
    · exact h.charge

theorem MemoriesCanonical.refuse {s : State} (h : MemoriesCanonical s) {t : Tile} {g : Nat} {x : Ask} :
    MemoriesCanonical (s.refuse g t x) := by
  unfold State.refuse
  dsimp only
  split
  · exact .ite_else (h.setTile _ (Tile.wf_dropWord (h.tile _))) (fun h3 => h3.trap)
  · exact h

theorem MemoriesCanonical.refuseFill {s : State} (h : MemoriesCanonical s) {g : Nat} {m : MOpen} :
    MemoriesCanonical (s.refuseFill g m) := .ite_else (h.setTile _ (Tile.wf_dropFill (h.tile _))) (fun h1 => h1.trap)

theorem MemoriesCanonical.grantTile {s : State} (h : MemoriesCanonical s) {g : Nat} : MemoriesCanonical (s.grantTile g) :=
  h.ite (.foldl (.foldl (.foldl (h.setTile _ (Tile.wf_finishJobs
    (Tile.wf_foldl (Tile.wf_arbitrate (Tile.wf_foldl (h.tile _) (fun _ _ h1 => Tile.wf_beginEpilogue h1)))
    (fun _ _ h1 => Tile.wf_readHeld h1)))) (fun _ _ h1 => h1.granted)) (fun _ _ h1 => h1.refuse))
    (fun _ _ h1 => h1.refuseFill))

theorem MemoriesCanonical.grantBanks {s : State} (h : MemoriesCanonical s) : MemoriesCanonical s.grantBanks :=
  h.foldl (fun _ _ h1 => h1.grantTile)

theorem MemoriesCanonical.engineServed {s : State} (h : MemoriesCanonical s) {g : Nat} {f : Fifo} :
    MemoriesCanonical (s.engineServed g f) := by
  unfold State.engineServed
  split
  · refine h.ite (h.ofOutcome ?_)
    split
    · exact .execTransformUnitWork h
    · exact .execEngineCommandCompletion h
    · exact .execEngineSectorPerformed h
  · exact h

theorem MemoriesCanonical.engineGrants {s : State} (h : MemoriesCanonical s) : MemoriesCanonical s.engineGrants :=
  h.foldl (fun _ _ h1 => h1.engineServed.engineServed.ite h1)

theorem MemoriesCanonical.dealRounds {s : State} (h : MemoriesCanonical s) : MemoriesCanonical s.dealRounds :=
  h.foldl (fun _ _ h1 => h1.dealRound.ite h1)

theorem MemoriesCanonical.endClock {s : State} (h : MemoriesCanonical s) : MemoriesCanonical s.endClock :=
  .markLate (.markLate (h.grantBanks.engineGrants.settleCrossings.refuseRetires.endTasks.dealRounds.update.foldl
    (fun _ _ h1 => h1.countTile)))

theorem MemoriesCanonical.background {s : State} (h : MemoriesCanonical s) : MemoriesCanonical s.background :=
  .foldl (.ite_then (.ite_then (.ite (h.foldl (fun _ _ h1 => h1.retrained)) h) (fun h1 => h1.foldl
    (fun _ _ h2 => h2.scrubPass))) (fun h1 => h1.recalibrated)) (fun _ _ h1 => h1.flashed)

theorem MemoriesCanonical.askAgain {s : State} (h : MemoriesCanonical s) {w : Who} : MemoriesCanonical (s.askAgain w) := by
  unfold State.askAgain
  dsimp only
  split
  · exact .ite (h.ofOutcome (.execBarrierReread h)) h
  · exact .ite (h.ofOutcome (.execFutureCellRetry h)) h
  · exact h

theorem MemoriesCanonical.askTile {s : State} (h : MemoriesCanonical s) {g : Nat} : MemoriesCanonical (s.askTile g) :=
  h.ite (h.askAgain.askAgain.askAgain.setTile_of_tile (fun h1 => h1))

theorem MemoriesCanonical.openClock {s : State} (h : MemoriesCanonical s) : MemoriesCanonical s.openClock :=
  .update (.update (.foldl (.foldl (.background (h.takeTriple.ite_then (fun h1 => h1.beginPeriod)))
    (fun _ _ h1 => h1.followEngine.ite h1)) (fun _ _ h1 => h1.askTile)))

theorem KeepsMemories.execDatumTick {s : State} (h : MemoriesCanonical s) : KeepsMemories (execDatumTick s) := by
  have hend : MemoriesCanonical s.endClock := h.endClock
  unfold Machine.execDatumTick
  generalize s.endClock = t at hend ⊢
  exact .next (.openClock hend.update)

/-- Every word and every event keeps the memories canonical. -/
theorem KeepsMemories.exec {s : State} (h : MemoriesCanonical s) {i : Instr} : KeepsMemories (Machine.exec i s) := by
  unfold Machine.exec
  cases i with
  | add | sub | and | or | xor | andn | orn | xnor | shl | shr | sra | rotr | rotl | mul | mulh | mulhu | div | divu
  | rem | remu | min | max | minu | maxu | slt | sltu | seq | sne | addw | subw => exact .alu2 h
  | clz | ctz | popc | brev | sextb | sexth | sextw => exact .alu1 h
  | sel => exact .execSel h
  | addi | andi | ori | xori | slti | sltui | muli => exact .aluImm h
  | shli | shri | srai => exact .shiftImm h
  | lih => exact .compute h
  | extr => exact .execExtr h
  | extru => exact .execExtru h
  | insr => exact .execInsr h
  | br => exact .execBr h
  | loop => exact .execLoop h
  | j => exact .execJ h
  | call => exact .execCall h
  | jr => exact .execJr h
  | callr => exact .execCallr h
  | ldsB | ldsBu | ldsH | ldsHu | ldsW | ldsWu | ldsD => exact .loadScratch h
  | stsB | stsH | stsW | stsD => exact .storeScratch h
  | ldgW | ldgWu | ldgD | stgW | stgD => exact .globalWord h
  | csrrd | csrwr | csrset | csrclr => exact .csrWord h
  | qpop => exact .execQpop h
  | qpush => exact .execQpush h
  | qpeek => exact .execQpeek h
  | qcnt => exact .execQcnt h
  | fork => exact .execFork h
  | rendz => exact .execRendz h
  | waitb => exact .execWaitb h
  | arrive => exact .execArrive h
  | barinit => exact .execBarinit h
  | join => exact .execJoin h
  | leave => exact .execLeave h
  | gbar => exact .execGbar h
  | putf => exact .execPutf h
  | getf => exact .execGetf h
  | ringset => exact .execRingset h
  | ringopTail => exact .execRingopTail h
  | ringopFill => exact .execRingopFill h
  | ringopHead => exact .execRingopHead h
  | ringopFree => exact .execRingopFree h
  | ringopCount => exact .ringOp h (fun _ => .compute h)
  | ringopReset => exact .execRingopReset h
  | illegal => exact .illegal h
  | nop => exact .execNop h
  | trap => exact .execTrap h
  | eret => exact .execEret h
  | halt => exact .execHalt h
  | exit => exact .execExit h
  | fence => exact .execFence h
  | mark => exact .execMark h
  | brk => exact .fault h
  | retire => exact .execRetire h
  | sstep => exact .execSstep h
  | frame => exact .execFrame h
  | waitt => exact .execWaitt h
  | waitd => exact .execWaitd h
  | abortg => exact .execAbortg h
  | abchk => exact .execAbchk h
  | launch => exact .execLaunch h
  | vmov | vadd | vsub | vmul | vfma | vfms | vfnma | vmin | vmax | vabs | vneg | vrcp | vrsq | vsqrt | vdiv | vfexp2
  | vflog2 | vrndi | vscalb | vgetexp | vgetmant | vclass | vcmp | vsel | vmaskop | viadd | visub | vimul | vimin
  | vimax | vand | vor | vxor | vshl | vshr | vsra | viminu | vimaxu | vcmul | vcmac | vradd | vrmax | vrmin | vramax
  | vscan | vlfsrRead | vlfsrWrite | vlfsrAdvance | vlfsrReseed | vcvt | vamaxb | vqnt | vdqnt | vlqdec | vhad | vpack
  | vunpk | vperm | vshuf | vslide | vbcast | vcomp | vexpd => exact .vectorWord h
  | vgath => exact .execVgath h
  | vscat => exact .execVscat h
  | vtos => exact .execVtos h
  | cbldConst => exact .loadImage h
  | cbldCodebook => exact .execCbldCodebook h
  | mma | mmaq | mmal | mmas | mzero | mlda | msta | mcopy | mtrn | mscal | madd | mred | mspill | mfill | mownClaim
  | mownRelease => exact .matrixWord h
  | cpy | cpyo | cpyg | cpys | cpyr | cpyq | cpydq | pref | cflush | xfft | xifft | xhad | xexp | xtrl | sacc | amo
  | publ | disc | lxfer | nxtx | nxarm => exact .engineWord h
  | transformUnitWork => exact .execTransformUnitWork h
  | stampedIssue => exact .execStampedIssue h
  | waitConditionMet => exact .execWaitConditionMet h
  | wordCompletion => exact .execWordCompletion h
  | globalAccessCompletion => exact .execGlobalAccessCompletion h
  | engineSectorPerformed => exact .execEngineSectorPerformed h
  | engineCommandCompletion => exact .execEngineCommandCompletion h
  | engineFault => exact .execEngineFault h
  | mWordCompletion => exact .execMWordCompletion h
  | accumulatorSpillEnd => exact .execAccumulatorSpillEnd h
  | accumulatorFillEnd => exact .execAccumulatorFillEnd h
  | remoteScratchRequest => exact .execRemoteScratchRequest h
  | barrierReread => exact .execBarrierReread h
  | futureCellRetry => exact .execFutureCellRetry h
  | datumTick => exact .execDatumTick h
  | closure => exact .execClosure h
  | timedWaitRelease => exact .execTimedWaitRelease h
  | frameOrigin => exact .execFrameOrigin h
  | groupBarrierRelease => exact .execGroupBarrierRelease h
  | groupAbortMarking => exact .execGroupAbortMarking h
  | sstepRelease => exact .execSstepRelease h
  | sstepDeadline => exact .execSstepDeadline h
  | preemption => exact .execPreemption h
  | quantumExpiry => exact .execQuantumExpiry h
  | stopTaken => exact .execStopTaken h
  | coreHalt => exact .execCoreHalt h
  | taskSave => exact .execTaskSave h
  | taskResumption => exact .execTaskResumption h
  | tailDoorbell => exact .execTailDoorbell h
  | appendDoorbell => exact .execAppendDoorbell h
  | cardAcceptance => exact .execCardAcceptance h
  | dealRequest => exact .execDealRequest h
  | taskStart => exact .execTaskStart h
  | roundDeal => exact .execRoundDeal h
  | roundOrigin => exact .execRoundOrigin h
  | createContext => exact .execCreateContext h
  | updateContext => exact .execUpdateContext h
  | destroyContext => exact .execDestroyContext h
  | definePartition => exact .execDefinePartition h
  | grant => exact .execGrant h
  | revoke => exact .execRevoke h
  | partitionReset => exact .execPartitionReset h
  | saveTile => exact .execSaveTile h
  | savePartition => exact .execSavePartition h
  | hubCommandDone => exact .execHubCommandDone h
  | dxuUpdate => exact .execDxuUpdate h
  | dxuUpdateAck => exact .execDxuUpdateAck h
  | migrationComplete => exact .execMigrationComplete h
  | twinSettlement => exact .execTwinSettlement h
  | ptpcommit => exact .execPtpcommit h
  | ptpTripleEffect => exact .execPtpTripleEffect h
  | shadow => exact .execShadow h
  | nqstat => exact .execNqstat h
  | htxtail => exact .execHtxtail h
  | registerWrite => exact .execRegisterWrite h
  | hostMemoryAccess => exact .execHostMemoryAccess h
  | peerWrite => exact .execPeerWrite h
  | peerRead => exact .execPeerRead h
  | peerReply => exact .execPeerReply h
  | linkReplay => exact .execLinkReplay h
  | frameReceive => exact .execFrameReceive h
  | ingestSlotFill => exact .execIngestSlotFill h
  | frameTransmit => exact .execFrameTransmit h
  | apportionerPeriod => exact .execApportionerPeriod h
  | telemetryWrite => exact .execTelemetryWrite h
  | patrolScrub => exact .execPatrolScrub h
  | refresh => exact .execRefresh h
  | retraining => exact .execRetraining h
  | recalibration => exact .execRecalibration h
  | uncorrectableError => exact .execUncorrectableError h
  | monumentFlashComplete => exact .execMonumentFlashComplete h
  | thermalTrip => exact .execThermalTrip h
  | powerLoss => exact .execPowerLoss h
  | packageReset => exact .execPackageReset h
  | hostAcknowledge => exact .execHostAcknowledge h
  | controlFlit => exact .execControlFlit h
  | hubcmd => exact .execHubcmd h

theorem KeepsMemories.issueOrStop {s : State} (h : MemoriesCanonical s) {i : Instr} : KeepsMemories (s.issueOrStop i) := by
  have hi : KeepsMemories (Machine.exec i s) := .exec h
  unfold State.issueOrStop
  generalize Machine.exec i s = o at hi ⊢
  cases o with
  | next t => exact .ite hi (.execStopTaken h)
  | fault _ => exact hi
  | refused _ => exact hi

theorem KeepsMemories.issueWord {s : State} (h : MemoriesCanonical s) : KeepsMemories s.issueWord := by
  unfold State.issueWord
  dsimp only
  split
  · exact .next h.countFetch.trap
  · exact .ite (.issueOrStop h.countFetch) (.exec h.countFetch)

theorem KeepsMemories.answered {s : State} (h : MemoriesCanonical s) {w : Who} : KeepsMemories (s.answered w) := by
  have hi : KeepsMemories (State.issueWord { s with cur := w }) := .issueWord h.update
  unfold State.answered
  generalize State.issueWord { s with cur := w } = o at hi ⊢
  cases o with
  | next t =>
    dsimp only
    split
    · exact .next h
    · exact hi
  | fault _ => exact hi
  | refused _ => exact hi

theorem KeepsMemories.wake {s : State} (h : MemoriesCanonical s) {w : Who} {r : Wait} : KeepsMemories (s.wake w r) := by
  unfold State.wake
  split
  · exact .execStampedIssue h
  · exact .execTimedWaitRelease h
  · exact .execTimedWaitRelease h
  · exact .execSstepDeadline h
  · exact .next h.sampleGbar
  · exact .ite (.answered h) (.next h)
  · exact .execWaitConditionMet h

theorem MemoriesCanonical.giveWay {s : State} (h : MemoriesCanonical s) {w : Who} {rest : List Who} :
    MemoriesCanonical (s.giveWay w rest) := h.update

theorem KeepsMemories.act {s : State} (h : MemoriesCanonical s) {w : Who} {rest : List Who} :
    KeepsMemories (s.act w rest) := by
  unfold State.act
  refine .ite (.next h.giveWay) ?_
  split
  · exact .ite (.next h.update) (.issueWord h.update)
  · exact .ite (.issueWord h.update) (.next h.update)
  · next r _ _ =>
    have hw : KeepsMemories (s.wake w r) := .wake h
    generalize s.wake w r = o at hw ⊢
    cases o with
    | next t => exact .ite (.next h.update) hw
    | fault _ => exact hw
    | refused _ => exact hw
  · exact .next h.update

theorem KeepsMemories.quiet {s : State} (h : MemoriesCanonical s) : KeepsMemories s.quiet := by
  unfold State.quiet
  refine .ite (.next h.risen) ?_
  split
  · exact .execClosure h
  · exact .execDatumTick h

theorem KeepsMemories.takeEvent {s : State} (h : MemoriesCanonical s) {i : Instr} : KeepsMemories (s.takeEvent i) := by
  unfold State.takeEvent
  refine .ite (.next h) (.ite (.exec h) ?_)
  split
  · exact .exec h
  · exact .exec h
  · exact .exec h
  · exact .next h

theorem KeepsMemories.advance {s : State} (h : MemoriesCanonical s) : KeepsMemories s.advance := by
  unfold State.advance
  split
  · exact .takeEvent h.update
  · exact .ite (.act h) .stopped
  · exact .ite (.quiet h) .stopped

/-- Settles O60: the memories are canonical after every step from a state in which they are. -/
theorem stepKeepsMemories : Obligations.StepKeepsMemories := by
  unfold Obligations.StepKeepsMemories
  exact fun s s' h hs => KeepsMemories.advance h s' hs

end Sys2Proof.Machine
